-- ==== Sys2Proof/Word.lean ====
section
/-!
DEFINITION. The word types of the Tyrvo Auwald module: bytes, register slots, descriptors, sequence words.
-/
namespace Sys2Proof

/-- One byte. Multi-byte fields are little-endian everywhere (R7). -/
abbrev Byte := BitVec 8
/-- A 32-bit word, such as a ring count (R37). -/
abbrev Word32 := BitVec 32
/-- A register slot of BAR0 (R495). -/
abbrev Word64 := BitVec 64
/-- A submission descriptor of Table HST-3, byte 0 in bits 7:0 (R45). -/
abbrev Desc := BitVec 512
/-- A sequence word of Table SEQ-1, bit 0 as the table numbers it (R123). -/
abbrev SeqWord := BitVec 512
/-- A fetch descriptor of Table SEQ-2 (R133). -/
abbrev FetchDesc := BitVec 256

end Sys2Proof
end

