-- ==== Sys2Proof/Syntax.lean ====
section
/-!
DEFINITION. The commands of the block: one constructor for each row of the spec's table of operations and events, with
what the step takes from outside the module as operands.
-/
namespace Sys2Proof

/-- What inline ECC or SEC-DED finds on a read (R118, R148, R172): nothing, a corrected error, or an uncorrectable one, at a
byte offset of what is read. -/
inductive ReadEcc where
  | clean
  | corrected (offset : Nat)
  | uncorrectable (offset : Nat)
  deriving DecidableEq, Repr

/-- What a read of a descriptor's input brought back (R60): from host memory the bytes, or a failure; from the object range, which the
module reads itself, what the memory's protection found new. Push data needs neither. -/
inductive ReadData where
  | bytes (data : List Byte)
  | failed
  | ecc (found : ReadEcc)
  deriving DecidableEq, Repr

/-- An error that the die's own protection finds while a word executes (R118): a T0 error in a core store (0 to 47) or in
staging (255), or a parity error of an accumulator bank. -/
inductive FabError where
  | clean
  | t0Corrected (core : Nat)
  | t0Uncorrectable (core : Nat)
  | accParity (core : Fin 48) (bank : Fin 8)
  /-- An error of T1 that the refill of the sequence cache finds, at a byte offset from the due word (R121). -/
  | refillCorrected (offset : Nat)
  | refillUncorrectable (offset : Nat)
  deriving DecidableEq, Repr

/-- What causes a LINK reset (R66, R467). -/
inductive LinkCause where
  | hotReset | functionReset | perstAsserted | usbReset
  deriving DecidableEq, Repr

/-- What makes a MODULE reset, other than PWR_RESET (Table RST-1, PWR_RESET_CAUSE.LAST). -/
inductive ModuleTrigger where
  | mrst | watchdog | recoveryEnd | ownerReturn
  deriving DecidableEq, Repr

/-- A received Sync message, as the servo takes it (R244): the measured offset from the master in nanoseconds, and whether
the grandmaster differs from the last one. -/
structure Sync where
  offset : Int
  newMaster : Bool
  deriving DecidableEq, Repr

/-- What the limiter measures at a decision (R383 to R393): module power in tenths of a watt, J3 in millivolts, and the
power of each compute die. -/
structure PowerReading where
  module : Nat
  j3Mv : Nat
  sensors : Nat
  dies : List Nat
  /-- Dies whose regulator reports 90 % of its current limit (R393). -/
  currentLimit : List Bool
  deriving DecidableEq, Repr

/-- A command to the block. -/
inductive Instr where
  /-- REGISTER_WRITE (R496): A BAR0 write to a register or window that has no row of its own stores its fields, or is discarded and flagged when misaligned, unassigned or its domain is not on -/
  | registerWrite (off : Nat) (bytes : List Byte)
  /-- REG_READ (R35): The USB vendor request REG_READ returns BAR0 words, or is answered with STALL when its fields break the rules -/
  | regRead (wValue wIndex wLength : BitVec 16)
  /-- REG_WRITE (R35): The USB vendor request REG_WRITE writes BAR0 words, each word as a 4-byte write, or is answered with STALL -/
  | regWrite (wValue wIndex wLength : BitVec 16) (bytes : List Byte)
  /-- RING_ENABLE (R39): Setting HOST_RING_CFG.ENABLE on a DISABLED ring zeroes its counts and makes it ACTIVE, or is discarded with HOST_ERR_STATUS.CFG set -/
  | ringEnable (value : BitVec 64)
  /-- RING_DISABLE (R39): Clearing HOST_RING_CFG.ENABLE makes the ring DISABLED and discards its unconsumed descriptors, unless the write is refused -/
  | ringDisable (value : BitVec 64)
  /-- SUBMISSION_TAIL_WRITE (R42): A doorbell write of a new submission tail is validated; a valid write advances the tail, and an invalid one is discarded and stops an ACTIVE ring -/
  | submissionTailWrite (sq : Fin 4096) (tail : BitVec 32)
  /-- COMPLETION_HEAD_WRITE (R43): A doorbell write of a new completion head frees completion slots, or is discarded when invalid -/
  | completionHeadWrite (cq : Fin 256) (head : BitVec 32)
  /-- DOORBELL_INVALID_WRITE (R40): A BAR2 write at any other place or size is discarded and sets HOST_ERR_STATUS.DOORBELL -/
  | doorbellInvalidWrite (off : BitVec 16) (len : Nat)
  /-- DESCRIPTOR_READ (R55): The module reads and consumes a submission descriptor after its doorbell; the read either completes or fails and stops the ring -/
  | descriptorRead (sq : Fin 4096) (data : Option Desc)
  /-- NOP (R47): NOP completes as DONE -/
  | nop (id : Nat)
  /-- CHUNK (R74): CHUNK queues one chunk on its stream -/
  | chunk (id : Nat)
  /-- CHUNK_TRIGGERED (R76): CHUNK_TRIGGERED pre-posts a chunk that its trigger releases, and fixes the stream's trigger at the first such chunk -/
  | chunkTriggered (id : Nat)
  /-- JOB_LOAD (R70): JOB_LOAD checks a load image in order and either refuses it or claims resources, places objects and creates the streams -/
  | jobLoad (id : Nat) (image : ReadData) (binding : ReadData)
  /-- JOB_UNLOAD (R85): JOB_UNLOAD cancels waiting and released work of the job, lets started chunks finish, and frees its resources -/
  | jobUnload (id : Nat)
  /-- STREAM_RETIRE (R85): STREAM_RETIRE lets earlier chunks finish, cancels waiting pre-posted chunks, then zeroes and frees banks and the stream number -/
  | streamRetire (id : Nat)
  /-- STREAM_SWAP (R84): STREAM_SWAP waits behind earlier chunks, then saves the old state and loads the new state of the stream banks -/
  | streamSwap (id : Nat) (input : ReadData)
  /-- STREAM_SWAP_FORCED (R85): STREAM_SWAP_FORCED evicts waiting and released chunks and transfers the state at the die's next eligible boundary -/
  | streamSwapForced (id : Nat) (input : ReadData)
  /-- CANCEL (R48): CANCEL completes every unreleased chunk of the stream that carries the target tag as CANCELLED -/
  | cancel (id : Nat)
  /-- JOB_RESTART (R476): JOB_RESTART makes a host-requested JOB reset of the named job, releasing it if held -/
  | jobRestart (id : Nat)
  /-- TABLE_WRITE (R265): TABLE_WRITE stores a pending version of a fusion, planner or CLE table, or is refused -/
  | tableWrite (id : Nat) (data : ReadData)
  /-- TREE_WRITE (R295): A TABLE_WRITE of a planner TREE goes into the released bank, waiting for one, and commits a new map version -/
  | treeWrite (id : Nat) (data : ReadData)
  /-- SETPOINT_WRITE (R322): A TABLE_WRITE of CLE SETPOINT entries writes host channels' inactive halves and commits them as one host commit -/
  | setpointWrite (id : Nat) (data : ReadData)
  /-- PLAN_REQUEST (R299): PLAN_REQUEST queues a planning request, or waits in descriptor intake while the queue of 64 is full -/
  | planRequest (id : Nat)
  /-- POWER_STATE (R368): POWER_STATE checks the resulting domain states and, if it passes, moves the named domains to the target in dependency order -/
  | powerState (id : Nat)
  /-- POWER_POLICY (R402): POWER_POLICY sets the cap and limiter bounds whose SET bits are set, clamping protective values -/
  | powerPolicy (id : Nat)
  /-- UPDATE_HEADER (R458): UPDATE_HEADER checks a firmware header and, if it passes, opens an update session on the target slot -/
  | updateHeader (id : Nat) (data : ReadData)
  /-- UPDATE_BODY (R459): UPDATE_BODY programs body data at RECEIVED into the target slot -/
  | updateBody (id : Nat) (data : ReadData)
  /-- UPDATE_COMMIT (R460): UPDATE_COMMIT aborts the session or verifies the body, writes the header and marks the slot READY for the next boot -/
  | updateCommit (id : Nat)
  /-- HOLDING_QUEUE_DRAIN (R58): When room appears on a full completion ring, held entries are posted and held-back streams and descriptors may proceed -/
  | holdingQueueDrain (cq : Fin 256)
  /-- CQ_STALL (R59): A completion ring full for CQ_TIMEOUT sets CQ_STALL and posts HOST event 0x0003 once per episode -/
  | cqStall (cq : Fin 256)
  /-- COAL_TIME (R57): A posted entry that has waited COAL_TIME µs causes one MSI-X message -/
  | coalTime (cq : Fin 256)
  /-- MSIX_UNMASK (R57): Unmasking a vector whose PBA bit is set sends one MSI-X message -/
  | msixUnmask (vector : Fin 64)
  /-- RING_PUSH (R62): A USB RING_PUSH message carries new descriptors and the new submission tail, or is discarded and may stop the ring -/
  | ringPush (message : List Byte)
  /-- DATA_PUSH (R62): A USB DATA_PUSH message writes data into host-writable objects, or is discarded -/
  | dataPush (message : List Byte)
  /-- CQ_HEAD (R62): A USB CQ_HEAD message advances a completion head, or is discarded -/
  | cqHead (message : List Byte)
  /-- COMPLETION_MESSAGE (R65): On a pending EP1 IN request with an unsent entry, the module sends a completion message with entries and data blocks -/
  | completionMessage (cq : Fin 256)
  /-- LINK_RESET (R66): A hot reset, function-level reset, PERST_N assertion or USB reset disables every ring, empties the push buffer and fails in-flight T2 reads -/
  | linkReset (cause : LinkCause)
  /-- PERST_N_DEASSERT (R376): PERST_N deassertion lets the PCI Express link train and is a wake source -/
  | perstNDeassert
  /-- TRICK_BOUNDARY (R78): At each trick boundary the Dealer chooses the next trick by the CONTROL, dummy, gang and flexible order, and switches stream within 2 µs -/
  | trickBoundary (die : Fin 4) (ecc : ReadEcc)
  /-- TRICK_OVERRUN (R78): A trick that reaches 32,768 cycles is abandoned, its epochs squashed, and its job sent to the safe state -/
  | trickOverrun (die : Fin 4)
  /-- SEQUENCE_WORD (R124): A sequence word issues once its barrier and gates pass, and executes its kicks, loads, streaming, folds, drains, sends, signal and select -/
  | sequenceWord (die : Fin 4) (error : FabError)
  /-- BARRIER_PASS (R129): A die barrier releases issue when every die of the stream has reached the same BARRIER_ID -/
  | barrierPass (stream : Fin 256)
  /-- FETCH_THREAD_DONE (R133): A fetch thread whose last byte has landed increments its DONE_TOKEN and returns to the pool -/
  | fetchThreadDone (die : Fin 4) (thread : Nat) (ecc : ReadEcc)
  /-- CHEAP_PATH_CHOICE (R168): A weight-issue stall of LATE_CYCLES on the pending-row interlock fixes p for a DEGRADABLE layer and opens a CHEAP epoch -/
  | cheapPathChoice (die : Fin 4)
  /-- DIE_LINK_ARRIVAL (R143): A die-link transfer whose last line has landed increments DL_TOKEN at its destination, or is accepted or discarded by the hub area addressed -/
  | dieLinkArrival (transfer : Nat)
  /-- LINK_FAILED (R20): A flit undelivered after 16 replays or 2 µs declares the die link failed and sends its jobs to the safe state -/
  | linkFailed (die : Fin 4) (link : Fin 3) (inbound : Bool)
  /-- PAGE_STEP (R210): The attention walker, once a page step is in place, increments ROW_TOKEN, PAGE_TOKEN or LAST_TOKEN, or fails its check -/
  | pageStep (die : Fin 4) (ecc : ReadEcc)
  /-- DUMMY_COMPARE (R423): At a dummy frame's end the management cores compare its output with the golden output and pass it or enter the safe state -/
  | dummyCompare (stream : Fin 256) (ecc : ReadEcc)
  /-- DUMMY_OVERDUE (R424): A ready stream's dummy frame not started within DUMMY_INTERVAL sends the job to the safe state -/
  | dummyOverdue (stream : Fin 256)
  /-- MOVE_REQUEST (R160): A move-request line that lands in the window is served in order, or refused with its DONE_TOKEN incremented -/
  | moveRequest (die : Fin 4) (stream : Fin 256) (index : Fin 1024) (line : BitVec 512)
  /-- PAGE_MOVE_DONE (R161): When a page copy completes, the page map changes, held host writes apply, and any request's DONE_TOKEN increments -/
  | pageMoveDone (move : Nat) (ecc : ReadEcc)
  /-- MIGRATION_SWEEP (R159): Every 10 ms the migration engine sweeps read bits and moves SPILLABLE pages when free frames are below LOW_MARK -/
  | migrationSweep
  /-- SEGMENT_LANDED (R166): A window segment that has landed increments READY_TOKEN, and the next segment copy starts when the window has room -/
  | segmentLanded (window : Nat)
  /-- SEGMENT_READ_FAILED (R167): A T2 segment read failing three times sets DMA and signals the variant or ends the chunk as HOST_FAULT -/
  | segmentReadFailed (window : Nat)
  /-- VARIANT_SIGNAL (R171): A segment still missing VAR_WAIT_US after its layer was reached makes the engine increment VAR_TOKEN -/
  | variantSignal (window : Nat)
  /-- PATROL_SCRUB (R172): The patrol scrub reads every slot of each die once per SCRUB_HOURS and poisons uncorrectable granules -/
  | patrolScrub (die : Fin 4) (granule : Nat) (ecc : ReadEcc)
  /-- RECALIBRATION (R150): Every 64 ms each pod controller recalibrates each channel, holding its accesses for at most 1 µs -/
  | recalibration (pod : Fin 16)
  /-- SYNC_MESSAGE (R244): A received Sync gives the servo an offset measurement that corrects the rate, steps, or is refused by the jump threshold -/
  | syncMessage (sync : Sync)
  /-- SYNC_TIMEOUT (R244): No valid Sync for 4 intervals or an announce timeout moves a LOCKED time base to HOLDOVER -/
  | syncTimeout
  /-- ACCEPT (R245): TIME_CTRL.ACCEPT written while REFUSED is set steps the time base by the last offset and returns to LOCKED -/
  | timeAccept
  /-- GENERATOR_FIRING (R247): A time generator fires, driving trigger pulses, releasing triggered chunks and serving CLE channels, SYNCs and snapshots -/
  | generatorFiring (generator : Fin 64)
  /-- GENERATOR_ENABLE (R249): Setting TIME_GEN_CFG.ENABLE applies the period and schedules the first firing not earlier than the time base -/
  | generatorEnable (value : BitVec 64)
  /-- GENERATOR_DISABLE (R249): Clearing TIME_GEN_CFG.ENABLE applies the write in full and ends any pulse in progress -/
  | generatorDisable (value : BitVec 64)
  /-- CAPTURE_EDGE (R250): An edge on a capture input is timestamped into its queue and counts as a firing of its trigger -/
  | captureEdge (input : Fin 8) (rising : Bool)
  /-- TIME_CAP_DATA_READ (R250): A read of TIME_CAP_DATA returns and removes the oldest capture record of the selected input -/
  | timeCapDataRead
  /-- CHANGE (R254): A TIME_QBV_CTRL.CHANGE bit schedules the other gate control list to become the oper list -/
  | qbvChange (mac : Fin 4)
  /-- QBV_LIST_SWITCH (R254): At its base time the pending gate control list becomes the oper list of the MAC -/
  | qbvListSwitch (mac : Fin 4)
  /-- SENSOR_SAMPLE (R257): A camera frame or Ethernet frame for an active entry lands, stamped, in the next buffer, and TOKEN increments -/
  | sensorSample (entry : Fin 32) (age : Nat) (errors : BitVec 3) (lines : List (List Byte))
  /-- SPI_ASSERTION (R261): Every PARAM0 µs an SPI entry asserts its chip select and reads a sample, or skips while a transaction is still running -/
  | spiAssertion (entry : Fin 32) (bytes : List Byte)
  /-- SENSOR_SILENT (R262): No sample for SILENT_MS ms posts FUS event 0x0007 once -/
  | sensorSilent (entry : Fin 32)
  /-- POST (R270): A post line landing in the fusion post window is taken into the pending list, into the pose history, or refused -/
  | post (die : Fin 4) (stream : Fin 256) (index : Fin 1024) (line : BitVec 512)
  /-- FUSION_CLOSE (R274): At each close the fusion engine applies detections, activates tables, lifts posts, scores cells, frees tracks and starts the result -/
  | fusionClose (ecc : ReadEcc)
  /-- FUSION_RESULT (R276): A fusion result that has landed increments its token and copies occupancy to the planner store -/
  | fusionResult
  /-- TABLE_ACTIVATION (R266): While fusion instants are stopped, a ready pending table activates within 10 µs with every other ready version -/
  | tableActivation
  /-- FUSION_ENABLE (R272): Setting FUS_CTRL.ENABLE starts fusion instants, and clearing it stops them -/
  | fusionEnable (value : BitVec 32)
  /-- PLAN_CYCLE_START (R299): A planning request leaves the queue, fixes its map version, and is checked and evaluated -/
  | planCycleStart (record : ReadData) (ecc : ReadEcc)
  /-- PLAN_BUDGET (R305): When the budget expires, evaluation stops except the brake check, and BUDGET_OUT is set -/
  | planBudget
  /-- PLAN_RESULT (R306): A cycle's reduction ends, chooses its outcome, writes the result and token, completes, and hands the primitive to the CLE -/
  | planResult
  /-- MAP_COMMIT (R294): A commit line landing in the commit window checks the tree and creates a new map version, or refuses -/
  | mapCommit (die : Fin 4) (stream : Fin 256) (index : Fin 1024) (line : BitVec 512)
  /-- OCC_INTAKE (R296): Occupancy bytes landing in page 95 are copied into a free layer to create a new map version, or skipped -/
  | occIntake
  /-- FEEDBACK (R311): A valid FEEDBACK frame from a drive releases its sample-triggered channels and supplies telemetry -/
  | feedback (drive : Fin 64) (frame : List Byte)
  /-- DEADLINE_MISS (R313): A channel update not completed by its deadline is not run; the previous command stands and MISS is set -/
  | deadlineMiss (channel : Fin 64)
  /-- IDENT (R333): An IDENT answering a PROBE moves a PROBING drive to JOINED and checks its DRIVE_ID -/
  | ident (drive : Fin 64) (frame : List Byte)
  /-- REENABLE (R333): JP_CTRL.REENABLE moves a JOINED drive to RUN at the next exchange -/
  | reenable (value : BitVec 32)
  /-- SETPOINT_ENTRY (R320): A policy setpoint entry landing in the CLE window is written into the inactive half or discarded -/
  | setpointEntry (die : Fin 4) (stream : Fin 256) (channel : Fin 64) (entry : BitVec 128)
  /-- SETPOINT_COMMIT (R321): A commit is decided, after the plausibility check for the policy, and exchanges the halves or completes as CHECK_MISMATCH -/
  | setpointCommit (commit : Nat)
  /-- SNAPSHOT (R324): At its trigger a snapshot target latches feedback and telemetry and writes it to the stream, incrementing TOKEN -/
  | snapshot (target : Fin 4)
  /-- HUSK_ENTER (R336): The CLE enters Husk, runs one Husk update of every running channel and sends commands with HUSK set -/
  | huskEnter
  /-- HUSK_EXIT (R337): HUSK_EXIT returns the channels to their normal sets at the next exchange -/
  | huskExit
  /-- CLE_FAULT (R338): A lockstep mismatch or store error halts the CLE, stops transmissions and drops the safety outputs -/
  | cleFault (cause : Fin 4)
  /-- LINE_CLASSIFY (R490): Every 1 ms a joint port classifies its lines and raises fault flags -/
  | lineClassify (port : Fin 24) (flags : BitVec 5)
  /-- TX_SHORT_RETEST (R490): 10 ms after a TX_SHORT the transmitter retests -/
  | txShortRetest (port : Fin 24) (shorted : Bool)
  /-- HEALTH_PASS (R351): Every HEALTH_S seconds the unit reads scores and rewrites every axis's health record, level and alarms -/
  | healthPass (ecc : ReadEcc)
  /-- HOURLY_HISTORY (R348): Every on-hour the unit stores damage, drift and ESR per axis and recomputes remaining life -/
  | hourlyHistory
  /-- PROGNOSTICS_SAVE (R349): Every 15 minutes of on-time the unit saves every axis's state to the boot flash -/
  | prognosticsSave (ok : Bool)
  /-- FEED_BATCH (R353): Every FEED_MS ms the unit lands a telemetry batch for the anomaly stream and increments its token -/
  | feedBatch
  /-- AXIS_RESET (R350): HLT_CTRL.AXIS_RESET zeroes the selected axis's state and takes the new drive identifier -/
  | axisReset (value : BitVec 32)
  /-- AXIS_KEEP (R350): HLT_CTRL.AXIS_KEEP keeps the selected axis's state under the new drive identifier -/
  | axisKeep (value : BitVec 32)
  /-- REPLAN (R356): HLT_CTRL.REPLAN starts a re-plan of guard bands from the ageing sentinels -/
  | replan (value : BitVec 32)
  /-- REPLAN_PERIOD (R356): 24 on-hours after the last re-plan, a re-plan starts -/
  | replanPeriod
  /-- WAKE_SOURCE (R373): An enabled wake source fires, is latched, and starts a wake or is replayed after the running transition -/
  | wakeSource (source : Fin 11)
  /-- ALARM (R373): The Acorn count reaching PWR_ALARM.COMPARE fires the ALARM wake source -/
  | alarm
  /-- WAKE_REPLAY (R375): Once a transition completes, a latched wake is replayed as one wake -/
  | wakeReplay
  /-- DOMAIN_TRANSITION_DONE (R369): A domain finishes changing state, letting its dependants change and completing the command or wake -/
  | domainTransitionDone (domain : Fin 64) (reached : Bool)
  /-- AVS_RESPONSE (R379): A regulator's completion status acknowledges a voltage request and lets a waiting frequency rise or power-up go ahead -/
  | avsResponse (rail : Fin 5)
  /-- AVS_TIMEOUT (R379): A request without status in 200 µs is resent, and after two resends the rail fails -/
  | avsTimeout (rail : Fin 5)
  /-- PLL_LOCK_TIMEOUT (R377): A PLL not locked 100 µs after starting leaves the domains it feeds off -/
  | pllLockTimeout (pll : Nat)
  /-- LIMITER_DECISION (R391): Every 1 ms the limiter measures power and steps each die's point or issue slots within its bounds -/
  | limiterDecision (reading : PowerReading)
  /-- THERMAL_SAMPLE (R395): Every 100 µs junction sensors are sampled, applying the hard thermal ceiling, hub alerts and trips -/
  | thermalSample (temps : List Int)
  /-- DROOP (R397): A quadrant droop detector halves the die's fabric clock until the supply recovers -/
  | droop (die : Fin 4)
  /-- BATTERY_LOW (R387): J3 below BATT_LOW for 10 ms, or back above for 100 ms, changes the effective cap -/
  | batteryLow (below : Bool)
  /-- STAGE_LATE (R408): A stage frame not ended LATE_US after its window opens is a late fault -/
  | stageLate (stage : Fin 64)
  /-- STAGE_MISS (R408): LATE_US after a firing that released no chunk of a triggered SAFETY stream, a miss fault is counted -/
  | stageMiss (stage : Fin 64)
  /-- RESTART_COMPLETE (R474): After the dummy frames pass, the job's streams become ready, VALID is set and the safe-state ring is cleared -/
  | restartComplete (job : Fin 32)
  /-- ARM (R430): SAFE_CTRL.ARM raises the safety outputs when no drop cause holds -/
  | arm
  /-- DROP (R430): SAFE_CTRL.DROP drops both safety outputs -/
  | drop
  /-- DISCREPANCY (R431): A safety-output readback differing for more than 100 µs drops both outputs -/
  | discrepancy (channelB : Bool)
  /-- TEST_PULSE (R432): Once a second with TEST_EN set, each safety output is pulsed low for 200 µs and read back -/
  | testPulse (readA readB : Bool)
  /-- GET_IDENTITY (R444): The owner command GET_IDENTITY returns SERIAL and the identity public key -/
  | getIdentity
  /-- CLAIM (R445): CLAIM programs the owner key and secret and enters DEPLOYED -/
  | claim
  /-- ADD_OWNER_KEY (R445): ADD_OWNER_KEY programs an owner key slot -/
  | addOwnerKey
  /-- REVOKE_OWNER_KEY (R445): REVOKE_OWNER_KEY blows an owner slot's revoke bit -/
  | revokeOwnerKey
  /-- SET_OWNER_CFG (R445): SET_OWNER_CFG blows OWNER_CFG bits -/
  | setOwnerCfg
  /-- RETURN (R446): RETURN erases owner secrets and memories, enters the RETURN lifecycle and makes a MODULE reset -/
  | returnLifecycle (hostSel : Bool)
  /-- DEBUG_CHALLENGE (R450): DEBUG_CHALLENGE returns a nonce, or LOCKOUT after three failures -/
  | debugChallenge
  /-- DEBUG_RESPONSE (R450): DEBUG_RESPONSE opens a debug session at the requested level and scope, or fails and counts towards lockout -/
  | debugResponse
  /-- DEBUG_CLOSE (R454): DEBUG_CLOSE ends the debug session -/
  | debugClose
  /-- CLOSE (R454): DBG_CTRL.CLOSE ends the debug session -/
  | debugCtrlClose
  /-- DEBUG_EXPIRY (R454): A debug session whose duration has run out ends -/
  | debugExpiry
  /-- IDCODE (R452): The TAP instruction IDCODE returns the 32-bit IDCODE -/
  | tapIdcode
  /-- DOMAINS (R452): The TAP instruction DOMAINS returns the domain states -/
  | tapDomains
  /-- MAILBOX (R452): The TAP instruction MAILBOX carries XACT requests restricted to SEC_CMD and the mailbox -/
  | tapMailbox (request : List Byte)
  /-- SAMPLE (R452): The TAP instruction SAMPLE captures boundary scan -/
  | tapSample (pins : List Byte)
  /-- EXTEST (R451): EXTEST drives boundary scan, silences the CLE and drops the safety outputs, and is refused while a job is resident -/
  | tapExtest (pins : List Byte)
  /-- BYPASS (R452): BYPASS, and every unlisted code, selects the one-bit bypass -/
  | tapBypass (bit : Bool)
  /-- XACT (R453): An XACT request taken at Update-DR, or a USB debug record, reads or writes BAR0 or the object range under the debug level -/
  | xact (request : List Byte) (ecc : ReadEcc)
  /-- HOST_OK (R463): UPD_CTRL.HOST_OK gives the host's consent to firmware confirmation -/
  | hostOk
  /-- CONFIRM (R463): A TRIAL slot whose conditions hold confirms itself, becomes GOOD and advances FW_EPOCH -/
  | confirm
  /-- HEALTH_WATCHDOG (R464): 120 s without confirmation makes the trial slot BAD and falls back, with a MODULE reset if WD_RESET is set -/
  | healthWatchdog (hostSel : Bool)
  /-- COLD_RESET (R467): J3 passing its start threshold resets the whole module and starts it by Table RST-3 -/
  | coldReset (millivolts : Nat) (hostSel : Bool) (mrstLow : Bool)
  /-- MODULE_RESET (R468): MRST_N low or another MODULE trigger stops the module in order and restarts it, sparing Acorn and PSRAM -/
  | moduleReset (trigger : ModuleTrigger) (hostSel : Bool)
  /-- PWR_RESET (R468): A valid PWR_RESET write saves prognostics state and makes a MODULE reset -/
  | pwrReset (value : BitVec 32) (hostSel : Bool)
  /-- MRST_N_RELEASE (R473): MRST_N rising releases the held module to start up -/
  | mrstNRelease (hostSel : Bool)
  /-- FW_READY (R473): Start-up completes, PWR_RESET_CAUSE.FW_READY is set and latched wakes replay -/
  | fwReady (failed : BitVec 64)
  /-- LOCKOUT (R483): J3 below 17.0 V for 100 µs opens the input switch and removes every supply -/
  | lockout (millivolts : Nat)
  /-- SURGE (R484): J3 above 62.0 V is clamped while the module runs on, and PWR event 0x0008 is posted -/
  | surge (millivolts : Nat)
  /-- OVERVOLTAGE_SHUTDOWN (R484): J3 above 62.0 V for longer than 1 s acts as a lockout -/
  | overvoltageShutdown
  /-- SENSOR_OUTPUT_TRIP (R492): A sensor output held at its current limit trips off, sets SHORT and may latch -/
  | sensorOutputTrip (output : Fin 8)
  /-- SENSOR_OUTPUT_RETRY (R492): 100 ms after a trip, a sensor output retries -/
  | sensorOutputRetry (output : Fin 8)
  /-- BACKFEED (R492): An external voltage above 12.6 V at an output that is on switches it off and sets BACKFEED -/
  | backfeed (output : Fin 8)
  /-- PWR_SPWR_CFG_WRITE (R493): A PWR_SPWR_CFG write switches outputs on or changes ILIM only within the 6 A total, setting REFUSED otherwise -/
  | pwrSpwrCfgWrite (value : BitVec 64)
  /-- HOST_MEMORY_ACCESS_FAILED (R60): An input read or output write in host memory completes with Unsupported Request, Completer Abort, poisoned data or timeout; the descriptor completes as HOST_FAULT and HOST_ERR_STATUS.DMA is set -/
  | hostMemoryAccessFailed (id : Nat) (write : Bool)
  /-- DIE_LINK_REPLAY (R20): A die-link flit that fails its CRC is replayed, FAB_ERR_STATUS.LINK_REPLAY is set and the replay counter increments -/
  | dieLinkReplay (die : Fin 4) (link : Fin 3)
  /-- PENDING_ROW_LANDED (R163): A row of a PLANE_ROW fetch thread lands, which ends its pending state and releases a weight-issue stall on the pending-row interlock -/
  | pendingRowLanded (die : Fin 4) (thread : Nat)
  /-- DUMMY_FORCED_POINT (R81): A dummy frame reaches its forced point, previous start + DUMMY_INTERVAL − G, and falls due, so an idle die must start it -/
  | dummyForcedPoint (stream : Fin 256)
  /-- SUPPLY_RECOVERED (R397): After at least 64 cycles of clock stretching, the die's supply recovers and its fabric clock returns to full frequency -/
  | supplyRecovered (die : Fin 4)
  /-- POLARITY_CORRECTED (R326): An idle level of 0 and an inverted preamble on 3 consecutive frames invert the joint-port receiver, set JP_PORT.RX_INV and post JP event 0x0003 -/
  | polarityCorrected (port : Fin 24)
  /-- HOST_LINK_UP (R33): The PCI Express link finishes training, or the USB device finishes enumeration, and HOST_CTRL.LINK_UP is set -/
  | hostLinkUp
  /-- ETHERNET_LINK_CHANGE (R489): In-band status brings an Ethernet MAC link up or takes it down, and JP_ETH_CFG.LINK changes -/
  | ethernetLinkChange (mac : Fin 4) (up : Bool)
  /-- SENSOR_OUTPUT_OPEN (R489): A sensor output that is on and draws below 10 mA for 1 s sets its OPEN bit while it stays on -/
  | sensorOutputOpen (output : Fin 8)
  deriving DecidableEq, Repr

end Sys2Proof
end

