-- ==== Sys2Proof/Decode.lean ====
section
/-!
DEFINITION. The decoder of table words. The spec's table gives no row any bits: a command is an access, a message or an event with its
operands, so no word spells one.
-/
namespace Sys2Proof

/-- The command that a word spells: none, for every word. -/
def decodeTableWord (_nbits _w : Nat) : Option Instr := none

end Sys2Proof
end

