-- ==== Sys2Proof/Config.lean ====
section
/-!
DEFINITION. What one made module fixes (fuses), and the free values: results that the spec leaves open. A free value is a
constant with no body, so that no proof can rest on what it is.
-/
namespace Sys2Proof

/-- ID_PRODUCT.GRADE, per fuses: 0 or 1 (R500). The caller takes its low bit. -/
opaque Config.grade : Bool
/-- ID_PRODUCT.STEPPING, per fuses (R500). -/
opaque Config.stepping : BitVec 8
/-- ID_IDCODE.MANUFACTURER, per fuses (R500). -/
opaque Config.manufacturer : BitVec 11
/-- SEC_SERIAL.SERIAL, per fuses (R444). -/
opaque Config.serial : BitVec 64
/-- The free value of an open result: a place (which rule leaves it open) and the draw number. -/
opaque Config.free : Nat → Nat → Nat
/-- Byte `i` of an open result: place, draw number, index. -/
opaque Config.freeByte : Nat → Nat → Nat → Byte
/-- PHASE of an Acorn log entry, which has no ring (R381 gives the format, R38 no value for it). -/
opaque Config.logPhase : Nat → Bool
/-- SQ_HEAD of an event entry, which has no submitting ring (R49). -/
opaque Config.eventSqHead : Nat → BitVec 32

/-- The module's own MAC address at an Ethernet MAC, as the number its six bytes spell little-endian (R331 names it and gives no
value). -/
opaque Config.macAddress : Nat → Nat

/-- Cosine and sine of an angle in units of pi/32,768 rad, as the planner computes them (R301 gives no precision). -/
opaque Config.cosYaw : Int → Rat
opaque Config.sinYaw : Int → Rat
/-- A square root as the planner and the fusion engine compute it (R269, R301 give no precision). -/
opaque Config.root : Rat → Rat
/-- FP32 form of an exact operand of the planner's cost: the spec rounds the cost, and gives no rounding for what enters it (R304). -/
opaque Config.toFp32 : Rat → Nat
/-- FP32 radians of an angle in units of pi/32,768 rad, as it enters the cost (R304). -/
opaque Config.radians : Nat → Nat
/-- The source of a CONVERT_OUT of a word is 32-bit Y, and not integers: no field of the word tells (Table SEQ-4). -/
opaque Config.sourceIsY : Nat → Bool
/-- Whole millimetres of a coordinate, clearance or velocity (Tables PLN-5, FUS-8 and FUS-10 give no rounding). -/
opaque Config.wholeMm : Rat → Int

/-- Cosine and sine of a joint value in radians, as the fusion engine computes them (R269 gives no precision). -/
opaque Config.cosRad : Rat → Rat
opaque Config.sinRad : Rat → Rat
/-- What an FP32 table value that is no number stands for (R267). -/
opaque Config.notNumber : Nat → Rat
/-- A component, by its index, of a rotation or a ray of length 0 once it is normalised (R267, R268). -/
opaque Config.noDirection : Nat → Rat

/-- 1 - e^(-dt / TAU) in FP32, of a time in ns and an FP32 constant (R344 gives no precision). -/
opaque Config.decay : Nat → Nat → Nat
/-- e^x, and x^y, as the rainflow counter computes them (R345 gives no precision). -/
opaque Config.exp : Rat → Rat
opaque Config.pow : Rat → Rat → Rat
/-- Units of 2^-48 of an exact damage (R345 gives no rounding). -/
opaque Config.damageUnits : Rat → Nat
/-- A quotient by 0 of the prognostics unit, of its numerator. -/
opaque Config.quotientByZero : Rat → Rat
/-- Whether a save to the boot flash that no command decides succeeds, by draw (R349). -/
opaque Config.saveOk : Nat → Bool
/-- Median of 8 readings of a sentinel pair in ppm: die, pair, draw (R355). -/
opaque Config.sentinel : Nat → Nat → Nat → Int
/-- Factory base in mV and sensitivity in mV per 1,000 ppm of a die's point, in the boot flash (R356). -/
opaque Config.guardBase : Nat → Nat → Rat
opaque Config.sensitivity : Nat → Nat → Rat
/-- The hub's point before its guard band, in 0.1 mV (R378 names it and gives no value). -/
opaque Config.hubPoint : Nat

/-- SHA-384, HMAC-SHA-384 (key, message) and the check of an ECDSA P-384 signature (public key, digest, r || s), which the spec names
and takes from their standards (R441 to R447). -/
opaque Config.sha384 : List Byte → List Byte
opaque Config.hmac384 : List Byte → List Byte → List Byte
opaque Config.ecdsaOk : List Byte → List Byte → List Byte → Bool
/-- AES-256-GCM decryption: key, IV, additional data, ciphertext, tag; none where the tag fails (R445, R448, R457). -/
opaque Config.gcmOpen : List Byte → List Byte → List Byte → List Byte → List Byte → Option (List Byte)
/-- The identity public key, 97 bytes, that SEC derives from DUK; the x-coordinate of ECDH with a public key (R441, R445). -/
opaque Config.identityKey : List Byte
opaque Config.ecdhX : List Byte → List Byte
/-- Fuses: VENDOR_KEY_HASH of a slot, and VENDOR_ENC_KEY (R441). -/
opaque Config.vendorHash : Nat → List Byte
opaque Config.vendorEncKey : List Byte
/-- The vendor revocation that an image names, by its header (R463 gives it no place). -/
opaque Config.namedRevocation : List Byte → BitVec 3
/-- VERSION and EPOCH of the image that the vendor ships. -/
opaque Config.factoryVersion : BitVec 32
opaque Config.factoryEpoch : BitVec 6
/-- The vendor key slot, 0 to 2, of that image. -/
opaque Config.factoryKey : Fin 3
/-- Whether the fuses of an owner command program, by draw (R444: result 5). -/
opaque Config.fuseOk : Nat → Bool

/-- The post-unit parameters that a layer descriptor gives one drained row (Table FAB-5); a stage that is `none` is bypassed.
The spec names the parameters and gives their places in the descriptor nowhere. -/
structure LayerRow where
  /-- Stage 1: M and SCALE_EXP. -/
  scale : Option (Nat × Int)
  /-- Stage 2: BIAS. -/
  bias : Option Int
  /-- Stage 3: RES_EXP, whether V is signed, and the core-store line of V. -/
  residual : Option (Int × Bool × Nat)
  /-- Stage 4: activation table. -/
  act : Option Nat
  /-- Stage 5: OUT_SHIFT, ZP, OUT_BITS, signed. -/
  requant : Option (Int × Int × Nat × Bool)
  deriving DecidableEq, Repr, Inhabited

/-- The consumer test that a layer names (Table FAB-4); a threshold is a 40-bit accumulator value. -/
inductive ConsumerTest where
  | none | relu
  | clampLow (t : BitVec 40)
  | clampHigh (t : BitVec 40)
  | argMax | argMin
  deriving DecidableEq, Repr, Inhabited

/-- What a layer descriptor says of a whole layer (R89, R98, R102, R105, R410). -/
structure LayerInfo where
  actSigned : Bool
  degradable : Bool
  minPlanes : Nat
  checksum : Bool
  test : ConsumerTest
  /-- Output channels of the layer. -/
  channels : Nat
  /-- Weights, and activations, carry block exponents; in an integer format they carry none (R98). -/
  weightBlock : Bool
  actBlock : Bool
  /-- E_ref. -/
  eRef : Int
  deriving DecidableEq, Repr, Inhabited

/-- The free decoding of a layer descriptor's post-unit fields: the bytes from its line to the end of the reservation, the
word index, the execution and the row. -/
opaque Config.layerRow : List Byte → Nat → Nat → Nat → LayerRow
/-- The free decoding of a layer descriptor's layer fields. -/
opaque Config.layerInfo : List Byte → LayerInfo
/-- E_w of a core's weight chunk for a channel, where the weights carry block exponents (R98): the bytes of the descriptor, die and core,
and channel. R162 gives the exponents' place in the weight region, and no place on the die (log 21). -/
opaque Config.weightExp : List Byte → Nat → Nat → Int
/-- E_x of an activation chunk whose exponent the spec does not follow to where it was loaded from, by its memory line (log 21). -/
opaque Config.openExp : Nat → Int
/-- Byte `i` of drained row `r` of an ARGMAX or ARGMIN layer: the winners of the 64 lanes as value and channel. R102 says what is
delivered, and gives no layout (log 42). -/
opaque Config.argByte : List (Int × Nat) → Nat → Nat → Byte

end Sys2Proof
end

