-- ==== Sys2Proof/Machine/State.lean ====
section
/-!
DEFINITION. The state of the module as plain data: registers, rings, jobs, dies, memories, hub engines, and the queue of
commands that wait; with the fault and refusal reasons and the state after reset.
-/
namespace Sys2Proof.Machine
open Sys2Proof

/-! ### Registers -/

/-- The registers of BAR0, one constructor for each row of Table REG-2 (R501). -/
inductive Reg where
  | idProduct | idPci | idIdcode | idCap0 | idCap1 | idAccess | idScratch | hostCtrl | hostErrStatus
  | hostRingSel | hostRingBase | hostRingCfg | hostLostCpl | dlrTrickCfg | dlrClassCfg | dlrStats
  | dlrStreamSel | dlrStreamInfo | fabCap | fabDieSel | fabDieStatus | fabErrStatus | fabCeCount
  | fabLinkStatus | fabSeqStatus | fabEpochCount | fabCnvStatus | fabAttCfg | fabAttStatus | fabRecStatus
  | memCap | memT2Base | memT2Size | memLateCfg | memMigCfg | memEccCfg | memUsage | memErrStatus | memPodSel
  | memPodStatus | timeCtrl | timeStatus | timeJump | timeNow | timePtpCfg | timePtpLat | timeGenStart
  | timeGenCfg | timeCapCfg | timeCapData | timeQbvCtrl | fusCtrl | fusStatus | fusStart | fusTiming
  | fusGridCfg | fusLiftCfg | fusTrackCfg | fusOutCfg | fusOutAddr | fusCsiCfg | fusStats | fusStats2
  | plnLattice | plnCfg | plnOccCfg | plnWriter | plnStatus | plnStats | plnStats2 | cleCtrl | cleStatus
  | cleSnapCfg | cleChStatus | cleStats | jpCtrl | jpPort | jpDriveStatus | jpDlCfg | jpSpiCfg | jpLine
  | jpEthCfg | hltCtrl | hltStatus | hltTiming | hltFeedCfg | hltFeedAddr | hltScoreAddr | hltMarginSel
  | hltMargin | hltClamp | pwrStateLo | pwrStateHi | pwrBootOn | pwrWakeOn | pwrWakeCfg | pwrWakeStatus
  | pwrAlarm | pwrAcornCount | pwrAvsStatus | pwrLogCount | pwrReset | pwrResetCause | pwrSpwrCfg
  | pwrSpwrStatus | limCap | limPolicy | limBatt | limPower | limStatus | limTemp | limThrSel | limThrUs
  | safeCtrl | safeStatus | safeHeld | safeCfg | safeStageCfg | safeStageStatus | safeCount | secState
  | secSerial | secCmd | dbgStatus | dbgCtrl | updStatus | updVersion | updCfg | updCtrl
  deriving DecidableEq, Repr

/-- The access codes of Table SCO-6 that the register tables use (R10). -/
inductive Access where
  | ro | rw | wo | w1c
  deriving DecidableEq, Repr

/-- An entry of a reset column (R11): a value, `keep`, or a source outside the table ("per fuses", "per boot",
"from Acorn", "flash", ...), which the rule that owns the field supplies. -/
inductive ResetVal where
  | val (n : Nat) | keep | src
  deriving DecidableEq, Repr

/-- The four kinds of reset, the columns of every register table (R11, R467). -/
inductive ResetKind where
  | cold | module | link | job
  deriving DecidableEq, Repr

/-- One non-reserved field of a register table. -/
structure Field where
  reg : Reg
  lo : Nat
  len : Nat
  acc : Access
  cold : ResetVal
  module : ResetVal
  link : ResetVal
  job : ResetVal
  deriving DecidableEq, Repr

/-- A map with natural keys in strictly rising order: the one form of every sparse table of the state. -/
abbrev SMap (α : Type) := List (Nat × α)

/-! ### Outputs -/

/-- Everything the module sends on an external link or drives on a pin, in order (the model's own record of outputs). -/
inductive Tx where
  /-- A memory write to a host bus address (R54). -/
  | hostWrite (addr : Nat) (bytes : List Byte)
  /-- An MSI-X message of a vector (R57). -/
  | msix (vector : Nat)
  /-- A completion message on EP1 IN (R65). -/
  | usbMessage (bytes : List Byte)
  /-- A control transfer answered with data (R35). -/
  | usbData (bytes : List Byte)
  /-- A control transfer answered with STALL (R35). -/
  | usbStall
  /-- The data of a BAR0 read (R496, R498). -/
  | barData (bytes : List Byte)
  /-- A frame on a joint port (R327). -/
  | jointFrame (port : Nat) (bytes : List Byte)
  /-- An Ethernet frame of a MAC: a drive-link frame (R331). -/
  | ethFrame (mac : Nat) (bytes : List Byte)
  /-- A level driven on an output pin: 0 TRIG0-7, 8 CAMTRIG0-7, 16 SAFE_A_N, 17 SAFE_B_N, 18 FAULT_N, 19 WAKE_N. -/
  | pin (number : Nat) (level : Bool)
  /-- Data shifted out of the TAP or sent on EP2 IN (R452, R453). -/
  | debugData (bytes : List Byte)
  /-- A voltage request to a regulator (R379): rail, and level in 0.1 mV. -/
  | avsRequest (rail : Nat) (level : Nat)
  deriving DecidableEq, Repr

/-! ### Host attachment (chapter 02) -/

/-- The counts of a submission ring (R37). -/
structure SqRing where
  head : BitVec 32
  tail : BitVec 32
  deriving DecidableEq, Repr

/-- A completion entry before it is given its PHASE and SQ_HEAD (Table HST-5, R49). -/
structure Entry where
  tag : BitVec 32
  status : BitVec 8
  event : Bool
  variant : Bool
  sq : BitVec 12
  outTime : BitVec 32
  planesUsed : BitVec 8
  degradedLayers : BitVec 8
  replayCount : BitVec 16
  skipCount : BitVec 32
  aux : BitVec 32
  detail : BitVec 16
  stream : BitVec 8
  deriving DecidableEq, Repr

/-- An entry with what posting it needs: its ring, IRQ (R45), and over USB the output of a space-10 OUT_ADDR (R65). -/
structure Posting where
  cq : Nat
  entry : Entry
  irq : Bool
  data : Option (List Byte)
  /-- USB: the push message holding the descriptor's input and the length to release when this entry is sent (R63). -/
  msg : Option (Nat × Nat)
  deriving DecidableEq, Repr

/-- What a descriptor's completion reports (R49, R51). -/
structure Facts where
  status : Nat
  detail : Nat
  aux : Nat
  variant : Bool
  /-- Fewest planes in any degradable layer (R108); 0 for work outside the fabric. -/
  planesUsed : Nat
  degradedLayers : Nat
  replayCount : Nat
  skipCount : Nat
  /-- USB: output returned in the completion message, for an OUT_ADDR of space 10 (R65). -/
  out : Option (List Byte)
  /-- OUT_TIME of a completion that was decided before its entry could be posted or held (R49, R58). -/
  decidedAt : Option (BitVec 32)
  deriving DecidableEq, Repr

/-- A completion ring: counts (R37), message state (R57), stall episode (R59), USB entries not yet sent (R65). -/
structure CqRing where
  head : BitVec 32
  tail : BitVec 32
  /-- Entries posted since the last MSI-X message. -/
  sinceMsg : Nat
  /-- Clock of the oldest posted entry that no message has covered. -/
  oldest : Option Nat
  /-- Clock since when the ring has been full. -/
  fullSince : Option Nat
  /-- The running episode of fullness has been reported (R502). -/
  stalled : Bool
  /-- USB: 32-byte entries posted and not yet sent, with what was posted. -/
  unsent : List (List Byte × Posting)
  deriving DecidableEq, Repr

/-- A descriptor consumed and not yet completed (R53). `id` is its consumption number. -/
structure Consumed where
  id : Nat
  sq : Nat
  desc : Desc
  /-- USB: the push message whose data area holds its input (R63). -/
  msg : Option Nat
  /-- The opcode has taken its first effect and waits for its end. -/
  started : Bool
  /-- Consumed before a LINK reset: its completion is discarded and counted (R66). -/
  orphan : Bool
  deriving DecidableEq, Repr

/-- A RING_PUSH message in the push buffer (R62, R63). -/
structure PushMsg where
  id : Nat
  sq : Nat
  /-- Ring count of the first descriptor. -/
  first : BitVec 32
  descs : List Desc
  data : List Byte
  /-- Descriptors of the message not yet consumed. -/
  unread : Nat
  /-- Descriptors whose completion has not been sent. -/
  unsent : Nat
  /-- Bytes of the data area already released. -/
  freed : Nat
  deriving DecidableEq, Repr

/-- The host interface (chapter 02). Ring set-up stands in HOST_RING_BASE and HOST_RING_CFG of `regs`. -/
structure HostIf where
  sqs : SMap SqRing
  cqs : SMap CqRing
  /-- The hub holding queue of 1,024 entries (R58), oldest first. -/
  hold : List Posting
  consumed : List Consumed
  /-- Completions decided for consumed descriptors and waiting for room (R58), in order. -/
  decided : List (Nat × Facts)
  nextId : Nat
  push : List PushMsg
  nextMsg : Nat
  /-- Messages before this one were emptied from the push buffer by a LINK reset; work that was consumed still reads them. -/
  pushBase : Nat
  /-- Next expected SEQ (R61). -/
  seq : BitVec 32
  /-- MSI-X table entries of 16 bytes (R33); an unlisted entry is masked. -/
  msixTable : SMap (BitVec 128)
  /-- Pending bits of the PBA (R57). -/
  pba : BitVec 64
  /-- Number of events since the last MODULE or COLD reset (R49, R56). -/
  events : BitVec 32
  /-- Event entries of LINK and JOB resets that wait for CQ0 (R477). -/
  owed : List Entry
  /-- The register that a path (0 REG_READ, 1 TAP, 2 USB debug) read last in its low half, with the high word sampled then (R498). -/
  sampled : SMap (Nat × Nat)
  /-- The submission ring that the running turn serves, and the descriptors taken in the turn (R44). -/
  turn : Nat × Nat
  deriving DecidableEq, Repr

/-! ### Jobs and streams (chapters 03, 17, 19) -/

/-- A die record of a declaration. Die 4 is the hub. -/
structure DieRec where
  die : Nat
  t0Kib : Nat
  seqWords : Nat
  fetchThreads : Nat
  tokens : Nat
  t1Bytes : Nat
  /-- First line of the job's core-store reservation on the die, given by the load (R503). -/
  base : Nat
  deriving DecidableEq, Repr

/-- Where a 64 KiB page is held (R152). -/
inductive Place where
  | t0 (die core line : Nat)
  | t1 (die frame : Nat)
  | t2 (page : Nat)
  deriving DecidableEq, Repr

/-- A SEQUENCE section (R120), with the T1 pages that hold its words, given by the load. -/
structure SeqSection where
  die : Nat
  entries : List Nat
  fetch : List FetchDesc
  words : List SeqWord
  pages : List Place
  deriving DecidableEq, Repr

/-- A tier object: its section's LOAD_OFFSET and the header of Table MEM-3 (R155). -/
structure TierObj where
  sect : Nat
  offset : Nat
  size : Nat
  policy : Nat
  homeDie : Nat
  hostRead : Bool
  hostWrite : Bool
  weight : Bool
  t2Backed : Bool
  minResident : Nat
  windowPages : Nat
  coreFirst : Nat
  coreCount : Nat
  sliceLines : Nat
  lineBase : Nat
  deriving DecidableEq, Repr

/-- A dummy record (Table SAF-3, R419). -/
structure DummyRec where
  stream : Nat
  tokenFirst : Nat
  tokenCount : Nat
  entries : List Nat
  lineFirst : Nat
  lineCount : Nat
  out : Nat
  outLen : Nat
  gold : Nat
  params : List Byte
  deriving DecidableEq, Repr

/-- Where a job stands (R74, R85, R428, R474). -/
inductive JobPhase where
  /-- In service. -/
  | resident
  /-- JOB_UNLOAD descriptors wait for started chunks to end. -/
  | unloading (ids : List Nat)
  /-- A JOB reset runs (R474); the JOB_RESTART descriptors that it completes (R476). -/
  | restarting (ids : List Nat)
  /-- Held by R428. -/
  | held
  deriving DecidableEq, Repr

/-- A resident job. -/
structure Job where
  imageId : Nat
  dieRecs : List DieRec
  streamBase : Nat
  streamCount : Nat
  seqs : List SeqSection
  objs : List TierObj
  dummies : List DummyRec
  phase : JobPhase
  /-- Clocks of its entries into the safe state (R428). -/
  safeTimes : List Nat
  deriving DecidableEq, Repr

/-- A queued item of a stream: a chunk, a swap, or a retire (R74, R84, R85). -/
inductive ItemKind where
  | chunk | triggered | swap | forced | retire
  deriving DecidableEq, Repr

/-- Waiting, released to the Dealer, started (R74), or a chunk whose last word has run on every die and whose completion waits for what
it sent (R321, R417). -/
inductive ItemPhase where
  | waiting | released | started | ended
  deriving DecidableEq, Repr

/-- A queued item, named by its descriptor's consumption number. -/
structure Item where
  id : Nat
  kind : ItemKind
  phase : ItemPhase
  /-- Clock of the release, and the clock at which its stage window opened (R407). -/
  releasedAt : Nat
  /-- Firings that found the stream empty since the previous release (R76). -/
  missed : Nat
  /-- Status, DETAIL and AUX gathered so far, by precedence (R51). -/
  facts : Facts
  /-- The chunk ends at its next word with no further issue (R191, R222, R231). -/
  ending : Bool
  /-- The chunk ends at its next trick boundary with no further issue (R167). -/
  leaving : Bool
  /-- Dies on which the chunk has executed its CHUNK_END, or the swap its transfer. -/
  doneDies : List Nat
  /-- Input data that arrived from host memory, for a swap (R84). -/
  input : ReadData
  /-- Its frame has been counted as late, or failed its checksum (R408, R413). -/
  late : Bool
  failed : Bool
  /-- Indices of the layers that finished on fewer planes (R108). -/
  degraded : List Nat
  /-- FB0 to FB2 of every channel, latched at the trigger that released the chunk (R23, R415). -/
  latched : List Int
  deriving DecidableEq, Repr

/-- A half of a core's line buffer (R179, R195, R196): the descriptor of its last fill, the stream that made it, and 2,560 bytes. -/
structure Half where
  desc : BitVec 512
  valid : Bool
  owner : Option Nat
  /-- Logical window, channel by channel, row by row, elements of 1 or 2 bytes. -/
  data : List Byte
  deriving DecidableEq, Repr

/-- What a squash puts back on a die, as it stood at the restart word: a squash leaves the die as if the speculative work had never
started (R139, R197). -/
structure Saved where
  /-- Working and shadow registers of the die's cells. -/
  cells : List Host.Cell
  shadowConv : SMap (BitVec 512)
  tileConv : SMap (BitVec 512)
  shadowExp : SMap Int
  tileExp : SMap Int
  halves : SMap Half
  bankConv : SMap (BitVec 512)
  bankSpan : SMap Nat
  vpuIn : SMap (List Nat)
  /-- Accumulator words of the stream's banks. -/
  acc : SMap (BitVec 40)
  accSat : List Nat
  accTol : SMap Nat
  /-- Best values so far of an ARGMAX or ARGMIN layer, and its channels seen. -/
  best : SMap (Int × Nat)
  bestCh : Nat
  deriving DecidableEq, Repr

/-- What a word of a SKIP or CHEAP epoch reports of its chunk or its die, held until the epoch commits (R138, R139). -/
inductive Note where
  /-- A channel of a degradable layer: layer count, planes used, and whether they were fewer than its width (R108). -/
  | planes (layer used : Nat) (fewer : Bool)
  /-- A select consumed this VAR_TOKEN (R171). -/
  | variant (token : Nat)
  /-- A checksum comparison failed, with its AUX (R413). -/
  | mismatch (aux : Nat)
  /-- An accumulator row saturated (R117). -/
  | saturated
  /-- Terms below the exponent range, and NaN inputs (R98, R115). -/
  | under (n : Nat)
  | nan (n : Nat)
  deriving DecidableEq, Repr

/-- Where the issue of a stream stands on one die (R122 to R137). -/
structure Ctx where
  /-- Word index at the issue pointer. -/
  issue : Nat
  /-- Executions of that word already done. -/
  exec : Nat
  /-- The barrier of the word at the issue pointer has been reached, and passed. -/
  atBarrier : Bool
  barrierPassed : Bool
  /-- The first cycle of the execution at hand has run: its gates are taken, its descriptors checked and its first actions made (R124);
  and the kind of the word as tested in its first execution: 1 attention, 2 recurrent, otherwise 0 (R205, R226). -/
  entered : Bool
  kind : Option Nat
  /-- The die before the exchange of an entered first execution, whose cycles before XCHG_CYCLE still see it (R89). -/
  before : Option Saved
  /-- Clock since when weight issue has stalled on a pending row (R168). -/
  stallFrom : Option Nat
  /-- Run-ahead pointer (R136). -/
  ahead : Nat
  /-- Words from the issue pointer to before the run-ahead pointer, in order: their kicks have been made (R136, R137). -/
  path : List Nat
  /-- Token counters (R127). -/
  tokens : SMap Nat
  /-- Words with LAYER_END executed in this chunk (R166). -/
  layers : Nat
  /-- Plane count of a cheap-path choice in the running layer (R105), with the word that began the bank fill. -/
  cheap : Option Nat
  fillStart : Nat
  fillExec : Nat
  /-- While a bank fill of a degradable layer runs: the die at its start, its bank, and the executions finished since (R169). -/
  fillSave : Option Saved
  fillBank : Nat
  fillCount : Nat
  /-- Fewest planes of a channel of the fill, and whether any used fewer than its width (R108). -/
  fillPlanes : Option (Nat × Bool)
  /-- Executions of a squashed fill still to be recomputed, of which only loads, exchanges and folds are made again (R139). -/
  redo : Nat
  /-- ARGMAX and ARGMIN: the best value so far and its channel, by lane of the die, and the channels seen (R102). -/
  best : SMap (Int × Nat)
  bestCh : Nat
  /-- First channel of the running execution that takes that plane count (R168). -/
  cheapCh : Nat
  /-- Shadow rows of the running bank fill of a degradable layer, by accumulator key (R169). -/
  fill : SMap (BitVec 40)
  /-- A select of this chunk consumed a VAR_TOKEN (R171). -/
  variant : Bool
  /-- Clocks at which the chunk's layer count reached 0, 1, 2 and so on (R171). -/
  layerClock : List Nat
  /-- Clock at which the stream's last trick on the die ended, or it became ready (R78). -/
  waitFrom : Nat
  /-- Words finished since the start of the bank fill or SKIP row in progress: a rewind puts them back before `path`, so that no kick
  is made twice (R136, R138). -/
  trail : List Nat
  deriving DecidableEq, Repr

/-- The dummy frame of a SAFETY stream (R78, R81, R419 to R424). -/
structure DummyState where
  /-- Clock of the start of its previous first trick. -/
  lastStart : Nat
  /-- Forced point of the frame that has started. -/
  point : Nat
  /-- At its forced point, or owed (R78, R81). -/
  due : Bool
  /-- It must pass before the stream's next chunk is released (R424). -/
  owed : Bool
  started : Bool
  ended : Bool
  failed : Bool
  /-- Clock since when the stream has not been ready; none while it is (R424). -/
  pausedAt : Option Nat
  doneDies : List Nat
  ctx : SMap Ctx
  deriving DecidableEq, Repr

/-- A stream (Table JOB-2, R72 to R76). -/
structure Stream where
  job : Nat
  index : Nat
  cls : Nat
  triggered : Bool
  safety : Bool
  dies : Nat
  banks : Nat
  rate : Nat
  wcetNs : Nat
  dummyTricks : Nat
  dummyUs : Nat
  sq : Nat
  boundUs : Nat
  /-- Control floor at which its load was checked (R82). -/
  checkedOp : Nat
  valid : Bool
  /-- Physical accumulator banks by die, in stream-bank order (R83). -/
  phys : SMap (List Nat)
  trigger : Option Nat
  /-- Firings that found the stream empty since the previous release (R76). -/
  misses : Nat
  items : List Item
  /-- A retire has been consumed (Table JOB-4). -/
  retiring : Bool
  ctx : SMap Ctx
  dummy : DummyState
  /-- The CONTROL chunk has let one dummy trick go ahead of it (R27). -/
  jumped : Bool
  /-- Clock of the end of its previous chunk (R407). -/
  lastEnd : Nat
  deriving DecidableEq, Repr

/-! ### Compute dies (chapters 04, 05, 07, 08, 09) -/

/-- A fetch thread in flight (R133, R134). -/
structure Thread where
  id : Nat
  stream : Nat
  desc : FetchDesc
  /-- Kicked for a dummy frame (R421). -/
  dummy : Bool
  /-- Under the PREFETCH epoch of this serial number (R137). -/
  spec : Option Nat
  /-- WAIT_TOKEN has been met (R134). -/
  waited : Bool
  /-- PLANE_ROW: rows landed so far (R163). -/
  landed : Nat
  /-- Its increments are dropped: issued before a JOB reset (R474). -/
  dropped : Bool
  /-- All its data has landed and its DONE_TOKEN increment is held by its PREFETCH epoch: it returns to the pool at the commit (R134). -/
  done : Bool
  deriving DecidableEq, Repr

/-- A die-link transfer on its way (R143). -/
structure Send where
  id : Nat
  srcDie : Nat
  stream : Nat
  dummy : Bool
  /-- Destination die, or 4 for the hub. -/
  dst : Nat
  /-- Destination line, or byte offset in the hub store. -/
  addr : Nat
  token : Nat
  lines : List (List Byte)
  /-- Issued before a JOB reset: its increment is dropped (R474). -/
  dropped : Bool
  deriving DecidableEq, Repr

/-- Why a read delivers nothing. -/
inductive ReadErr where
  /-- The page is unreachable: module pod (R176). -/
  | unreachable (pod : Nat)
  /-- A poisoned T1 or T2 granule, at this memory address, of this page of the object range; of no page where it holds sequence words. -/
  | tier (addr : Nat) (page : Option Nat)
  /-- An uncorrectable T0 error: die and core (R118). -/
  | t0 (die core : Nat)
  deriving DecidableEq, Repr

/-- A speculation epoch (Table SEQ-3, R138). -/
structure Epoch where
  /-- 1 PREFETCH, 2 SKIP, 3 CHEAP. -/
  kind : Nat
  serial : Nat
  stream : Nat
  dummy : Bool
  /-- The restart word, and the execution of it. PREFETCH: the select, and the word at which run-ahead resumes beyond it. -/
  restart : Nat
  restartExec : Nat
  /-- Provisional memory bytes by address, in provisional slots, and block exponents of their lines. -/
  writes : SMap Byte
  exps : SMap Int
  /-- Held DONE_TOKEN and signal increments: token and amount. -/
  tokens : List (Nat × Nat)
  sends : List Send
  /-- Token counts that gates and selects of its words took, or WAIT_TOKENs of its threads, given back by a squash (R139). -/
  taken : List (Nat × Nat)
  /-- PREFETCH: errors met by its reads, reported only at its commit (R140). -/
  faults : List ReadErr
  /-- SKIP and CHEAP: what its words report, and the die as a squash leaves it. -/
  notes : List Note
  saved : Option Saved
  /-- SKIP: the issue context at its opening. -/
  ctx : Option Ctx
  /-- CHEAP: executions of the fill finished when the choice was made. -/
  doneExecs : Nat
  deriving DecidableEq, Repr

/-- The attention walker of a die (R208 to R218). -/
structure Walker where
  stream : Nat
  dummy : Bool
  /-- The attention descriptor as read at the layer's first attention word, and its line. -/
  desc : BitVec 1024
  line : Nat
  /-- Current row of the chunk, step of the row, and page step of the chunk. -/
  row : Nat
  step : Nat
  chunkStep : Nat
  /-- Page steps delivered and not yet released (R211). -/
  busy : Nat
  /-- Increments of PAGE_TOKEN that gates have consumed in this row (R211, R217). -/
  gated : Nat
  /-- The row's DONE_TOKEN signal has been applied, so the next row may be delivered. -/
  rowDone : Bool
  /-- A row is open at the issue pointer, with its start word (R210). -/
  inRow : Bool
  startWord : Nat
  /-- Issue still stands at the row's start word. -/
  fresh : Bool
  /-- Lane maxima M, predictions and thresholds of the row (R201, R214). -/
  m : List Int
  pred : List Int
  thr : List Int
  /-- Skipping is on in this attempt; the prediction has been verified (R217). -/
  skipping : Bool
  verified : Bool
  /-- The next attempt of the row runs with skipping off. -/
  replay : Bool
  /-- Keys skipped in this attempt, by 64 * page + position (R219). -/
  skipped : List Nat
  /-- A check failed: nothing further is delivered (R222). -/
  stopped : Bool
  /-- Buffers in which some key of this row was neither skipped nor excluded for every lane (R215). -/
  live : List Nat
  deriving DecidableEq, Repr

/-- What runs on a die in a trick (R78). -/
inductive TrickKind where
  | chunk | dummy | swap
  deriving DecidableEq, Repr

/-- The scheduler and engines of a compute die. Its registers stand in FAB registers of `regs`. -/
structure Die where
  running : Option (Nat × TrickKind)
  /-- Stream of the last trick (256 more than its number where it is gone), and whether that was a dummy frame's. -/
  lastStream : Option Nat
  lastDummy : Bool
  /-- Fabric cycles of the running trick (R78). -/
  cycles : Nat
  /-- Tricks run in the quantum of the last stream. -/
  quantum : Nat
  /-- Last stream served, by class (R78). -/
  rr : List Nat
  gang : Option Nat
  exact : Bool
  /-- Number of the trick's draw of free working banks (R83; the model's own). -/
  draw : Nat
  threads : List Thread
  epochs : List Epoch
  serial : Nat
  /-- The sequence cache in staging lines 12,288 to 16,383: words by job and index, oldest first (R121). -/
  cache : List (Nat × Nat)
  /-- Line-buffer halves by 2 * core + half; an unlisted half has filled nothing and holds zeros. -/
  halves : SMap Half
  /-- Window registers of 256 bytes by core: the lane chunks delivered last; and the tap mask that the descriptor-check unit computed
  last for a core, for which its tap tables stand (R179). -/
  window : SMap (List Byte)
  taps : SMap Nat
  /-- Convolution descriptor whose tile is in the shadow and in the working registers, by core (R192). -/
  shadowConv : SMap (BitVec 512)
  tileConv : SMap (BitVec 512)
  /-- Block exponents of the activation chunks in the shadow and working registers, by lane of the die (R98, R115). -/
  shadowExp : SMap Int
  tileExp : SMap Int
  /-- Rows of 16 FP32 values that the post units have handed to the vector post units, by core (R111, R113). -/
  vpuIn : SMap (List Nat)
  /-- Convolution descriptor of the last fold of a bank, by core * 8 + bank. -/
  bankConv : SMap (BitVec 512)
  /-- Span of the last fold into a bank, by physical bank: its home cores drain it (R97). -/
  bankSpan : SMap Nat
  walker : Option Walker
  /-- Walkers of streams that are between two tricks, by 2 * stream + dummy. -/
  parked : SMap Walker
  /-- Links of this die that failed (R20): 0 next, 1 previous, 2 hub. -/
  failedLinks : List Nat
  deriving DecidableEq, Repr

/-! ### Memory tiers (chapter 06) -/

/-- A page move in progress (R160, R161). -/
structure Move where
  id : Nat
  page : Nat
  dest : Place
  /-- The move request it serves. -/
  request : Option Nat
  /-- Host writes held until the map changes: address, bytes. -/
  held : List (Nat × List Byte)
  deriving DecidableEq, Repr

/-- A move request being served (Table MEM-5). -/
structure Request where
  id : Nat
  die : Nat
  stream : Nat
  token : Nat
  left : Nat
  /-- Issued before a JOB reset: its increment is dropped (R474). -/
  dropped : Bool
  deriving DecidableEq, Repr

/-- The window of a STREAMED object (R165 to R167, R171). -/
structure Window where
  id : Nat
  job : Nat
  /-- Index of the object in the job. -/
  obj : Nat
  stream : Nat
  cyclic : Bool
  varToken : Nat
  varWaitUs : Nat
  /-- Segments: object offset, pages, need layer, ready token, ready die. -/
  segs : List (Nat × Nat × Nat × Nat × Nat)
  /-- Segments are counted on from segment 0 of the first lap: next to copy; being copied; landed and not yet freed, oldest
  first. -/
  next : Nat
  copying : Option Nat
  landed : List Nat
  /-- Failed reads of the segment being copied. -/
  fails : Nat
  /-- Laps of a CYCLIC schedule that chunks have finished. -/
  lap : Nat
  /-- Frames of the window, and the ring position of the next copy. -/
  frames : List Nat
  pos : Nat
  signalled : Bool
  stopped : Bool
  /-- Clock at which the chunk's layer count reached the NEED_LAYER of the missing segment. -/
  waitFrom : Option Nat
  deriving DecidableEq, Repr

/-- Pages, frames and errors of the memory tiers. -/
structure Tiers where
  /-- Page map: page number in the object range to place (R152). -/
  pages : SMap Place
  /-- T1 frames in use, by die * 2^18 + frame, and T2 pool pages in use: owning job. -/
  frames : SMap Nat
  pool : SMap Nat
  /-- Copies of T2_BACKED pages: page number to pool page (R175). -/
  copies : SMap Nat
  /-- Poisoned 64-byte lines, by memory address / 64 (R174). -/
  poison : List Nat
  /-- Frames that have held a poisoned granule, and retired frames (R175). -/
  tainted : List Nat
  retired : List Nat
  /-- Sweeps since a page was last read (R159). -/
  unread : SMap Nat
  /-- Pages queued for a move back to T1 (R159). -/
  back : List Nat
  moves : List Move
  requests : List Request
  /-- Request lines that wait for earlier requests of their die: die, stream, line, line number, and whether their increment is
  dropped (R474). -/
  waiting : List (Nat × Nat × BitVec 512 × Nat × Bool)
  windows : List Window
  nextId : Nat
  /-- Clock of the last sweep (R159). -/
  lastSweep : Nat
  /-- Corrected errors of each pod in the running hour, and the hour in which the event was posted. -/
  ceHour : SMap (Nat × Nat × Bool)
  /-- WEIGHT pages left poisoned after a restart: their reads complete with DETAIL 0x0003 (R175). -/
  bad : List Nat
  deriving DecidableEq, Repr

/-! ### Power domains (chapter 15) -/

/-- The state of a switched domain, as PWR_STATE codes it (R361). -/
inductive DomState where
  | off | retention | on | changing
  deriving DecidableEq, Repr

/-! ### Time (chapter 10) -/

/-- An event generator's schedule (R247): its next firing time and its last, as full counts of the time base. -/
structure Gen where
  next : Option Nat
  last : Option Nat
  deriving DecidableEq, Repr

/-- The time unit beside its registers and the count itself (R244, R250, R253, R254). -/
structure TimeUnit where
  gens : SMap Gen
  /-- Syncs in a row with an offset above 200 ns. -/
  wide : Nat
  /-- The last measured offset in ns. -/
  offset : Int
  /-- Capture queues of 16 records: full count and rising edge, oldest first. -/
  caps : SMap (List (Nat × Bool))
  /-- By MAC: the list that becomes the oper list, and when. -/
  qbv : SMap (Nat × Nat)
  /-- Pulses in progress: generator, pin number as `Tx.pin` has it, clock of the end. -/
  pulses : List (Nat × Nat × Nat)
  /-- TIME has come on since COLD reset (R240). -/
  loaded : Bool
  /-- Clock at which TIME last stopped, while it is not on (R253). -/
  stopped : Option Nat
  /-- Frames that wait at a MAC whose gate for their class is closed, oldest first (R254). -/
  gated : List (Nat × List Byte)
  deriving DecidableEq, Repr

/-! ### Versioned tables of the hub engines (R265, R266, R295, R316) -/

/-- A table version that is stored and not yet active, or that waits for the pending slot of its table. -/
structure PendTable where
  /-- Engine * 4096 + kind * 64 + sensor. -/
  key : Nat
  version : Nat
  data : List Byte
  /-- Consumption number of the TABLE_WRITE. -/
  id : Nat
  held : Bool
  /-- It may activate at the next close. -/
  ready : Bool
  deriving DecidableEq, Repr

/-- Active, pending and waiting versions. An active version is its number and its content. -/
structure Tables where
  active : SMap (Nat × List Byte)
  pending : List PendTable
  waiting : List PendTable
  deriving DecidableEq, Repr

/-! ### Fusion (chapter 11) -/

/-- Intake of a logical sensor: samples since activation, clock of the last one, silence reported, intake stopped, end of the
SPI transaction in progress (R257, R261, R262). -/
structure Sensor where
  count : Nat
  last : Nat
  silent : Bool
  stopped : Bool
  spiNext : Nat
  spiEnd : Nat
  deriving DecidableEq, Repr

/-- A post in the pending list (R270, R273). -/
structure FusPost where
  die : Nat
  stream : Nat
  line : Nat
  content : BitVec 512
  /-- Full sample time. -/
  time : Nat
  /-- The instant that it belongs to, and whether it is a late fold; DETECTIONS carry the next close. -/
  instant : Nat
  late : Bool
  deriving DecidableEq, Repr

/-- A base pose: full time, position in mm and rotation with 14 fraction bits (Table FUS-7). -/
structure FusPose where
  time : Nat
  pos : List Int
  rot : List Int
  deriving DecidableEq, Repr

/-- A track that is not FREE (Table FUS-10). -/
structure Track where
  state : Nat
  cls : Nat
  hits : Nat
  misses : Nat
  id : Nat
  x : Int
  y : Int
  vx : Int
  vy : Int
  /-- Full time of the last update. -/
  update : Nat
  rounds : Nat
  score : Nat
  deriving DecidableEq, Repr

/-- What is kept of an issued instant for detections: time, origin, cell size, width, height, contested cells (R283). -/
structure FusInstant where
  time : Nat
  ox : Int
  oy : Int
  cell : Nat
  w : Nat
  h : Nat
  contested : List Nat
  deriving DecidableEq, Repr

/-- A result on its way to its buffer (R276). -/
structure FusIssue where
  instant : Nat
  header : List Byte
  bytes : List Byte
  /-- Occupancy bytes, and what the planner keeps with them (R296): origin, base z, cell, W, H, time. -/
  occ : List Byte
  ox : Int
  oy : Int
  bz : Int
  cell : Nat
  w : Nat
  h : Nat
  time : Nat
  deriving DecidableEq, Repr

/-- The fusion engine. -/
structure Fusion where
  sensors : SMap Sensor
  posts : List FusPost
  /-- Position feedback of each CLE channel that drives a link: full times and values, oldest first (R269). -/
  kin : SMap (List (Nat × Int))
  poses : List FusPose
  /-- The next instant to close while instants run; S of R272; the time of the last closed instant. -/
  next : Option Nat
  start : Nat
  lastClose : Option Nat
  /-- The previous instant was skipped, late drops since the previous result. -/
  skipped : Bool
  drops : Nat
  issue : Option FusIssue
  /-- Last instants, newest first, at most 8. -/
  recent : List FusInstant
  tracks : SMap Track
  nextId : Nat
  lastRound : Option Nat
  /-- Settings in force, taken at a close (FUS_TIMING, FUS_GRID_CFG). -/
  timing : Nat
  grid : Nat
  deriving DecidableEq, Repr

/-! ### Planner (chapter 12) -/

/-- What the planner keeps with an occupancy layer (R296). -/
structure PlanLayer where
  ox : Int
  oy : Int
  bz : Int
  cell : Nat
  w : Nat
  h : Nat
  time : Nat
  zLo : Int
  zHi : Int
  deriving DecidableEq, Repr

/-- The map version that a cycle fixed (R299): bank and layer where the version has them. -/
structure MapVersion where
  version : Nat
  bank : Option Nat
  layer : Option Nat
  deriving DecidableEq, Repr

/-- A running planning cycle (R299 to R305). -/
structure PlanCycle where
  id : Nat
  map : MapVersion
  /-- The request record, PLN_CFG at the start, the lattice's job, the candidates' primitive indices and the brake's. -/
  record : List Byte
  cfg : Nat
  job : Nat
  cands : List Nat
  brake : Nat
  /-- Clock of the start, and the budget in ns. -/
  start : Nat
  budget : Nat
  /-- Indices of primitives that failed verification (R291). -/
  bad : List Nat
  budgetOut : Bool
  deriving DecidableEq, Repr

/-- The planner engine beside PLN_STATUS. -/
structure Planner where
  cycle : Option PlanCycle
  /-- Waiting requests, by consumption number. -/
  queue : List Nat
  layers : SMap PlanLayer
  /-- TREE writes that wait for a released bank. -/
  trees : List (Nat × List Byte)
  /-- Occupancy bytes landed in page 95 and not yet taken in. -/
  intake : Option PlanLayer
  deriving DecidableEq, Repr

/-! ### CLE and drives (chapter 13) -/

/-- A CLE channel (R311 to R324). -/
structure Channel where
  /-- e[1..3] and u[1..3] of R318, newest first; u has 16 fraction bits. -/
  e : List Int
  u : List Int
  r : Int
  /-- Clock of the previous release (R311). -/
  lastRelease : Option Nat
  /-- Time of the cycle start, while its update is neither made nor missed (R313). -/
  due : Option Nat
  /-- Target of a HOLD in Husk. -/
  hold : Int
  sp : Int
  ff : Int
  spNew : Int
  ffNew : Int
  written : Bool
  fb : List Int
  tSample : BitVec 32
  /-- Earlier feedback with its stamps, newest first: a snapshot takes nothing stamped after its trigger (R23). -/
  past : List (BitVec 32 × List Int)
  command : Int
  deriving DecidableEq, Repr

/-- Telemetry of one axis (R330): segments in progress, their stamp and last SEQ; the last complete record with its stamp. -/
structure AxisTel where
  parts : List Byte
  stamp : BitVec 32
  seq : Nat
  record : Option (BitVec 32 × List Byte)
  /-- Earlier complete records, newest first (R23). -/
  past : List (BitVec 32 × List Byte)
  deriving DecidableEq, Repr

/-- A drive beside JP_DRIVE_STATUS (R325 to R334). -/
structure Drive where
  seq : Nat
  /-- Full time of the cycle start; a cycle is running; valid feedback came; the COMMAND has gone out. -/
  cycleAt : Nat
  inCycle : Bool
  answered : Bool
  commanded : Bool
  /-- REENABLE waits for the next exchange. -/
  reenable : Bool
  turnNs : Nat
  driveId : Option (BitVec 32)
  offline : Bool
  /-- Transmit polarity of the last PROBE, and that one has been sent. -/
  txPol : Bool
  probed : Bool
  tel : SMap AxisTel
  /-- T_SAMPLE of the last valid feedback, which the COMMAND of the drive link returns. -/
  tSample : BitVec 32
  deriving DecidableEq, Repr

/-- Who asked for an exchange (R321). -/
inductive CommitKind where
  /-- Die, stream and chunk of the policy's commit line. -/
  | policy (die stream item : Nat)
  /-- The SETPOINT write. -/
  | host (id : Nat)
  | planner
  /-- Activation of written tables where no commit waits (R316). -/
  | table
  deriving DecidableEq, Repr

/-- A waiting commit. -/
structure Commit where
  id : Nat
  kind : CommitKind
  deriving DecidableEq, Repr

/-- The trajectory buffer (R323): samples x, y, z, yaw. -/
structure Trajectory where
  tStart : BitVec 32
  dtUs : Nat
  samples : List (List Int)
  deriving DecidableEq, Repr

/-- The CLE beside its registers. -/
structure CleUnit where
  channels : SMap Channel
  drives : SMap Drive
  commits : List Commit
  nextCommit : Nat
  traj : Trajectory
  /-- Husk is left at the next exchange (R337). -/
  leaving : Bool
  /-- Snapshots taken, by target; snapshots latched and not yet written: target and content. -/
  snaps : SMap Nat
  snapDue : List (Nat × List Byte)
  deriving DecidableEq, Repr

/-! ### The safety monitor (chapter 17) -/

/-- A watched stage (R407, R408): clock at which its frame's window opened, whether the frame's fault bit has gone into the ring,
and clocks of firings that released nothing. -/
structure StageRun where
  openAt : Option Nat
  marked : Bool
  misses : List Nat
  deriving DecidableEq, Repr

/-- A line that the hub holds for a chunk of a SAFETY stream (R417). -/
structure HeldLine where
  die : Nat
  stream : Nat
  item : Nat
  /-- Hub-store offset. -/
  addr : Nat
  bytes : List Byte
  deriving DecidableEq, Repr

/-- The safety monitor beside its registers. -/
structure SafeUnit where
  stages : SMap StageRun
  held : List HeldLine
  /-- Commanded levels of SAFE_A_N and SAFE_B_N (R430). -/
  armed : Bool
  /-- FAULT_N is driven low. -/
  faultLow : Bool
  /-- The hub has tripped (R401). -/
  hubTrip : Bool
  deriving DecidableEq, Repr
/-! ### Prognostics (chapter 14) -/

/-- An axis of the prognostics unit (R341 to R352). FP32 values stand as their bit patterns. -/
structure Axis where
  /-- T_SAMPLE of the previous record; full time of the previous record with VALID_T. -/
  stamp : Option (BitVec 32)
  tAt : Option Nat
  pf : Nat
  tj : Nat
  tjMax : Nat
  /-- Running extremes since the last reversal, and which is sought: 0 both, 1 the highest, 2 the lowest. -/
  lo : Nat
  hi : Nat
  dir : Nat
  /-- The rainflow stack, oldest first. -/
  stack : List Nat
  damage : Nat
  rBar : Nat
  rCount : Nat
  r0 : Option Nat
  esr : Nat
  esrCount : Nat
  esr0 : Option Nat
  /-- Records and complete records of the running hour, and of the last one. -/
  recs : Nat
  full : Nat
  hourRecs : Nat
  hourFull : Nat
  /-- Hourly history, oldest first: on-time, D, drift, ESR. -/
  history : List (Nat × Nat × Nat × Nat)
  flags : Nat
  gateFaults : Nat
  gateRise : Bool
  cycles : Nat
  driveId : Nat
  /-- The identifier that differs from the saved one, while the axis is paused. -/
  newId : Option Nat
  /-- On-time at AXIS_RESET. -/
  startNs : Nat
  level : Nat
  calm : Nat
  anomaly : Nat
  /-- Records seen by the feed. -/
  seen : Nat
  deriving DecidableEq, Repr

/-- The prognostics unit beside its registers. On-time is in ns. -/
structure Prog where
  axes : SMap Axis
  /-- The boot flash's copy, with its on-time. -/
  saved : SMap Axis
  savedNs : Nat
  onNs : Nat
  lastPass : Nat
  lastHour : Nat
  lastSave : Nat
  lastReplan : Nat
  /-- Feed entries since the last batch, oldest first; records dropped; batches landed; clock of the last batch. -/
  feed : List (List Byte)
  dropped : Nat
  batch : Nat
  lastFeed : Nat
  feedStopped : Bool
  /-- Dies that wait for a re-plan: 0 to 3, 4 the hub. -/
  replanDue : List Nat
  deriving DecidableEq, Repr

/-! ### Power (chapter 15) -/

/-- A regulator rail (R378, R379): last acknowledged level, and the running request with its sendings and the clock of the last, in
0.1 mV. -/
structure Rail where
  level : Nat
  request : Option (Nat × Nat × Nat)
  deriving DecidableEq, Repr

/-- A running transition: a POWER_STATE or a wake (R369, R374, R375). -/
structure Transition where
  /-- Consumption number of the POWER_STATE, while it has not completed. -/
  id : Option Nat
  wake : Bool
  retMask : Nat
  /-- Domains that have not reached their target, with it. -/
  goals : List (Nat × DomState)
  /-- Domains that are changing: target, former state, whether its goal is temporary (R364). -/
  moving : List (Nat × DomState × DomState × Bool)
  /-- Pod domains turned on for a self-refresh transition, with their former states (R364). -/
  temps : List (Nat × DomState)
  changed : Nat
  failed : Option Nat
  deriving DecidableEq, Repr

/-- The power unit beside its registers. -/
structure PowerUnit where
  trans : Option Transition
  /-- VCD0 to VCD3, VHUB. -/
  rails : List Rail
  /-- A command that takes MGMT and the attachment domain out of on has been consumed: no further descriptor is (R370). -/
  closing : Bool
  /-- ALARM has fired for the COMPARE that stands (R373). -/
  alarmed : Bool
  /-- PERST_N is asserted; WAKE_N is driven low (R376). -/
  perst : Bool
  wakeLow : Bool
  /-- Domains whose transition made pages unreachable and for which PWR event 0x0005 has been posted (R372). -/
  reported : List Nat
  /-- J3 was switched off for over-voltage (R484). -/
  overVolt : Bool
  /-- MRST_N is low, and holds the module (R467). -/
  mrstLow : Bool
  /-- A start waits for the hub to cool (R401). -/
  release : Bool
  /-- The level at the HOST_SEL input (R31). -/
  hostSel : Bool
  deriving DecidableEq, Repr

/-! ### Limiter (chapter 16) -/

/-- The limiter's state of a compute die (R383 to R403). -/
structure DieLim where
  /-- Running point, and the point to which a raise waits for its rail. -/
  op : Nat
  up : Option Nat
  /-- Thermal, hard thermal and balance ceilings; the hard rule holds its ceiling. -/
  thermal : Nat
  hard : Nat
  hardOn : Bool
  balance : Nat
  /-- Clock since when T_j has been below THROTTLE - 3 K, or of the last rise of the ceiling. -/
  coolFrom : Option Nat
  /-- Bid of the last decision; reason of the last downward step; clock from which throttled time has not been added. -/
  bid : Nat
  reason : Nat
  thrFrom : Nat
  /-- Clock stretching: since when, and its total in the window. -/
  stretchFrom : Option Nat
  stretchNs : Nat
  /-- Dealer idle: since when, and its total since the last decision. -/
  idleFrom : Option Nat
  idleNs : Nat
  /-- Samples in a row at or above 112 °C. -/
  hot : Nat
  deriving DecidableEq, Repr

/-- The limiter beside its registers. -/
structure Limiter where
  dies : List DieLim
  /-- Measurements in 0.1 W, newest first, at most 1,000. -/
  samples : List Nat
  /-- Throttled nanoseconds, by 8 * die + reason. -/
  thr : SMap Nat
  /-- Barrier waits and held times since the last decision, by 4 * stream + die, and the clocks at which running ones began. -/
  wait : SMap Nat
  arrived : SMap Nat
  held : SMap Nat
  heldFrom : SMap Nat
  hubHot : Nat
  hubTj : Int
  /-- Dies whose raised guard band has not been acknowledged (R358). -/
  raising : List Nat
  /-- Dies on which no point fits the failed rail (R385). -/
  noPoint : List Nat
  deriving DecidableEq, Repr


/-! ### Security (chapter 18) -/

/-- An open debug session (R450): level, scope, clock of its expiry. -/
structure DebugSession where
  level : Nat
  scope : Nat
  expiry : Nat
  deriving DecidableEq, Repr

/-- The fuses that change, and the security unit beside its registers (R441, R450, R451). -/
structure SecUnit where
  /-- 0 MANUFACTURE, 1 PROVISIONED, 2 DEPLOYED, 3 RETURN. -/
  lifecycle : Nat
  /-- OWNER_KEY_HASH by slot. -/
  ownerHash : SMap (List Byte)
  ownerRevoke : Nat
  ownerSecret : List Byte
  ownerCfg : Nat
  vendorRevoke : Nat
  /-- FW_EPOCH, 0 to 64. -/
  epoch : Nat
  /-- The nonce of the last challenge, with its clock. -/
  nonce : Option (List Byte × Nat)
  session : Option DebugSession
  /-- EXTEST is selected (R451). -/
  extest : Bool
  /-- The command that runs (SEC_CMD.BUSY), by its code (R444). -/
  cmd : Option Nat
  /-- Consecutive failed responses, and the lockout (R450). -/
  fails : Nat
  locked : Bool
  /-- What the next scan of the TAP's data register shifts out (R453). -/
  result : List Byte
  deriving DecidableEq, Repr

/-- A firmware slot (R457): 0 EMPTY, 1 WRITING, 2 READY, 3 TRIAL, 4 GOOD, 5 BAD. A `factory` slot holds the vendor's image, whose
header Config gives. -/
structure Slot where
  state : Nat
  factory : Bool
  deriving DecidableEq, Repr

/-- An update session (R458, R459): its slot, its header, bytes programmed. -/
structure UpdateSession where
  slot : Nat
  header : List Byte
  received : Nat
  deriving DecidableEq, Repr

/-- The newest boot record and the update unit beside its registers (R457 to R465). -/
structure UpdUnit where
  seq : Nat
  next : Nat
  pendingEpoch : Option Nat
  slots : List Slot
  runningSlot : Nat
  recovery : Bool
  session : Option UpdateSession
  /-- Clock at which the firmware of a TRIAL slot started. -/
  trialFrom : Option Nat
  hostOk : Bool
  /-- A commit in recovery has completed: a MODULE reset follows (R465). -/
  resetDue : Bool
  deriving DecidableEq, Repr

/-! ### Electrical (chapter 20) -/

/-- A sensor output beside PWR_SPWR_STATUS (R492, R493): the ILIM in force, the clock of the trip or back-feed after which it waits
to retry, the clock of its last retry, consecutive tripped retries. -/
structure SpwrOut where
  ilim : Nat
  offFrom : Option Nat
  retried : Option Nat
  consecutive : Nat
  deriving DecidableEq, Repr

/-- Sensor outputs; clocks at which joint-port transmitters switched off on TX_SHORT (R490). -/
structure ElecUnit where
  outs : SMap SpwrOut
  txOff : SMap Nat
  deriving DecidableEq, Repr

/-! ### The state -/

/-- Where the module stands between resets (R467, R473, R483). -/
inductive Phase where
  /-- J3 is off or locked out: no supply (R483). -/
  | unpowered
  /-- Held in a MODULE reset, or waiting at the Acorn step, until MRST_N rises (R467, R473). -/
  | held
  /-- Start-up by Table RST-3, before FW_READY. -/
  | starting
  /-- FW_READY is set. -/
  | running
  deriving DecidableEq, Repr

/-- The state of the module. -/
structure State where
  /-- Commands that wait, first in, first out (the model's own). -/
  pending : List Instr
  phase : Phase
  /-- Nanoseconds since COLD reset on the Acorn crystal (R253). -/
  clock : Nat
  /-- The time base N in nanoseconds, its fraction and its rate correction, in 2^-32 ns per tick (R240). -/
  timeN : Nat
  timeFrac : Nat
  rate : Int
  /-- Counter of free values (the model's own, log 3). -/
  freeCtr : Nat
  regs : SMap (BitVec 64)
  mem : List Host.Cell
  /-- Accumulator words by key, and rows that have saturated (R86, R117). -/
  acc : SMap (BitVec 40)
  accSat : List Nat
  /-- Checksum tolerance gathered by dropped planes, by accumulator key (R411). -/
  accTol : SMap Nat
  /-- Block exponents that CONVERT_IN gave, by the 64-byte line of memory that holds the block (R114, R115). -/
  blkExp : SMap Int
  tx : List Tx
  /-- The Acorn event log (R381). -/
  log : SMap (List Byte)
  host : HostIf
  jobs : SMap Job
  streams : SMap Stream
  dies : List Die
  /-- Die-link transfers on their way, oldest first (R19, R143). -/
  sends : List Send
  nextSend : Nat
  tiers : Tiers
  /-- Safe-state causes found in the running step and not yet acted on: job and code of Table SAF-4 (the model's own; every
  step that can raise one ends by acting on it, so the list is empty between steps). -/
  causes : List (Nat × Nat)
  /-- Domains 1 to 64, at index d - 1 (R361). -/
  domains : List DomState
  time : TimeUnit
  tables : Tables
  fus : Fusion
  plan : Planner
  cle : CleUnit
  safe : SafeUnit
  prog : Prog
  power : PowerUnit
  lim : Limiter
  sec : SecUnit
  upd : UpdUnit
  elec : ElecUnit
  deriving DecidableEq, Repr

/-- Reasons for which the block stops. -/
inductive Fault where
  /-- Raised by SURGE above the absolute maximum of J3 (R484): the module may be damaged for good, and the spec gives no
  effect. Safe: nothing is claimed about the module after it. -/
  | absoluteMaximum
  deriving DecidableEq, Repr

/-- Reasons for which a command has no meaning. -/
inductive Refusal where
  /-- Raised by a dispatch arm with no meaning yet. Safe: no state is claimed. -/
  | notModelled (mnemonic : String)
  deriving DecidableEq, Repr

/-- An idle compute die. -/
def Die.reset : Die :=
  { running := none, lastStream := none, lastDummy := false, cycles := 0, quantum := 0, rr := [256, 256, 256, 256], gang := none, exact := false, draw := 0
    threads := [], epochs := [], serial := 0, cache := [], halves := [], window := [], taps := [], shadowConv := [], tileConv := []
    shadowExp := [], tileExp := [], vpuIn := [], bankConv := [], bankSpan := []
    walker := none, parked := [], failedLinks := [] }

/-- The limiter's state of a die: at OP1 with no ceiling below OP8 (log 13). -/
def DieLim.reset : DieLim :=
  { op := 1, up := none, thermal := 8, hard := 8, hardOn := false, balance := 8, coolFrom := none, bid := 1, reason := 0, thrFrom := 0
    stretchFrom := none, stretchNs := 0, idleFrom := none, idleNs := 0, hot := 0 }

/-- The host interface after a reset (R39, R61, R470). -/
def HostIf.reset : HostIf :=
  { sqs := [], cqs := [], hold := [], consumed := [], decided := [], nextId := 0, push := [], nextMsg := 0, pushBase := 0, seq := 0
    msixTable := [], pba := 0, events := 0, owed := [], sampled := [], turn := (0, 0) }

/-- The memory tiers with nothing placed. -/
def Tiers.reset : Tiers :=
  { pages := [], frames := [], pool := [], copies := [], poison := [], tainted := [], retired := [], unread := [], back := []
    moves := [], requests := [], waiting := [], windows := [], nextId := 0, lastSweep := 0, ceHour := [], bad := [] }

def TimeUnit.reset : TimeUnit :=
  { gens := [], wide := 0, offset := 0, caps := [], qbv := [], pulses := [], loaded := false, stopped := none, gated := [] }

/-- The fusion engine with no table, no history and no track; the first track is number 1 (R284). -/
def Fusion.reset : Fusion :=
  { sensors := [], posts := [], kin := [], poses := [], next := none, start := 0, lastClose := none, skipped := false, drops := 0
    issue := none, recent := [], tracks := [], nextId := 1, lastRound := none, timing := 0, grid := 0 }

def Planner.reset : Planner := { cycle := none, queue := [], layers := [], trees := [], intake := none }

def CleUnit.reset : CleUnit :=
  { channels := [], drives := [], commits := [], nextCommit := 0, traj := { tStart := 0, dtUs := 0, samples := [] }, leaving := false
    snaps := [], snapDue := [] }

def SafeUnit.reset : SafeUnit := { stages := [], held := [], armed := false, faultLow := false, hubTrip := false }

def Prog.reset : Prog :=
  { axes := [], saved := [], savedNs := 0, onNs := 0, lastPass := 0, lastHour := 0, lastSave := 0, lastReplan := 0, feed := []
    dropped := 0, batch := 0, lastFeed := 0, feedStopped := false, replanDue := [] }

def PowerUnit.reset : PowerUnit :=
  { trans := none, rails := List.replicate 5 { level := 0, request := none }, closing := false, alarmed := true, perst := false
    wakeLow := false, reported := [], overVolt := false, mrstLow := false, release := false, hostSel := false }

def Limiter.reset : Limiter :=
  { dies := List.replicate 4 DieLim.reset, samples := [], thr := [], wait := [], arrived := [], held := [], heldFrom := []
    hubHot := 0, hubTj := 0, raising := [], noPoint := [] }

/-- Fuses of a module as the vendor ships it: PROVISIONED, no owner key, no rollback (log 14). -/
def SecUnit.reset : SecUnit :=
  { lifecycle := 1, ownerHash := [], ownerRevoke := 0, ownerSecret := List.replicate 32 0, ownerCfg := 0, vendorRevoke := 0
    epoch := 0, nonce := none, session := none, extest := false, cmd := none, fails := 0, locked := false, result := [] }

/-- A module as the vendor ships it boots slot A, GOOD, with slot B EMPTY (log 14). -/
def UpdUnit.reset : UpdUnit :=
  { seq := 0, next := 0, pendingEpoch := none, slots := [{ state := 4, factory := true }, { state := 0, factory := false }]
    runningSlot := 0, recovery := false, session := none, trialFrom := none, hostOk := false, resetDue := false }

/-- The module right after a COLD reset, at the Acorn step of Table RST-3: every switched domain off, every register at its COLD
value (an unlisted register instance holds it), no job, no table, empty rings, and an empty queue. FW_READY is still to come. HOST_SEL
is low, as an open pin is (R31), and PERST_N high (log 12). -/
def State.reset : State :=
  { pending := [], phase := .starting, clock := 0, timeN := 0, timeFrac := 0, rate := 0, freeCtr := 0, regs := [], mem := []
    acc := [], accSat := [], accTol := [], blkExp := [], tx := [], log := [], host := HostIf.reset, jobs := [], streams := []
    dies := List.replicate 4 Die.reset, sends := [], nextSend := 0, tiers := Tiers.reset, causes := []
    domains := List.replicate 64 .off, time := TimeUnit.reset, tables := { active := [], pending := [], waiting := [] }
    fus := Fusion.reset, plan := Planner.reset, cle := CleUnit.reset, safe := SafeUnit.reset, prog := Prog.reset
    power := PowerUnit.reset, lim := Limiter.reset, sec := SecUnit.reset, upd := UpdUnit.reset, elec := { outs := [], txOff := [] } }

end Sys2Proof.Machine
end

