-- ==== Sys2Proof/Machine/Ops.lean ====
section
/-!
DEFINITION. The named operations over plain data that every family uses: bit fields, byte order, sparse maps, memory,
registers' raw storage, outputs, free values and saturating counters.
-/
namespace Sys2Proof.Machine
open Sys2Proof

/-! ### Bit fields and byte order (R7) -/

/-- Bits `lo` to `lo + len - 1` of a natural number. -/
def bitsAt (x lo len : Nat) : Nat := (x >>> lo) % 2 ^ len

/-- Bits of a bit vector as a number. -/
def fld {w : Nat} (x : BitVec w) (lo len : Nat) : Nat := bitsAt x.toNat lo len

/-- One bit of a bit vector. -/
def flag {w : Nat} (x : BitVec w) (i : Nat) : Bool := bitsAt x.toNat i 1 == 1

/-- `x` with bits `lo` to `lo + len - 1` replaced by `v`, cut to that width. -/
def putBits (x lo len v : Nat) : Nat :=
  x % 2 ^ lo + (v % 2 ^ len) * 2 ^ lo + (x >>> (lo + len)) * 2 ^ (lo + len)

/-- A field read as a two's-complement number of `len` bits. -/
def sext (len v : Nat) : Int := if 2 * (v % 2 ^ len) < 2 ^ len then (v % 2 ^ len : Nat) else (v % 2 ^ len : Nat) - 2 ^ len

/-- A number as a two's-complement field of `len` bits. -/
def toField (len : Nat) (v : Int) : Nat := (v % (2 ^ len : Nat)).toNat

/-- The number that little-endian bytes spell (R7). -/
def leNat : List Byte → Nat
  | [] => 0
  | b :: bs => b.toNat + 256 * leNat bs

/-- `n` little-endian bytes of a number (R7). -/
def natLe : Nat → Nat → List Byte
  | 0, _ => []
  | n + 1, v => BitVec.ofNat 8 v :: natLe n (v / 256)

/-- The `n`-byte little-endian field at byte `off`; bytes past the end read as 0. -/
def rdLE (bs : List Byte) (off n : Nat) : Nat := leNat ((bs.drop off).take n)

/-- Byte `i` of a list, 0 past the end. -/
def byteAt (bs : List Byte) (i : Nat) : Byte := bs.getD i 0

/-- A list cut or padded with zeros to `n` bytes. -/
def fitBytes (n : Nat) (bs : List Byte) : List Byte := bs.take n ++ List.replicate (n - bs.length) 0

/-- The list cut into runs of `n` (for `n` not 0), at most `k` of them. -/
def chunksOf {α : Type} (n : Nat) : Nat → List α → List (List α)
  | 0, _ => []
  | _, [] => []
  | k + 1, x :: xs => (x :: xs).take n :: chunksOf n k ((x :: xs).drop n)

/-- Addition that stops at a maximum (the saturating counters of the register tables). -/
def satAdd (len a b : Nat) : Nat := min (a + b) (2 ^ len - 1)

/-- Clamp of an integer to a closed range. -/
def clampInt (lo hi x : Int) : Int := max lo (min hi x)

/-- Ceiling division, 0 for a divisor of 0. -/
def ceilDiv (a b : Nat) : Nat := (a + b - 1) / b

/-- Distance from `a` forward to `b` modulo 2^32 (R37). -/
def dist32 (a b : BitVec 32) : Nat := (b - a).toNat

/-! ### Sparse maps -/

/-- The entry of a key. -/
def mapGet {α : Type} : SMap α → Nat → Option α
  | [], _ => none
  | (k, v) :: m, i => if i = k then some v else mapGet m i

/-- The map with a key set; keys stay strictly rising. -/
def mapSet {α : Type} : SMap α → Nat → α → SMap α
  | [], i, x => [(i, x)]
  | (k, v) :: m, i, x =>
    if i < k then (i, x) :: (k, v) :: m
    else if i = k then (i, x) :: m
    else (k, v) :: mapSet m i x

/-- The map without a key. -/
def mapErase {α : Type} : SMap α → Nat → SMap α
  | [], _ => []
  | (k, v) :: m, i => if i = k then m else (k, v) :: mapErase m i

/-- The map with a key's entry changed, where it has one. -/
def mapAdjust {α : Type} (m : SMap α) (i : Nat) (f : α → α) : SMap α :=
  match mapGet m i with
  | some x => mapSet m i (f x)
  | none => m

/-- Keys in strictly rising order. -/
def mapWf {α : Type} : SMap α → Bool
  | [] => true
  | [_] => true
  | (a, _) :: (b, y) :: m => decide (a < b) && mapWf ((b, y) :: m)

/-- Replace element `i` of a list. -/
def listSet {α : Type} (l : List α) (i : Nat) (x : α) : List α := l.set i x

/-- Change element `i` of a list. -/
def listAdjust {α : Type} (l : List α) (i : Nat) (f : α → α) : List α := l.modify i f

/-- Change every element that meets a test. -/
def listUpdate {α : Type} (l : List α) (p : α → Bool) (f : α → α) : List α := l.map fun x => if p x then f x else x

/-! ### Memory: one canonical list of cells (R146, R149) -/

/-- The byte at an address; an unlisted address reads 0 (DESIGN CHOICE, log 4). -/
def memByte : List Host.Cell → Nat → Byte
  | [], _ => 0
  | (k, v) :: m, a => if a = k then v else memByte m a

/-- One byte written. Writing 0 removes the cell, so equal memories are equal lists. -/
def memPut : List Host.Cell → Nat → Byte → List Host.Cell
  | [], a, b => if b = 0 then [] else [(a, b)]
  | (k, v) :: m, a, b =>
    if a < k then (if b = 0 then (k, v) :: m else (a, b) :: (k, v) :: m)
    else if a = k then (if b = 0 then m else (a, b) :: m)
    else (k, v) :: memPut m a b

/-- The canonical form: addresses strictly rising, no zero byte listed. -/
def Memory.wf : List Host.Cell → Bool
  | [] => true
  | [(_, b)] => decide (b ≠ 0)
  | (a, b) :: (a', b') :: m => decide (b ≠ 0) && decide (a < a') && Memory.wf ((a', b') :: m)

/-- Bytes written at rising addresses. -/
def memWrite (m : List Host.Cell) : Nat → List Byte → List Host.Cell
  | _, [] => m
  | a, b :: bs => memWrite (memPut m a b) (a + 1) bs

/-- `n` bytes read at rising addresses. -/
def memRead (m : List Host.Cell) (a : Nat) : Nat → List Byte
  | 0 => []
  | n + 1 => memByte m a :: memRead m (a + 1) n

/-- Every cell of an address range removed, which zeroes it. -/
def memZero (m : List Host.Cell) (a n : Nat) : List Host.Cell := m.filter fun c => !(decide (a ≤ c.1) && decide (c.1 < a + n))

/-- Every cell of an address range replaced at once; byte `i` of the range becomes `f i`. -/
def memRefill (m : List Host.Cell) (a n : Nat) (f : Nat → Byte) : List Host.Cell :=
  m.filter (fun c => decide (c.1 < a))
    ++ ((List.range n).filterMap fun i => if f i = 0 then none else some (a + i, f i))
    ++ m.filter fun c => decide (a + n ≤ c.1)

/-- Bytes of the state's memory. -/
def rdMem (s : State) (a n : Nat) : List Byte := memRead s.mem a n

/-- Bytes stored in the state's memory. -/
def wrMem (a : Nat) (bs : List Byte) (s : State) : State := { s with mem := memWrite s.mem a bs }

/-- A range of the state's memory zeroed. -/
def zeroMem (a n : Nat) (s : State) : State := { s with mem := memZero s.mem a n }

/-! ### Outputs, free values -/

/-- Something sent outside, after everything sent before it. -/
def emit (t : Tx) (s : State) : State := { s with tx := s.tx ++ [t] }

/-- The next free value of a place: an unconstrained number (log 3). -/
def freeNat (place : Nat) (s : State) : Nat × State :=
  (Config.free place s.freeCtr, { s with freeCtr := s.freeCtr + 1 })

/-- `n` free bytes of a place. -/
def freeBytes (place n : Nat) (s : State) : List Byte × State :=
  ((List.range n).map fun i => Config.freeByte place s.freeCtr i, { s with freeCtr := s.freeCtr + 1 })

/-- A step taken only where a condition holds; otherwise nothing changes. -/
def onlyIf (c : Bool) (f : State → State) (s : State) : State := if c then f s else s

/-- Fold of a state change over a list. -/
def forEach {α : Type} (l : List α) (f : α → State → State) (s : State) : State := l.foldl (fun s x => f x s) s

/-- The module is past FW_READY and runs (R473). -/
def running (s : State) : Bool := s.phase == .running

/-! ### Raw registers -/

/-- Key of a register instance in `regs`: the slot number and the instance index. -/
def regKey (off index : Nat) : Nat := off / 8 * 8192 + index

end Sys2Proof.Machine
end

