-- ==== Sys2Proof/Machine/RegDefs.lean ====
section
/-!
DEFINITION. The fields of every BAR0 register: place, access code and reset columns, as the register tables of the
chapters give them (R10, R11, R501). Negative reset values stand in two's complement.
-/
namespace Sys2Proof.Machine

/-! ### Fields -/
namespace Fld

/-- ID_PRODUCT.PRODUCT, bits 31:0, RO (21_setup_registers.md). -/
def idProductProduct : Field := ⟨.idProduct, 0, 32, .ro, (.val 2628), (.val 2628), (.val 2628), (.val 2628)⟩
/-- ID_PRODUCT.GENERATION, bits 35:32, RO (21_setup_registers.md). -/
def idProductGeneration : Field := ⟨.idProduct, 32, 4, .ro, (.val 4), (.val 4), (.val 4), (.val 4)⟩
/-- ID_PRODUCT.GRADE, bits 37:36, RO (21_setup_registers.md). -/
def idProductGrade : Field := ⟨.idProduct, 36, 2, .ro, .src, .src, .keep, .keep⟩
/-- ID_PRODUCT.STEPPING, bits 47:40, RO (21_setup_registers.md). -/
def idProductStepping : Field := ⟨.idProduct, 40, 8, .ro, .src, .src, .keep, .keep⟩
/-- ID_PCI.VENDOR, bits 15:0, RO (21_setup_registers.md). -/
def idPciVendor : Field := ⟨.idPci, 0, 16, .ro, (.val 21369), (.val 21369), (.val 21369), (.val 21369)⟩
/-- ID_PCI.DEVICE, bits 31:16, RO (21_setup_registers.md). -/
def idPciDevice : Field := ⟨.idPci, 16, 16, .ro, (.val 2628), (.val 2628), (.val 2628), (.val 2628)⟩
/-- ID_PCI.SUB_VENDOR, bits 47:32, RO (21_setup_registers.md). -/
def idPciSubVendor : Field := ⟨.idPci, 32, 16, .ro, (.val 21369), (.val 21369), (.val 21369), (.val 21369)⟩
/-- ID_PCI.SUBSYSTEM, bits 63:48, RO (21_setup_registers.md). -/
def idPciSubsystem : Field := ⟨.idPci, 48, 16, .ro, .src, .src, .keep, .keep⟩
/-- ID_IDCODE.ONE, bits 0:0, RO (21_setup_registers.md). -/
def idIdcodeOne : Field := ⟨.idIdcode, 0, 1, .ro, (.val 1), (.val 1), (.val 1), (.val 1)⟩
/-- ID_IDCODE.MANUFACTURER, bits 11:1, RO (21_setup_registers.md). -/
def idIdcodeManufacturer : Field := ⟨.idIdcode, 1, 11, .ro, .src, .src, .keep, .keep⟩
/-- ID_IDCODE.PART, bits 27:12, RO (21_setup_registers.md). -/
def idIdcodePart : Field := ⟨.idIdcode, 12, 16, .ro, (.val 2628), (.val 2628), (.val 2628), (.val 2628)⟩
/-- ID_IDCODE.VERSION, bits 31:28, RO (21_setup_registers.md). -/
def idIdcodeVersion : Field := ⟨.idIdcode, 28, 4, .ro, .src, .src, .keep, .keep⟩
/-- ID_CAP0.SQ_RINGS, bits 15:0, RO (21_setup_registers.md). -/
def idCap0SqRings : Field := ⟨.idCap0, 0, 16, .ro, (.val 4096), (.val 4096), (.val 4096), (.val 4096)⟩
/-- ID_CAP0.CQ_RINGS, bits 24:16, RO (21_setup_registers.md). -/
def idCap0CqRings : Field := ⟨.idCap0, 16, 9, .ro, (.val 256), (.val 256), (.val 256), (.val 256)⟩
/-- ID_CAP0.MSIX, bits 31:25, RO (21_setup_registers.md). -/
def idCap0Msix : Field := ⟨.idCap0, 25, 7, .ro, (.val 64), (.val 64), (.val 64), (.val 64)⟩
/-- ID_CAP0.JOBS, bits 39:32, RO (21_setup_registers.md). -/
def idCap0Jobs : Field := ⟨.idCap0, 32, 8, .ro, (.val 32), (.val 32), (.val 32), (.val 32)⟩
/-- ID_CAP0.STREAMS, bits 48:40, RO (21_setup_registers.md). -/
def idCap0Streams : Field := ⟨.idCap0, 40, 9, .ro, (.val 256), (.val 256), (.val 256), (.val 256)⟩
/-- ID_CAP0.DOMAINS, bits 55:49, RO (21_setup_registers.md). -/
def idCap0Domains : Field := ⟨.idCap0, 49, 7, .ro, (.val 64), (.val 64), (.val 64), (.val 64)⟩
/-- ID_CAP1.CLE_CHANNELS, bits 7:0, RO (21_setup_registers.md). -/
def idCap1CleChannels : Field := ⟨.idCap1, 0, 8, .ro, (.val 64), (.val 64), (.val 64), (.val 64)⟩
/-- ID_CAP1.JOINT_PORTS, bits 15:8, RO (21_setup_registers.md). -/
def idCap1JointPorts : Field := ⟨.idCap1, 8, 8, .ro, (.val 24), (.val 24), (.val 24), (.val 24)⟩
/-- ID_CAP1.MACS, bits 19:16, RO (21_setup_registers.md). -/
def idCap1Macs : Field := ⟨.idCap1, 16, 4, .ro, (.val 4), (.val 4), (.val 4), (.val 4)⟩
/-- ID_CAP1.CSI_PORTS, bits 23:20, RO (21_setup_registers.md). -/
def idCap1CsiPorts : Field := ⟨.idCap1, 20, 4, .ro, (.val 8), (.val 8), (.val 8), (.val 8)⟩
/-- ID_CAP1.SPI_MASTERS, bits 27:24, RO (21_setup_registers.md). -/
def idCap1SpiMasters : Field := ⟨.idCap1, 24, 4, .ro, (.val 4), (.val 4), (.val 4), (.val 4)⟩
/-- ID_CAP1.TRIG_OUT, bits 31:28, RO (21_setup_registers.md). -/
def idCap1TrigOut : Field := ⟨.idCap1, 28, 4, .ro, (.val 8), (.val 8), (.val 8), (.val 8)⟩
/-- ID_CAP1.CAP_IN, bits 35:32, RO (21_setup_registers.md). -/
def idCap1CapIn : Field := ⟨.idCap1, 32, 4, .ro, (.val 8), (.val 8), (.val 8), (.val 8)⟩
/-- ID_CAP1.SPWR, bits 39:36, RO (21_setup_registers.md). -/
def idCap1Spwr : Field := ⟨.idCap1, 36, 4, .ro, (.val 8), (.val 8), (.val 8), (.val 8)⟩
/-- ID_CAP1.GENERATORS, bits 46:40, RO (21_setup_registers.md). -/
def idCap1Generators : Field := ⟨.idCap1, 40, 7, .ro, (.val 64), (.val 64), (.val 64), (.val 64)⟩
/-- ID_CAP1.STAGES, bits 53:47, RO (21_setup_registers.md). -/
def idCap1Stages : Field := ⟨.idCap1, 47, 7, .ro, (.val 64), (.val 64), (.val 64), (.val 64)⟩
/-- ID_ACCESS.OFF_READ, bits 0:0, W1C (21_setup_registers.md). -/
def idAccessOffRead : Field := ⟨.idAccess, 0, 1, .w1c, (.val 0), (.val 0), .keep, .keep⟩
/-- ID_ACCESS.OFF_WRITE, bits 1:1, W1C (21_setup_registers.md). -/
def idAccessOffWrite : Field := ⟨.idAccess, 1, 1, .w1c, (.val 0), (.val 0), .keep, .keep⟩
/-- ID_ACCESS.UNASSIGNED, bits 2:2, W1C (21_setup_registers.md). -/
def idAccessUnassigned : Field := ⟨.idAccess, 2, 1, .w1c, (.val 0), (.val 0), .keep, .keep⟩
/-- ID_ACCESS.SIZE, bits 3:3, W1C (21_setup_registers.md). -/
def idAccessSize : Field := ⟨.idAccess, 3, 1, .w1c, (.val 0), (.val 0), .keep, .keep⟩
/-- ID_ACCESS.BLOCK, bits 11:8, RO (21_setup_registers.md). -/
def idAccessBlock : Field := ⟨.idAccess, 8, 4, .ro, (.val 0), (.val 0), .keep, .keep⟩
/-- ID_ACCESS.OFFSET, bits 31:16, RO (21_setup_registers.md). -/
def idAccessOffset : Field := ⟨.idAccess, 16, 16, .ro, (.val 0), (.val 0), .keep, .keep⟩
/-- ID_ACCESS.COUNT, bits 63:32, RO (21_setup_registers.md). -/
def idAccessCount : Field := ⟨.idAccess, 32, 32, .ro, (.val 0), (.val 0), .keep, .keep⟩
/-- ID_SCRATCH.VALUE, bits 63:0, RW (21_setup_registers.md). -/
def idScratchValue : Field := ⟨.idScratch, 0, 64, .rw, (.val 0), (.val 0), .keep, .keep⟩
/-- HOST_CTRL.ATTACH, bits 0:0, RO (02_host_attachment.md). -/
def hostCtrlAttach : Field := ⟨.hostCtrl, 0, 1, .ro, .src, .src, .keep, .keep⟩
/-- HOST_CTRL.LINK_UP, bits 1:1, RO (02_host_attachment.md). -/
def hostCtrlLinkUp : Field := ⟨.hostCtrl, 1, 1, .ro, (.val 0), (.val 0), (.val 0), .keep⟩
/-- HOST_CTRL.CQ_TIMEOUT, bits 25:16, RW (02_host_attachment.md). -/
def hostCtrlCqTimeout : Field := ⟨.hostCtrl, 16, 10, .rw, (.val 10), (.val 10), (.val 10), .keep⟩
/-- HOST_ERR_STATUS.DOORBELL, bits 0:0, W1C (02_host_attachment.md). -/
def hostErrStatusDoorbell : Field := ⟨.hostErrStatus, 0, 1, .w1c, (.val 0), (.val 0), .keep, .keep⟩
/-- HOST_ERR_STATUS.DESC_FETCH, bits 1:1, W1C (02_host_attachment.md). -/
def hostErrStatusDescFetch : Field := ⟨.hostErrStatus, 1, 1, .w1c, (.val 0), (.val 0), .keep, .keep⟩
/-- HOST_ERR_STATUS.CQ_STALL, bits 2:2, W1C (02_host_attachment.md). -/
def hostErrStatusCqStall : Field := ⟨.hostErrStatus, 2, 1, .w1c, (.val 0), (.val 0), .keep, .keep⟩
/-- HOST_ERR_STATUS.CFG, bits 3:3, W1C (02_host_attachment.md). -/
def hostErrStatusCfg : Field := ⟨.hostErrStatus, 3, 1, .w1c, (.val 0), (.val 0), .keep, .keep⟩
/-- HOST_ERR_STATUS.PUSH, bits 4:4, W1C (02_host_attachment.md). -/
def hostErrStatusPush : Field := ⟨.hostErrStatus, 4, 1, .w1c, (.val 0), (.val 0), .keep, .keep⟩
/-- HOST_ERR_STATUS.CQ_LOST, bits 5:5, W1C (02_host_attachment.md). -/
def hostErrStatusCqLost : Field := ⟨.hostErrStatus, 5, 1, .w1c, (.val 0), (.val 0), .keep, .keep⟩
/-- HOST_ERR_STATUS.DMA, bits 6:6, W1C (02_host_attachment.md). -/
def hostErrStatusDma : Field := ⟨.hostErrStatus, 6, 1, .w1c, (.val 0), (.val 0), .keep, .keep⟩
/-- HOST_RING_SEL.INDEX, bits 11:0, RW (02_host_attachment.md). -/
def hostRingSelIndex : Field := ⟨.hostRingSel, 0, 12, .rw, (.val 0), (.val 0), (.val 0), .keep⟩
/-- HOST_RING_SEL.KIND, bits 16:16, RW (02_host_attachment.md). -/
def hostRingSelKind : Field := ⟨.hostRingSel, 16, 1, .rw, (.val 0), (.val 0), (.val 0), .keep⟩
/-- HOST_RING_BASE.BASE, bits 63:12, RW (02_host_attachment.md). -/
def hostRingBaseBase : Field := ⟨.hostRingBase, 12, 52, .rw, (.val 0), (.val 0), (.val 0), .keep⟩
/-- HOST_RING_CFG.ENABLE, bits 0:0, RW (02_host_attachment.md). -/
def hostRingCfgEnable : Field := ⟨.hostRingCfg, 0, 1, .rw, (.val 0), (.val 0), (.val 0), .keep⟩
/-- HOST_RING_CFG.STATE, bits 2:1, RO (02_host_attachment.md). -/
def hostRingCfgState : Field := ⟨.hostRingCfg, 1, 2, .ro, (.val 0), (.val 0), (.val 0), .keep⟩
/-- HOST_RING_CFG.DEPTH_LOG2, bits 12:8, RW (02_host_attachment.md). -/
def hostRingCfgDepthLog2 : Field := ⟨.hostRingCfg, 8, 5, .rw, (.val 4), (.val 4), (.val 4), .keep⟩
/-- HOST_RING_CFG.CQ, bits 23:16, RW (02_host_attachment.md). -/
def hostRingCfgCq : Field := ⟨.hostRingCfg, 16, 8, .rw, (.val 0), (.val 0), (.val 0), .keep⟩
/-- HOST_RING_CFG.VECTOR, bits 29:24, RW (02_host_attachment.md). -/
def hostRingCfgVector : Field := ⟨.hostRingCfg, 24, 6, .rw, (.val 0), (.val 0), (.val 0), .keep⟩
/-- HOST_RING_CFG.COAL_COUNT, bits 39:32, RW (02_host_attachment.md). -/
def hostRingCfgCoalCount : Field := ⟨.hostRingCfg, 32, 8, .rw, (.val 0), (.val 0), (.val 0), .keep⟩
/-- HOST_RING_CFG.COAL_TIME, bits 55:40, RW (02_host_attachment.md). -/
def hostRingCfgCoalTime : Field := ⟨.hostRingCfg, 40, 16, .rw, (.val 0), (.val 0), (.val 0), .keep⟩
/-- HOST_LOST_CPL.COUNT, bits 31:0, RO (02_host_attachment.md). -/
def hostLostCplCount : Field := ⟨.hostLostCpl, 0, 32, .ro, (.val 0), (.val 0), .keep, .keep⟩
/-- DLR_TRICK_CFG.LIMIT, bits 15:0, RO (03_jobs_streams_dealer.md). -/
def dlrTrickCfgLimit : Field := ⟨.dlrTrickCfg, 0, 16, .ro, (.val 32768), (.val 32768), (.val 32768), (.val 32768)⟩
/-- DLR_TRICK_CFG.SWITCH_US, bits 23:16, RO (03_jobs_streams_dealer.md). -/
def dlrTrickCfgSwitchUs : Field := ⟨.dlrTrickCfg, 16, 8, .ro, (.val 2), (.val 2), (.val 2), (.val 2)⟩
/-- DLR_CLASS_CFG.PERC_QUANTUM, bits 3:0, RW (03_jobs_streams_dealer.md). -/
def dlrClassCfgPercQuantum : Field := ⟨.dlrClassCfg, 0, 4, .rw, (.val 8), (.val 8), .keep, .keep⟩
/-- DLR_CLASS_CFG.DELIB_QUANTUM, bits 7:4, RW (03_jobs_streams_dealer.md). -/
def dlrClassCfgDelibQuantum : Field := ⟨.dlrClassCfg, 4, 4, .rw, (.val 4), (.val 4), .keep, .keep⟩
/-- DLR_CLASS_CFG.BACK_QUANTUM, bits 11:8, RW (03_jobs_streams_dealer.md). -/
def dlrClassCfgBackQuantum : Field := ⟨.dlrClassCfg, 8, 4, .rw, (.val 2), (.val 2), .keep, .keep⟩
/-- DLR_CLASS_CFG.DELIB_AGE, bits 23:16, RW (03_jobs_streams_dealer.md). -/
def dlrClassCfgDelibAge : Field := ⟨.dlrClassCfg, 16, 8, .rw, (.val 20), (.val 20), .keep, .keep⟩
/-- DLR_CLASS_CFG.BACK_AGE, bits 31:24, RW (03_jobs_streams_dealer.md). -/
def dlrClassCfgBackAge : Field := ⟨.dlrClassCfg, 24, 8, .rw, (.val 100), (.val 100), .keep, .keep⟩
/-- DLR_STATS.TRIGGER_MISS, bits 31:0, RO (03_jobs_streams_dealer.md). -/
def dlrStatsTriggerMiss : Field := ⟨.dlrStats, 0, 32, .ro, (.val 0), (.val 0), .keep, .keep⟩
/-- DLR_STATS.OVERRUN, bits 63:32, RO (03_jobs_streams_dealer.md). -/
def dlrStatsOverrun : Field := ⟨.dlrStats, 32, 32, .ro, (.val 0), (.val 0), .keep, .keep⟩
/-- DLR_STREAM_SEL.STREAM, bits 7:0, RW (03_jobs_streams_dealer.md). -/
def dlrStreamSelStream : Field := ⟨.dlrStreamSel, 0, 8, .rw, (.val 0), (.val 0), .keep, .keep⟩
/-- DLR_STREAM_INFO.VALID, bits 0:0, RO (03_jobs_streams_dealer.md). -/
def dlrStreamInfoValid : Field := ⟨.dlrStreamInfo, 0, 1, .ro, (.val 0), (.val 0), .keep, .keep⟩
/-- DLR_STREAM_INFO.JOB, bits 5:1, RO (03_jobs_streams_dealer.md). -/
def dlrStreamInfoJob : Field := ⟨.dlrStreamInfo, 1, 5, .ro, (.val 0), (.val 0), .keep, .keep⟩
/-- DLR_STREAM_INFO.CLASS, bits 7:6, RO (03_jobs_streams_dealer.md). -/
def dlrStreamInfoClass : Field := ⟨.dlrStreamInfo, 6, 2, .ro, (.val 0), (.val 0), .keep, .keep⟩
/-- DLR_STREAM_INFO.DIES, bits 11:8, RO (03_jobs_streams_dealer.md). -/
def dlrStreamInfoDies : Field := ⟨.dlrStreamInfo, 8, 4, .ro, (.val 0), (.val 0), .keep, .keep⟩
/-- DLR_STREAM_INFO.SQ, bits 27:16, RO (03_jobs_streams_dealer.md). -/
def dlrStreamInfoSq : Field := ⟨.dlrStreamInfo, 16, 12, .ro, (.val 0), (.val 0), .keep, .keep⟩
/-- DLR_STREAM_INFO.BOUND_US, bits 47:32, RO (03_jobs_streams_dealer.md). -/
def dlrStreamInfoBoundUs : Field := ⟨.dlrStreamInfo, 32, 16, .ro, (.val 0), (.val 0), .keep, .keep⟩
/-- FAB_CAP.CORES, bits 7:0, RO (04_fabric_arithmetic.md). -/
def fabCapCores : Field := ⟨.fabCap, 0, 8, .ro, (.val 48), (.val 48), (.val 48), (.val 48)⟩
/-- FAB_CAP.ARRAYS, bits 11:8, RO (04_fabric_arithmetic.md). -/
def fabCapArrays : Field := ⟨.fabCap, 8, 4, .ro, (.val 4), (.val 4), (.val 4), (.val 4)⟩
/-- FAB_CAP.LANES, bits 23:16, RO (04_fabric_arithmetic.md). -/
def fabCapLanes : Field := ⟨.fabCap, 16, 8, .ro, (.val 16), (.val 16), (.val 16), (.val 16)⟩
/-- FAB_CAP.CELLS, bits 31:24, RO (04_fabric_arithmetic.md). -/
def fabCapCells : Field := ⟨.fabCap, 24, 8, .ro, (.val 64), (.val 64), (.val 64), (.val 64)⟩
/-- FAB_CAP.MAX_PLANES, bits 36:32, RO (04_fabric_arithmetic.md). -/
def fabCapMaxPlanes : Field := ⟨.fabCap, 32, 5, .ro, (.val 16), (.val 16), (.val 16), (.val 16)⟩
/-- FAB_CAP.ACC_BITS, bits 47:40, RO (04_fabric_arithmetic.md). -/
def fabCapAccBits : Field := ⟨.fabCap, 40, 8, .ro, (.val 40), (.val 40), (.val 40), (.val 40)⟩
/-- FAB_CAP.DIES, bits 51:48, RO (04_fabric_arithmetic.md). -/
def fabCapDies : Field := ⟨.fabCap, 48, 4, .ro, (.val 4), (.val 4), (.val 4), (.val 4)⟩
/-- FAB_DIE_SEL.DIE, bits 1:0, RW (04_fabric_arithmetic.md). -/
def fabDieSelDie : Field := ⟨.fabDieSel, 0, 2, .rw, (.val 0), (.val 0), .keep, .keep⟩
/-- FAB_DIE_STATUS.OP, bits 3:0, RO (04_fabric_arithmetic.md). -/
def fabDieStatusOp : Field := ⟨.fabDieStatus, 0, 4, .ro, (.val 0), (.val 0), .keep, .keep⟩
/-- FAB_DIE_STATUS.READY, bits 4:4, RO (04_fabric_arithmetic.md). -/
def fabDieStatusReady : Field := ⟨.fabDieStatus, 4, 1, .ro, (.val 0), (.val 0), .keep, .keep⟩
/-- FAB_DIE_STATUS.EPOCH_OPEN, bits 5:5, RO (04_fabric_arithmetic.md). -/
def fabDieStatusEpochOpen : Field := ⟨.fabDieStatus, 5, 1, .ro, (.val 0), (.val 0), .keep, .keep⟩
/-- FAB_DIE_STATUS.EXACT, bits 6:6, RO (04_fabric_arithmetic.md). -/
def fabDieStatusExact : Field := ⟨.fabDieStatus, 6, 1, .ro, (.val 0), (.val 0), .keep, .keep⟩
/-- FAB_DIE_STATUS.STREAM, bits 15:8, RO (04_fabric_arithmetic.md). -/
def fabDieStatusStream : Field := ⟨.fabDieStatus, 8, 8, .ro, (.val 0), (.val 0), .keep, .keep⟩
/-- FAB_ERR_STATUS.T0_CE, bits 0:0, W1C (04_fabric_arithmetic.md). -/
def fabErrStatusT0Ce : Field := ⟨.fabErrStatus, 0, 1, .w1c, (.val 0), (.val 0), .keep, .keep⟩
/-- FAB_ERR_STATUS.T0_UE, bits 1:1, W1C (04_fabric_arithmetic.md). -/
def fabErrStatusT0Ue : Field := ⟨.fabErrStatus, 1, 1, .w1c, (.val 0), (.val 0), .keep, .keep⟩
/-- FAB_ERR_STATUS.ACC_PARITY, bits 2:2, W1C (04_fabric_arithmetic.md). -/
def fabErrStatusAccParity : Field := ⟨.fabErrStatus, 2, 1, .w1c, (.val 0), (.val 0), .keep, .keep⟩
/-- FAB_ERR_STATUS.ACC_SAT, bits 3:3, W1C (04_fabric_arithmetic.md). -/
def fabErrStatusAccSat : Field := ⟨.fabErrStatus, 3, 1, .w1c, (.val 0), (.val 0), .keep, .keep⟩
/-- FAB_ERR_STATUS.LINK_REPLAY, bits 4:4, W1C (04_fabric_arithmetic.md). -/
def fabErrStatusLinkReplay : Field := ⟨.fabErrStatus, 4, 1, .w1c, (.val 0), (.val 0), .keep, .keep⟩
/-- FAB_ERR_STATUS.LINK_FAIL, bits 5:5, W1C (04_fabric_arithmetic.md). -/
def fabErrStatusLinkFail : Field := ⟨.fabErrStatus, 5, 1, .w1c, (.val 0), (.val 0), .keep, .keep⟩
/-- FAB_CE_COUNT.T0_CE, bits 15:0, RO (04_fabric_arithmetic.md). -/
def fabCeCountT0Ce : Field := ⟨.fabCeCount, 0, 16, .ro, (.val 0), (.val 0), .keep, .keep⟩
/-- FAB_CE_COUNT.LINK_REPLAY, bits 31:16, RO (04_fabric_arithmetic.md). -/
def fabCeCountLinkReplay : Field := ⟨.fabCeCount, 16, 16, .ro, (.val 0), (.val 0), .keep, .keep⟩
/-- FAB_CE_COUNT.UNDERFLOW, bits 47:32, RO (04_fabric_arithmetic.md). -/
def fabCeCountUnderflow : Field := ⟨.fabCeCount, 32, 16, .ro, (.val 0), (.val 0), .keep, .keep⟩
/-- FAB_CE_COUNT.NAN, bits 63:48, RO (04_fabric_arithmetic.md). -/
def fabCeCountNan : Field := ⟨.fabCeCount, 48, 16, .ro, (.val 0), (.val 0), .keep, .keep⟩
/-- FAB_LINK_STATUS.NEXT_UP, bits 0:0, RO (04_fabric_arithmetic.md). -/
def fabLinkStatusNextUp : Field := ⟨.fabLinkStatus, 0, 1, .ro, (.val 0), (.val 0), .keep, .keep⟩
/-- FAB_LINK_STATUS.PREV_UP, bits 1:1, RO (04_fabric_arithmetic.md). -/
def fabLinkStatusPrevUp : Field := ⟨.fabLinkStatus, 1, 1, .ro, (.val 0), (.val 0), .keep, .keep⟩
/-- FAB_LINK_STATUS.HUB_UP, bits 2:2, RO (04_fabric_arithmetic.md). -/
def fabLinkStatusHubUp : Field := ⟨.fabLinkStatus, 2, 1, .ro, (.val 0), (.val 0), .keep, .keep⟩
/-- FAB_SEQ_STATUS.ISSUE, bits 19:0, RO (05_sequence_stream.md). -/
def fabSeqStatusIssue : Field := ⟨.fabSeqStatus, 0, 20, .ro, (.val 0), (.val 0), .keep, .keep⟩
/-- FAB_SEQ_STATUS.GATE_STALL, bits 24:24, RO (05_sequence_stream.md). -/
def fabSeqStatusGateStall : Field := ⟨.fabSeqStatus, 24, 1, .ro, (.val 0), (.val 0), .keep, .keep⟩
/-- FAB_SEQ_STATUS.BARRIER_STALL, bits 25:25, RO (05_sequence_stream.md). -/
def fabSeqStatusBarrierStall : Field := ⟨.fabSeqStatus, 25, 1, .ro, (.val 0), (.val 0), .keep, .keep⟩
/-- FAB_SEQ_STATUS.TOKEN_OVF, bits 26:26, W1C (05_sequence_stream.md). -/
def fabSeqStatusTokenOvf : Field := ⟨.fabSeqStatus, 26, 1, .w1c, (.val 0), (.val 0), .keep, .keep⟩
/-- FAB_SEQ_STATUS.THREADS_BUSY, bits 43:32, RO (05_sequence_stream.md). -/
def fabSeqStatusThreadsBusy : Field := ⟨.fabSeqStatus, 32, 12, .ro, (.val 0), (.val 0), .keep, .keep⟩
/-- FAB_EPOCH_COUNT.PREFETCH_SQUASH, bits 15:0, RO (05_sequence_stream.md). -/
def fabEpochCountPrefetchSquash : Field := ⟨.fabEpochCount, 0, 16, .ro, (.val 0), (.val 0), .keep, .keep⟩
/-- FAB_EPOCH_COUNT.SKIP_SQUASH, bits 31:16, RO (05_sequence_stream.md). -/
def fabEpochCountSkipSquash : Field := ⟨.fabEpochCount, 16, 16, .ro, (.val 0), (.val 0), .keep, .keep⟩
/-- FAB_EPOCH_COUNT.CHEAP_SQUASH, bits 47:32, RO (05_sequence_stream.md). -/
def fabEpochCountCheapSquash : Field := ⟨.fabEpochCount, 32, 16, .ro, (.val 0), (.val 0), .keep, .keep⟩
/-- FAB_EPOCH_COUNT.BOUNDARY_SQUASH, bits 63:48, RO (05_sequence_stream.md). -/
def fabEpochCountBoundarySquash : Field := ⟨.fabEpochCount, 48, 16, .ro, (.val 0), (.val 0), .keep, .keep⟩
/-- FAB_CNV_STATUS.CHECK_FAIL, bits 0:0, W1C (07_convolution.md). -/
def fabCnvStatusCheckFail : Field := ⟨.fabCnvStatus, 0, 1, .w1c, (.val 0), (.val 0), .keep, .keep⟩
/-- FAB_CNV_STATUS.FAIL_COUNT, bits 31:16, RO (07_convolution.md). -/
def fabCnvStatusFailCount : Field := ⟨.fabCnvStatus, 16, 16, .ro, (.val 0), (.val 0), .keep, .keep⟩
/-- FAB_CNV_STATUS.REFILLS, bits 47:32, RO (07_convolution.md). -/
def fabCnvStatusRefills : Field := ⟨.fabCnvStatus, 32, 16, .ro, (.val 0), (.val 0), .keep, .keep⟩
/-- FAB_ATT_CFG.SKIP_LOG2, bits 4:0, RW (08_attention_kv.md). -/
def fabAttCfgSkipLog2 : Field := ⟨.fabAttCfg, 0, 5, .rw, (.val 12), (.val 12), .keep, .keep⟩
/-- FAB_ATT_CFG.FORCE, bits 8:8, RW (08_attention_kv.md). -/
def fabAttCfgForce : Field := ⟨.fabAttCfg, 8, 1, .rw, (.val 0), (.val 0), .keep, .keep⟩
/-- FAB_ATT_STATUS.CHECK_FAIL, bits 0:0, W1C (08_attention_kv.md). -/
def fabAttStatusCheckFail : Field := ⟨.fabAttStatus, 0, 1, .w1c, (.val 0), (.val 0), .keep, .keep⟩
/-- FAB_ATT_STATUS.FAIL_COUNT, bits 31:16, RO (08_attention_kv.md). -/
def fabAttStatusFailCount : Field := ⟨.fabAttStatus, 16, 16, .ro, (.val 0), (.val 0), .keep, .keep⟩
/-- FAB_ATT_STATUS.EARLY_COMMIT, bits 47:32, RO (08_attention_kv.md). -/
def fabAttStatusEarlyCommit : Field := ⟨.fabAttStatus, 32, 16, .ro, (.val 0), (.val 0), .keep, .keep⟩
/-- FAB_ATT_STATUS.END_COMMIT, bits 63:48, RO (08_attention_kv.md). -/
def fabAttStatusEndCommit : Field := ⟨.fabAttStatus, 48, 16, .ro, (.val 0), (.val 0), .keep, .keep⟩
/-- FAB_REC_STATUS.CHECK_FAIL, bits 0:0, W1C (09_recurrent_state.md). -/
def fabRecStatusCheckFail : Field := ⟨.fabRecStatus, 0, 1, .w1c, (.val 0), (.val 0), .keep, .keep⟩
/-- FAB_REC_STATUS.FAIL_COUNT, bits 31:16, RO (09_recurrent_state.md). -/
def fabRecStatusFailCount : Field := ⟨.fabRecStatus, 16, 16, .ro, (.val 0), (.val 0), .keep, .keep⟩
/-- FAB_REC_STATUS.ANCHORED, bits 63:32, RO (09_recurrent_state.md). -/
def fabRecStatusAnchored : Field := ⟨.fabRecStatus, 32, 32, .ro, (.val 0), (.val 0), .keep, .keep⟩
/-- MEM_CAP.RAW_GIB, bits 7:0, RO (06_memory_tiers.md). -/
def memCapRawGib : Field := ⟨.memCap, 0, 8, .ro, (.val 64), (.val 64), (.val 64), (.val 64)⟩
/-- MEM_CAP.USABLE_GIB, bits 15:8, RO (06_memory_tiers.md). -/
def memCapUsableGib : Field := ⟨.memCap, 8, 8, .ro, (.val 60), (.val 60), (.val 60), (.val 60)⟩
/-- MEM_CAP.PODS, bits 23:16, RO (06_memory_tiers.md). -/
def memCapPods : Field := ⟨.memCap, 16, 8, .ro, (.val 16), (.val 16), (.val 16), (.val 16)⟩
/-- MEM_CAP.CHANNELS, bits 31:24, RO (06_memory_tiers.md). -/
def memCapChannels : Field := ⟨.memCap, 24, 8, .ro, (.val 16), (.val 16), (.val 16), (.val 16)⟩
/-- MEM_CAP.MTS, bits 47:32, RO (06_memory_tiers.md). -/
def memCapMts : Field := ⟨.memCap, 32, 16, .ro, (.val 800), (.val 800), (.val 800), (.val 800)⟩
/-- MEM_CAP.GRANULE_LOG2, bits 51:48, RO (06_memory_tiers.md). -/
def memCapGranuleLog2 : Field := ⟨.memCap, 48, 4, .ro, (.val 8), (.val 8), (.val 8), (.val 8)⟩
/-- MEM_CAP.PAGE_LOG2, bits 55:52, RO (06_memory_tiers.md). The table gives 16, which 4 bits cannot hold: the field shows its low four
bits, 0 (DESIGN CHOICE, log 84). -/
def memCapPageLog2 : Field := ⟨.memCap, 52, 4, .ro, (.val 16), (.val 16), (.val 16), (.val 16)⟩
/-- MEM_T2_BASE.BASE, bits 63:16, RW (06_memory_tiers.md). -/
def memT2BaseBase : Field := ⟨.memT2Base, 16, 48, .rw, (.val 0), (.val 0), .keep, .keep⟩
/-- MEM_T2_SIZE.PAGES, bits 31:0, RW (06_memory_tiers.md). -/
def memT2SizePages : Field := ⟨.memT2Size, 0, 32, .rw, (.val 0), (.val 0), .keep, .keep⟩
/-- MEM_LATE_CFG.CONTROL, bits 15:0, RW (06_memory_tiers.md). -/
def memLateCfgControl : Field := ⟨.memLateCfg, 0, 16, .rw, (.val 1024), (.val 1024), .keep, .keep⟩
/-- MEM_LATE_CFG.PERCEPTION, bits 31:16, RW (06_memory_tiers.md). -/
def memLateCfgPerception : Field := ⟨.memLateCfg, 16, 16, .rw, (.val 2048), (.val 2048), .keep, .keep⟩
/-- MEM_LATE_CFG.DELIBERATION, bits 47:32, RW (06_memory_tiers.md). -/
def memLateCfgDeliberation : Field := ⟨.memLateCfg, 32, 16, .rw, (.val 8192), (.val 8192), .keep, .keep⟩
/-- MEM_LATE_CFG.BACKGROUND, bits 63:48, RW (06_memory_tiers.md). -/
def memLateCfgBackground : Field := ⟨.memLateCfg, 48, 16, .rw, (.val 16384), (.val 16384), .keep, .keep⟩
/-- MEM_MIG_CFG.MAX_SHARE, bits 3:0, RW (06_memory_tiers.md). -/
def memMigCfgMaxShare : Field := ⟨.memMigCfg, 0, 4, .rw, (.val 12), (.val 12), .keep, .keep⟩
/-- MEM_MIG_CFG.RUNAHEAD, bits 14:8, RW (06_memory_tiers.md). -/
def memMigCfgRunahead : Field := ⟨.memMigCfg, 8, 7, .rw, (.val 64), (.val 64), .keep, .keep⟩
/-- MEM_MIG_CFG.LOW_MARK, bits 31:16, RW (06_memory_tiers.md). -/
def memMigCfgLowMark : Field := ⟨.memMigCfg, 16, 16, .rw, (.val 1024), (.val 1024), .keep, .keep⟩
/-- MEM_ECC_CFG.CE_THRESHOLD, bits 15:0, RW (06_memory_tiers.md). -/
def memEccCfgCeThreshold : Field := ⟨.memEccCfg, 0, 16, .rw, (.val 64), (.val 64), .keep, .keep⟩
/-- MEM_ECC_CFG.SCRUB_HOURS, bits 23:16, RW (06_memory_tiers.md). -/
def memEccCfgScrubHours : Field := ⟨.memEccCfg, 16, 8, .rw, (.val 8), (.val 8), .keep, .keep⟩
/-- MEM_USAGE.T1_FREE, bits 31:0, RO (06_memory_tiers.md). -/
def memUsageT1Free : Field := ⟨.memUsage, 0, 32, .ro, .src, .src, .keep, .keep⟩
/-- MEM_USAGE.T2_FREE, bits 63:32, RO (06_memory_tiers.md). -/
def memUsageT2Free : Field := ⟨.memUsage, 32, 32, .ro, (.val 0), (.val 0), .keep, .keep⟩
/-- MEM_ERR_STATUS.CE, bits 0:0, W1C (06_memory_tiers.md). -/
def memErrStatusCe : Field := ⟨.memErrStatus, 0, 1, .w1c, (.val 0), (.val 0), .keep, .keep⟩
/-- MEM_ERR_STATUS.UE, bits 1:1, W1C (06_memory_tiers.md). -/
def memErrStatusUe : Field := ⟨.memErrStatus, 1, 1, .w1c, (.val 0), (.val 0), .keep, .keep⟩
/-- MEM_ERR_STATUS.T2_SHORT, bits 2:2, W1C (06_memory_tiers.md). -/
def memErrStatusT2Short : Field := ⟨.memErrStatus, 2, 1, .w1c, (.val 0), (.val 0), .keep, .keep⟩
/-- MEM_ERR_STATUS.CFG, bits 3:3, W1C (06_memory_tiers.md). -/
def memErrStatusCfg : Field := ⟨.memErrStatus, 3, 1, .w1c, (.val 0), (.val 0), .keep, .keep⟩
/-- MEM_ERR_STATUS.TRAIN, bits 4:4, W1C (06_memory_tiers.md). -/
def memErrStatusTrain : Field := ⟨.memErrStatus, 4, 1, .w1c, (.val 0), (.val 0), .keep, .keep⟩
/-- MEM_POD_SEL.POD, bits 3:0, RW (06_memory_tiers.md). -/
def memPodSelPod : Field := ⟨.memPodSel, 0, 4, .rw, (.val 0), (.val 0), .keep, .keep⟩
/-- MEM_POD_STATUS.TRAINED, bits 0:0, RO (06_memory_tiers.md). -/
def memPodStatusTrained : Field := ⟨.memPodStatus, 0, 1, .ro, .src, .src, .keep, .keep⟩
/-- MEM_POD_STATUS.FAILED, bits 1:1, RO (06_memory_tiers.md). -/
def memPodStatusFailed : Field := ⟨.memPodStatus, 1, 1, .ro, .src, .src, .keep, .keep⟩
/-- MEM_POD_STATUS.SREF, bits 2:2, RO (06_memory_tiers.md). -/
def memPodStatusSref : Field := ⟨.memPodStatus, 2, 1, .ro, (.val 0), (.val 0), .keep, .keep⟩
/-- MEM_POD_STATUS.RETIRED, bits 31:16, RO (06_memory_tiers.md). -/
def memPodStatusRetired : Field := ⟨.memPodStatus, 16, 16, .ro, .src, .src, .keep, .keep⟩
/-- MEM_POD_STATUS.CE_COUNT, bits 47:32, RO (06_memory_tiers.md). -/
def memPodStatusCeCount : Field := ⟨.memPodStatus, 32, 16, .ro, (.val 0), (.val 0), .keep, .keep⟩
/-- MEM_POD_STATUS.UE_COUNT, bits 63:48, RO (06_memory_tiers.md). -/
def memPodStatusUeCount : Field := ⟨.memPodStatus, 48, 16, .ro, (.val 0), (.val 0), .keep, .keep⟩
/-- TIME_CTRL.ACCEPT, bits 0:0, WO (10_time_base.md). -/
def timeCtrlAccept : Field := ⟨.timeCtrl, 0, 1, .wo, (.val 0), (.val 0), (.val 0), (.val 0)⟩
/-- TIME_CTRL.SYNC_EN, bits 1:1, RW (10_time_base.md). -/
def timeCtrlSyncEn : Field := ⟨.timeCtrl, 1, 1, .rw, (.val 0), (.val 0), .keep, .keep⟩
/-- TIME_CTRL.GEN_SEL, bits 13:8, RW (10_time_base.md). -/
def timeCtrlGenSel : Field := ⟨.timeCtrl, 8, 6, .rw, (.val 0), (.val 0), .keep, .keep⟩
/-- TIME_CTRL.CAP_SEL, bits 18:16, RW (10_time_base.md). -/
def timeCtrlCapSel : Field := ⟨.timeCtrl, 16, 3, .rw, (.val 0), (.val 0), .keep, .keep⟩
/-- TIME_CTRL.PORT_SEL, bits 21:20, RW (10_time_base.md). -/
def timeCtrlPortSel : Field := ⟨.timeCtrl, 20, 2, .rw, (.val 0), (.val 0), .keep, .keep⟩
/-- TIME_STATUS.STATE, bits 1:0, RO (10_time_base.md). -/
def timeStatusState : Field := ⟨.timeStatus, 0, 2, .ro, (.val 0), (.val 0), .keep, .keep⟩
/-- TIME_STATUS.REFUSED, bits 2:2, W1C (10_time_base.md). -/
def timeStatusRefused : Field := ⟨.timeStatus, 2, 1, .w1c, (.val 0), (.val 0), .keep, .keep⟩
/-- TIME_STATUS.CFG_ERR, bits 3:3, W1C (10_time_base.md). -/
def timeStatusCfgErr : Field := ⟨.timeStatus, 3, 1, .w1c, (.val 0), (.val 0), .keep, .keep⟩
/-- TIME_STATUS.STEP_COUNT, bits 15:8, RO (10_time_base.md). -/
def timeStatusStepCount : Field := ⟨.timeStatus, 8, 8, .ro, (.val 0), (.val 0), .keep, .keep⟩
/-- TIME_STATUS.SEC_HI, bits 31:16, RO (10_time_base.md). -/
def timeStatusSecHi : Field := ⟨.timeStatus, 16, 16, .ro, (.val 0), .src, .keep, .keep⟩
/-- TIME_STATUS.OFFSET, bits 63:32, RO (10_time_base.md). -/
def timeStatusOffset : Field := ⟨.timeStatus, 32, 32, .ro, (.val 0), (.val 0), .keep, .keep⟩
/-- TIME_JUMP.NS, bits 29:0, RW (10_time_base.md). -/
def timeJumpNs : Field := ⟨.timeJump, 0, 30, .rw, (.val 1000), (.val 1000), .keep, .keep⟩
/-- TIME_NOW.NS, bits 29:0, RO (10_time_base.md). -/
def timeNowNs : Field := ⟨.timeNow, 0, 30, .ro, (.val 0), .src, .keep, .keep⟩
/-- TIME_NOW.SEC, bits 63:32, RO (10_time_base.md). -/
def timeNowSec : Field := ⟨.timeNow, 32, 32, .ro, (.val 0), .src, .keep, .keep⟩
/-- TIME_PTP_CFG.PORTS, bits 3:0, RW (10_time_base.md). -/
def timePtpCfgPorts : Field := ⟨.timePtpCfg, 0, 4, .rw, (.val 0), (.val 0), .keep, .keep⟩
/-- TIME_PTP_CFG.PROFILE, bits 5:4, RW (10_time_base.md). -/
def timePtpCfgProfile : Field := ⟨.timePtpCfg, 4, 2, .rw, (.val 0), (.val 0), .keep, .keep⟩
/-- TIME_PTP_CFG.DOMAIN, bits 15:8, RW (10_time_base.md). -/
def timePtpCfgDomain : Field := ⟨.timePtpCfg, 8, 8, .rw, (.val 0), (.val 0), .keep, .keep⟩
/-- TIME_PTP_CFG.PRIORITY1, bits 23:16, RW (10_time_base.md). -/
def timePtpCfgPriority1 : Field := ⟨.timePtpCfg, 16, 8, .rw, (.val 248), (.val 248), .keep, .keep⟩
/-- TIME_PTP_CFG.PRIORITY2, bits 31:24, RW (10_time_base.md). -/
def timePtpCfgPriority2 : Field := ⟨.timePtpCfg, 24, 8, .rw, (.val 248), (.val 248), .keep, .keep⟩
/-- TIME_PTP_CFG.SYNC_LOG2, bits 39:32, RW (10_time_base.md). -/
def timePtpCfgSyncLog2 : Field := ⟨.timePtpCfg, 32, 8, .rw, (.val 253), (.val 253), .keep, .keep⟩
/-- TIME_PTP_LAT.INGRESS, bits 15:0, RW (10_time_base.md). -/
def timePtpLatIngress : Field := ⟨.timePtpLat, 0, 16, .rw, (.val 0), (.val 0), .keep, .keep⟩
/-- TIME_PTP_LAT.EGRESS, bits 31:16, RW (10_time_base.md). -/
def timePtpLatEgress : Field := ⟨.timePtpLat, 16, 16, .rw, (.val 0), (.val 0), .keep, .keep⟩
/-- TIME_GEN_START.NS, bits 29:0, RW (10_time_base.md). -/
def timeGenStartNs : Field := ⟨.timeGenStart, 0, 30, .rw, (.val 0), (.val 0), .keep, .keep⟩
/-- TIME_GEN_START.SEC, bits 63:32, RW (10_time_base.md). -/
def timeGenStartSec : Field := ⟨.timeGenStart, 32, 32, .rw, (.val 0), (.val 0), .keep, .keep⟩
/-- TIME_GEN_CFG.ENABLE, bits 0:0, RW (10_time_base.md). -/
def timeGenCfgEnable : Field := ⟨.timeGenCfg, 0, 1, .rw, (.val 0), (.val 0), .keep, .keep⟩
/-- TIME_GEN_CFG.PINS, bits 15:8, RW (10_time_base.md). -/
def timeGenCfgPins : Field := ⟨.timeGenCfg, 8, 8, .rw, (.val 0), (.val 0), .keep, .keep⟩
/-- TIME_GEN_CFG.CAMS, bits 23:16, RW (10_time_base.md). -/
def timeGenCfgCams : Field := ⟨.timeGenCfg, 16, 8, .rw, (.val 0), (.val 0), .keep, .keep⟩
/-- TIME_GEN_CFG.WIDTH, bits 31:24, RW (10_time_base.md). -/
def timeGenCfgWidth : Field := ⟨.timeGenCfg, 24, 8, .rw, (.val 1), (.val 1), .keep, .keep⟩
/-- TIME_GEN_CFG.PERIOD, bits 63:32, RW (10_time_base.md). -/
def timeGenCfgPeriod : Field := ⟨.timeGenCfg, 32, 32, .rw, (.val 0), (.val 0), .keep, .keep⟩
/-- TIME_CAP_CFG.EDGE, bits 15:0, RW (10_time_base.md). -/
def timeCapCfgEdge : Field := ⟨.timeCapCfg, 0, 16, .rw, (.val 0), (.val 0), .keep, .keep⟩
/-- TIME_CAP_CFG.EVENT, bits 23:16, RW (10_time_base.md). -/
def timeCapCfgEvent : Field := ⟨.timeCapCfg, 16, 8, .rw, (.val 0), (.val 0), .keep, .keep⟩
/-- TIME_CAP_DATA.NS, bits 29:0, RO (10_time_base.md). -/
def timeCapDataNs : Field := ⟨.timeCapData, 0, 30, .ro, (.val 0), (.val 0), .keep, .keep⟩
/-- TIME_CAP_DATA.RISE, bits 30:30, RO (10_time_base.md). -/
def timeCapDataRise : Field := ⟨.timeCapData, 30, 1, .ro, (.val 0), (.val 0), .keep, .keep⟩
/-- TIME_CAP_DATA.VALID, bits 31:31, RO (10_time_base.md). -/
def timeCapDataValid : Field := ⟨.timeCapData, 31, 1, .ro, (.val 0), (.val 0), .keep, .keep⟩
/-- TIME_CAP_DATA.SEC, bits 63:32, RO (10_time_base.md). -/
def timeCapDataSec : Field := ⟨.timeCapData, 32, 32, .ro, (.val 0), (.val 0), .keep, .keep⟩
/-- TIME_QBV_CTRL.CHANGE, bits 3:0, WO (10_time_base.md). -/
def timeQbvCtrlChange : Field := ⟨.timeQbvCtrl, 0, 4, .wo, (.val 0), (.val 0), (.val 0), (.val 0)⟩
/-- TIME_QBV_CTRL.OPER, bits 11:8, RO (10_time_base.md). -/
def timeQbvCtrlOper : Field := ⟨.timeQbvCtrl, 8, 4, .ro, (.val 0), (.val 0), .keep, .keep⟩
/-- TIME_QBV_CTRL.ENABLE, bits 15:12, RW (10_time_base.md). -/
def timeQbvCtrlEnable : Field := ⟨.timeQbvCtrl, 12, 4, .rw, (.val 0), (.val 0), .keep, .keep⟩
/-- FUS_CTRL.ENABLE, bits 0:0, RW (11_sensor_fusion.md). -/
def fusCtrlEnable : Field := ⟨.fusCtrl, 0, 1, .rw, (.val 0), (.val 0), .keep, .keep⟩
/-- FUS_CTRL.ISSUE_EVENT, bits 1:1, RW (11_sensor_fusion.md). -/
def fusCtrlIssueEvent : Field := ⟨.fusCtrl, 1, 1, .rw, (.val 0), (.val 0), .keep, .keep⟩
/-- FUS_STATUS.INSTANT, bits 31:0, RO (11_sensor_fusion.md). -/
def fusStatusInstant : Field := ⟨.fusStatus, 0, 32, .ro, (.val 0), (.val 0), .keep, .keep⟩
/-- FUS_STATUS.TABLE_EPOCH, bits 47:32, RO (11_sensor_fusion.md). -/
def fusStatusTableEpoch : Field := ⟨.fusStatus, 32, 16, .ro, (.val 0), (.val 0), .keep, .keep⟩
/-- FUS_STATUS.BEHIND, bits 48:48, RO (11_sensor_fusion.md). -/
def fusStatusBehind : Field := ⟨.fusStatus, 48, 1, .ro, (.val 0), (.val 0), .keep, .keep⟩
/-- FUS_START.NS, bits 29:0, RW (11_sensor_fusion.md). -/
def fusStartNs : Field := ⟨.fusStart, 0, 30, .rw, (.val 0), (.val 0), .keep, .keep⟩
/-- FUS_START.SEC, bits 63:32, RW (11_sensor_fusion.md). -/
def fusStartSec : Field := ⟨.fusStart, 32, 32, .rw, (.val 0), (.val 0), .keep, .keep⟩
/-- FUS_TIMING.PERIOD_US, bits 19:0, RW (11_sensor_fusion.md). -/
def fusTimingPeriodUs : Field := ⟨.fusTiming, 0, 20, .rw, (.val 10000), (.val 10000), .keep, .keep⟩
/-- FUS_TIMING.HOLD_US, bits 47:32, RW (11_sensor_fusion.md). -/
def fusTimingHoldUs : Field := ⟨.fusTiming, 32, 16, .rw, (.val 2000), (.val 2000), .keep, .keep⟩
/-- FUS_TIMING.LATE_US, bits 63:48, RW (11_sensor_fusion.md). -/
def fusTimingLateUs : Field := ⟨.fusTiming, 48, 16, .rw, (.val 15000), (.val 15000), .keep, .keep⟩
/-- FUS_GRID_CFG.W, bits 8:0, RW (11_sensor_fusion.md). -/
def fusGridCfgW : Field := ⟨.fusGridCfg, 0, 9, .rw, (.val 256), (.val 256), .keep, .keep⟩
/-- FUS_GRID_CFG.H, bits 24:16, RW (11_sensor_fusion.md). -/
def fusGridCfgH : Field := ⟨.fusGridCfg, 16, 9, .rw, (.val 256), (.val 256), .keep, .keep⟩
/-- FUS_GRID_CFG.CH, bits 38:32, RW (11_sensor_fusion.md). -/
def fusGridCfgCh : Field := ⟨.fusGridCfg, 32, 7, .rw, (.val 64), (.val 64), .keep, .keep⟩
/-- FUS_GRID_CFG.CELL_MM, bits 50:40, RW (11_sensor_fusion.md). -/
def fusGridCfgCellMm : Field := ⟨.fusGridCfg, 40, 11, .rw, (.val 100), (.val 100), .keep, .keep⟩
/-- FUS_LIFT_CFG.Z_MIN, bits 15:0, RW (11_sensor_fusion.md). -/
def fusLiftCfgZMin : Field := ⟨.fusLiftCfg, 0, 16, .rw, (.val 64836), (.val 64836), .keep, .keep⟩
/-- FUS_LIFT_CFG.Z_MAX, bits 31:16, RW (11_sensor_fusion.md). -/
def fusLiftCfgZMax : Field := ⟨.fusLiftCfg, 16, 16, .rw, (.val 1500), (.val 1500), .keep, .keep⟩
/-- FUS_LIFT_CFG.CONTEST, bits 39:32, RW (11_sensor_fusion.md). -/
def fusLiftCfgContest : Field := ⟨.fusLiftCfg, 32, 8, .rw, (.val 64), (.val 64), .keep, .keep⟩
/-- FUS_TRACK_CFG.GATE_MM, bits 15:0, RW (11_sensor_fusion.md). -/
def fusTrackCfgGateMm : Field := ⟨.fusTrackCfg, 0, 16, .rw, (.val 500), (.val 500), .keep, .keep⟩
/-- FUS_TRACK_CFG.ALPHA, bits 23:16, RW (11_sensor_fusion.md). -/
def fusTrackCfgAlpha : Field := ⟨.fusTrackCfg, 16, 8, .rw, (.val 128), (.val 128), .keep, .keep⟩
/-- FUS_TRACK_CFG.BETA, bits 31:24, RW (11_sensor_fusion.md). -/
def fusTrackCfgBeta : Field := ⟨.fusTrackCfg, 24, 8, .rw, (.val 32), (.val 32), .keep, .keep⟩
/-- FUS_TRACK_CFG.BIRTH_SCORE, bits 39:32, RW (11_sensor_fusion.md). -/
def fusTrackCfgBirthScore : Field := ⟨.fusTrackCfg, 32, 8, .rw, (.val 128), (.val 128), .keep, .keep⟩
/-- FUS_TRACK_CFG.CONFIRM_HITS, bits 43:40, RW (11_sensor_fusion.md). -/
def fusTrackCfgConfirmHits : Field := ⟨.fusTrackCfg, 40, 4, .rw, (.val 3), (.val 3), .keep, .keep⟩
/-- FUS_TRACK_CFG.CONFIRM_ROUNDS, bits 47:44, RW (11_sensor_fusion.md). -/
def fusTrackCfgConfirmRounds : Field := ⟨.fusTrackCfg, 44, 4, .rw, (.val 5), (.val 5), .keep, .keep⟩
/-- FUS_TRACK_CFG.DELETE_MISSES, bits 55:48, RW (11_sensor_fusion.md). -/
def fusTrackCfgDeleteMisses : Field := ⟨.fusTrackCfg, 48, 8, .rw, (.val 10), (.val 10), .keep, .keep⟩
/-- FUS_OUT_CFG.DIE, bits 1:0, RW (11_sensor_fusion.md). -/
def fusOutCfgDie : Field := ⟨.fusOutCfg, 0, 2, .rw, (.val 0), (.val 0), .keep, .keep⟩
/-- FUS_OUT_CFG.STREAM, bits 15:8, RW (11_sensor_fusion.md). -/
def fusOutCfgStream : Field := ⟨.fusOutCfg, 8, 8, .rw, (.val 0), (.val 0), .keep, .keep⟩
/-- FUS_OUT_CFG.TOKEN, bits 23:16, RW (11_sensor_fusion.md). -/
def fusOutCfgToken : Field := ⟨.fusOutCfg, 16, 8, .rw, (.val 255), (.val 255), .keep, .keep⟩
/-- FUS_OUT_CFG.COUNT, bits 29:24, RW (11_sensor_fusion.md). -/
def fusOutCfgCount : Field := ⟨.fusOutCfg, 24, 6, .rw, (.val 2), (.val 2), .keep, .keep⟩
/-- FUS_OUT_CFG.STRIDE_PAGES, bits 47:32, RW (11_sensor_fusion.md). -/
def fusOutCfgStridePages : Field := ⟨.fusOutCfg, 32, 16, .rw, (.val 67), (.val 67), .keep, .keep⟩
/-- FUS_OUT_CFG.OCC_PAGE, bits 63:48, RW (11_sensor_fusion.md). -/
def fusOutCfgOccPage : Field := ⟨.fusOutCfg, 48, 16, .rw, (.val 65535), (.val 65535), .keep, .keep⟩
/-- FUS_OUT_ADDR.ADDR, bits 47:16, RW (11_sensor_fusion.md). -/
def fusOutAddrAddr : Field := ⟨.fusOutAddr, 16, 32, .rw, (.val 0), (.val 0), .keep, .keep⟩
/-- FUS_CSI_CFG.LANES0, bits 1:0, RW (11_sensor_fusion.md). -/
def fusCsiCfgLanes0 : Field := ⟨.fusCsiCfg, 0, 2, .rw, (.val 0), (.val 0), .keep, .keep⟩
/-- FUS_CSI_CFG.LANES1, bits 9:8, RW (11_sensor_fusion.md). -/
def fusCsiCfgLanes1 : Field := ⟨.fusCsiCfg, 8, 2, .rw, (.val 0), (.val 0), .keep, .keep⟩
/-- FUS_CSI_CFG.LANES2, bits 17:16, RW (11_sensor_fusion.md). -/
def fusCsiCfgLanes2 : Field := ⟨.fusCsiCfg, 16, 2, .rw, (.val 0), (.val 0), .keep, .keep⟩
/-- FUS_CSI_CFG.LANES3, bits 25:24, RW (11_sensor_fusion.md). -/
def fusCsiCfgLanes3 : Field := ⟨.fusCsiCfg, 24, 2, .rw, (.val 0), (.val 0), .keep, .keep⟩
/-- FUS_CSI_CFG.LANES4, bits 33:32, RW (11_sensor_fusion.md). -/
def fusCsiCfgLanes4 : Field := ⟨.fusCsiCfg, 32, 2, .rw, (.val 0), (.val 0), .keep, .keep⟩
/-- FUS_CSI_CFG.LANES5, bits 41:40, RW (11_sensor_fusion.md). -/
def fusCsiCfgLanes5 : Field := ⟨.fusCsiCfg, 40, 2, .rw, (.val 0), (.val 0), .keep, .keep⟩
/-- FUS_CSI_CFG.LANES6, bits 49:48, RW (11_sensor_fusion.md). -/
def fusCsiCfgLanes6 : Field := ⟨.fusCsiCfg, 48, 2, .rw, (.val 0), (.val 0), .keep, .keep⟩
/-- FUS_CSI_CFG.LANES7, bits 57:56, RW (11_sensor_fusion.md). -/
def fusCsiCfgLanes7 : Field := ⟨.fusCsiCfg, 56, 2, .rw, (.val 0), (.val 0), .keep, .keep⟩
/-- FUS_CSI_CFG.POL0, bits 6:2, RW (11_sensor_fusion.md). -/
def fusCsiCfgPol0 : Field := ⟨.fusCsiCfg, 2, 5, .rw, (.val 0), (.val 0), .keep, .keep⟩
/-- FUS_CSI_CFG.POL1, bits 14:10, RW (11_sensor_fusion.md). -/
def fusCsiCfgPol1 : Field := ⟨.fusCsiCfg, 10, 5, .rw, (.val 0), (.val 0), .keep, .keep⟩
/-- FUS_CSI_CFG.POL2, bits 22:18, RW (11_sensor_fusion.md). -/
def fusCsiCfgPol2 : Field := ⟨.fusCsiCfg, 18, 5, .rw, (.val 0), (.val 0), .keep, .keep⟩
/-- FUS_CSI_CFG.POL3, bits 30:26, RW (11_sensor_fusion.md). -/
def fusCsiCfgPol3 : Field := ⟨.fusCsiCfg, 26, 5, .rw, (.val 0), (.val 0), .keep, .keep⟩
/-- FUS_CSI_CFG.POL4, bits 38:34, RW (11_sensor_fusion.md). -/
def fusCsiCfgPol4 : Field := ⟨.fusCsiCfg, 34, 5, .rw, (.val 0), (.val 0), .keep, .keep⟩
/-- FUS_CSI_CFG.POL5, bits 46:42, RW (11_sensor_fusion.md). -/
def fusCsiCfgPol5 : Field := ⟨.fusCsiCfg, 42, 5, .rw, (.val 0), (.val 0), .keep, .keep⟩
/-- FUS_CSI_CFG.POL6, bits 54:50, RW (11_sensor_fusion.md). -/
def fusCsiCfgPol6 : Field := ⟨.fusCsiCfg, 50, 5, .rw, (.val 0), (.val 0), .keep, .keep⟩
/-- FUS_CSI_CFG.POL7, bits 62:58, RW (11_sensor_fusion.md). -/
def fusCsiCfgPol7 : Field := ⟨.fusCsiCfg, 58, 5, .rw, (.val 0), (.val 0), .keep, .keep⟩
/-- FUS_STATS.LATE_FOLD, bits 15:0, RO (11_sensor_fusion.md). -/
def fusStatsLateFold : Field := ⟨.fusStats, 0, 16, .ro, (.val 0), (.val 0), .keep, .keep⟩
/-- FUS_STATS.LATE_DROP, bits 31:16, RO (11_sensor_fusion.md). -/
def fusStatsLateDrop : Field := ⟨.fusStats, 16, 16, .ro, (.val 0), (.val 0), .keep, .keep⟩
/-- FUS_STATS.NO_POSE, bits 47:32, RO (11_sensor_fusion.md). -/
def fusStatsNoPose : Field := ⟨.fusStats, 32, 16, .ro, (.val 0), (.val 0), .keep, .keep⟩
/-- FUS_STATS.SKIPPED, bits 63:48, RO (11_sensor_fusion.md). -/
def fusStatsSkipped : Field := ⟨.fusStats, 48, 16, .ro, (.val 0), (.val 0), .keep, .keep⟩
/-- FUS_STATS2.POST_REFUSED, bits 15:0, RO (11_sensor_fusion.md). -/
def fusStats2PostRefused : Field := ⟨.fusStats2, 0, 16, .ro, (.val 0), (.val 0), .keep, .keep⟩
/-- FUS_STATS2.STALE_DET, bits 31:16, RO (11_sensor_fusion.md). -/
def fusStats2StaleDet : Field := ⟨.fusStats2, 16, 16, .ro, (.val 0), (.val 0), .keep, .keep⟩
/-- FUS_STATS2.TRACK_FULL, bits 47:32, RO (11_sensor_fusion.md). -/
def fusStats2TrackFull : Field := ⟨.fusStats2, 32, 16, .ro, (.val 0), (.val 0), .keep, .keep⟩
/-- FUS_STATS2.INTAKE_ERR, bits 63:48, RO (11_sensor_fusion.md). -/
def fusStats2IntakeErr : Field := ⟨.fusStats2, 48, 16, .ro, (.val 0), (.val 0), .keep, .keep⟩
/-- PLN_LATTICE.ADDR, bits 47:9, RW (12_motion_planner.md). -/
def plnLatticeAddr : Field := ⟨.plnLattice, 9, 39, .rw, (.val 0), (.val 0), .keep, .keep⟩
/-- PLN_LATTICE.COUNT_M1, bits 63:48, RW (12_motion_planner.md). -/
def plnLatticeCountM1 : Field := ⟨.plnLattice, 48, 16, .rw, (.val 0), (.val 0), .keep, .keep⟩
/-- PLN_CFG.BUDGET_US, bits 15:0, RW (12_motion_planner.md). -/
def plnCfgBudgetUs : Field := ⟨.plnCfg, 0, 16, .rw, (.val 2000), (.val 2000), .keep, .keep⟩
/-- PLN_CFG.MARGIN_MM, bits 31:16, RW (12_motion_planner.md). -/
def plnCfgMarginMm : Field := ⟨.plnCfg, 16, 16, .rw, (.val 50), (.val 50), .keep, .keep⟩
/-- PLN_CFG.CLEAR_CAP_MM, bits 47:32, RW (12_motion_planner.md). -/
def plnCfgClearCapMm : Field := ⟨.plnCfg, 32, 16, .rw, (.val 500), (.val 500), .keep, .keep⟩
/-- PLN_CFG.OUTSIDE, bits 48:48, RW (12_motion_planner.md). -/
def plnCfgOutside : Field := ⟨.plnCfg, 48, 1, .rw, (.val 1), (.val 1), .keep, .keep⟩
/-- PLN_CFG.UNKNOWN, bits 49:49, RW (12_motion_planner.md). -/
def plnCfgUnknown : Field := ⟨.plnCfg, 49, 1, .rw, (.val 1), (.val 1), .keep, .keep⟩
/-- PLN_CFG.OCC_EN, bits 50:50, RW (12_motion_planner.md). -/
def plnCfgOccEn : Field := ⟨.plnCfg, 50, 1, .rw, (.val 0), (.val 0), .keep, .keep⟩
/-- PLN_OCC_CFG.Z_LO, bits 15:0, RW (12_motion_planner.md). -/
def plnOccCfgZLo : Field := ⟨.plnOccCfg, 0, 16, .rw, (.val 64836), (.val 64836), .keep, .keep⟩
/-- PLN_OCC_CFG.Z_HI, bits 31:16, RW (12_motion_planner.md). -/
def plnOccCfgZHi : Field := ⟨.plnOccCfg, 16, 16, .rw, (.val 1500), (.val 1500), .keep, .keep⟩
/-- PLN_WRITER.EN, bits 0:0, RW (12_motion_planner.md). -/
def plnWriterEn : Field := ⟨.plnWriter, 0, 1, .rw, (.val 0), (.val 0), .keep, .keep⟩
/-- PLN_WRITER.DIE, bits 2:1, RW (12_motion_planner.md). -/
def plnWriterDie : Field := ⟨.plnWriter, 1, 2, .rw, (.val 0), (.val 0), .keep, .keep⟩
/-- PLN_WRITER.STREAM, bits 15:8, RW (12_motion_planner.md). -/
def plnWriterStream : Field := ⟨.plnWriter, 8, 8, .rw, (.val 0), (.val 0), .keep, .keep⟩
/-- PLN_WRITER.FREE_TOKEN, bits 23:16, RW (12_motion_planner.md). -/
def plnWriterFreeToken : Field := ⟨.plnWriter, 16, 8, .rw, (.val 255), (.val 255), .keep, .keep⟩
/-- PLN_STATUS.VERSION, bits 31:0, RO (12_motion_planner.md). -/
def plnStatusVersion : Field := ⟨.plnStatus, 0, 32, .ro, (.val 0), (.val 0), .keep, .keep⟩
/-- PLN_STATUS.BANK, bits 32:32, RO (12_motion_planner.md). -/
def plnStatusBank : Field := ⟨.plnStatus, 32, 1, .ro, (.val 0), (.val 0), .keep, .keep⟩
/-- PLN_STATUS.TREE_VALID, bits 33:33, RO (12_motion_planner.md). -/
def plnStatusTreeValid : Field := ⟨.plnStatus, 33, 1, .ro, (.val 0), (.val 0), .keep, .keep⟩
/-- PLN_STATUS.OCC_VALID, bits 34:34, RO (12_motion_planner.md). -/
def plnStatusOccValid : Field := ⟨.plnStatus, 34, 1, .ro, (.val 0), (.val 0), .keep, .keep⟩
/-- PLN_STATUS.LAYER, bits 35:35, RO (12_motion_planner.md). -/
def plnStatusLayer : Field := ⟨.plnStatus, 35, 1, .ro, (.val 0), (.val 0), .keep, .keep⟩
/-- PLN_STATUS.BUSY, bits 36:36, RO (12_motion_planner.md). -/
def plnStatusBusy : Field := ⟨.plnStatus, 36, 1, .ro, (.val 0), (.val 0), .keep, .keep⟩
/-- PLN_STATUS.RELEASED, bits 37:37, RO (12_motion_planner.md). -/
def plnStatusReleased : Field := ⟨.plnStatus, 37, 1, .ro, (.val 1), (.val 1), .keep, .keep⟩
/-- PLN_STATUS.QUEUED, bits 46:40, RO (12_motion_planner.md). -/
def plnStatusQueued : Field := ⟨.plnStatus, 40, 7, .ro, (.val 0), (.val 0), .keep, .keep⟩
/-- PLN_STATS.STALE, bits 15:0, RO (12_motion_planner.md). -/
def plnStatsStale : Field := ⟨.plnStats, 0, 16, .ro, (.val 0), (.val 0), .keep, .keep⟩
/-- PLN_STATS.NO_PATH, bits 31:16, RO (12_motion_planner.md). -/
def plnStatsNoPath : Field := ⟨.plnStats, 16, 16, .ro, (.val 0), (.val 0), .keep, .keep⟩
/-- PLN_STATS.NO_SAFE_STOP, bits 47:32, RO (12_motion_planner.md). -/
def plnStatsNoSafeStop : Field := ⟨.plnStats, 32, 16, .ro, (.val 0), (.val 0), .keep, .keep⟩
/-- PLN_STATS.BAD_PRIM, bits 63:48, RO (12_motion_planner.md). -/
def plnStatsBadPrim : Field := ⟨.plnStats, 48, 16, .ro, (.val 0), (.val 0), .keep, .keep⟩
/-- PLN_STATS2.SEND_DISCARD, bits 15:0, RO (12_motion_planner.md). -/
def plnStats2SendDiscard : Field := ⟨.plnStats2, 0, 16, .ro, (.val 0), (.val 0), .keep, .keep⟩
/-- PLN_STATS2.OCC_SKIP, bits 31:16, RO (12_motion_planner.md). -/
def plnStats2OccSkip : Field := ⟨.plnStats2, 16, 16, .ro, (.val 0), (.val 0), .keep, .keep⟩
/-- PLN_STATS2.COMMIT_REFUSED, bits 47:32, RO (12_motion_planner.md). -/
def plnStats2CommitRefused : Field := ⟨.plnStats2, 32, 16, .ro, (.val 0), (.val 0), .keep, .keep⟩
/-- PLN_STATS2.BUDGET_OUT, bits 63:48, RO (12_motion_planner.md). -/
def plnStats2BudgetOut : Field := ⟨.plnStats2, 48, 16, .ro, (.val 0), (.val 0), .keep, .keep⟩
/-- CLE_CTRL.ENABLE, bits 0:0, RW (13_control_engine.md). -/
def cleCtrlEnable : Field := ⟨.cleCtrl, 0, 1, .rw, (.val 0), (.val 0), .keep, .keep⟩
/-- CLE_CTRL.HUSK_ENTER, bits 1:1, WO (13_control_engine.md). -/
def cleCtrlHuskEnter : Field := ⟨.cleCtrl, 1, 1, .wo, (.val 0), (.val 0), (.val 0), (.val 0)⟩
/-- CLE_CTRL.HUSK_EXIT, bits 2:2, WO (13_control_engine.md). -/
def cleCtrlHuskExit : Field := ⟨.cleCtrl, 2, 1, .wo, (.val 0), (.val 0), (.val 0), (.val 0)⟩
/-- CLE_CTRL.CH_SEL, bits 13:8, RW (13_control_engine.md). -/
def cleCtrlChSel : Field := ⟨.cleCtrl, 8, 6, .rw, (.val 0), (.val 0), .keep, .keep⟩
/-- CLE_CTRL.SNAP_SEL, bits 15:14, RW (13_control_engine.md). -/
def cleCtrlSnapSel : Field := ⟨.cleCtrl, 14, 2, .rw, (.val 0), (.val 0), .keep, .keep⟩
/-- CLE_STATUS.HUSK, bits 0:0, RO (13_control_engine.md). -/
def cleStatusHusk : Field := ⟨.cleStatus, 0, 1, .ro, (.val 0), (.val 0), .keep, .keep⟩
/-- CLE_STATUS.FAULT, bits 1:1, RO (13_control_engine.md). -/
def cleStatusFault : Field := ⟨.cleStatus, 1, 1, .ro, (.val 0), (.val 0), .keep, .keep⟩
/-- CLE_STATUS.FAULT_CAUSE, bits 3:2, RO (13_control_engine.md). -/
def cleStatusFaultCause : Field := ⟨.cleStatus, 2, 2, .ro, (.val 0), (.val 0), .keep, .keep⟩
/-- CLE_STATUS.SP_VERSION, bits 63:32, RO (13_control_engine.md). -/
def cleStatusSpVersion : Field := ⟨.cleStatus, 32, 32, .ro, (.val 0), (.val 0), .keep, .keep⟩
/-- CLE_SNAP_CFG.EN, bits 0:0, RW (13_control_engine.md). -/
def cleSnapCfgEn : Field := ⟨.cleSnapCfg, 0, 1, .rw, (.val 0), (.val 0), .keep, .keep⟩
/-- CLE_SNAP_CFG.DIE, bits 2:1, RW (13_control_engine.md). -/
def cleSnapCfgDie : Field := ⟨.cleSnapCfg, 1, 2, .rw, (.val 0), (.val 0), .keep, .keep⟩
/-- CLE_SNAP_CFG.TRIGGER, bits 15:8, RW (13_control_engine.md). -/
def cleSnapCfgTrigger : Field := ⟨.cleSnapCfg, 8, 8, .rw, (.val 0), (.val 0), .keep, .keep⟩
/-- CLE_SNAP_CFG.STREAM, bits 23:16, RW (13_control_engine.md). -/
def cleSnapCfgStream : Field := ⟨.cleSnapCfg, 16, 8, .rw, (.val 0), (.val 0), .keep, .keep⟩
/-- CLE_SNAP_CFG.TOKEN, bits 31:24, RW (13_control_engine.md). -/
def cleSnapCfgToken : Field := ⟨.cleSnapCfg, 24, 8, .rw, (.val 255), (.val 255), .keep, .keep⟩
/-- CLE_SNAP_CFG.LINE, bits 63:32, RW (13_control_engine.md). -/
def cleSnapCfgLine : Field := ⟨.cleSnapCfg, 32, 32, .rw, (.val 0), (.val 0), .keep, .keep⟩
/-- CLE_CH_STATUS.MISS, bits 0:0, W1C (13_control_engine.md). -/
def cleChStatusMiss : Field := ⟨.cleChStatus, 0, 1, .w1c, (.val 0), (.val 0), .keep, .keep⟩
/-- CLE_CH_STATUS.LOST, bits 1:1, RO (13_control_engine.md). -/
def cleChStatusLost : Field := ⟨.cleChStatus, 1, 1, .ro, (.val 0), (.val 0), .keep, .keep⟩
/-- CLE_CH_STATUS.SAT, bits 2:2, RO (13_control_engine.md). -/
def cleChStatusSat : Field := ⟨.cleChStatus, 2, 1, .ro, (.val 0), (.val 0), .keep, .keep⟩
/-- CLE_CH_STATUS.DRIVE_FAULT, bits 3:3, RO (13_control_engine.md). -/
def cleChStatusDriveFault : Field := ⟨.cleChStatus, 3, 1, .ro, (.val 0), (.val 0), .keep, .keep⟩
/-- CLE_CH_STATUS.HUSK, bits 4:4, RO (13_control_engine.md). -/
def cleChStatusHusk : Field := ⟨.cleChStatus, 4, 1, .ro, (.val 0), (.val 0), .keep, .keep⟩
/-- CLE_CH_STATUS.MISS_COUNT, bits 31:16, RO (13_control_engine.md). -/
def cleChStatusMissCount : Field := ⟨.cleChStatus, 16, 16, .ro, (.val 0), (.val 0), .keep, .keep⟩
/-- CLE_STATS.DISCARD, bits 15:0, RO (13_control_engine.md). -/
def cleStatsDiscard : Field := ⟨.cleStats, 0, 16, .ro, (.val 0), (.val 0), .keep, .keep⟩
/-- CLE_STATS.CLAMP, bits 31:16, RO (13_control_engine.md). -/
def cleStatsClamp : Field := ⟨.cleStats, 16, 16, .ro, (.val 0), (.val 0), .keep, .keep⟩
/-- CLE_STATS.RATE_DROP, bits 47:32, RO (13_control_engine.md). -/
def cleStatsRateDrop : Field := ⟨.cleStats, 32, 16, .ro, (.val 0), (.val 0), .keep, .keep⟩
/-- CLE_STATS.REJECTED, bits 63:48, RO (13_control_engine.md). -/
def cleStatsRejected : Field := ⟨.cleStats, 48, 16, .ro, (.val 0), (.val 0), .keep, .keep⟩
/-- JP_CTRL.PORT, bits 4:0, RW (13_control_engine.md). -/
def jpCtrlPort : Field := ⟨.jpCtrl, 0, 5, .rw, (.val 0), (.val 0), .keep, .keep⟩
/-- JP_CTRL.DRIVE, bits 13:8, RW (13_control_engine.md). -/
def jpCtrlDrive : Field := ⟨.jpCtrl, 8, 6, .rw, (.val 0), (.val 0), .keep, .keep⟩
/-- JP_CTRL.REENABLE, bits 16:16, WO (13_control_engine.md). -/
def jpCtrlReenable : Field := ⟨.jpCtrl, 16, 1, .wo, (.val 0), (.val 0), (.val 0), (.val 0)⟩
/-- JP_PORT.RATE, bits 2:0, RW (13_control_engine.md). -/
def jpPortRate : Field := ⟨.jpPort, 0, 3, .rw, (.val 0), (.val 0), .keep, .keep⟩
/-- JP_PORT.RX_INV, bits 8:8, RO (13_control_engine.md). -/
def jpPortRxInv : Field := ⟨.jpPort, 8, 1, .ro, (.val 0), (.val 0), .keep, .keep⟩
/-- JP_PORT.TX_INV, bits 9:9, RO (13_control_engine.md). -/
def jpPortTxInv : Field := ⟨.jpPort, 9, 1, .ro, (.val 0), (.val 0), .keep, .keep⟩
/-- JP_PORT.CRC_ERR, bits 31:16, RO (13_control_engine.md). -/
def jpPortCrcErr : Field := ⟨.jpPort, 16, 16, .ro, (.val 0), (.val 0), .keep, .keep⟩
/-- JP_DRIVE_STATUS.STATE, bits 1:0, RO (13_control_engine.md). -/
def jpDriveStatusState : Field := ⟨.jpDriveStatus, 0, 2, .ro, (.val 0), (.val 0), .keep, .keep⟩
/-- JP_DRIVE_STATUS.MISS_RUN, bits 15:8, RO (13_control_engine.md). -/
def jpDriveStatusMissRun : Field := ⟨.jpDriveStatus, 8, 8, .ro, (.val 0), (.val 0), .keep, .keep⟩
/-- JP_DRIVE_STATUS.LOST_COUNT, bits 31:16, RO (13_control_engine.md). -/
def jpDriveStatusLostCount : Field := ⟨.jpDriveStatus, 16, 16, .ro, (.val 0), (.val 0), .keep, .keep⟩
/-- JP_DL_CFG.TCLASS, bits 2:0, RW (13_control_engine.md). -/
def jpDlCfgTclass : Field := ⟨.jpDlCfg, 0, 3, .rw, (.val 7), (.val 7), .keep, .keep⟩
/-- JP_SPI_CFG.DIV0, bits 7:0, RW (13_control_engine.md). -/
def jpSpiCfgDiv0 : Field := ⟨.jpSpiCfg, 0, 8, .rw, (.val 9), (.val 9), .keep, .keep⟩
/-- JP_SPI_CFG.DIV1, bits 23:16, RW (13_control_engine.md). -/
def jpSpiCfgDiv1 : Field := ⟨.jpSpiCfg, 16, 8, .rw, (.val 9), (.val 9), .keep, .keep⟩
/-- JP_SPI_CFG.DIV2, bits 39:32, RW (13_control_engine.md). -/
def jpSpiCfgDiv2 : Field := ⟨.jpSpiCfg, 32, 8, .rw, (.val 9), (.val 9), .keep, .keep⟩
/-- JP_SPI_CFG.DIV3, bits 55:48, RW (13_control_engine.md). -/
def jpSpiCfgDiv3 : Field := ⟨.jpSpiCfg, 48, 8, .rw, (.val 9), (.val 9), .keep, .keep⟩
/-- JP_SPI_CFG.CPOL0, bits 8:8, RW (13_control_engine.md). -/
def jpSpiCfgCpol0 : Field := ⟨.jpSpiCfg, 8, 1, .rw, (.val 0), (.val 0), .keep, .keep⟩
/-- JP_SPI_CFG.CPOL1, bits 24:24, RW (13_control_engine.md). -/
def jpSpiCfgCpol1 : Field := ⟨.jpSpiCfg, 24, 1, .rw, (.val 0), (.val 0), .keep, .keep⟩
/-- JP_SPI_CFG.CPOL2, bits 40:40, RW (13_control_engine.md). -/
def jpSpiCfgCpol2 : Field := ⟨.jpSpiCfg, 40, 1, .rw, (.val 0), (.val 0), .keep, .keep⟩
/-- JP_SPI_CFG.CPOL3, bits 56:56, RW (13_control_engine.md). -/
def jpSpiCfgCpol3 : Field := ⟨.jpSpiCfg, 56, 1, .rw, (.val 0), (.val 0), .keep, .keep⟩
/-- JP_SPI_CFG.CPHA0, bits 9:9, RW (13_control_engine.md). -/
def jpSpiCfgCpha0 : Field := ⟨.jpSpiCfg, 9, 1, .rw, (.val 0), (.val 0), .keep, .keep⟩
/-- JP_SPI_CFG.CPHA1, bits 25:25, RW (13_control_engine.md). -/
def jpSpiCfgCpha1 : Field := ⟨.jpSpiCfg, 25, 1, .rw, (.val 0), (.val 0), .keep, .keep⟩
/-- JP_SPI_CFG.CPHA2, bits 41:41, RW (13_control_engine.md). -/
def jpSpiCfgCpha2 : Field := ⟨.jpSpiCfg, 41, 1, .rw, (.val 0), (.val 0), .keep, .keep⟩
/-- JP_SPI_CFG.CPHA3, bits 57:57, RW (13_control_engine.md). -/
def jpSpiCfgCpha3 : Field := ⟨.jpSpiCfg, 57, 1, .rw, (.val 0), (.val 0), .keep, .keep⟩
/-- JP_LINE.RX_OPEN, bits 0:0, RO (20_electrical_mechanical.md). -/
def jpLineRxOpen : Field := ⟨.jpLine, 0, 1, .ro, (.val 0), (.val 0), .keep, .keep⟩
/-- JP_LINE.RX_SHORT_GND, bits 1:1, RO (20_electrical_mechanical.md). -/
def jpLineRxShortGnd : Field := ⟨.jpLine, 1, 1, .ro, (.val 0), (.val 0), .keep, .keep⟩
/-- JP_LINE.RX_SHORT_SUPPLY, bits 2:2, RO (20_electrical_mechanical.md). -/
def jpLineRxShortSupply : Field := ⟨.jpLine, 2, 1, .ro, (.val 0), (.val 0), .keep, .keep⟩
/-- JP_LINE.TX_NO_LOAD, bits 3:3, RO (20_electrical_mechanical.md). -/
def jpLineTxNoLoad : Field := ⟨.jpLine, 3, 1, .ro, (.val 0), (.val 0), .keep, .keep⟩
/-- JP_LINE.TX_SHORT, bits 4:4, RO (20_electrical_mechanical.md). -/
def jpLineTxShort : Field := ⟨.jpLine, 4, 1, .ro, (.val 0), (.val 0), .keep, .keep⟩
/-- JP_LINE.RX_TERM, bits 8:8, RW (20_electrical_mechanical.md). -/
def jpLineRxTerm : Field := ⟨.jpLine, 8, 1, .rw, (.val 1), (.val 1), .keep, .keep⟩
/-- JP_LINE.FAULT_COUNT, bits 31:16, RO (20_electrical_mechanical.md). -/
def jpLineFaultCount : Field := ⟨.jpLine, 16, 16, .ro, (.val 0), (.val 0), .keep, .keep⟩
/-- JP_ETH_CFG.MODE0, bits 1:0, RW (20_electrical_mechanical.md). -/
def jpEthCfgMode0 : Field := ⟨.jpEthCfg, 0, 2, .rw, (.val 0), (.val 0), .keep, .keep⟩
/-- JP_ETH_CFG.MODE1, bits 9:8, RW (20_electrical_mechanical.md). -/
def jpEthCfgMode1 : Field := ⟨.jpEthCfg, 8, 2, .rw, (.val 0), (.val 0), .keep, .keep⟩
/-- JP_ETH_CFG.MODE2, bits 17:16, RW (20_electrical_mechanical.md). -/
def jpEthCfgMode2 : Field := ⟨.jpEthCfg, 16, 2, .rw, (.val 0), (.val 0), .keep, .keep⟩
/-- JP_ETH_CFG.MODE3, bits 25:24, RW (20_electrical_mechanical.md). -/
def jpEthCfgMode3 : Field := ⟨.jpEthCfg, 24, 2, .rw, (.val 0), (.val 0), .keep, .keep⟩
/-- JP_ETH_CFG.TX_POL0, bits 2:2, RW (20_electrical_mechanical.md). -/
def jpEthCfgTxPol0 : Field := ⟨.jpEthCfg, 2, 1, .rw, (.val 0), (.val 0), .keep, .keep⟩
/-- JP_ETH_CFG.TX_POL1, bits 10:10, RW (20_electrical_mechanical.md). -/
def jpEthCfgTxPol1 : Field := ⟨.jpEthCfg, 10, 1, .rw, (.val 0), (.val 0), .keep, .keep⟩
/-- JP_ETH_CFG.TX_POL2, bits 18:18, RW (20_electrical_mechanical.md). -/
def jpEthCfgTxPol2 : Field := ⟨.jpEthCfg, 18, 1, .rw, (.val 0), (.val 0), .keep, .keep⟩
/-- JP_ETH_CFG.TX_POL3, bits 26:26, RW (20_electrical_mechanical.md). -/
def jpEthCfgTxPol3 : Field := ⟨.jpEthCfg, 26, 1, .rw, (.val 0), (.val 0), .keep, .keep⟩
/-- JP_ETH_CFG.RX_POL0, bits 3:3, RW (20_electrical_mechanical.md). -/
def jpEthCfgRxPol0 : Field := ⟨.jpEthCfg, 3, 1, .rw, (.val 0), (.val 0), .keep, .keep⟩
/-- JP_ETH_CFG.RX_POL1, bits 11:11, RW (20_electrical_mechanical.md). -/
def jpEthCfgRxPol1 : Field := ⟨.jpEthCfg, 11, 1, .rw, (.val 0), (.val 0), .keep, .keep⟩
/-- JP_ETH_CFG.RX_POL2, bits 19:19, RW (20_electrical_mechanical.md). -/
def jpEthCfgRxPol2 : Field := ⟨.jpEthCfg, 19, 1, .rw, (.val 0), (.val 0), .keep, .keep⟩
/-- JP_ETH_CFG.RX_POL3, bits 27:27, RW (20_electrical_mechanical.md). -/
def jpEthCfgRxPol3 : Field := ⟨.jpEthCfg, 27, 1, .rw, (.val 0), (.val 0), .keep, .keep⟩
/-- JP_ETH_CFG.LINK0, bits 4:4, RO (20_electrical_mechanical.md). -/
def jpEthCfgLink0 : Field := ⟨.jpEthCfg, 4, 1, .ro, (.val 0), (.val 0), .keep, .keep⟩
/-- JP_ETH_CFG.LINK1, bits 12:12, RO (20_electrical_mechanical.md). -/
def jpEthCfgLink1 : Field := ⟨.jpEthCfg, 12, 1, .ro, (.val 0), (.val 0), .keep, .keep⟩
/-- JP_ETH_CFG.LINK2, bits 20:20, RO (20_electrical_mechanical.md). -/
def jpEthCfgLink2 : Field := ⟨.jpEthCfg, 20, 1, .ro, (.val 0), (.val 0), .keep, .keep⟩
/-- JP_ETH_CFG.LINK3, bits 28:28, RO (20_electrical_mechanical.md). -/
def jpEthCfgLink3 : Field := ⟨.jpEthCfg, 28, 1, .ro, (.val 0), (.val 0), .keep, .keep⟩
/-- HLT_CTRL.ENABLE, bits 0:0, RW (14_health_and_margins.md). -/
def hltCtrlEnable : Field := ⟨.hltCtrl, 0, 1, .rw, (.val 0), (.val 0), .keep, .keep⟩
/-- HLT_CTRL.REPLAN, bits 1:1, WO (14_health_and_margins.md). -/
def hltCtrlReplan : Field := ⟨.hltCtrl, 1, 1, .wo, (.val 0), (.val 0), (.val 0), (.val 0)⟩
/-- HLT_CTRL.AXIS_RESET, bits 2:2, WO (14_health_and_margins.md). -/
def hltCtrlAxisReset : Field := ⟨.hltCtrl, 2, 1, .wo, (.val 0), (.val 0), (.val 0), (.val 0)⟩
/-- HLT_CTRL.AXIS_KEEP, bits 3:3, WO (14_health_and_margins.md). -/
def hltCtrlAxisKeep : Field := ⟨.hltCtrl, 3, 1, .wo, (.val 0), (.val 0), (.val 0), (.val 0)⟩
/-- HLT_CTRL.AXIS_SEL, bits 13:8, RW (14_health_and_margins.md). -/
def hltCtrlAxisSel : Field := ⟨.hltCtrl, 8, 6, .rw, (.val 0), (.val 0), .keep, .keep⟩
/-- HLT_STATUS.GEN, bits 15:0, RO (14_health_and_margins.md). -/
def hltStatusGen : Field := ⟨.hltStatus, 0, 16, .ro, (.val 0), (.val 0), .keep, .keep⟩
/-- HLT_STATUS.CFG_ERR, bits 16:16, W1C (14_health_and_margins.md). -/
def hltStatusCfgErr : Field := ⟨.hltStatus, 16, 1, .w1c, (.val 0), (.val 0), .keep, .keep⟩
/-- HLT_STATUS.FLASH_ERR, bits 17:17, W1C (14_health_and_margins.md). -/
def hltStatusFlashErr : Field := ⟨.hltStatus, 17, 1, .w1c, (.val 0), (.val 0), .keep, .keep⟩
/-- HLT_STATUS.REPLAN_PENDING, bits 18:18, RO (14_health_and_margins.md). -/
def hltStatusReplanPending : Field := ⟨.hltStatus, 18, 1, .ro, (.val 0), (.val 0), .keep, .keep⟩
/-- HLT_STATUS.ON_HOURS, bits 63:32, RO (14_health_and_margins.md). -/
def hltStatusOnHours : Field := ⟨.hltStatus, 32, 32, .ro, .src, .src, .keep, .keep⟩
/-- HLT_TIMING.HEALTH_S, bits 11:0, RW (14_health_and_margins.md). -/
def hltTimingHealthS : Field := ⟨.hltTiming, 0, 12, .rw, (.val 60), (.val 60), .keep, .keep⟩
/-- HLT_FEED_CFG.DIE, bits 1:0, RW (14_health_and_margins.md). -/
def hltFeedCfgDie : Field := ⟨.hltFeedCfg, 0, 2, .rw, (.val 0), (.val 0), .keep, .keep⟩
/-- HLT_FEED_CFG.STREAM, bits 15:8, RW (14_health_and_margins.md). -/
def hltFeedCfgStream : Field := ⟨.hltFeedCfg, 8, 8, .rw, (.val 0), (.val 0), .keep, .keep⟩
/-- HLT_FEED_CFG.TOKEN, bits 23:16, RW (14_health_and_margins.md). -/
def hltFeedCfgToken : Field := ⟨.hltFeedCfg, 16, 8, .rw, (.val 255), (.val 255), .keep, .keep⟩
/-- HLT_FEED_CFG.COUNT, bits 29:24, RW (14_health_and_margins.md). -/
def hltFeedCfgCount : Field := ⟨.hltFeedCfg, 24, 6, .rw, (.val 2), (.val 2), .keep, .keep⟩
/-- HLT_FEED_CFG.FEED_MS, bits 41:32, RW (14_health_and_margins.md). -/
def hltFeedCfgFeedMs : Field := ⟨.hltFeedCfg, 32, 10, .rw, (.val 10), (.val 10), .keep, .keep⟩
/-- HLT_FEED_ADDR.ADDR, bits 47:16, RW (14_health_and_margins.md). -/
def hltFeedAddrAddr : Field := ⟨.hltFeedAddr, 16, 32, .rw, (.val 0), (.val 0), .keep, .keep⟩
/-- HLT_SCORE_ADDR.ADDR, bits 47:9, RW (14_health_and_margins.md). -/
def hltScoreAddrAddr : Field := ⟨.hltScoreAddr, 9, 39, .rw, (.val 0), (.val 0), .keep, .keep⟩
/-- HLT_MARGIN_SEL.DIE, bits 2:0, RW (14_health_and_margins.md). -/
def hltMarginSelDie : Field := ⟨.hltMarginSel, 0, 3, .rw, (.val 0), (.val 0), .keep, .keep⟩
/-- HLT_MARGIN.G1, bits 4:0, RO (14_health_and_margins.md). -/
def hltMarginG1 : Field := ⟨.hltMargin, 0, 5, .ro, .src, .src, .keep, .keep⟩
/-- HLT_MARGIN.G2, bits 9:5, RO (14_health_and_margins.md). -/
def hltMarginG2 : Field := ⟨.hltMargin, 5, 5, .ro, .src, .src, .keep, .keep⟩
/-- HLT_MARGIN.G3, bits 14:10, RO (14_health_and_margins.md). -/
def hltMarginG3 : Field := ⟨.hltMargin, 10, 5, .ro, .src, .src, .keep, .keep⟩
/-- HLT_MARGIN.G4, bits 19:15, RO (14_health_and_margins.md). -/
def hltMarginG4 : Field := ⟨.hltMargin, 15, 5, .ro, .src, .src, .keep, .keep⟩
/-- HLT_MARGIN.G5, bits 24:20, RO (14_health_and_margins.md). -/
def hltMarginG5 : Field := ⟨.hltMargin, 20, 5, .ro, .src, .src, .keep, .keep⟩
/-- HLT_MARGIN.G6, bits 29:25, RO (14_health_and_margins.md). -/
def hltMarginG6 : Field := ⟨.hltMargin, 25, 5, .ro, .src, .src, .keep, .keep⟩
/-- HLT_MARGIN.G7, bits 34:30, RO (14_health_and_margins.md). -/
def hltMarginG7 : Field := ⟨.hltMargin, 30, 5, .ro, .src, .src, .keep, .keep⟩
/-- HLT_MARGIN.G8, bits 39:35, RO (14_health_and_margins.md). -/
def hltMarginG8 : Field := ⟨.hltMargin, 35, 5, .ro, .src, .src, .keep, .keep⟩
/-- HLT_MARGIN.WITHDRAWN, bits 47:40, RO (14_health_and_margins.md). -/
def hltMarginWithdrawn : Field := ⟨.hltMargin, 40, 8, .ro, .src, .src, .keep, .keep⟩
/-- HLT_MARGIN.EXTRA, bits 52:48, RW (14_health_and_margins.md). -/
def hltMarginExtra : Field := ⟨.hltMargin, 48, 5, .rw, (.val 0), (.val 0), .keep, .keep⟩
/-- HLT_CLAMP.COUNT, bits 15:0, RO (14_health_and_margins.md). -/
def hltClampCount : Field := ⟨.hltClamp, 0, 16, .ro, (.val 0), (.val 0), .keep, .keep⟩
/-- HLT_CLAMP.CLASS, bits 17:16, RO (14_health_and_margins.md). -/
def hltClampClass : Field := ⟨.hltClamp, 16, 2, .ro, (.val 0), (.val 0), .keep, .keep⟩
/-- HLT_CLAMP.BLOCK, bits 23:20, RO (14_health_and_margins.md). -/
def hltClampBlock : Field := ⟨.hltClamp, 20, 4, .ro, (.val 0), (.val 0), .keep, .keep⟩
/-- PWR_STATE_LO.STATE, bits 63:0, RO (15_power_domains.md). -/
def pwrStateLoState : Field := ⟨.pwrStateLo, 0, 64, .ro, .src, .src, .keep, .keep⟩
/-- PWR_STATE_HI.STATE, bits 63:0, RO (15_power_domains.md). -/
def pwrStateHiState : Field := ⟨.pwrStateHi, 0, 64, .ro, .src, .src, .keep, .keep⟩
/-- PWR_BOOT_ON.DOMAINS, bits 63:0, RW (15_power_domains.md). -/
def pwrBootOnDomains : Field := ⟨.pwrBootOn, 0, 64, .rw, (.val 18446744073709289471), .keep, .keep, .keep⟩
/-- PWR_WAKE_ON.DOMAINS, bits 63:0, RW (15_power_domains.md). -/
def pwrWakeOnDomains : Field := ⟨.pwrWakeOn, 0, 64, .rw, (.val 0), .keep, .keep, .keep⟩
/-- PWR_WAKE_CFG.SRC, bits 10:0, RW (15_power_domains.md). -/
def pwrWakeCfgSrc : Field := ⟨.pwrWakeCfg, 0, 11, .rw, (.val 0), .keep, .keep, .keep⟩
/-- PWR_WAKE_STATUS.SEEN, bits 10:0, W1C (15_power_domains.md). -/
def pwrWakeStatusSeen : Field := ⟨.pwrWakeStatus, 0, 11, .w1c, (.val 0), .keep, .keep, .keep⟩
/-- PWR_WAKE_STATUS.REPLAY, bits 16:16, RO (15_power_domains.md). -/
def pwrWakeStatusReplay : Field := ⟨.pwrWakeStatus, 16, 1, .ro, (.val 0), (.val 0), .keep, .keep⟩
/-- PWR_ALARM.COMPARE, bits 47:0, RW (15_power_domains.md). -/
def pwrAlarmCompare : Field := ⟨.pwrAlarm, 0, 48, .rw, (.val 0), .keep, .keep, .keep⟩
/-- PWR_ACORN_COUNT.TICKS, bits 47:0, RO (15_power_domains.md). -/
def pwrAcornCountTicks : Field := ⟨.pwrAcornCount, 0, 48, .ro, (.val 0), .keep, .keep, .keep⟩
/-- PWR_AVS_STATUS.FAIL, bits 4:0, RO (15_power_domains.md). -/
def pwrAvsStatusFail : Field := ⟨.pwrAvsStatus, 0, 5, .ro, (.val 0), (.val 0), .keep, .keep⟩
/-- PWR_AVS_STATUS.RESENDS, bits 31:16, RO (15_power_domains.md). -/
def pwrAvsStatusResends : Field := ⟨.pwrAvsStatus, 16, 16, .ro, (.val 0), (.val 0), .keep, .keep⟩
/-- PWR_LOG_COUNT.COUNT, bits 31:0, RO (15_power_domains.md). -/
def pwrLogCountCount : Field := ⟨.pwrLogCount, 0, 32, .ro, (.val 0), .keep, .keep, .keep⟩
/-- PWR_RESET.KEY, bits 15:0, WO (19_reset_and_startup.md). -/
def pwrResetKey : Field := ⟨.pwrReset, 0, 16, .wo, (.val 0), (.val 0), (.val 0), (.val 0)⟩
/-- PWR_RESET.MODULE, bits 16:16, WO (19_reset_and_startup.md). -/
def pwrResetModule : Field := ⟨.pwrReset, 16, 1, .wo, (.val 0), (.val 0), (.val 0), (.val 0)⟩
/-- PWR_RESET_CAUSE.LAST, bits 2:0, RO (19_reset_and_startup.md). -/
def pwrResetCauseLast : Field := ⟨.pwrResetCause, 0, 3, .ro, (.val 0), .src, .keep, .keep⟩
/-- PWR_RESET_CAUSE.FW_READY, bits 8:8, RO (19_reset_and_startup.md). -/
def pwrResetCauseFwReady : Field := ⟨.pwrResetCause, 8, 1, .ro, (.val 0), (.val 0), .keep, .keep⟩
/-- PWR_RESET_CAUSE.MODULE_COUNT, bits 31:16, RO (19_reset_and_startup.md). -/
def pwrResetCauseModuleCount : Field := ⟨.pwrResetCause, 16, 16, .ro, (.val 0), .keep, .keep, .keep⟩
/-- PWR_SPWR_CFG.EN, bits 7:0, RW (20_electrical_mechanical.md). -/
def pwrSpwrCfgEn : Field := ⟨.pwrSpwrCfg, 0, 8, .rw, (.val 0), .keep, .keep, .keep⟩
/-- PWR_SPWR_CFG.ILIM0, bits 19:16, RW (20_electrical_mechanical.md). -/
def pwrSpwrCfgIlim0 : Field := ⟨.pwrSpwrCfg, 16, 4, .rw, (.val 0), .keep, .keep, .keep⟩
/-- PWR_SPWR_CFG.ILIM1, bits 23:20, RW (20_electrical_mechanical.md). -/
def pwrSpwrCfgIlim1 : Field := ⟨.pwrSpwrCfg, 20, 4, .rw, (.val 0), .keep, .keep, .keep⟩
/-- PWR_SPWR_CFG.ILIM2, bits 27:24, RW (20_electrical_mechanical.md). -/
def pwrSpwrCfgIlim2 : Field := ⟨.pwrSpwrCfg, 24, 4, .rw, (.val 0), .keep, .keep, .keep⟩
/-- PWR_SPWR_CFG.ILIM3, bits 31:28, RW (20_electrical_mechanical.md). -/
def pwrSpwrCfgIlim3 : Field := ⟨.pwrSpwrCfg, 28, 4, .rw, (.val 0), .keep, .keep, .keep⟩
/-- PWR_SPWR_CFG.ILIM4, bits 35:32, RW (20_electrical_mechanical.md). -/
def pwrSpwrCfgIlim4 : Field := ⟨.pwrSpwrCfg, 32, 4, .rw, (.val 0), .keep, .keep, .keep⟩
/-- PWR_SPWR_CFG.ILIM5, bits 39:36, RW (20_electrical_mechanical.md). -/
def pwrSpwrCfgIlim5 : Field := ⟨.pwrSpwrCfg, 36, 4, .rw, (.val 0), .keep, .keep, .keep⟩
/-- PWR_SPWR_CFG.ILIM6, bits 43:40, RW (20_electrical_mechanical.md). -/
def pwrSpwrCfgIlim6 : Field := ⟨.pwrSpwrCfg, 40, 4, .rw, (.val 0), .keep, .keep, .keep⟩
/-- PWR_SPWR_CFG.ILIM7, bits 47:44, RW (20_electrical_mechanical.md). -/
def pwrSpwrCfgIlim7 : Field := ⟨.pwrSpwrCfg, 44, 4, .rw, (.val 0), .keep, .keep, .keep⟩
/-- PWR_SPWR_CFG.RETRIES, bits 51:48, RW (20_electrical_mechanical.md). -/
def pwrSpwrCfgRetries : Field := ⟨.pwrSpwrCfg, 48, 4, .rw, (.val 3), .keep, .keep, .keep⟩
/-- PWR_SPWR_STATUS.ON, bits 7:0, RO (20_electrical_mechanical.md). -/
def pwrSpwrStatusOn : Field := ⟨.pwrSpwrStatus, 0, 8, .ro, (.val 0), .keep, .keep, .keep⟩
/-- PWR_SPWR_STATUS.SHORT, bits 15:8, W1C (20_electrical_mechanical.md). -/
def pwrSpwrStatusShort : Field := ⟨.pwrSpwrStatus, 8, 8, .w1c, (.val 0), .keep, .keep, .keep⟩
/-- PWR_SPWR_STATUS.OPEN, bits 23:16, RO (20_electrical_mechanical.md). -/
def pwrSpwrStatusOpen : Field := ⟨.pwrSpwrStatus, 16, 8, .ro, (.val 0), .keep, .keep, .keep⟩
/-- PWR_SPWR_STATUS.BACKFEED, bits 31:24, W1C (20_electrical_mechanical.md). -/
def pwrSpwrStatusBackfeed : Field := ⟨.pwrSpwrStatus, 24, 8, .w1c, (.val 0), .keep, .keep, .keep⟩
/-- PWR_SPWR_STATUS.REFUSED, bits 39:32, W1C (20_electrical_mechanical.md). -/
def pwrSpwrStatusRefused : Field := ⟨.pwrSpwrStatus, 32, 8, .w1c, (.val 0), .keep, .keep, .keep⟩
/-- PWR_SPWR_STATUS.LATCHED, bits 47:40, RO (20_electrical_mechanical.md). -/
def pwrSpwrStatusLatched : Field := ⟨.pwrSpwrStatus, 40, 8, .ro, (.val 0), .keep, .keep, .keep⟩
/-- LIM_CAP.CAP, bits 15:0, RO (16_power_limits.md). -/
def limCapCap : Field := ⟨.limCap, 0, 16, .ro, (.val 450), .keep, .keep, .keep⟩
/-- LIM_CAP.EFFECTIVE, bits 31:16, RO (16_power_limits.md). -/
def limCapEffective : Field := ⟨.limCap, 16, 16, .ro, (.val 450), (.val 450), .keep, .keep⟩
/-- LIM_CAP.WINDOW_MS, bits 41:32, RO (16_power_limits.md). -/
def limCapWindowMs : Field := ⟨.limCap, 32, 10, .ro, (.val 10), .keep, .keep, .keep⟩
/-- LIM_POLICY.MAX_OP, bits 15:0, RO (16_power_limits.md). -/
def limPolicyMaxOp : Field := ⟨.limPolicy, 0, 16, .ro, (.val 34952), .keep, .keep, .keep⟩
/-- LIM_POLICY.FLOOR, bits 31:16, RO (16_power_limits.md). -/
def limPolicyFloor : Field := ⟨.limPolicy, 16, 16, .ro, (.val 17476), .keep, .keep, .keep⟩
/-- LIM_POLICY.THROTTLE, bits 39:32, RO (16_power_limits.md). -/
def limPolicyThrottle : Field := ⟨.limPolicy, 32, 8, .ro, (.val 100), .keep, .keep, .keep⟩
/-- LIM_POLICY.SKEW_PCT, bits 47:40, RO (16_power_limits.md). -/
def limPolicySkewPct : Field := ⟨.limPolicy, 40, 8, .ro, (.val 5), .keep, .keep, .keep⟩
/-- LIM_BATT.BATT_LOW, bits 15:0, RO (16_power_limits.md). -/
def limBattBattLow : Field := ⟨.limBatt, 0, 16, .ro, (.val 220), .keep, .keep, .keep⟩
/-- LIM_BATT.BATT_CAP, bits 31:16, RO (16_power_limits.md). -/
def limBattBattCap : Field := ⟨.limBatt, 16, 16, .ro, (.val 250), .keep, .keep, .keep⟩
/-- LIM_BATT.LOW, bits 32:32, RO (16_power_limits.md). -/
def limBattLow : Field := ⟨.limBatt, 32, 1, .ro, (.val 0), (.val 0), .keep, .keep⟩
/-- LIM_POWER.LAST, bits 15:0, RO (16_power_limits.md). -/
def limPowerLast : Field := ⟨.limPower, 0, 16, .ro, (.val 0), (.val 0), .keep, .keep⟩
/-- LIM_POWER.MEAN, bits 31:16, RO (16_power_limits.md). -/
def limPowerMean : Field := ⟨.limPower, 16, 16, .ro, (.val 0), (.val 0), .keep, .keep⟩
/-- LIM_POWER.SENSOR, bits 47:32, RO (16_power_limits.md). -/
def limPowerSensor : Field := ⟨.limPower, 32, 16, .ro, (.val 0), (.val 0), .keep, .keep⟩
/-- LIM_POWER.J3_MV, bits 63:48, RO (16_power_limits.md). -/
def limPowerJ3Mv : Field := ⟨.limPower, 48, 16, .ro, (.val 0), (.val 0), .keep, .keep⟩
/-- LIM_STATUS.CAP_UNREACHABLE, bits 0:0, RO (16_power_limits.md). -/
def limStatusCapUnreachable : Field := ⟨.limStatus, 0, 1, .ro, (.val 0), (.val 0), .keep, .keep⟩
/-- LIM_STATUS.FLOOR_BROKEN, bits 4:1, RO (16_power_limits.md). -/
def limStatusFloorBroken : Field := ⟨.limStatus, 1, 4, .ro, (.val 0), (.val 0), .keep, .keep⟩
/-- LIM_STATUS.TRIPPED, bits 9:5, RO (16_power_limits.md). -/
def limStatusTripped : Field := ⟨.limStatus, 5, 5, .ro, (.val 0), .keep, .keep, .keep⟩
/-- LIM_STATUS.SLOTS_M1, bits 31:16, RO (16_power_limits.md). -/
def limStatusSlotsM1 : Field := ⟨.limStatus, 16, 16, .ro, (.val 65535), (.val 65535), .keep, .keep⟩
/-- LIM_TEMP.TJ, bits 39:0, RO (16_power_limits.md). -/
def limTempTj : Field := ⟨.limTemp, 0, 40, .ro, .src, .src, .keep, .keep⟩
/-- LIM_THR_SEL.DIE, bits 1:0, RW (16_power_limits.md). -/
def limThrSelDie : Field := ⟨.limThrSel, 0, 2, .rw, (.val 0), (.val 0), .keep, .keep⟩
/-- LIM_THR_SEL.REASON, bits 10:8, RW (16_power_limits.md). -/
def limThrSelReason : Field := ⟨.limThrSel, 8, 3, .rw, (.val 0), (.val 0), .keep, .keep⟩
/-- LIM_THR_US.US, bits 63:0, RO (16_power_limits.md). -/
def limThrUsUs : Field := ⟨.limThrUs, 0, 64, .ro, (.val 0), (.val 0), .keep, .keep⟩
/-- SAFE_CTRL.ARM, bits 0:0, WO (17_functional_safety.md). -/
def safeCtrlArm : Field := ⟨.safeCtrl, 0, 1, .wo, (.val 0), (.val 0), (.val 0), (.val 0)⟩
/-- SAFE_CTRL.DROP, bits 1:1, WO (17_functional_safety.md). -/
def safeCtrlDrop : Field := ⟨.safeCtrl, 1, 1, .wo, (.val 0), (.val 0), (.val 0), (.val 0)⟩
/-- SAFE_CTRL.TEST_EN, bits 2:2, RW (17_functional_safety.md). -/
def safeCtrlTestEn : Field := ⟨.safeCtrl, 2, 1, .rw, (.val 0), (.val 0), .keep, .keep⟩
/-- SAFE_CTRL.STAGE_SEL, bits 13:8, RW (17_functional_safety.md). -/
def safeCtrlStageSel : Field := ⟨.safeCtrl, 8, 6, .rw, (.val 0), (.val 0), .keep, .keep⟩
/-- SAFE_STATUS.OUT_A, bits 0:0, RO (17_functional_safety.md). -/
def safeStatusOutA : Field := ⟨.safeStatus, 0, 1, .ro, (.val 0), (.val 0), .keep, .keep⟩
/-- SAFE_STATUS.OUT_B, bits 1:1, RO (17_functional_safety.md). -/
def safeStatusOutB : Field := ⟨.safeStatus, 1, 1, .ro, (.val 0), (.val 0), .keep, .keep⟩
/-- SAFE_STATUS.FAULT, bits 2:2, RO (17_functional_safety.md). -/
def safeStatusFault : Field := ⟨.safeStatus, 2, 1, .ro, (.val 0), (.val 0), .keep, .keep⟩
/-- SAFE_STATUS.DROP_CAUSE, bits 7:4, RO (17_functional_safety.md). -/
def safeStatusDropCause : Field := ⟨.safeStatus, 4, 4, .ro, (.val 1), (.val 1), .keep, .keep⟩
/-- SAFE_STATUS.RESTARTING, bits 63:32, RO (17_functional_safety.md). -/
def safeStatusRestarting : Field := ⟨.safeStatus, 32, 32, .ro, (.val 0), (.val 0), .keep, .keep⟩
/-- SAFE_HELD.HELD, bits 31:0, RO (17_functional_safety.md). -/
def safeHeldHeld : Field := ⟨.safeHeld, 0, 32, .ro, (.val 0), (.val 0), .keep, .keep⟩
/-- SAFE_CFG.HUSK_JOBS, bits 31:0, RW (17_functional_safety.md). -/
def safeCfgHuskJobs : Field := ⟨.safeCfg, 0, 32, .rw, (.val 4294967295), (.val 4294967295), .keep, .keep⟩
/-- SAFE_CFG.NSS_ACTION, bits 33:32, RW (17_functional_safety.md). -/
def safeCfgNssAction : Field := ⟨.safeCfg, 32, 2, .rw, (.val 1), (.val 1), .keep, .keep⟩
/-- SAFE_CFG.RESTART_LIMIT, bits 39:36, RW (17_functional_safety.md). -/
def safeCfgRestartLimit : Field := ⟨.safeCfg, 36, 4, .rw, (.val 4), (.val 4), .keep, .keep⟩
/-- SAFE_STAGE_CFG.EN, bits 0:0, RW (17_functional_safety.md). -/
def safeStageCfgEn : Field := ⟨.safeStageCfg, 0, 1, .rw, (.val 0), (.val 0), .keep, .keep⟩
/-- SAFE_STAGE_CFG.SOURCE, bits 2:1, RW (17_functional_safety.md). -/
def safeStageCfgSource : Field := ⟨.safeStageCfg, 1, 2, .rw, (.val 0), (.val 0), .keep, .keep⟩
/-- SAFE_STAGE_CFG.STREAM, bits 15:8, RW (17_functional_safety.md). -/
def safeStageCfgStream : Field := ⟨.safeStageCfg, 8, 8, .rw, (.val 0), (.val 0), .keep, .keep⟩
/-- SAFE_STAGE_CFG.EARLY_US, bits 35:16, RW (17_functional_safety.md). -/
def safeStageCfgEarlyUs : Field := ⟨.safeStageCfg, 16, 20, .rw, (.val 0), (.val 0), .keep, .keep⟩
/-- SAFE_STAGE_CFG.LATE_US, bits 55:36, RW (17_functional_safety.md). -/
def safeStageCfgLateUs : Field := ⟨.safeStageCfg, 36, 20, .rw, (.val 0), (.val 0), .keep, .keep⟩
/-- SAFE_STAGE_STATUS.RING, bits 15:0, RO (17_functional_safety.md). -/
def safeStageStatusRing : Field := ⟨.safeStageStatus, 0, 16, .ro, (.val 0), (.val 0), .keep, .keep⟩
/-- SAFE_STAGE_STATUS.FAULTS, bits 31:16, RO (17_functional_safety.md). -/
def safeStageStatusFaults : Field := ⟨.safeStageStatus, 16, 16, .ro, (.val 0), (.val 0), .keep, .keep⟩
/-- SAFE_STAGE_STATUS.DUMMY_PASS, bits 47:32, RO (17_functional_safety.md). -/
def safeStageStatusDummyPass : Field := ⟨.safeStageStatus, 32, 16, .ro, (.val 0), (.val 0), .keep, .keep⟩
/-- SAFE_COUNT.MISMATCH, bits 15:0, RO (17_functional_safety.md). -/
def safeCountMismatch : Field := ⟨.safeCount, 0, 16, .ro, (.val 0), (.val 0), .keep, .keep⟩
/-- SAFE_COUNT.WATCHDOG, bits 31:16, RO (17_functional_safety.md). -/
def safeCountWatchdog : Field := ⟨.safeCount, 16, 16, .ro, (.val 0), (.val 0), .keep, .keep⟩
/-- SAFE_COUNT.DUMMY_FAIL, bits 47:32, RO (17_functional_safety.md). -/
def safeCountDummyFail : Field := ⟨.safeCount, 32, 16, .ro, (.val 0), (.val 0), .keep, .keep⟩
/-- SAFE_COUNT.SAFE_STATES, bits 63:48, RO (17_functional_safety.md). -/
def safeCountSafeStates : Field := ⟨.safeCount, 48, 16, .ro, (.val 0), (.val 0), .keep, .keep⟩
/-- SEC_STATE.LIFECYCLE, bits 1:0, RO (18_security_debug_update.md). -/
def secStateLifecycle : Field := ⟨.secState, 0, 2, .ro, .src, .src, .keep, .keep⟩
/-- SEC_STATE.OWNER_VALID, bits 7:4, RO (18_security_debug_update.md). -/
def secStateOwnerValid : Field := ⟨.secState, 4, 4, .ro, .src, .src, .keep, .keep⟩
/-- SEC_STATE.OWNER_REVOKED, bits 11:8, RO (18_security_debug_update.md). -/
def secStateOwnerRevoked : Field := ⟨.secState, 8, 4, .ro, .src, .src, .keep, .keep⟩
/-- SEC_STATE.VENDOR_REVOKED, bits 14:12, RO (18_security_debug_update.md). -/
def secStateVendorRevoked : Field := ⟨.secState, 12, 3, .ro, .src, .src, .keep, .keep⟩
/-- SEC_STATE.REQUIRE_SIGNED, bits 16:16, RO (18_security_debug_update.md). -/
def secStateRequireSigned : Field := ⟨.secState, 16, 1, .ro, .src, .src, .keep, .keep⟩
/-- SEC_STATE.DEBUG_DISABLE, bits 17:17, RO (18_security_debug_update.md). -/
def secStateDebugDisable : Field := ⟨.secState, 17, 1, .ro, .src, .src, .keep, .keep⟩
/-- SEC_STATE.FW_EPOCH, bits 38:32, RO (18_security_debug_update.md). -/
def secStateFwEpoch : Field := ⟨.secState, 32, 7, .ro, .src, .src, .keep, .keep⟩
/-- SEC_SERIAL.SERIAL, bits 63:0, RO (18_security_debug_update.md). -/
def secSerialSerial : Field := ⟨.secSerial, 0, 64, .ro, .src, .src, .keep, .keep⟩
/-- SEC_CMD.CODE, bits 7:0, RW (18_security_debug_update.md). -/
def secCmdCode : Field := ⟨.secCmd, 0, 8, .rw, (.val 0), (.val 0), .keep, .keep⟩
/-- SEC_CMD.GO, bits 8:8, WO (18_security_debug_update.md). -/
def secCmdGo : Field := ⟨.secCmd, 8, 1, .wo, (.val 0), (.val 0), (.val 0), (.val 0)⟩
/-- SEC_CMD.BUSY, bits 9:9, RO (18_security_debug_update.md). -/
def secCmdBusy : Field := ⟨.secCmd, 9, 1, .ro, (.val 0), (.val 0), .keep, .keep⟩
/-- SEC_CMD.RESULT, bits 23:16, RO (18_security_debug_update.md). -/
def secCmdResult : Field := ⟨.secCmd, 16, 8, .ro, (.val 0), (.val 0), .keep, .keep⟩
/-- DBG_STATUS.LEVEL, bits 1:0, RO (18_security_debug_update.md). -/
def dbgStatusLevel : Field := ⟨.dbgStatus, 0, 2, .ro, (.val 0), (.val 0), .keep, .keep⟩
/-- DBG_STATUS.SCOPE, bits 12:8, RO (18_security_debug_update.md). -/
def dbgStatusScope : Field := ⟨.dbgStatus, 8, 5, .ro, (.val 0), (.val 0), .keep, .keep⟩
/-- DBG_STATUS.LOCKOUT, bits 16:16, RO (18_security_debug_update.md). -/
def dbgStatusLockout : Field := ⟨.dbgStatus, 16, 1, .ro, (.val 0), (.val 0), .keep, .keep⟩
/-- DBG_STATUS.FAILS, bits 18:17, RO (18_security_debug_update.md). -/
def dbgStatusFails : Field := ⟨.dbgStatus, 17, 2, .ro, (.val 0), (.val 0), .keep, .keep⟩
/-- DBG_STATUS.NOT_ON, bits 19:19, W1C (18_security_debug_update.md). -/
def dbgStatusNotOn : Field := ⟨.dbgStatus, 19, 1, .w1c, (.val 0), (.val 0), .keep, .keep⟩
/-- DBG_STATUS.DENIED, bits 20:20, W1C (18_security_debug_update.md). -/
def dbgStatusDenied : Field := ⟨.dbgStatus, 20, 1, .w1c, (.val 0), (.val 0), .keep, .keep⟩
/-- DBG_STATUS.REMAIN_MIN, bits 42:32, RO (18_security_debug_update.md). -/
def dbgStatusRemainMin : Field := ⟨.dbgStatus, 32, 11, .ro, (.val 0), (.val 0), .keep, .keep⟩
/-- DBG_CTRL.CLOSE, bits 0:0, WO (18_security_debug_update.md). -/
def dbgCtrlClose : Field := ⟨.dbgCtrl, 0, 1, .wo, (.val 0), (.val 0), (.val 0), (.val 0)⟩
/-- UPD_STATUS.RUNNING, bits 0:0, RO (18_security_debug_update.md). -/
def updStatusRunning : Field := ⟨.updStatus, 0, 1, .ro, .src, .src, .keep, .keep⟩
/-- UPD_STATUS.RECOVERY, bits 1:1, RO (18_security_debug_update.md). -/
def updStatusRecovery : Field := ⟨.updStatus, 1, 1, .ro, .src, .src, .keep, .keep⟩
/-- UPD_STATUS.SESSION, bits 2:2, RO (18_security_debug_update.md). -/
def updStatusSession : Field := ⟨.updStatus, 2, 1, .ro, (.val 0), (.val 0), .keep, .keep⟩
/-- UPD_STATUS.STATE_A, bits 6:4, RO (18_security_debug_update.md). -/
def updStatusStateA : Field := ⟨.updStatus, 4, 3, .ro, .src, .src, .keep, .keep⟩
/-- UPD_STATUS.STATE_B, bits 10:8, RO (18_security_debug_update.md). -/
def updStatusStateB : Field := ⟨.updStatus, 8, 3, .ro, .src, .src, .keep, .keep⟩
/-- UPD_STATUS.TRIAL_S, bits 31:16, RO (18_security_debug_update.md). -/
def updStatusTrialS : Field := ⟨.updStatus, 16, 16, .ro, .src, .src, .keep, .keep⟩
/-- UPD_STATUS.RECEIVED, bits 63:32, RO (18_security_debug_update.md). -/
def updStatusReceived : Field := ⟨.updStatus, 32, 32, .ro, (.val 0), (.val 0), .keep, .keep⟩
/-- UPD_VERSION.RUNNING, bits 31:0, RO (18_security_debug_update.md). -/
def updVersionRunning : Field := ⟨.updVersion, 0, 32, .ro, .src, .src, .keep, .keep⟩
/-- UPD_VERSION.OTHER, bits 63:32, RO (18_security_debug_update.md). -/
def updVersionOther : Field := ⟨.updVersion, 32, 32, .ro, .src, .src, .keep, .keep⟩
/-- UPD_CFG.WD_RESET, bits 0:0, RW (18_security_debug_update.md). -/
def updCfgWdReset : Field := ⟨.updCfg, 0, 1, .rw, (.val 1), .keep, .keep, .keep⟩
/-- UPD_CFG.HOST_CONFIRM, bits 1:1, RW (18_security_debug_update.md). -/
def updCfgHostConfirm : Field := ⟨.updCfg, 1, 1, .rw, (.val 0), .keep, .keep, .keep⟩
/-- UPD_CTRL.HOST_OK, bits 0:0, WO (18_security_debug_update.md). -/
def updCtrlHostOk : Field := ⟨.updCtrl, 0, 1, .wo, (.val 0), (.val 0), (.val 0), (.val 0)⟩

end Fld

/-- Offset of a register in BAR0 (Table REG-2). -/
def regOffset : Reg → Nat
  | .idProduct => 0x00000
  | .idPci => 0x00008
  | .idIdcode => 0x00010
  | .idCap0 => 0x00018
  | .idCap1 => 0x00020
  | .idAccess => 0x00028
  | .idScratch => 0x00030
  | .hostCtrl => 0x10000
  | .hostErrStatus => 0x10008
  | .hostRingSel => 0x10010
  | .hostRingBase => 0x10018
  | .hostRingCfg => 0x10020
  | .hostLostCpl => 0x10040
  | .dlrTrickCfg => 0x20000
  | .dlrClassCfg => 0x20008
  | .dlrStats => 0x20010
  | .dlrStreamSel => 0x20018
  | .dlrStreamInfo => 0x20020
  | .fabCap => 0x30000
  | .fabDieSel => 0x30008
  | .fabDieStatus => 0x30010
  | .fabErrStatus => 0x30018
  | .fabCeCount => 0x30020
  | .fabLinkStatus => 0x30028
  | .fabSeqStatus => 0x30030
  | .fabEpochCount => 0x30038
  | .fabCnvStatus => 0x30040
  | .fabAttCfg => 0x30048
  | .fabAttStatus => 0x30050
  | .fabRecStatus => 0x30058
  | .memCap => 0x40000
  | .memT2Base => 0x40008
  | .memT2Size => 0x40010
  | .memLateCfg => 0x40018
  | .memMigCfg => 0x40020
  | .memEccCfg => 0x40028
  | .memUsage => 0x40030
  | .memErrStatus => 0x40038
  | .memPodSel => 0x40040
  | .memPodStatus => 0x40048
  | .timeCtrl => 0x50000
  | .timeStatus => 0x50008
  | .timeJump => 0x50010
  | .timeNow => 0x50018
  | .timePtpCfg => 0x50020
  | .timePtpLat => 0x50028
  | .timeGenStart => 0x50030
  | .timeGenCfg => 0x50038
  | .timeCapCfg => 0x50040
  | .timeCapData => 0x50048
  | .timeQbvCtrl => 0x50050
  | .fusCtrl => 0x60000
  | .fusStatus => 0x60008
  | .fusStart => 0x60010
  | .fusTiming => 0x60018
  | .fusGridCfg => 0x60020
  | .fusLiftCfg => 0x60028
  | .fusTrackCfg => 0x60030
  | .fusOutCfg => 0x60038
  | .fusOutAddr => 0x60040
  | .fusCsiCfg => 0x60048
  | .fusStats => 0x60050
  | .fusStats2 => 0x60058
  | .plnLattice => 0x70000
  | .plnCfg => 0x70008
  | .plnOccCfg => 0x70010
  | .plnWriter => 0x70018
  | .plnStatus => 0x70020
  | .plnStats => 0x70028
  | .plnStats2 => 0x70030
  | .cleCtrl => 0x80000
  | .cleStatus => 0x80008
  | .cleSnapCfg => 0x80010
  | .cleChStatus => 0x80018
  | .cleStats => 0x80020
  | .jpCtrl => 0x90000
  | .jpPort => 0x90008
  | .jpDriveStatus => 0x90010
  | .jpDlCfg => 0x90018
  | .jpSpiCfg => 0x90020
  | .jpLine => 0x90028
  | .jpEthCfg => 0x90030
  | .hltCtrl => 0xA0000
  | .hltStatus => 0xA0008
  | .hltTiming => 0xA0010
  | .hltFeedCfg => 0xA0018
  | .hltFeedAddr => 0xA0020
  | .hltScoreAddr => 0xA0028
  | .hltMarginSel => 0xA0030
  | .hltMargin => 0xA0038
  | .hltClamp => 0xA0040
  | .pwrStateLo => 0xB0000
  | .pwrStateHi => 0xB0008
  | .pwrBootOn => 0xB0010
  | .pwrWakeOn => 0xB0018
  | .pwrWakeCfg => 0xB0020
  | .pwrWakeStatus => 0xB0028
  | .pwrAlarm => 0xB0030
  | .pwrAcornCount => 0xB0038
  | .pwrAvsStatus => 0xB0040
  | .pwrLogCount => 0xB0048
  | .pwrReset => 0xB0050
  | .pwrResetCause => 0xB0058
  | .pwrSpwrCfg => 0xB0060
  | .pwrSpwrStatus => 0xB0068
  | .limCap => 0xC0000
  | .limPolicy => 0xC0008
  | .limBatt => 0xC0010
  | .limPower => 0xC0018
  | .limStatus => 0xC0020
  | .limTemp => 0xC0028
  | .limThrSel => 0xC0030
  | .limThrUs => 0xC0038
  | .safeCtrl => 0xD0000
  | .safeStatus => 0xD0008
  | .safeHeld => 0xD0010
  | .safeCfg => 0xD0018
  | .safeStageCfg => 0xD0020
  | .safeStageStatus => 0xD0028
  | .safeCount => 0xD0030
  | .secState => 0xE0000
  | .secSerial => 0xE0008
  | .secCmd => 0xE0010
  | .dbgStatus => 0xF0000
  | .dbgCtrl => 0xF0008
  | .updStatus => 0xF8000
  | .updVersion => 0xF8008
  | .updCfg => 0xF8010
  | .updCtrl => 0xF8018

/-- Width of a register in bits (Table REG-2). -/
def regWidth : Reg → Nat
  | .idProduct => 64
  | .idPci => 64
  | .idIdcode => 32
  | .idCap0 => 64
  | .idCap1 => 64
  | .idAccess => 64
  | .idScratch => 64
  | .hostCtrl => 32
  | .hostErrStatus => 32
  | .hostRingSel => 32
  | .hostRingBase => 64
  | .hostRingCfg => 64
  | .hostLostCpl => 32
  | .dlrTrickCfg => 32
  | .dlrClassCfg => 32
  | .dlrStats => 64
  | .dlrStreamSel => 32
  | .dlrStreamInfo => 64
  | .fabCap => 64
  | .fabDieSel => 32
  | .fabDieStatus => 32
  | .fabErrStatus => 32
  | .fabCeCount => 64
  | .fabLinkStatus => 32
  | .fabSeqStatus => 64
  | .fabEpochCount => 64
  | .fabCnvStatus => 64
  | .fabAttCfg => 32
  | .fabAttStatus => 64
  | .fabRecStatus => 64
  | .memCap => 64
  | .memT2Base => 64
  | .memT2Size => 64
  | .memLateCfg => 64
  | .memMigCfg => 32
  | .memEccCfg => 32
  | .memUsage => 64
  | .memErrStatus => 32
  | .memPodSel => 32
  | .memPodStatus => 64
  | .timeCtrl => 32
  | .timeStatus => 64
  | .timeJump => 32
  | .timeNow => 64
  | .timePtpCfg => 64
  | .timePtpLat => 32
  | .timeGenStart => 64
  | .timeGenCfg => 64
  | .timeCapCfg => 32
  | .timeCapData => 64
  | .timeQbvCtrl => 32
  | .fusCtrl => 32
  | .fusStatus => 64
  | .fusStart => 64
  | .fusTiming => 64
  | .fusGridCfg => 64
  | .fusLiftCfg => 64
  | .fusTrackCfg => 64
  | .fusOutCfg => 64
  | .fusOutAddr => 64
  | .fusCsiCfg => 64
  | .fusStats => 64
  | .fusStats2 => 64
  | .plnLattice => 64
  | .plnCfg => 64
  | .plnOccCfg => 32
  | .plnWriter => 32
  | .plnStatus => 64
  | .plnStats => 64
  | .plnStats2 => 64
  | .cleCtrl => 32
  | .cleStatus => 64
  | .cleSnapCfg => 64
  | .cleChStatus => 32
  | .cleStats => 64
  | .jpCtrl => 32
  | .jpPort => 32
  | .jpDriveStatus => 32
  | .jpDlCfg => 32
  | .jpSpiCfg => 64
  | .jpLine => 32
  | .jpEthCfg => 32
  | .hltCtrl => 32
  | .hltStatus => 64
  | .hltTiming => 32
  | .hltFeedCfg => 64
  | .hltFeedAddr => 64
  | .hltScoreAddr => 64
  | .hltMarginSel => 32
  | .hltMargin => 64
  | .hltClamp => 32
  | .pwrStateLo => 64
  | .pwrStateHi => 64
  | .pwrBootOn => 64
  | .pwrWakeOn => 64
  | .pwrWakeCfg => 32
  | .pwrWakeStatus => 32
  | .pwrAlarm => 64
  | .pwrAcornCount => 64
  | .pwrAvsStatus => 32
  | .pwrLogCount => 32
  | .pwrReset => 32
  | .pwrResetCause => 32
  | .pwrSpwrCfg => 64
  | .pwrSpwrStatus => 64
  | .limCap => 64
  | .limPolicy => 64
  | .limBatt => 64
  | .limPower => 64
  | .limStatus => 64
  | .limTemp => 64
  | .limThrSel => 32
  | .limThrUs => 64
  | .safeCtrl => 32
  | .safeStatus => 64
  | .safeHeld => 32
  | .safeCfg => 64
  | .safeStageCfg => 64
  | .safeStageStatus => 64
  | .safeCount => 64
  | .secState => 64
  | .secSerial => 64
  | .secCmd => 32
  | .dbgStatus => 64
  | .dbgCtrl => 32
  | .updStatus => 64
  | .updVersion => 64
  | .updCfg => 32
  | .updCtrl => 32

/-- The non-reserved fields of a register. Reserved bits read as 0 and discard writes (R9). -/
def regFields : Reg → List Field
  | .idProduct => [Fld.idProductProduct, Fld.idProductGeneration, Fld.idProductGrade, Fld.idProductStepping]
  | .idPci => [Fld.idPciVendor, Fld.idPciDevice, Fld.idPciSubVendor, Fld.idPciSubsystem]
  | .idIdcode => [Fld.idIdcodeOne, Fld.idIdcodeManufacturer, Fld.idIdcodePart, Fld.idIdcodeVersion]
  | .idCap0 => [Fld.idCap0SqRings, Fld.idCap0CqRings, Fld.idCap0Msix, Fld.idCap0Jobs, Fld.idCap0Streams, Fld.idCap0Domains]
  | .idCap1 => [Fld.idCap1CleChannels, Fld.idCap1JointPorts, Fld.idCap1Macs, Fld.idCap1CsiPorts, Fld.idCap1SpiMasters, Fld.idCap1TrigOut, Fld.idCap1CapIn, Fld.idCap1Spwr, Fld.idCap1Generators, Fld.idCap1Stages]
  | .idAccess => [Fld.idAccessOffRead, Fld.idAccessOffWrite, Fld.idAccessUnassigned, Fld.idAccessSize, Fld.idAccessBlock, Fld.idAccessOffset, Fld.idAccessCount]
  | .idScratch => [Fld.idScratchValue]
  | .hostCtrl => [Fld.hostCtrlAttach, Fld.hostCtrlLinkUp, Fld.hostCtrlCqTimeout]
  | .hostErrStatus => [Fld.hostErrStatusDoorbell, Fld.hostErrStatusDescFetch, Fld.hostErrStatusCqStall, Fld.hostErrStatusCfg, Fld.hostErrStatusPush, Fld.hostErrStatusCqLost, Fld.hostErrStatusDma]
  | .hostRingSel => [Fld.hostRingSelIndex, Fld.hostRingSelKind]
  | .hostRingBase => [Fld.hostRingBaseBase]
  | .hostRingCfg => [Fld.hostRingCfgEnable, Fld.hostRingCfgState, Fld.hostRingCfgDepthLog2, Fld.hostRingCfgCq, Fld.hostRingCfgVector, Fld.hostRingCfgCoalCount, Fld.hostRingCfgCoalTime]
  | .hostLostCpl => [Fld.hostLostCplCount]
  | .dlrTrickCfg => [Fld.dlrTrickCfgLimit, Fld.dlrTrickCfgSwitchUs]
  | .dlrClassCfg => [Fld.dlrClassCfgPercQuantum, Fld.dlrClassCfgDelibQuantum, Fld.dlrClassCfgBackQuantum, Fld.dlrClassCfgDelibAge, Fld.dlrClassCfgBackAge]
  | .dlrStats => [Fld.dlrStatsTriggerMiss, Fld.dlrStatsOverrun]
  | .dlrStreamSel => [Fld.dlrStreamSelStream]
  | .dlrStreamInfo => [Fld.dlrStreamInfoValid, Fld.dlrStreamInfoJob, Fld.dlrStreamInfoClass, Fld.dlrStreamInfoDies, Fld.dlrStreamInfoSq, Fld.dlrStreamInfoBoundUs]
  | .fabCap => [Fld.fabCapCores, Fld.fabCapArrays, Fld.fabCapLanes, Fld.fabCapCells, Fld.fabCapMaxPlanes, Fld.fabCapAccBits, Fld.fabCapDies]
  | .fabDieSel => [Fld.fabDieSelDie]
  | .fabDieStatus => [Fld.fabDieStatusOp, Fld.fabDieStatusReady, Fld.fabDieStatusEpochOpen, Fld.fabDieStatusExact, Fld.fabDieStatusStream]
  | .fabErrStatus => [Fld.fabErrStatusT0Ce, Fld.fabErrStatusT0Ue, Fld.fabErrStatusAccParity, Fld.fabErrStatusAccSat, Fld.fabErrStatusLinkReplay, Fld.fabErrStatusLinkFail]
  | .fabCeCount => [Fld.fabCeCountT0Ce, Fld.fabCeCountLinkReplay, Fld.fabCeCountUnderflow, Fld.fabCeCountNan]
  | .fabLinkStatus => [Fld.fabLinkStatusNextUp, Fld.fabLinkStatusPrevUp, Fld.fabLinkStatusHubUp]
  | .fabSeqStatus => [Fld.fabSeqStatusIssue, Fld.fabSeqStatusGateStall, Fld.fabSeqStatusBarrierStall, Fld.fabSeqStatusTokenOvf, Fld.fabSeqStatusThreadsBusy]
  | .fabEpochCount => [Fld.fabEpochCountPrefetchSquash, Fld.fabEpochCountSkipSquash, Fld.fabEpochCountCheapSquash, Fld.fabEpochCountBoundarySquash]
  | .fabCnvStatus => [Fld.fabCnvStatusCheckFail, Fld.fabCnvStatusFailCount, Fld.fabCnvStatusRefills]
  | .fabAttCfg => [Fld.fabAttCfgSkipLog2, Fld.fabAttCfgForce]
  | .fabAttStatus => [Fld.fabAttStatusCheckFail, Fld.fabAttStatusFailCount, Fld.fabAttStatusEarlyCommit, Fld.fabAttStatusEndCommit]
  | .fabRecStatus => [Fld.fabRecStatusCheckFail, Fld.fabRecStatusFailCount, Fld.fabRecStatusAnchored]
  | .memCap => [Fld.memCapRawGib, Fld.memCapUsableGib, Fld.memCapPods, Fld.memCapChannels, Fld.memCapMts, Fld.memCapGranuleLog2, Fld.memCapPageLog2]
  | .memT2Base => [Fld.memT2BaseBase]
  | .memT2Size => [Fld.memT2SizePages]
  | .memLateCfg => [Fld.memLateCfgControl, Fld.memLateCfgPerception, Fld.memLateCfgDeliberation, Fld.memLateCfgBackground]
  | .memMigCfg => [Fld.memMigCfgMaxShare, Fld.memMigCfgRunahead, Fld.memMigCfgLowMark]
  | .memEccCfg => [Fld.memEccCfgCeThreshold, Fld.memEccCfgScrubHours]
  | .memUsage => [Fld.memUsageT1Free, Fld.memUsageT2Free]
  | .memErrStatus => [Fld.memErrStatusCe, Fld.memErrStatusUe, Fld.memErrStatusT2Short, Fld.memErrStatusCfg, Fld.memErrStatusTrain]
  | .memPodSel => [Fld.memPodSelPod]
  | .memPodStatus => [Fld.memPodStatusTrained, Fld.memPodStatusFailed, Fld.memPodStatusSref, Fld.memPodStatusRetired, Fld.memPodStatusCeCount, Fld.memPodStatusUeCount]
  | .timeCtrl => [Fld.timeCtrlAccept, Fld.timeCtrlSyncEn, Fld.timeCtrlGenSel, Fld.timeCtrlCapSel, Fld.timeCtrlPortSel]
  | .timeStatus => [Fld.timeStatusState, Fld.timeStatusRefused, Fld.timeStatusCfgErr, Fld.timeStatusStepCount, Fld.timeStatusSecHi, Fld.timeStatusOffset]
  | .timeJump => [Fld.timeJumpNs]
  | .timeNow => [Fld.timeNowNs, Fld.timeNowSec]
  | .timePtpCfg => [Fld.timePtpCfgPorts, Fld.timePtpCfgProfile, Fld.timePtpCfgDomain, Fld.timePtpCfgPriority1, Fld.timePtpCfgPriority2, Fld.timePtpCfgSyncLog2]
  | .timePtpLat => [Fld.timePtpLatIngress, Fld.timePtpLatEgress]
  | .timeGenStart => [Fld.timeGenStartNs, Fld.timeGenStartSec]
  | .timeGenCfg => [Fld.timeGenCfgEnable, Fld.timeGenCfgPins, Fld.timeGenCfgCams, Fld.timeGenCfgWidth, Fld.timeGenCfgPeriod]
  | .timeCapCfg => [Fld.timeCapCfgEdge, Fld.timeCapCfgEvent]
  | .timeCapData => [Fld.timeCapDataNs, Fld.timeCapDataRise, Fld.timeCapDataValid, Fld.timeCapDataSec]
  | .timeQbvCtrl => [Fld.timeQbvCtrlChange, Fld.timeQbvCtrlOper, Fld.timeQbvCtrlEnable]
  | .fusCtrl => [Fld.fusCtrlEnable, Fld.fusCtrlIssueEvent]
  | .fusStatus => [Fld.fusStatusInstant, Fld.fusStatusTableEpoch, Fld.fusStatusBehind]
  | .fusStart => [Fld.fusStartNs, Fld.fusStartSec]
  | .fusTiming => [Fld.fusTimingPeriodUs, Fld.fusTimingHoldUs, Fld.fusTimingLateUs]
  | .fusGridCfg => [Fld.fusGridCfgW, Fld.fusGridCfgH, Fld.fusGridCfgCh, Fld.fusGridCfgCellMm]
  | .fusLiftCfg => [Fld.fusLiftCfgZMin, Fld.fusLiftCfgZMax, Fld.fusLiftCfgContest]
  | .fusTrackCfg => [Fld.fusTrackCfgGateMm, Fld.fusTrackCfgAlpha, Fld.fusTrackCfgBeta, Fld.fusTrackCfgBirthScore, Fld.fusTrackCfgConfirmHits, Fld.fusTrackCfgConfirmRounds, Fld.fusTrackCfgDeleteMisses]
  | .fusOutCfg => [Fld.fusOutCfgDie, Fld.fusOutCfgStream, Fld.fusOutCfgToken, Fld.fusOutCfgCount, Fld.fusOutCfgStridePages, Fld.fusOutCfgOccPage]
  | .fusOutAddr => [Fld.fusOutAddrAddr]
  | .fusCsiCfg => [Fld.fusCsiCfgLanes0, Fld.fusCsiCfgLanes1, Fld.fusCsiCfgLanes2, Fld.fusCsiCfgLanes3, Fld.fusCsiCfgLanes4, Fld.fusCsiCfgLanes5, Fld.fusCsiCfgLanes6, Fld.fusCsiCfgLanes7, Fld.fusCsiCfgPol0, Fld.fusCsiCfgPol1, Fld.fusCsiCfgPol2, Fld.fusCsiCfgPol3, Fld.fusCsiCfgPol4, Fld.fusCsiCfgPol5, Fld.fusCsiCfgPol6, Fld.fusCsiCfgPol7]
  | .fusStats => [Fld.fusStatsLateFold, Fld.fusStatsLateDrop, Fld.fusStatsNoPose, Fld.fusStatsSkipped]
  | .fusStats2 => [Fld.fusStats2PostRefused, Fld.fusStats2StaleDet, Fld.fusStats2TrackFull, Fld.fusStats2IntakeErr]
  | .plnLattice => [Fld.plnLatticeAddr, Fld.plnLatticeCountM1]
  | .plnCfg => [Fld.plnCfgBudgetUs, Fld.plnCfgMarginMm, Fld.plnCfgClearCapMm, Fld.plnCfgOutside, Fld.plnCfgUnknown, Fld.plnCfgOccEn]
  | .plnOccCfg => [Fld.plnOccCfgZLo, Fld.plnOccCfgZHi]
  | .plnWriter => [Fld.plnWriterEn, Fld.plnWriterDie, Fld.plnWriterStream, Fld.plnWriterFreeToken]
  | .plnStatus => [Fld.plnStatusVersion, Fld.plnStatusBank, Fld.plnStatusTreeValid, Fld.plnStatusOccValid, Fld.plnStatusLayer, Fld.plnStatusBusy, Fld.plnStatusReleased, Fld.plnStatusQueued]
  | .plnStats => [Fld.plnStatsStale, Fld.plnStatsNoPath, Fld.plnStatsNoSafeStop, Fld.plnStatsBadPrim]
  | .plnStats2 => [Fld.plnStats2SendDiscard, Fld.plnStats2OccSkip, Fld.plnStats2CommitRefused, Fld.plnStats2BudgetOut]
  | .cleCtrl => [Fld.cleCtrlEnable, Fld.cleCtrlHuskEnter, Fld.cleCtrlHuskExit, Fld.cleCtrlChSel, Fld.cleCtrlSnapSel]
  | .cleStatus => [Fld.cleStatusHusk, Fld.cleStatusFault, Fld.cleStatusFaultCause, Fld.cleStatusSpVersion]
  | .cleSnapCfg => [Fld.cleSnapCfgEn, Fld.cleSnapCfgDie, Fld.cleSnapCfgTrigger, Fld.cleSnapCfgStream, Fld.cleSnapCfgToken, Fld.cleSnapCfgLine]
  | .cleChStatus => [Fld.cleChStatusMiss, Fld.cleChStatusLost, Fld.cleChStatusSat, Fld.cleChStatusDriveFault, Fld.cleChStatusHusk, Fld.cleChStatusMissCount]
  | .cleStats => [Fld.cleStatsDiscard, Fld.cleStatsClamp, Fld.cleStatsRateDrop, Fld.cleStatsRejected]
  | .jpCtrl => [Fld.jpCtrlPort, Fld.jpCtrlDrive, Fld.jpCtrlReenable]
  | .jpPort => [Fld.jpPortRate, Fld.jpPortRxInv, Fld.jpPortTxInv, Fld.jpPortCrcErr]
  | .jpDriveStatus => [Fld.jpDriveStatusState, Fld.jpDriveStatusMissRun, Fld.jpDriveStatusLostCount]
  | .jpDlCfg => [Fld.jpDlCfgTclass]
  | .jpSpiCfg => [Fld.jpSpiCfgDiv0, Fld.jpSpiCfgDiv1, Fld.jpSpiCfgDiv2, Fld.jpSpiCfgDiv3, Fld.jpSpiCfgCpol0, Fld.jpSpiCfgCpol1, Fld.jpSpiCfgCpol2, Fld.jpSpiCfgCpol3, Fld.jpSpiCfgCpha0, Fld.jpSpiCfgCpha1, Fld.jpSpiCfgCpha2, Fld.jpSpiCfgCpha3]
  | .jpLine => [Fld.jpLineRxOpen, Fld.jpLineRxShortGnd, Fld.jpLineRxShortSupply, Fld.jpLineTxNoLoad, Fld.jpLineTxShort, Fld.jpLineRxTerm, Fld.jpLineFaultCount]
  | .jpEthCfg => [Fld.jpEthCfgMode0, Fld.jpEthCfgMode1, Fld.jpEthCfgMode2, Fld.jpEthCfgMode3, Fld.jpEthCfgTxPol0, Fld.jpEthCfgTxPol1, Fld.jpEthCfgTxPol2, Fld.jpEthCfgTxPol3, Fld.jpEthCfgRxPol0, Fld.jpEthCfgRxPol1, Fld.jpEthCfgRxPol2, Fld.jpEthCfgRxPol3, Fld.jpEthCfgLink0, Fld.jpEthCfgLink1, Fld.jpEthCfgLink2, Fld.jpEthCfgLink3]
  | .hltCtrl => [Fld.hltCtrlEnable, Fld.hltCtrlReplan, Fld.hltCtrlAxisReset, Fld.hltCtrlAxisKeep, Fld.hltCtrlAxisSel]
  | .hltStatus => [Fld.hltStatusGen, Fld.hltStatusCfgErr, Fld.hltStatusFlashErr, Fld.hltStatusReplanPending, Fld.hltStatusOnHours]
  | .hltTiming => [Fld.hltTimingHealthS]
  | .hltFeedCfg => [Fld.hltFeedCfgDie, Fld.hltFeedCfgStream, Fld.hltFeedCfgToken, Fld.hltFeedCfgCount, Fld.hltFeedCfgFeedMs]
  | .hltFeedAddr => [Fld.hltFeedAddrAddr]
  | .hltScoreAddr => [Fld.hltScoreAddrAddr]
  | .hltMarginSel => [Fld.hltMarginSelDie]
  | .hltMargin => [Fld.hltMarginG1, Fld.hltMarginG2, Fld.hltMarginG3, Fld.hltMarginG4, Fld.hltMarginG5, Fld.hltMarginG6, Fld.hltMarginG7, Fld.hltMarginG8, Fld.hltMarginWithdrawn, Fld.hltMarginExtra]
  | .hltClamp => [Fld.hltClampCount, Fld.hltClampClass, Fld.hltClampBlock]
  | .pwrStateLo => [Fld.pwrStateLoState]
  | .pwrStateHi => [Fld.pwrStateHiState]
  | .pwrBootOn => [Fld.pwrBootOnDomains]
  | .pwrWakeOn => [Fld.pwrWakeOnDomains]
  | .pwrWakeCfg => [Fld.pwrWakeCfgSrc]
  | .pwrWakeStatus => [Fld.pwrWakeStatusSeen, Fld.pwrWakeStatusReplay]
  | .pwrAlarm => [Fld.pwrAlarmCompare]
  | .pwrAcornCount => [Fld.pwrAcornCountTicks]
  | .pwrAvsStatus => [Fld.pwrAvsStatusFail, Fld.pwrAvsStatusResends]
  | .pwrLogCount => [Fld.pwrLogCountCount]
  | .pwrReset => [Fld.pwrResetKey, Fld.pwrResetModule]
  | .pwrResetCause => [Fld.pwrResetCauseLast, Fld.pwrResetCauseFwReady, Fld.pwrResetCauseModuleCount]
  | .pwrSpwrCfg => [Fld.pwrSpwrCfgEn, Fld.pwrSpwrCfgIlim0, Fld.pwrSpwrCfgIlim1, Fld.pwrSpwrCfgIlim2, Fld.pwrSpwrCfgIlim3, Fld.pwrSpwrCfgIlim4, Fld.pwrSpwrCfgIlim5, Fld.pwrSpwrCfgIlim6, Fld.pwrSpwrCfgIlim7, Fld.pwrSpwrCfgRetries]
  | .pwrSpwrStatus => [Fld.pwrSpwrStatusOn, Fld.pwrSpwrStatusShort, Fld.pwrSpwrStatusOpen, Fld.pwrSpwrStatusBackfeed, Fld.pwrSpwrStatusRefused, Fld.pwrSpwrStatusLatched]
  | .limCap => [Fld.limCapCap, Fld.limCapEffective, Fld.limCapWindowMs]
  | .limPolicy => [Fld.limPolicyMaxOp, Fld.limPolicyFloor, Fld.limPolicyThrottle, Fld.limPolicySkewPct]
  | .limBatt => [Fld.limBattBattLow, Fld.limBattBattCap, Fld.limBattLow]
  | .limPower => [Fld.limPowerLast, Fld.limPowerMean, Fld.limPowerSensor, Fld.limPowerJ3Mv]
  | .limStatus => [Fld.limStatusCapUnreachable, Fld.limStatusFloorBroken, Fld.limStatusTripped, Fld.limStatusSlotsM1]
  | .limTemp => [Fld.limTempTj]
  | .limThrSel => [Fld.limThrSelDie, Fld.limThrSelReason]
  | .limThrUs => [Fld.limThrUsUs]
  | .safeCtrl => [Fld.safeCtrlArm, Fld.safeCtrlDrop, Fld.safeCtrlTestEn, Fld.safeCtrlStageSel]
  | .safeStatus => [Fld.safeStatusOutA, Fld.safeStatusOutB, Fld.safeStatusFault, Fld.safeStatusDropCause, Fld.safeStatusRestarting]
  | .safeHeld => [Fld.safeHeldHeld]
  | .safeCfg => [Fld.safeCfgHuskJobs, Fld.safeCfgNssAction, Fld.safeCfgRestartLimit]
  | .safeStageCfg => [Fld.safeStageCfgEn, Fld.safeStageCfgSource, Fld.safeStageCfgStream, Fld.safeStageCfgEarlyUs, Fld.safeStageCfgLateUs]
  | .safeStageStatus => [Fld.safeStageStatusRing, Fld.safeStageStatusFaults, Fld.safeStageStatusDummyPass]
  | .safeCount => [Fld.safeCountMismatch, Fld.safeCountWatchdog, Fld.safeCountDummyFail, Fld.safeCountSafeStates]
  | .secState => [Fld.secStateLifecycle, Fld.secStateOwnerValid, Fld.secStateOwnerRevoked, Fld.secStateVendorRevoked, Fld.secStateRequireSigned, Fld.secStateDebugDisable, Fld.secStateFwEpoch]
  | .secSerial => [Fld.secSerialSerial]
  | .secCmd => [Fld.secCmdCode, Fld.secCmdGo, Fld.secCmdBusy, Fld.secCmdResult]
  | .dbgStatus => [Fld.dbgStatusLevel, Fld.dbgStatusScope, Fld.dbgStatusLockout, Fld.dbgStatusFails, Fld.dbgStatusNotOn, Fld.dbgStatusDenied, Fld.dbgStatusRemainMin]
  | .dbgCtrl => [Fld.dbgCtrlClose]
  | .updStatus => [Fld.updStatusRunning, Fld.updStatusRecovery, Fld.updStatusSession, Fld.updStatusStateA, Fld.updStatusStateB, Fld.updStatusTrialS, Fld.updStatusReceived]
  | .updVersion => [Fld.updVersionRunning, Fld.updVersionOther]
  | .updCfg => [Fld.updCfgWdReset, Fld.updCfgHostConfirm]
  | .updCtrl => [Fld.updCtrlHostOk]

/-- Every register, in the order of Table REG-2. -/
def allRegs : List Reg := [
  .idProduct, .idPci, .idIdcode, .idCap0, .idCap1, .idAccess, .idScratch, .hostCtrl, .hostErrStatus,
  .hostRingSel, .hostRingBase, .hostRingCfg, .hostLostCpl, .dlrTrickCfg, .dlrClassCfg, .dlrStats,
  .dlrStreamSel, .dlrStreamInfo, .fabCap, .fabDieSel, .fabDieStatus, .fabErrStatus, .fabCeCount,
  .fabLinkStatus, .fabSeqStatus, .fabEpochCount, .fabCnvStatus, .fabAttCfg, .fabAttStatus, .fabRecStatus,
  .memCap, .memT2Base, .memT2Size, .memLateCfg, .memMigCfg, .memEccCfg, .memUsage, .memErrStatus, .memPodSel,
  .memPodStatus, .timeCtrl, .timeStatus, .timeJump, .timeNow, .timePtpCfg, .timePtpLat, .timeGenStart,
  .timeGenCfg, .timeCapCfg, .timeCapData, .timeQbvCtrl, .fusCtrl, .fusStatus, .fusStart, .fusTiming,
  .fusGridCfg, .fusLiftCfg, .fusTrackCfg, .fusOutCfg, .fusOutAddr, .fusCsiCfg, .fusStats, .fusStats2,
  .plnLattice, .plnCfg, .plnOccCfg, .plnWriter, .plnStatus, .plnStats, .plnStats2, .cleCtrl, .cleStatus,
  .cleSnapCfg, .cleChStatus, .cleStats, .jpCtrl, .jpPort, .jpDriveStatus, .jpDlCfg, .jpSpiCfg, .jpLine,
  .jpEthCfg, .hltCtrl, .hltStatus, .hltTiming, .hltFeedCfg, .hltFeedAddr, .hltScoreAddr, .hltMarginSel,
  .hltMargin, .hltClamp, .pwrStateLo, .pwrStateHi, .pwrBootOn, .pwrWakeOn, .pwrWakeCfg, .pwrWakeStatus,
  .pwrAlarm, .pwrAcornCount, .pwrAvsStatus, .pwrLogCount, .pwrReset, .pwrResetCause, .pwrSpwrCfg,
  .pwrSpwrStatus, .limCap, .limPolicy, .limBatt, .limPower, .limStatus, .limTemp, .limThrSel, .limThrUs,
  .safeCtrl, .safeStatus, .safeHeld, .safeCfg, .safeStageCfg, .safeStageStatus, .safeCount, .secState,
  .secSerial, .secCmd, .dbgStatus, .dbgCtrl, .updStatus, .updVersion, .updCfg, .updCtrl]

end Sys2Proof.Machine
end

