-- ==== Sys2Proof/Machine/Regs.lean ====
section
/-!
DEFINITION. Reading and writing register fields, the reset of registers by column, and the counters that stand in registers.
A register instance that `regs` does not list holds its COLD value.
-/
namespace Sys2Proof.Machine
open Sys2Proof

/-! ### Reset columns (R11) -/

/-- The entry of a field for a reset. -/
def Field.entry (k : ResetKind) (f : Field) : ResetVal :=
  match k with
  | .cold => f.cold
  | .module => f.module
  | .link => f.link
  | .job => f.job

/-- The value of a register right after a COLD reset: entries from a source outside the table stand as 0 here, and the rule
that owns them supplies them (R11). -/
def coldVal (r : Reg) : Nat :=
  (regFields r).foldl (fun v f => match f.cold with
    | .val n => putBits v f.lo f.len n
    | .keep => v
    | .src => v) 0

/-- A register's value after a reset of a kind, from its value before (R11). -/
def resetVal (k : ResetKind) (r : Reg) (old : Nat) : Nat :=
  (regFields r).foldl (fun v f => match f.entry k with
    | .val n => putBits v f.lo f.len n
    | .keep => v
    | .src => v) old

/-! ### Reading and writing -/

/-- Key of an instance of a register. -/
def keyOf (r : Reg) (i : Nat) : Nat := regKey (regOffset r) i

/-- The stored value of a register instance. -/
def getR (r : Reg) (i : Nat) (s : State) : Nat :=
  match mapGet s.regs (keyOf r i) with
  | some v => v.toNat
  | none => coldVal r

/-- A register instance set as a whole. -/
def setR (r : Reg) (i v : Nat) (s : State) : State := { s with regs := mapSet s.regs (keyOf r i) (BitVec.ofNat 64 v) }

/-- A field of a register instance. -/
def getF (f : Field) (i : Nat) (s : State) : Nat := bitsAt (getR f.reg i s) f.lo f.len

/-- A field of a register instance as a Bool. -/
def getB (f : Field) (i : Nat) (s : State) : Bool := getF f i s == 1

/-- A field of a register instance as a signed number. -/
def getI (f : Field) (i : Nat) (s : State) : Int := sext f.len (getF f i s)

/-- A field of a register instance set; the other fields keep their value. -/
def setF (f : Field) (i v : Nat) (s : State) : State := setR f.reg i (putBits (getR f.reg i s) f.lo f.len v) s

/-- A one-bit field set from a Bool. -/
def setB (f : Field) (i : Nat) (b : Bool) (s : State) : State := setF f i (if b then 1 else 0) s

/-- A field counted up by `n`, saturating at its maximum. -/
def addF (f : Field) (i n : Nat) (s : State) : State := setF f i (satAdd f.len (getF f i s) n) s

/-- A field counted up by one, saturating. -/
def incF (f : Field) (i : Nat) (s : State) : State := addF f i 1 s

/-- The bits of a register with an access code, as a mask (R10). -/
def accMask (a : Access) (r : Reg) : Nat :=
  (regFields r).foldl (fun m f => if f.acc = a then m + (2 ^ f.len - 1) * 2 ^ f.lo else m) 0

/-- The stored value after a write of `v` under the bits of `mask`: RW bits take the written value, W1C bits written as 1
clear, and RO, WO and reserved bits do not change (R9, R10, R496). -/
def writtenVal (r : Reg) (old mask v : Nat) : Nat :=
  let rw := accMask .rw r &&& mask
  let w1 := accMask .w1c r &&& mask &&& v
  let keep := (2 ^ 64 - 1) ^^^ rw ^^^ (accMask .w1c r &&& mask &&& v)
  (old &&& keep) ||| (v &&& rw &&& ((2 ^ 64 - 1) ^^^ w1))

/-- A field of a value being written, where the written bytes cover it. -/
def newF (f : Field) (v : Nat) : Nat := bitsAt v f.lo f.len

/-- The registers after a reset of a kind, for the registers that a test names. -/
def resetRegs (k : ResetKind) (p : Reg → Bool) (s : State) : State :=
  { s with regs := s.regs.filterMap fun (key, v) =>
      match allRegs.find? fun r => decide (keyOf r 0 ≤ key) && decide (key < keyOf r 0 + 8192) with
      | none => some (key, v)
      | some r => if p r then some (key, BitVec.ofNat 64 (resetVal k r v.toNat)) else some (key, v) }

/-! ### Instances -/

/-- Instance of a ring's registers: submission rings 0 to 4,095, completion rings from 4,096 (R39). -/
def ringIx (kind index : Nat) : Nat := kind * 4096 + index

/-- The block number of a register: bits 19:16 of its offset (R495). -/
def regBlock (r : Reg) : Nat := regOffset r / 65536

/-! ### Times -/

/-- The module time as a 32-bit count of nanoseconds (R13). -/
def now32 (s : State) : BitVec 32 := BitVec.ofNat 32 s.timeN

/-- `(a - b) mod 2^32` lies between 1 and 2^31 - 1: `a` is later than `b` (R52). -/
def later32 (a b : BitVec 32) : Bool := decide (1 ≤ (a - b).toNat) && decide ((a - b).toNat ≤ 2 ^ 31 - 1)

end Sys2Proof.Machine
end

