-- ==== Sys2Proof/Machine/Rings.lean ====
section
/-!
DEFINITION. Rings, doorbells, completions, events, interrupts and the holding queue (chapter 02: R31 to R60, R502).
-/
namespace Sys2Proof.Machine
open Sys2Proof

/-! ### Completion status codes (Table HST-6, R50) -/

namespace Status
def done : Nat := 0x00
def doneDegraded : Nat := 0x01
def doneStale : Nat := 0x02
def doneLate : Nat := 0x03
def refusedFit : Nat := 0x10
def refusedFormat : Nat := 0x11
def refusedVersion : Nat := 0x12
def refusedAuth : Nat := 0x13
def abortedJobRestart : Nat := 0x20
def stateEvicted : Nat := 0x21
def cancelled : Nat := 0x22
def noPath : Nat := 0x30
def noSafeStop : Nat := 0x31
def checkMismatch : Nat := 0x40
def watchdogStage : Nat := 0x41
def hostFault : Nat := 0x50
def memoryFault : Nat := 0x51
end Status

/-! ### Rings (R36, R37, R39) -/

/-- HOST_CTRL.ATTACH is USB (R31). -/
def usbAttached (s : State) : Bool := getB Fld.hostCtrlAttach 0 s

/-- STATE of a ring: 0 DISABLED, 1 ACTIVE, 2 STOPPED; kind 0 submission, 1 completion (R39). -/
def ringState (kind i : Nat) (s : State) : Nat := getF Fld.hostRingCfgState (ringIx kind i) s

/-- A ring's depth (R36). -/
def ringDepth (kind i : Nat) (s : State) : Nat := 2 ^ getF Fld.hostRingCfgDepthLog2 (ringIx kind i) s

/-- A ring's base address in host memory (R36). -/
def ringBase (kind i : Nat) (s : State) : Nat := getF Fld.hostRingBaseBase (ringIx kind i) s * 4096

/-- The completion ring bound to a submission ring (R39). -/
def boundCq (sq : Nat) (s : State) : Nat := getF Fld.hostRingCfgCq (ringIx 0 sq) s

/-- The counts of a submission ring. -/
def sqOf (i : Nat) (s : State) : SqRing := (mapGet s.host.sqs i).getD ⟨0, 0⟩

/-- The counts of a completion ring. -/
def cqOf (i : Nat) (s : State) : CqRing := (mapGet s.host.cqs i).getD ⟨0, 0, 0, none, none, false, []⟩

def setPush (l : List PushMsg) (s : State) : State := { s with host := { s.host with push := l } }
def setHold (l : List Posting) (s : State) : State := { s with host := { s.host with hold := l } }
def setConsumed (l : List Consumed) (s : State) : State := { s with host := { s.host with consumed := l } }
def setSq (i : Nat) (r : SqRing) (s : State) : State := { s with host := { s.host with sqs := mapSet s.host.sqs i r } }
def setCq (i : Nat) (r : CqRing) (s : State) : State := { s with host := { s.host with cqs := mapSet s.host.cqs i r } }

/-- A completion ring is full when tail - head = depth modulo 2^32 (R37). -/
def cqFull (i : Nat) (s : State) : Bool := decide (dist32 (cqOf i s).head (cqOf i s).tail = ringDepth 1 i s)

/-! ### Interrupts (R56, R57) -/

/-- The MSI-X vector of a completion ring: CQ0 has vector 0, other rings VECTOR, where 0 means none. -/
def vectorOf (cq : Nat) (s : State) : Option Nat :=
  if cq = 0 then some 0
  else if getF Fld.hostRingCfgVector (ringIx 1 cq) s = 0 then none
  else some (getF Fld.hostRingCfgVector (ringIx 1 cq) s)

/-- The mask bit of an MSI-X vector: bit 0 of the vector control word; an unlisted entry is masked (log 11). -/
def vectorMasked (v : Nat) (s : State) : Bool :=
  match mapGet s.host.msixTable v with
  | some e => flag e 96
  | none => true

/-- One MSI-X message, or its PBA bit while the vector is masked (R57). -/
def signalVector (v : Nat) (s : State) : State :=
  if vectorMasked v s then { s with host := { s.host with pba := s.host.pba ||| (1#64 <<< v) } }
  else emit (.msix v) s

/-- A completion ring sends its message: its count and wait start again. Over USB there are no interrupts (R57). -/
def signalCq (cq : Nat) (s : State) : State :=
  match vectorOf cq s with
  | none => s
  | some v =>
    if usbAttached s then s
    else signalVector v (setCq cq { cqOf cq s with sinceMsg := 0, oldest := none } s)

/-! ### Completion entries (R38, R49, R54) -/

/-- The 32 bytes of an entry (Table HST-5). -/
def encodeEntry (e : Entry) (phase : Bool) (sqHead : BitVec 32) : List Byte :=
  natLe 4 e.tag.toNat ++ [e.status]
    ++ [BitVec.ofNat 8 (phase.toNat + 2 * e.event.toNat + 4 * e.variant.toNat)]
    ++ natLe 2 e.sq.toNat ++ natLe 4 e.outTime.toNat ++ natLe 4 sqHead.toNat
    ++ [e.planesUsed, e.degradedLayers] ++ natLe 2 e.replayCount.toNat ++ natLe 4 e.skipCount.toNat
    ++ natLe 4 e.aux.toNat ++ natLe 2 e.detail.toNat ++ [e.stream, 0]

/-- PHASE of the entry at a completion count: the inverse of bit DEPTH_LOG2 of the count (R38). -/
def phaseAt (cq : Nat) (count : BitVec 32) (s : State) : Bool :=
  !(flag count (getF Fld.hostRingCfgDepthLog2 (ringIx 1 cq) s))

/-- SQ_HEAD of an entry: the submitting ring's head when it is posted (R49). -/
def entrySqHead (e : Entry) (s : State) : BitVec 32 :=
  if e.event then Config.eventSqHead e.tag.toNat else (sqOf e.sq.toNat s).head

/-- An entry posted on a ring that has room: entry, tail shadow, then any message, in that order (R54, R57). Over USB it
waits on the module until a completion message carries it (R65). -/
def postNow (p : Posting) (s : State) : State :=
  let q := cqOf p.cq s
  let bytes := encodeEntry p.entry (phaseAt p.cq q.tail s) (entrySqHead p.entry s)
  let depth := ringDepth 1 p.cq s
  let base := ringBase 1 p.cq s
  let usb := usbAttached s
  let q' := { q with
    tail := q.tail + 1
    sinceMsg := q.sinceMsg + 1
    oldest := some (q.oldest.getD s.clock)
    fullSince := if dist32 q.head (q.tail + 1) = depth then some (q.fullSince.getD s.clock) else none
    unsent := if usb then q.unsent ++ [(bytes, p)] else q.unsent }
  let s := setCq p.cq q' s
  let s := if usb then s
    else emit (.hostWrite (base + depth * 32) (natLe 4 (q.tail + 1).toNat))
      (emit (.hostWrite (base + q.tail.toNat % depth * 32) bytes) s)
  let coal := max 1 (getF Fld.hostRingCfgCoalCount (ringIx 1 p.cq) s)
  if p.irq || decide (coal ≤ q'.sinceMsg) then signalCq p.cq s else s

/-- What can happen to an entry that is due (R58). -/
inductive Room where
  | post | hold | full | inactive
  deriving DecidableEq, Repr

/-- Where an entry for a ring can go now. Entries already held for the ring go first. -/
def roomAt (cq : Nat) (s : State) : Room :=
  if ringState 1 cq s ≠ 1 then .inactive
  else if !(cqFull cq s) && !(s.host.hold.any fun p => p.cq == cq) then .post
  else if s.host.hold.length < 1024 then .hold
  else .full

/-- A descriptor may begin, or a stream may be released, as far as its completion goes (R58). -/
def roomFor (cq : Nat) (s : State) : Bool := roomAt cq s != .full

/-- An entry posted or held where it can be; the flag says that it was lost (R58). -/
def tryPost (p : Posting) (s : State) : State × Bool :=
  match roomAt p.cq s with
  | .post => (postNow p s, false)
  | .hold => (setHold (s.host.hold ++ [p]) s, false)
  | .full => (s, true)
  | .inactive => (s, true)

/-! ### Events (R56, R381, R502) -/

/-- An event entry as it is made: TAG counts the events since the last MODULE or COLD reset (R49, R56). -/
def eventEntry (block detail status aux : Nat) (s : State) : Entry :=
  { tag := s.host.events, status := BitVec.ofNat 8 status, event := true, variant := false, sq := 0,
    outTime := now32 s, planesUsed := 0, degradedLayers := 0, replayCount := 0, skipCount := 0,
    aux := BitVec.ofNat 32 aux, detail := BitVec.ofNat 16 detail, stream := BitVec.ofNat 8 block }

/-- An event written into the Acorn log and counted (R381). -/
def logEvent (e : Entry) (s : State) : State :=
  let n := getF Fld.pwrLogCountCount 0 s
  let bytes := encodeEntry e (Config.logPhase n) (Config.eventSqHead e.tag.toNat)
  let s := { s with log := mapSet s.log (n % 256) bytes, host := { s.host with events := s.host.events + 1 } }
  setF Fld.pwrLogCountCount 0 (n + 1) s

/-- The event on CQ0, where CQ0 is ACTIVE: posted, held, or lost and counted (R58). -/
def eventOnCq0 (e : Entry) (s : State) : State × Bool :=
  if ringState 1 0 s ≠ 1 then (s, false)
  else
    let (s', lost) := tryPost ⟨0, e, false, none, none⟩ s
    (if lost then incF Fld.hostLostCplCount 0 s' else s', lost)

/-- An event logged and sent to CQ0. -/
def eventOnce (block detail status aux : Nat) (s : State) : State × Bool :=
  let e := eventEntry block detail status aux s
  eventOnCq0 e (logEvent e s)

/-- CQ_LOST set, with HOST event 0x0006 on its change from 0 to 1 (R58, R502). -/
def setCqLost (cq : Nat) (s : State) : State :=
  if getB Fld.hostErrStatusCqLost 0 s then s
  else (eventOnce 1 0x0006 Status.done cq (setB Fld.hostErrStatusCqLost 0 true s)).1

/-- A module event: block number, event code, STATUS and AUX (R56). -/
def postEvent (block detail status aux : Nat) (s : State) : State :=
  let (s', lost) := eventOnce block detail status aux s
  if lost then setCqLost 0 s' else s'

/-- A bit of HOST_ERR_STATUS set, with its event on a change from 0 to 1 (R502). -/
def hostError (f : Field) (detail status aux : Nat) (s : State) : State :=
  if getB f 0 s then s else postEvent 1 detail status aux (setB f 0 true s)

/-- A completion discarded: counted and flagged (R58). -/
def loseCpl (cq : Nat) (s : State) : State := setCqLost cq (incF Fld.hostLostCplCount 0 s)

/-! ### Completing a descriptor (R51 to R54) -/

/-- Facts of a completion outside the fabric (R49). -/
def plainFacts (status detail aux : Nat) : Facts := ⟨status, detail, aux, false, 0, 0, 0, 0, none, none⟩

/-- Facts with a further status: the highest wins, with its DETAIL and AUX (R51). -/
def addStatus (f : Facts) (status detail aux : Nat) : Facts :=
  if f.status < status then { f with status := status, detail := detail, aux := aux } else f

/-- The space of a push message's input data released (R63). -/
def freePush (m : Option (Nat × Nat)) (s : State) : State :=
  match m with
  | none => s
  | some (id, n) =>
    setPush ((listUpdate s.host.push (fun x => x.id == id)
      (fun x => { x with unsent := x.unsent - 1, freed := x.freed + n })).filter
        (fun x => !(x.unsent == 0 && x.unread == 0))) s

/-- Late by R52: DEADLINE_VALID is set and the output time is after DEADLINE. -/
def isLate (d : Desc) (outTime : BitVec 32) : Bool := flag d 11 && later32 outTime (BitVec.ofNat 32 (fld d 256 32))

/-- The time that an entry carries: that at which its completion was decided (R49). -/
def outTimeOf (f : Facts) (s : State) : BitVec 32 := f.decidedAt.getD (now32 s)

/-- The status an entry carries: the highest of those that apply (R51). -/
def finalStatus (d : Desc) (outTime : BitVec 32) (status : Nat) : Nat :=
  if isLate d outTime then max status Status.doneLate else status

/-- The entry of a descriptor's completion (Table HST-5). -/
def descEntry (c : Consumed) (f : Facts) (s : State) : Entry :=
  { tag := BitVec.ofNat 32 (fld c.desc 32 32), status := BitVec.ofNat 8 (finalStatus c.desc (outTimeOf f s) f.status),
    event := false, variant := f.variant, sq := BitVec.ofNat 12 c.sq, outTime := outTimeOf f s,
    planesUsed := BitVec.ofNat 8 f.planesUsed, degradedLayers := BitVec.ofNat 8 (min 255 f.degradedLayers),
    replayCount := BitVec.ofNat 16 (min 65535 f.replayCount), skipCount := BitVec.ofNat 32 (min 4294967295 f.skipCount),
    aux := BitVec.ofNat 32 f.aux, detail := BitVec.ofNat 16 f.detail, stream := BitVec.ofNat 8 (fld c.desc 16 8) }

/-- The descriptor leaves the list of those that have not completed. -/
def dropConsumed (id : Nat) (s : State) : State :=
  setConsumed (s.host.consumed.filter fun c => c.id != id) s

/-- The data block of a descriptor whose OUT_ADDR used push data: its output, empty where none was made (R65). -/
def returnedData (d : Desc) (f : Facts) : Option (List Byte) := if fld d 222 2 = 2 ∧ fld d 224 32 ≠ 0 then some (f.out.getD []) else f.out

/-- A completion that a LINK reset discards: a descriptor consumed before it, unless it completes as HOST_FAULT, whose completion its ring
decides once the rings are set up again (R66, log 9). -/
def discarded (c : Consumed) (f : Facts) : Bool := c.orphan && f.status != Status.hostFault

/-- A consumed descriptor completes (R53): SUPPRESS with DONE posts nothing; otherwise the entry is posted, held, or
discarded and counted (R58). -/
def complete (c : Consumed) (f : Facts) (s : State) : State :=
  let e := descEntry c f s
  let msg := c.msg.map fun m => (m, if fld c.desc 126 2 = 2 then fld c.desc 128 32 else 0)
  let s := dropConsumed c.id s
  if flag c.desc 10 && e.status == 0 then freePush msg s
  else if discarded c f then freePush msg (loseCpl (boundCq c.sq s) s)
  else
    let (s', lost) := tryPost ⟨boundCq c.sq s, e, flag c.desc 8, returnedData c.desc f, msg⟩ s
    if lost then freePush msg (loseCpl (boundCq c.sq s) s') else s'

/-- A consumed descriptor by its number. -/
def consumedById (id : Nat) (s : State) : Option Consumed := s.host.consumed.find? fun c => c.id == id

/-- Opcodes whose completion may be lost for want of room (R58): the others wait to begin. -/
def isQueueOp (op : Nat) : Bool := [0x01, 0x02, 0x12, 0x13, 0x14].contains op

/-- A descriptor of a CONTROL stream whose completion never waits for room (R58). -/
def neverHeld (c : Consumed) (s : State) : Bool :=
  isQueueOp (fld c.desc 0 8) && ((mapGet s.streams (fld c.desc 16 8)).map fun x => x.cls == 0).getD false

/-- Bytes of a descriptor's output wait for a page that is moving: they are not visible yet (R54, R161). -/
def outputHeld (d : Desc) (s : State) : Bool :=
  let a := fld d 160 64
  let n := fld d 224 32
  n != 0 && decide (a < 2 ^ 48) && s.tiers.moves.any fun m => m.held.any fun h => decide (h.1 < a + n) && decide (a < h.1 + h.2.length)

/-- A completion posted or held where there is room for it, once its output is visible; otherwise it is kept until then (R54, R58). The
completion of a CONTROL stream does not wait for room. -/
def completeOrWait (c : Consumed) (f : Facts) (s : State) : State :=
  if !(outputHeld c.desc s) && (discarded c f || neverHeld c s || roomFor (boundCq c.sq s) s) then complete c f s
  else { s with host := { s.host with decided := s.host.decided ++ [(c.id, { f with decidedAt := some (outTimeOf f s) })] } }

/-- The descriptor of a number completes, where it has not. -/
def completeId (id : Nat) (f : Facts) (s : State) : State :=
  match consumedById id s with
  | some c => completeOrWait c f s
  | none => s

/-- Completions that waited for room, in order, as far as there is room now (R58). -/
def drainDecided (s : State) : State :=
  forEach s.host.decided (fun (id, f) s => match consumedById id s with
      | some c => completeOrWait c f s
      | none => s) { s with host := { s.host with decided := [] } }

/-- FENCE: every earlier descriptor of the ring has completed (R45, R53). -/
def fenceOpen (c : Consumed) (s : State) : Bool :=
  !(flag c.desc 9) || !(s.host.consumed.any fun d => d.sq == c.sq && decide (d.id < c.id))

/-! ### Ring stop (R60) -/

/-- A submission ring stops: STATE becomes STOPPED and one HOST_FAULT entry with TAG 0xFFFF_FFFF is posted (R60). -/
def stopRing (sq detail : Nat) (s : State) : State :=
  let s := setF Fld.hostRingCfgState (ringIx 0 sq) 2 s
  let e : Entry :=
    { tag := 0xFFFFFFFF#32, status := BitVec.ofNat 8 Status.hostFault, event := false, variant := false,
      sq := BitVec.ofNat 12 sq, outTime := now32 s, planesUsed := 0, degradedLayers := 0, replayCount := 0,
      skipCount := 0, aux := 0, detail := BitVec.ofNat 16 detail, stream := 0 }
  let (s', lost) := tryPost ⟨boundCq sq s, e, false, none, none⟩ s
  if lost then loseCpl (boundCq sq s) s' else s'

/-! ### Ring set-up (R39) -/

/-- A ring configuration write discarded: HOST_ERR_STATUS.CFG (R39, R502). -/
def cfgError (kind i : Nat) (s : State) : State :=
  hostError Fld.hostErrStatusCfg 0x0004 Status.done (i + kind * 65536) s

/-- The ring of HOST_RING_SEL, if it selects one (R39). -/
def selectedRing (s : State) : Option (Nat × Nat) :=
  let kind := getF Fld.hostRingSelKind 0 s
  let i := getF Fld.hostRingSelIndex 0 s
  if kind = 1 ∧ 256 ≤ i then none else some (kind, i)

/-- Some submission ring that is not DISABLED is bound to a completion ring (R39). -/
def cqInUse (cq : Nat) (s : State) : Bool :=
  s.regs.any fun (k, v) =>
    decide (keyOf .hostRingCfg 0 ≤ k) && decide (k < keyOf .hostRingCfg 4096)
      && bitsAt v.toNat 1 2 != 0 && bitsAt v.toNat 16 8 == cq

/-- Unconsumed descriptors of a disabled submission ring are discarded without completion (R39). -/
def dropUnread (sq : Nat) (s : State) : State :=
  setPush ((listUpdate s.host.push (fun m => m.sq == sq)
    (fun m => { m with unsent := m.unsent - m.unread, unread := 0 })).filter
      (fun m => !(m.unsent == 0 && m.unread == 0))) s

/-- Entries held for a ring that is no longer ACTIVE: completions are lost and counted, events stay in the log (R58). -/
def dropHeld (cq : Nat) (s : State) : State :=
  let out := s.host.hold.filter fun p => p.cq == cq
  let s := setHold (s.host.hold.filter (fun p => p.cq != cq)) s
  forEach out (fun p s => if p.entry.event then s else freePush p.msg (loseCpl cq s)) s

/-- An owed reset event posted on CQ0 with the TAG and OUT_TIME that it took at the reset (R477). -/
def postOwed (s : State) : State :=
  let owed := s.host.owed
  forEach owed (fun e s => let (s', lost) := eventOnCq0 e s; if lost then setCqLost 0 s' else s')
    { s with host := { s.host with owed := [] } }

/-- The counts of a ring zeroed, when it is enabled (R37). -/
def zeroRing (kind i : Nat) (s : State) : State :=
  if kind = 0 then setSq i ⟨0, 0⟩ s else setCq i ⟨0, 0, 0, none, none, false, []⟩ s

/-- RW bits of HOST_RING_CFG for a ring of a kind: CQ for submission rings only, VECTOR for completion rings other than CQ0 only, and
the other fields for all (R10, R39). -/
def ringCfgMask (kind i : Nat) : Nat :=
  let m := putBits (putBits (putBits (putBits 0 0 1 1) 8 5 0x1F) 32 8 0xFF) 40 16 0xFFFF
  if kind = 0 then putBits m 16 8 0xFF
  else if i = 0 then m else putBits m 24 6 0x3F

/-- A write of HOST_RING_CFG under a byte mask, by the rules of R39: RING_ENABLE, RING_DISABLE and every other write. -/
def ringCfgWrite (mask v : Nat) (s : State) : State :=
  match selectedRing s with
  | none => s
  | some (kind, i) =>
    let ix := ringIx kind i
    let old := getR .hostRingCfg ix s
    let m := ringCfgMask kind i &&& mask
    let new := (old &&& ((2 ^ 64 - 1) ^^^ m)) ||| (v &&& m)
    let st := bitsAt old 1 2
    let en := bitsAt new 0 1 == 1
    let depth := bitsAt new 8 5
    if st = 0 then
      if en then
        if depth < 4 ∨ 16 < depth then cfgError kind i s
        else if kind = 0 ∧ ringState 1 (bitsAt new 16 8) s ≠ 1 then cfgError kind i s
        else
          let s := zeroRing kind i (setR .hostRingCfg ix (putBits new 1 2 1) s)
          if kind = 1 ∧ i = 0 then postOwed s else s
      else setR .hostRingCfg ix new s
    else if bitsAt new 8 5 ≠ bitsAt old 8 5 ∨ bitsAt new 16 8 ≠ bitsAt old 16 8 then cfgError kind i s
    else if en then setR .hostRingCfg ix new s
    else if kind = 1 ∧ cqInUse i s then cfgError kind i s
    else
      let s := setR .hostRingCfg ix (putBits new 1 2 0) s
      if kind = 0 then dropUnread i s else dropHeld i s

/-- A write of HOST_RING_BASE: discarded where it changes BASE of a ring that is not DISABLED (R39). -/
def ringBaseWrite (mask v : Nat) (s : State) : State :=
  match selectedRing s with
  | none => s
  | some (kind, i) =>
    let old := getR .hostRingBase (ringIx kind i) s
    let new := writtenVal .hostRingBase old mask v
    if ringState kind i s ≠ 0 ∧ new ≠ old then cfgError kind i s
    else setR .hostRingBase (ringIx kind i) new s

/-! ### Doorbells (R40 to R43) -/

/-- A new submission tail is valid when it lies between the previous tail and head + depth (R42). -/
def tailValid (sq : Nat) (tail : BitVec 32) (s : State) : Bool :=
  let r := sqOf sq s
  ringState 0 sq s == 1 && decide (dist32 r.tail tail ≤ dist32 r.tail (r.head + BitVec.ofNat 32 (ringDepth 0 sq s)))

/-- A new completion head is valid when it lies between the previous head and the tail (R43). -/
def headValid (cq : Nat) (head : BitVec 32) (s : State) : Bool :=
  let r := cqOf cq s
  decide (dist32 r.head head ≤ dist32 r.head r.tail)

/-- HOST_ERR_STATUS.DOORBELL with its event (R40, R502). -/
def doorbellError (aux : Nat) (s : State) : State :=
  hostError Fld.hostErrStatusDoorbell 0x0001 Status.hostFault aux s

/-- A submission tail takes effect, or is discarded, flagged and stops an ACTIVE ring (R42). -/
def setTail (sq : Nat) (tail : BitVec 32) (s : State) : State :=
  if tailValid sq tail s then setSq sq { sqOf sq s with tail := tail } s
  else
    let active := ringState 0 sq s == 1
    let s := doorbellError sq s
    if active then stopRing sq 0x0003 s else s

/-- A completion head moves on; an episode of fullness ends when the ring is no longer full (R43, R502). -/
def moveHead (cq : Nat) (head : BitVec 32) (s : State) : State :=
  let q := cqOf cq s
  if dist32 head q.tail = ringDepth 1 cq s then setCq cq { q with head := head } s
  else setCq cq { q with head := head, fullSince := none, stalled := false } s

/-- A completion head takes effect or is discarded and flagged (R43). -/
def setHead (cq : Nat) (head : BitVec 32) (s : State) : State :=
  if headValid cq head s then moveHead cq head s else doorbellError (cq + 65536) s

/-- A BAR2 write that R40 accepts: 4 or 8 bytes at byte 0 of any slot, or at byte 8 of slots 0 to 255. -/
def doorbellAccepted (off len : Nat) : Bool :=
  (len == 4 || len == 8) && (off % 16 == 0 || (off % 16 == 8 && decide (off / 16 < 256)))

/-- AUX of HOST event 0x0001 for a BAR2 write (R502). -/
def doorbellAux (off : Nat) : Nat :=
  if off % 16 = 0 then off / 16 else if off % 16 = 8 then off / 16 + 65536 else 0xFFFFFFFF

/-- A read of BAR2: submission head at byte 0, completion tail at byte 8, 0 elsewhere (R41). -/
def doorbellByte (off : Nat) (s : State) : Byte :=
  let n := off / 16
  let b := off % 16
  if b < 4 then byteAt (natLe 4 (sqOf n s).head.toNat) b
  else if 8 ≤ b ∧ b < 12 ∧ n < 256 then byteAt (natLe 4 (cqOf n s).tail.toNat) (b - 8)
  else 0

/-! ### The meanings -/

/-- One held entry of a ring posted where there is room, or discarded where the ring is not ACTIVE; otherwise it stays. -/
def drainStep (cq : Nat) (p : Posting) (s : State) : State :=
  if p.cq ≠ cq then setHold (s.host.hold ++ [p]) s
  else match roomAt cq s with
    | .post => postNow p s
    | .inactive => if p.entry.event then s else freePush p.msg (loseCpl cq s)
    | .hold => setHold (s.host.hold ++ [p]) s
    | .full => setHold (s.host.hold ++ [p]) s

/-- The held entries of a ring posted in order while there is room (R58). -/
def drainHold (cq : Nat) (s : State) : State :=
  forEach s.host.hold (drainStep cq) (setHold [] s)

/-- HOLDING_QUEUE_DRAIN: when room appears on a full completion ring, held entries are posted (R58). -/
def execHoldingQueueDrain (cq : Fin 256) (s : State) : Host.Outcome State Fault Refusal :=
  .next (onlyIf (running s) (fun s => drainDecided (drainHold cq.val s)) s)

/-- CQ_TIMEOUT in nanoseconds: 0 acts as 1 ms, values above 1,000 act as 1,000 ms (R39). -/
def cqTimeoutNs (s : State) : Nat := min 1000 (max 1 (getF Fld.hostCtrlCqTimeout 0 s)) * 1000000

/-- CQ_STALL set and HOST event 0x0003 posted, whether or not the bit is set (R59, R502). -/
def stallCq (cq : Nat) (s : State) : State :=
  let s := setCq cq { cqOf cq s with stalled := true } s
  postEvent 1 0x0003 Status.done cq (setB Fld.hostErrStatusCqStall 0 true s)

/-- The ring has been full for CQ_TIMEOUT in an episode not yet reported. -/
def stallDue (cq : Nat) (s : State) : Bool :=
  match (cqOf cq s).fullSince with
  | some t => decide (t + cqTimeoutNs s ≤ s.clock) && !(cqOf cq s).stalled && ringState 1 cq s == 1 && cqFull cq s
  | none => false

/-- CQ_STALL (R59). -/
def execCqStall (cq : Fin 256) (s : State) : Host.Outcome State Fault Refusal :=
  .next (onlyIf (running s && stallDue cq.val s) (stallCq cq.val) s)

/-- A posted entry has waited COAL_TIME microseconds, where that is not 0 (R57). -/
def coalDue (cq : Nat) (s : State) : Bool :=
  match (cqOf cq s).oldest with
  | some t =>
    decide (getF Fld.hostRingCfgCoalTime (ringIx 1 cq) s ≠ 0)
      && decide (t + getF Fld.hostRingCfgCoalTime (ringIx 1 cq) s * 1000 ≤ s.clock)
  | none => false

/-- COAL_TIME: one MSI-X message for an entry that has waited (R57). -/
def execCoalTime (cq : Fin 256) (s : State) : Host.Outcome State Fault Refusal :=
  .next (onlyIf (running s && coalDue cq.val s) (signalCq cq.val) s)

/-- An MSI-X table entry written: where this unmasks a vector whose PBA bit is set, one message follows (R57). -/
def msixEntryWrite (v : Nat) (e : BitVec 128) (s : State) : State :=
  let s := { s with host := { s.host with msixTable := mapSet s.host.msixTable v e } }
  if !(flag e 96) && flag s.host.pba v then
    emit (.msix v) { s with host := { s.host with pba := s.host.pba &&& ~~~(1#64 <<< v) } }
  else s

/-- MSIX_UNMASK: the mask bit of a vector is cleared (R57). -/
def execMsixUnmask (v : Fin 64) (s : State) : Host.Outcome State Fault Refusal :=
  let e := (mapGet s.host.msixTable v.val).getD (1#128 <<< 96)
  .next (onlyIf (running s && !(usbAttached s)) (msixEntryWrite v.val (e &&& ~~~(1#128 <<< 96))) s)

end Sys2Proof.Machine
end

