-- ==== Sys2Proof/Machine/Objects.lean ====
section
/-!
DEFINITION. Where every byte of the memory tiers lies: T0, T1, the T2 pool and the windows in one address space, the object
range, page places, poison and reachability (R15, R146 to R153, R161, R173 to R176).
-/
namespace Sys2Proof.Machine
open Sys2Proof

/-! ### Domains (Table PWR-1) -/

namespace Dom
def sec : Nat := 1
def safe : Nat := 2
def time : Nat := 3
def cle : Nat := 4
def mgmt : Nat := 5
def fus : Nat := 6
def plan : Nat := 7
def prog : Nat := 8
def pcie : Nat := 9
def usb : Nat := 10
def eth : Nat := 11
def csia : Nat := 12
def csib : Nat := 13
def jport : Nat := 14
def hs (n : Nat) : Nat := 15 + n
def dbg : Nat := 19
def dlink : Nat := 20
/-- Quadrant `k` of die `n`. -/
def quad (n k : Nat) : Nat := 21 + 10 * n + k
def seq (n : Nat) : Nat := 25 + 10 * n
def pod (n k : Nat) : Nat := 26 + 10 * n + k
def link (n : Nat) : Nat := 30 + 10 * n
def mem (n : Nat) : Nat := 61 + n
end Dom

/-- State of a domain; Acorn, domain 0, is always on. -/
def domState (d : Nat) (s : State) : DomState := if d = 0 then .on else s.domains.getD (d - 1) .off

/-- A domain is on. -/
def domOn (d : Nat) (s : State) : Bool := domState d s == .on

/-- A die can run sequences: Q0 to Q3, SEQ and LINK are on (FAB_DIE_STATUS.READY). -/
def dieReady (n : Nat) (s : State) : Bool :=
  domOn (Dom.quad n 0) s && domOn (Dom.quad n 1) s && domOn (Dom.quad n 2) s && domOn (Dom.quad n 3) s
    && domOn (Dom.seq n) s && domOn (Dom.link n) s

/-- An idle die. -/
def idleDie : Die := Die.reset
def dieOf (d : Nat) (s : State) : Die := s.dies.getD d idleDie
def setDie (d : Nat) (x : Die) (s : State) : State := { s with dies := s.dies.set d x }
def adjDie (d : Nat) (f : Die → Die) (s : State) : State := setDie d (f (dieOf d s)) s

/-! ### The one address space of `mem` -/

/-- A byte of a core store of a compute die (192 KiB each, R146). -/
def coreAddr (die core byte : Nat) : Nat := die * 2 ^ 24 + core * 2 ^ 18 + byte
/-- A line of staging: scratch, provisional slots, sequence cache (R135). -/
def stagingAddr (die line : Nat) : Nat := die * 2 ^ 24 + 0xC00000 + line * 64
/-- An activation table of a core (R112). -/
def tableAddr (die core t : Nat) : Nat := die * 2 ^ 24 + 0xD00000 + (core * 4 + t) * 1024
/-- The activation register of a cell (R86). -/
def cellAddr (die core array lane cell : Nat) : Nat :=
  die * 2 ^ 24 + 0xD40000 + ((core * 4 + array) * 16 + lane) * 64 + cell
/-- The shadow register of a cell (R86, R89). -/
def shadowAddr (die core array lane cell : Nat) : Nat :=
  die * 2 ^ 24 + 0xD80000 + ((core * 4 + array) * 16 + lane) * 64 + cell
/-- A byte of the hub stores (Table MEM-2). -/
def hubAddr (off : Nat) : Nat := 4 * 2 ^ 24 + off
/-- A byte of a BAR0 window (Table REG-3). -/
def winAddr (off : Nat) : Nat := 2 ^ 35 + off
/-- A die-local data address of T1 (R149). -/
def t1Addr (die d : Nat) : Nat := 2 ^ 36 + die * 2 ^ 34 + d
/-- A page of the T2 pool (R154). -/
def t2Addr (page : Nat) : Nat := 2 ^ 40 + page * 65536
/-- A byte of a firmware slot of the boot flash (R456). -/
def flashAddr (slot off : Nat) : Nat := 2 ^ 50 + slot * 2 ^ 40 + off

/-- Module pod of a die-local data address (R147, R149). -/
def podOf (die d : Nat) : Nat := 4 * die + d / 256 % 64 / 16
/-- Channel within the pod (R149). -/
def channelOf (d : Nat) : Nat := d / 256 % 64 % 16

/-- Where a data granule lies in its channel, and where its codes lie (R148, R149). -/
structure DataPlace where
  pod : Nat
  channel : Nat
  slot : Nat
  byte : Nat
  codeSlot : Nat
  codeByte : Nat
  deriving DecidableEq, Repr

/-- The physical location of die-local data address `d`: slots go in groups of sixteen, fifteen for data and one for their codes (R148,
R149). -/
def dataPlace (die d : Nat) : DataPlace :=
  let h := d / 256 / 64
  { pod := podOf die d, channel := channelOf d, slot := 16 * (h / 15) + h % 15, byte := 256 * (16 * (h / 15) + h % 15) + d % 256
    codeSlot := 16 * (h / 15) + 15, codeByte := 16 * (h % 15) }

/-- The line that holds a page map place's first byte. -/
def placeAddr : Place → Nat
  | .t0 die core line => coreAddr die core (line * 64)
  | .t1 die frame => t1Addr die (frame * 65536)
  | .t2 page => t2Addr page

/-! ### The object range (R151 to R153) -/

/-- The job slot of an object-range address (R151). -/
def slotOf (a : Nat) : Nat := a / 2 ^ 43 % 32
/-- The offset within the job's objects (R151). -/
def offsetOf (a : Nat) : Nat := a % 2 ^ 43

/-- A size rounded up to whole 64 KiB. -/
def roundPage (n : Nat) : Nat := ceilDiv n 65536 * 65536

/-- Bytes over which an object extends: its size rounded up to 64 KiB (R151). -/
def extent (o : TierObj) : Nat := roundPage o.size

/-- The object of a job that holds an offset (R151). -/
def objectAt (j : Job) (off : Nat) : Option TierObj :=
  j.objs.find? fun o => decide (o.offset ≤ off) && decide (off < o.offset + extent o)

/-- A job's die record (R72). -/
def dieRec (j : Job) (die : Nat) : Option DieRec := j.dieRecs.find? fun r => r.die == die

/-- Lines of a job's reservation in each core store of a die (R146). -/
def resLines (r : DieRec) : Nat := ceilDiv (r.t0Kib * 16) 48

/-- The T0 place of byte `b` of a PINNED_T0 object (Table MEM-4). -/
def pinnedAddr (j : Job) (o : TierObj) (b : Nat) : Nat :=
  let slice := 64 * o.sliceLines
  let base := ((dieRec j o.homeDie).map fun r => r.base).getD 0
  coreAddr o.homeDie (o.coreFirst + b / slice) ((base + o.lineBase) * 64 + b % slice)

/-- The bytes of a PINNED_T0 object that its cores' lines hold (Table MEM-4). What the rounding adds beyond them has no place (log 54). -/
def pinnedBytes (o : TierObj) : Nat := o.coreCount * (64 * o.sliceLines)

/-- The memory address of an object-range byte, if it is mapped (R151, R152). -/
def resolve (a : Nat) (s : State) : Option Nat :=
  match mapGet s.jobs (slotOf a) with
  | none => none
  | some j =>
    match objectAt j (offsetOf a) with
    | none => none
    | some o =>
      if o.policy = 0 then
        if offsetOf a - o.offset < pinnedBytes o then some (pinnedAddr j o (offsetOf a - o.offset)) else none
      else (mapGet s.tiers.pages (a / 65536)).map fun p => placeAddr p + a % 65536

/-- The object that holds an object-range address. -/
def objectOf (a : Nat) (s : State) : Option TierObj :=
  match mapGet s.jobs (slotOf a) with
  | none => none
  | some j => objectAt j (offsetOf a)

/-- A range lies within one object (R153). -/
def inOneObject (a n : Nat) (s : State) : Bool :=
  match objectOf a s with
  | none => false
  | some o => decide (offsetOf a + n ≤ o.offset + extent o)

/-- Bytes of the object range. A byte that has no place is open: readers check that the range is mapped, so it is one that the rounding
of a PINNED_T0 object adds (log 54). -/
def readObj (a n : Nat) (s : State) : List Byte :=
  (List.range n).map fun i => match resolve (a + i) s with
    | some m => memByte s.mem m
    | none => Config.freeByte 30 (a + i) 0

/-! ### Errors on a read (R173 to R176) -/

/-- The die, and the die-local address, of a T1 memory address. -/
def t1Die (m : Nat) : Nat := (m - 2 ^ 36) / 2 ^ 34
def t1Local (m : Nat) : Nat := (m - 2 ^ 36) % 2 ^ 34

/-- A memory address lies in T1. -/
def isT1 (m : Nat) : Bool := decide (2 ^ 36 ≤ m) && decide (m < 2 ^ 36 + 4 * 2 ^ 34)

/-- A memory address lies in the hub stores or below, which is T0. -/
def isT0 (m : Nat) : Bool := decide (m < 5 * 2 ^ 24)

/-- The die of a T0 address; 4 for the hub. -/
def t0Die (m : Nat) : Nat := m / 2 ^ 24
/-- The core of a T0 address, 255 for staging and the hub. -/
def t0Core (m : Nat) : Nat := if m % 2 ^ 24 < 48 * 2 ^ 18 ∧ m < 4 * 2 ^ 24 then m % 2 ^ 24 / 2 ^ 18 else 255

/-- A T1 byte can be reached: its pod's domain and MEM rail are on, and its die's T1 is in service (R176, R177). -/
def t1Reachable (die d : Nat) (s : State) : Bool :=
  domOn (Dom.pod die (podOf die d % 4)) s && domOn (Dom.mem die) s && !(getB Fld.memPodStatusFailed (podOf die d) s)

/-- The ring links that a transfer from one die to another takes, each as die and link (0 next, 1 previous) from either end (R18). -/
def ringHops (src dst : Nat) : List (Nat × Nat) :=
  if dst = (src + 1) % 4 then [(src, 0), (dst, 1)]
  else if dst = (src + 3) % 4 then [(src, 1), (dst, 0)]
  else [(src, 0), ((src + 1) % 4, 1), ((src + 1) % 4, 0), (dst, 1)]

/-- The end of a die link carries traffic: it has not failed, and the blocks at it are on (R17, R20). Link 2 is the die's hub link, which
ends at the hub link port of the die and the die-link switch. -/
def linkOpen (d link : Nat) (s : State) : Bool :=
  !((dieOf d s).failedLinks.contains link) && domOn (Dom.link d) s && (link != 2 || domOn (Dom.hs d) s && domOn Dom.dlink s)

/-- Traffic passes between two ends, each a die or 4 for the hub (R16 to R18, R20). -/
def pathOpen (a b : Nat) (s : State) : Bool :=
  if a = b then true
  else if a = 4 then linkOpen b 2 s
  else if b = 4 then linkOpen a 2 s
  else (ringHops a b).all fun h => linkOpen h.1 h.2 s

/-- Where a memory address lies: its die, or 4 for the hub and what lies beyond it. -/
def memHome (m : Nat) : Nat := if isT1 m then t1Die m else if isT0 m then min (t0Die m) 4 else 4

/-- A core store or staging keeps what it holds in reach only while its quadrant or sequence domain is on (R372). -/
def t0On (m : Nat) (s : State) : Bool :=
  !(decide (m < 4 * 2 ^ 24)) || domOn (if t0Core m < 48 then Dom.quad (t0Die m) (t0Core m / 12) else Dom.seq (t0Die m)) s

/-- The pod of an address that cannot be reached: for one outside T1 the spec names none (log 72). -/
def openPod (m : Nat) : Nat := if isT1 m then podOf (t1Die m) (t1Local m) else Config.free 31 m

/-- A memory address is out of reach of a reader `r`, a die or 4 for the hub: its page is unreachable, or, for the hub, the way to it is
closed (R176; DEDUCED, log 72). -/
def outOfReach (r m : Nat) (s : State) : Bool :=
  (isT1 m && !(t1Reachable (t1Die m) (t1Local m) s)) || (r == 4 && (!(pathOpen 4 (memHome m) s) || !(t0On m s)))

/-- What a read of one memory address of a page meets. -/
def errAt (r m : Nat) (page : Option Nat) (s : State) : Option ReadErr :=
  if outOfReach r m s then some (.unreachable (openPod m))
  else if s.tiers.poison.contains (m / 64) then
    if isT0 m then some (.t0 (t0Die m) (t0Core m)) else some (.tier m page)
  else none

/-- The 64-byte lines that a range touches. -/
def linesOf (a n : Nat) : List Nat := if n = 0 then [] else (List.range ((a + n - 1) / 64 - a / 64 + 1)).map (· + a / 64)

/-- The first error that a read of an object range meets, by a die or by the hub (4). -/
def firstErr (r a n : Nat) (s : State) : Option ReadErr :=
  (linesOf a n).findSome? fun l => match resolve (l * 64) s with
    | some m => errAt r m (some (l * 64 / 65536)) s
    | none => none

/-- The first line of an object range that the hub cannot reach (R176). -/
def firstLost (a n : Nat) (s : State) : Option ReadErr :=
  (linesOf a n).findSome? fun l => match resolve (l * 64) s with
    | some m => if outOfReach 4 m s then some (.unreachable (openPod m)) else none
    | none => none

/-- AUX of a T1 error: pod, channel, die-local frame (Table MEM-7). -/
def t1Aux (m : Nat) : Nat :=
  podOf (t1Die m) (t1Local m) + channelOf (t1Local m) * 2 ^ 8 + t1Local m / 65536 * 2 ^ 12

/-- DETAIL and AUX of MEMORY_FAULT for a host read (R118, R173, R176). -/
def hostErr : ReadErr → Nat × Nat
  | .unreachable pod => (0x0004, pod)
  | .tier m _ => (0x0002, t1Aux m)
  | .t0 die core => (0x0005, die + core * 256)

/-- DETAIL and AUX of MEMORY_FAULT for a job's read (R173, R175, R176). -/
def jobErr (e : ReadErr) (s : State) : Nat × Nat :=
  match e with
  | .unreachable pod => (0x0004, pod)
  | .tier m page =>
    let weight (p : Nat) : Bool := ((objectOf (p * 65536) s).map fun o => o.weight).getD false
    let detail := match page with
      | some p => if weight p then (if s.tiers.bad.contains p then 0x0003 else 0x0001) else 0x0002
      | none => 0x0002
    (detail, t1Aux m)
  | .t0 die core => (0x0005, die + core * 256)

/-- The error lies in a WEIGHT page that R175 left poisoned: the read completes with DETAIL 0x0003 and no restart follows. -/
def leftPoisoned (e : ReadErr) (s : State) : Bool := (jobErr e s).1 == 0x0003

/-- FAB_ERR_STATUS.T0_UE and its event (R118, Table FAB-9). -/
def reportT0Ue (die core : Nat) (s : State) : State :=
  postEvent 3 0x0001 Status.memoryFault (die + core * 256) (setB Fld.fabErrStatusT0Ue die true s)

/-- The lines that are poisoned together with the one at an address: the whole granule in T1 and T2, the line in T0 (R174). -/
def poisonUnit (m : Nat) : List Nat := if isT0 m then [m / 64] else (List.range 4).map (· + m / 256 * 4)

/-- An address marked poisoned; a T1 frame that has held a poisoned granule is marked for retirement (R174, R175). -/
def poisonAt (m : Nat) (s : State) : State :=
  let fr := if isT1 m then [t1Die m * 2 ^ 18 + t1Local m / 65536] else []
  { s with tiers :=
      { s.tiers with
        poison := s.tiers.poison ++ (poisonUnit m).filter (fun l => !(s.tiers.poison.contains l))
        tainted := s.tiers.tainted ++ fr.filter (fun f => !(s.tiers.tainted.contains f)) } }

/-- A newly found uncorrectable T1 granule: status, count and event (R173; the scrub posts 0x0003 instead, R174). -/
def reportUe (m event : Nat) (s : State) : State :=
  if s.tiers.poison.contains (m / 64) then s
  else
    poisonAt m
      (postEvent 4 event Status.memoryFault (t1Aux m)
        (incF Fld.memPodStatusUeCount (podOf (t1Die m) (t1Local m)) (setB Fld.memErrStatusUe 0 true s)))

/-- A corrected T1 error: status, count, and event 0x0001 once an hour when a pod passes CE_THRESHOLD (R172). -/
def reportCe (m : Nat) (s : State) : State :=
  let pod := podOf (t1Die m) (t1Local m)
  let s := incF Fld.memPodStatusCeCount pod (setB Fld.memErrStatusCe 0 true s)
  let hour := s.clock / 3600000000000
  let (h, n, posted) := (mapGet s.tiers.ceHour pod).getD (hour, 0, false)
  let n := if h = hour then n + 1 else 1
  let posted := decide (h = hour) && posted
  let due := !posted && decide (max 1 (getF Fld.memEccCfgCeThreshold 0 s) < n)
  let s := { s with tiers := { s.tiers with ceHour := mapSet s.tiers.ceHour pod (hour, n, posted || due) } }
  if due then postEvent 4 0x0001 Status.done (pod + min n 65535 * 65536) s else s

/-- What inline ECC or SEC-DED finds at one address on a read that has not met it before: a corrected error is counted, an uncorrectable
one reported and kept (R118, R172, R173). -/
def senseAt (corrected : Bool) (m : Nat) (s : State) : State :=
  if isT1 m then
    if !(t1Reachable (t1Die m) (t1Local m) s) then s
    else if corrected then reportCe m s
    else reportUe m 0x0002 s
  else if m < 4 * 2 ^ 24 then
    if corrected then incF Fld.fabCeCountT0Ce (t0Die m) (setB Fld.fabErrStatusT0Ce (t0Die m) true s) else poisonAt m s
  else s

/-- What a read of an object range finds new, at a byte offset of what is read. T2 has no code of its own (Table MEM-1). -/
def senseObj (a n : Nat) (ecc : ReadEcc) (s : State) : State :=
  let go (corrected : Bool) (k : Nat) : State :=
    if n ≤ k then s
    else match resolve (a + k) s with
      | some m => senseAt corrected m s
      | none => s
  match ecc with
  | .clean => s
  | .corrected k => go true k
  | .uncorrectable k => go false k

/-- The address of an offset counted across several ranges. -/
def rangeAt : List (Nat × Nat) → Nat → Option Nat
  | [], _ => none
  | (a, n) :: rs, k => if k < n then some (a + k) else rangeAt rs (k - n)

/-- What a read of several ranges of the object range finds new, at an offset counted across them. -/
def senseRanges (rs : List (Nat × Nat)) (ecc : ReadEcc) (s : State) : State :=
  let go (corrected : Bool) (k : Nat) : State :=
    match (rangeAt rs k).bind fun a => resolve a s with
    | some m => senseAt corrected m s
    | none => s
  match ecc with
  | .clean => s
  | .corrected k => go true k
  | .uncorrectable k => go false k

/-- The first error that a read of several ranges meets. -/
def rangesErr (r : Nat) (rs : List (Nat × Nat)) (s : State) : Option ReadErr := rs.findSome? fun p => firstErr r p.1 p.2 s

/-- How many bytes a list of ranges holds. -/
def rangesSize (rs : List (Nat × Nat)) : Nat := (rs.map fun r => r.2).sum

/-- What a later read of the same command found, where the byte is counted over all its reads and `n` bytes came before it. -/
def eccAfter (n : Nat) : ReadEcc → ReadEcc
  | .clean => .clean
  | .corrected k => if k < n then .clean else .corrected (k - n)
  | .uncorrectable k => if k < n then .clean else .uncorrectable (k - n)

/-! ### Writes (R161, R174) -/

/-- A write covers a poisoned line, with the whole granule where that is the unit (R174). -/
def coversLine (m n l : Nat) : Bool :=
  if isT0 (l * 64) then decide (m ≤ l * 64) && decide (l * 64 + 64 ≤ m + n)
  else decide (m ≤ l / 4 * 256) && decide (l / 4 * 256 + 256 ≤ m + n)

/-- Poison cleared by a write of whole granules, or of whole lines of T0 (R174). -/
def cleanLines (m n : Nat) (s : State) : State :=
  { s with tiers := { s.tiers with poison := s.tiers.poison.filter fun l => !(coversLine m n l) } }

/-- Block exponents of the lines that a write touches are gone: the content is no longer the converters' (R115). -/
def dropExps (m n : Nat) (s : State) : State :=
  { s with blkExp := s.blkExp.filter fun e => decide (e.1 * 64 + 64 ≤ m) || decide (m + n ≤ e.1 * 64) }

/-- Bytes stored at consecutive memory addresses, clearing poison that they cover. -/
def store (m : Nat) (bs : List Byte) (s : State) : State := dropExps m bs.length (cleanLines m bs.length (wrMem m bs s))

/-- Bytes stored in the object range, page by page. -/
def writeObjPieces : Nat → Nat → List Byte → State → State
  | 0, _, _, s => s
  | k + 1, a, bs, s =>
    if bs.isEmpty then s
    else
      let n := 64 - a % 64
      let s := match resolve a s with
        | some m => store m (bs.take n) s
        | none => s
      writeObjPieces k (a + n) (bs.drop n) s

/-- Bytes written into the object range by a job or an engine. Poison that the write covers clears. -/
def writeObj (a : Nat) (bs : List Byte) (s : State) : State :=
  let s := writeObjPieces (bs.length / 64 + 2) a bs s
  forEach ((List.range (bs.length / 256 + 1)).filter fun i => decide (((a + 255) / 256 + i) * 256 + 256 ≤ a + bs.length))
    (fun i s => match resolve (((a + 255) / 256 + i) * 256) s with
      | some m => cleanLines m 256 s
      | none => s) s

/-- A move of a page is in progress (R161). -/
def moveOf (page : Nat) (s : State) : Option Move := s.tiers.moves.find? fun m => m.page == page

/-- A host write within one page: a page that is moving holds it until the map changes (R161); one that cannot be reached takes nothing
(R176). -/
def hostWritePage (a : Nat) (bs : List Byte) (s : State) : State :=
  if (firstLost a bs.length s).isSome then s
  else match moveOf (a / 65536) s with
  | some mv =>
    let ms := listUpdate s.tiers.moves (fun x => x.id == mv.id) fun x => { x with held := x.held ++ [(a, bs)] }
    { s with tiers := { s.tiers with moves := ms } }
  | none => writeObj a bs s

/-- A host write into the object range, page by page (R161). -/
def hostWritePieces : Nat → Nat → List Byte → State → State
  | 0, _, _, s => s
  | k + 1, a, bs, s =>
    if bs.isEmpty then s
    else
      let n := 65536 - a % 65536
      hostWritePieces k (a + n) (bs.drop n) (hostWritePage a (bs.take n) s)

/-- A host write into the object range. -/
def hostWriteObj (a : Nat) (bs : List Byte) (s : State) : State := hostWritePieces (bs.length / 65536 + 2) a bs s

/-- The domain that closes the way between the hub and a die; 0 where the hub link has failed (R17, R20). -/
def offPath (d : Nat) (s : State) : Option Nat :=
  if d = 4 then none
  else if !(domOn (Dom.link d) s) then some (Dom.link d)
  else if !(domOn (Dom.hs d) s) then some (Dom.hs d)
  else if !(domOn Dom.dlink s) then some Dom.dlink
  else if (dieOf d s).failedLinks.contains 2 then some 0
  else none

/-- The domain that keeps a memory address out of reach of the hub: the pod or the MEM rail of a T1 byte, the quadrant of a core store, the
sequence domain of staging, or one on the way there; 0 where a die's T1 is out of service or its hub link has failed (R17, R176, R177,
R372). -/
def offDomain (m : Nat) (s : State) : Option Nat :=
  if isT1 m then
    let d := t1Die m
    let pod := podOf d (t1Local m)
    if !(domOn (Dom.pod d (pod % 4)) s) then some (Dom.pod d (pod % 4))
    else if !(domOn (Dom.mem d) s) then some (Dom.mem d)
    else if getB Fld.memPodStatusFailed pod s then some 0
    else offPath d s
  else if isT0 m && decide (t0Die m < 4) then
    let q := if t0Core m < 48 then Dom.quad (t0Die m) (t0Core m / 12) else Dom.seq (t0Die m)
    if domOn q s then offPath (t0Die m) s else some q
  else none

/-- A hub engine's write into an unreachable page is discarded, with PWR event 0x0005 once for each transition that made it so;
`block` is the engine's BAR0 block (R372). -/
def discardEngineWrite (block d : Nat) (s : State) : State :=
  if d = 0 || s.power.reported.contains d then s
  else postEvent 11 0x0005 Status.done block { s with power := { s.power with reported := s.power.reported ++ [d] } }

/-- A hub engine's write into the object range. -/
def engineWrite (block a : Nat) (bs : List Byte) (s : State) : State :=
  match (linesOf a bs.length).findSome? fun l => (resolve (l * 64) s).bind fun m => offDomain m s with
  | some d => discardEngineWrite block d s
  | none => writeObj a bs s

/-- A read of pages: their read bits are set, and a SPILLABLE page in T2 is queued for T1 (R159). -/
def touchPages (a n : Nat) (s : State) : State :=
  forEach (if n = 0 then [] else (List.range ((a + n - 1) / 65536 - a / 65536 + 1)).map (· + a / 65536))
    (fun p s =>
      match mapGet s.tiers.pages p with
      | none => s
      | some pl =>
        let spill := ((objectOf (p * 65536) s).map fun o => o.policy == 3).getD false
        let t := { s.tiers with unread := mapSet s.tiers.unread p 0 }
        let inT2 := match pl with
          | .t2 _ => true
          | .t0 _ _ _ => false
          | .t1 _ _ => false
        { s with tiers := if spill && inT2 && !(t.back.contains p) then { t with back := t.back ++ [p] } else t }) s

/-- The read bits of several ranges (R159). -/
def touchRanges (rs : List (Nat × Nat)) (s : State) : State := forEach rs (fun p s => touchPages p.1 p.2 s) s

/-- A MEM event (R178). -/
def memEvent (detail status aux : Nat) (s : State) : State := postEvent 4 detail status aux s

def setTiers (x : Tiers) (s : State) : State := { s with tiers := x }

/-! ### Frames of T1 (R148, R156, R175) -/

/-- Usable frames of a die: 15 GiB (R148). -/
def framesPerDie : Nat := 245760

/-- Key of a frame in the maps. -/
def frameKey (die f : Nat) : Nat := die * 2 ^ 18 + f

/-- A frame is in use, or retired. -/
def frameTaken (k : Nat) (s : State) : Bool := (mapGet s.tiers.frames k).isSome || s.tiers.retired.contains k

/-- The lowest free frame of a die, from `i` on, within `n` tries. -/
def lowFrame (die : Nat) (s : State) : Nat → Nat → Option Nat
  | 0, _ => none
  | n + 1, i => if frameTaken (frameKey die i) s then lowFrame die s n (i + 1) else some i

/-- A die's T1 is out of service (R177). -/
def t1Failed (die : Nat) (s : State) : Bool := getB Fld.memPodStatusFailed (4 * die) s

/-- Entries of a map for keys in a range. -/
def countKeys {α : Type} (m : SMap α) (lo hi : Nat) : Nat := m.countP fun p => decide (lo ≤ p.1) && decide (p.1 < hi)

/-- Retired frames, and free frames, of a die. -/
def retiredOn (die : Nat) (s : State) : Nat := s.tiers.retired.countP fun k => k / 2 ^ 18 == die
def freeFrames (die : Nat) (s : State) : Nat :=
  if t1Failed die s then 0
  else framesPerDie - countKeys s.tiers.frames (frameKey die 0) (frameKey (die + 1) 0) - retiredOn die s

/-- A free frame of a die taken for a job. -/
def takeFrame (die job : Nat) (s : State) : Option (Nat × State) :=
  if t1Failed die s then none
  else (lowFrame die s framesPerDie 0).map fun f =>
    (f, setTiers { s.tiers with frames := mapSet s.tiers.frames (frameKey die f) job } s)

/-- MEM_POD_STATUS.RETIRED of the pods of a die (R175). -/
def showRetired (die : Nat) (s : State) : State :=
  forEach (List.range 4) (fun p s => setF Fld.memPodStatusRetired (4 * die + p) (min (retiredOn die s) 65535) s) s

/-- A frame whose page has left it: free again, or retired where it has held a poisoned granule (R175). -/
def leaveFrame (die f : Nat) (s : State) : State :=
  let k := frameKey die f
  let s := setTiers { s.tiers with frames := mapErase s.tiers.frames k } s
  if !(s.tiers.tainted.contains k) then s
  else
    let s := setTiers { s.tiers with
      retired := s.tiers.retired ++ [k]
      tainted := s.tiers.tainted.filter fun x => x != k } s
    let n := retiredOn die s
    let s := showRetired die s
    if n = 257 then memEvent 0x0004 Status.done die s else s

/-- The dies in the order in which T1 placement tries them (R156): home, next, previous, opposite. -/
def dieOrder (home : Nat) : List Nat := [home % 4, (home + 1) % 4, (home + 3) % 4, (home + 2) % 4]

/-- A T1 frame for a page of a job, by that order. -/
def placeT1 (home job : Nat) (s : State) : Option (Place × State) :=
  (dieOrder home).findSome? fun d => (takeFrame d job s).map fun (f, s) => (.t1 d f, s)

/-! ### Addresses of descriptors (R46, R153) -/

/-- The address space of an IN_ADDR or OUT_ADDR: bits 63:62 (R46). -/
def spaceOf (a : Nat) : Nat := a / 2 ^ 62 % 4

/-- Opcodes that name a stream (Table HST-4). -/
def isStreamOp (op : Nat) : Bool := [0x01, 0x02, 0x12, 0x13, 0x14, 0x15].contains op

/-- An address of a descriptor is offered and, in the object range, valid (R46, R153). A zero length makes it unused. -/
def addrValid (d : Desc) (a n : Nat) (input : Bool) (s : State) : Bool :=
  if n = 0 then true
  else match spaceOf a with
    | 0 =>
      bitsAt a 48 14 == 0 && inOneObject (a % 2 ^ 48) n s &&
        (if isStreamOp (fld d 0 8) then slotOf a == fld d 24 5
         else ((objectOf (a % 2 ^ 48) s).map fun o => if input then o.hostRead else o.hostWrite).getD false)
    | 1 => !(usbAttached s)
    | 2 => usbAttached s
    | _ => false

def inAddr (d : Desc) : Nat := fld d 64 64
def inLen (d : Desc) : Nat := fld d 128 32
def outAddr (d : Desc) : Nat := fld d 160 64
def outLen (d : Desc) : Nat := fld d 224 32
/-- Byte `i` onwards of a descriptor, `n` bytes, as a number. -/
def descField (d : Desc) (i n : Nat) : Nat := fld d (8 * i) (8 * n)

/-- What reading an input brings. -/
inductive InputResult where
  | ok (bytes : List Byte)
  | hostFault
  | memFault (e : ReadErr)
  deriving DecidableEq, Repr

/-- An input of a length, from the space its address names: the object range is read here, push data comes from the
descriptor's message, host memory from the operand of the command (R46, R60, R63). A push-data range that runs past its message's data
reads zeros there: the spec does not say what it reads (DESIGN CHOICE, log 71). -/
def inputAt (c : Consumed) (a n : Nat) (rd : ReadData) (s : State) : InputResult :=
  if n = 0 then .ok []
  else match spaceOf a with
    | 0 => match firstErr 4 (a % 2 ^ 48) n s with
      | some e => .memFault e
      | none => .ok (readObj (a % 2 ^ 48) n s)
    | 2 => match s.host.push.find? fun m => some m.id == c.msg with
      | some m => .ok (fitBytes n (m.data.drop (a % 2 ^ 32)))
      | none => .ok (fitBytes n [])
    | _ => match rd with
      | .bytes bs => .ok (fitBytes n bs)
      | .failed => .hostFault
      | .ecc _ => .hostFault

/-- The input of a descriptor. -/
def inputOf (c : Consumed) (rd : ReadData) (s : State) : InputResult := inputAt c (inAddr c.desc) (inLen c.desc) rd s

/-- What a read at a descriptor's address does besides bringing bytes: in the object range, the errors that it finds new and the read bits
of its pages (R118, R159, R172, R173). -/
def meetInput (a n : Nat) (rd : ReadData) (s : State) : State :=
  if n = 0 ∨ spaceOf a ≠ 0 then s
  else
    let s := match rd with
      | .ecc e => senseObj (a % 2 ^ 48) n e s
      | .bytes _ => s
      | .failed => s
    touchPages (a % 2 ^ 48) n s

/-- The same for the input of a descriptor. -/
def openInput (c : Consumed) (rd : ReadData) (s : State) : State := meetInput (inAddr c.desc) (inLen c.desc) rd s

/-- A host-memory access of a descriptor failed: HOST_ERR_STATUS.DMA with its event (R60, R502). -/
def dmaError (c : Consumed) (s : State) : State := hostError Fld.hostErrStatusDma 0x0007 Status.hostFault c.sq s

/-- A descriptor refused as malformed (R47, R60). -/
def refuseFormat (c : Consumed) (detail aux : Nat) (s : State) : State :=
  completeOrWait c (plainFacts Status.refusedFormat detail aux) s

/-- An uncorrectable T0 error that a read met sets FAB_ERR_STATUS and posts its event (R118); other errors were reported when found. -/
def noteT0 (e : ReadErr) (s : State) : State :=
  match e with
  | .t0 die core => reportT0Ue die core s
  | .unreachable _ => s
  | .tier _ _ => s

/-- An input that failed completes its descriptor: HOST_FAULT 0x0001 with DMA set, or MEMORY_FAULT of a host read with its
reports (R60, R118, R173). -/
def inputFailed (c : Consumed) (r : InputResult) (s : State) : State :=
  match r with
  | .ok _ => s
  | .hostFault => completeOrWait c (plainFacts Status.hostFault 0x0001 0) (dmaError c s)
  | .memFault e =>
    let (d, aux) := hostErr e
    completeOrWait c (plainFacts Status.memoryFault d aux) (noteT0 e s)

/-- What a descriptor does with its input, once it has been read: an input that failed completes it (R60, R118, R173). -/
def withInput (c : Consumed) (rd : ReadData) (f : List Byte → State → State) (s : State) : State :=
  let s := openInput c rd s
  match inputOf c rd s with
  | .ok bs => f bs s
  | r => inputFailed c r s

/-- Output written to the address of a descriptor: host bus writes, the object range, or the completion message. -/
def deliver (a : Nat) (bs : List Byte) (s : State) : State :=
  match spaceOf a with
  | 0 => hostWriteObj (a % 2 ^ 48) bs s
  | 1 => emit (.hostWrite (a % 2 ^ 62) bs) s
  | _ => s

/-- The completion data of an output whose OUT_ADDR is push data (R65). -/
def returned (d : Desc) (bs : List Byte) : Option (List Byte) := if spaceOf (outAddr d) = 2 ∧ outLen d ≠ 0 then some bs else none

/-- The output of a consumed descriptor that has any, made as far as it can be, and the facts of the completion: a host output that a LINK
reset finds not issued is not made (R66), and none is made into a page that cannot be reached (R176). -/
def makeOutput (c : Consumed) (bs : List Byte) (f : Facts) (s : State) : Facts × State :=
  if outLen c.desc = 0 then (f, s)
  else if c.orphan && spaceOf (outAddr c.desc) == 1 then (addStatus f Status.hostFault 0x0002 0, s)
  else
    let lost := if spaceOf (outAddr c.desc) = 0 then firstLost (outAddr c.desc % 2 ^ 48) (outLen c.desc) s else none
    match lost with
    | some e => (addStatus f Status.memoryFault (hostErr e).1 (hostErr e).2, s)
    | none => ({ f with out := returned c.desc bs }, deliver (outAddr c.desc) bs s)

end Sys2Proof.Machine
end

