-- ==== Sys2Proof/Machine/Operands.lean ====
section
/-!
DEFINITION. The operand forms of a sequence word, a fetch descriptor and the post unit's descriptors: every field at the place
its table gives it (Tables SEQ-1, SEQ-2, CNV-1, ATT-2, REC-1, FAB-6), and the addresses they name (R503).
-/
namespace Sys2Proof.Machine
open Sys2Proof

/-! ### The sequence word (Table SEQ-1) -/

namespace SW
def run (w : SeqWord) : Nat := fld w 0 12
def rep (w : SeqWord) : Nat := fld w 12 8
def trickEnd (w : SeqWord) : Bool := flag w 20
def layerEnd (w : SeqWord) : Bool := flag w 21
def chunkEnd (w : SeqWord) : Bool := flag w 22
def gateAToken (w : SeqWord) : Nat := fld w 24 8
def gateAN (w : SeqWord) : Nat := fld w 32 8
def gateBToken (w : SeqWord) : Nat := fld w 40 8
def gateBN (w : SeqWord) : Nat := fld w 48 8
def signalToken (w : SeqWord) : Nat := fld w 56 8
def signalInc (w : SeqWord) : Nat := fld w 64 8
def barrierEn (w : SeqWord) : Bool := flag w 72
def barrierId (w : SeqWord) : Nat := fld w 73 4
def selectEn (w : SeqWord) : Bool := flag w 77
def selectPredict (w : SeqWord) : Bool := flag w 78
def selectToken (w : SeqWord) : Nat := fld w 80 8
def selectTarget (w : SeqWord) : Nat := fld w 88 20
def skipEn (w : SeqWord) : Bool := flag w 112
def ftFirst (w : SeqWord) : Nat := fld w 116 12
def ftCount (w : SeqWord) : Nat := fld w 128 8
def waBase (w : SeqWord) : Nat := fld w 136 16
def waRepStride (w : SeqWord) : Int := sext 16 (fld w 152 16)
def waCoreStride (w : SeqWord) : Nat := fld w 168 12
def planes (w : SeqWord) : Nat := fld w 180 4 + 1
def wsrc (w : SeqWord) : Bool := flag w 184
def bcastQ (w : SeqWord) : Nat := fld w 185 2
def aloadSrc (w : SeqWord) : Nat := fld w 188 2
def abyte (w : SeqWord) : Nat := fld w 190 2
def aloadAddr (w : SeqWord) : Nat := fld w 192 14
def aloadCoreStride (w : SeqWord) : Nat := fld w 206 16
def xchgCycle (w : SeqWord) : Nat := fld w 222 12
def xchgEn (w : SeqWord) : Bool := flag w 234
def rspanCode (w : SeqWord) : Nat := fld w 236 3
def accBank (w : SeqWord) : Nat := fld w 239 3
def accRow (w : SeqWord) : Nat := fld w 242 5
def accOp (w : SeqWord) : Nat := fld w 247 2
def shadowBank (w : SeqWord) : Nat := fld w 249 1
def shadowRow (w : SeqWord) : Nat := fld w 250 5
def accAlt (w : SeqWord) : Bool := flag w 255
def postEn (w : SeqWord) : Bool := flag w 256
def postBank (w : SeqWord) : Nat := fld w 257 3
def postRow (w : SeqWord) : Nat := fld w 260 5
def postRows (w : SeqWord) : Nat := fld w 265 5 + 1
def postAlt (w : SeqWord) : Bool := flag w 270
def ldesc (w : SeqWord) : Nat := fld w 271 12
def postDest (w : SeqWord) : Nat := fld w 283 2
def postAddr (w : SeqWord) : Nat := fld w 285 14
def outY (w : SeqWord) : Bool := flag w 299
def vpuOp (w : SeqWord) : Nat := fld w 300 5
def vpuSrcA (w : SeqWord) : Nat := fld w 305 14
def vpuSrcB (w : SeqWord) : Nat := fld w 319 14
def vpuDst (w : SeqWord) : Nat := fld w 333 14
def vpuLen (w : SeqWord) : Nat := fld w 347 6 + 1
def vpuCvt (w : SeqWord) : Nat := fld w 353 3
def stgOp (w : SeqWord) : Nat := fld w 356 3
def stgSrc (w : SeqWord) : Nat := fld w 359 14
def stgDst (w : SeqWord) : Nat := fld w 373 14
def stgLen (w : SeqWord) : Nat := fld w 387 12 + 1
def stgDstSel (w : SeqWord) : Nat := fld w 399 2
def stgCore (w : SeqWord) : Nat := fld w 401 6
def stgFmt (w : SeqWord) : Nat := fld w 408 4
def stgPt (w : SeqWord) : Nat := fld w 412 4 + 1
def dlOp (w : SeqWord) : Nat := fld w 416 2
def dlDie (w : SeqWord) : Nat := fld w 418 2
def dlSrc (w : SeqWord) : Nat := fld w 420 14
def dlDst (w : SeqWord) : Nat := fld w 434 32
def dlLen (w : SeqWord) : Nat := fld w 466 12 + 1
def dlToken (w : SeqWord) : Nat := fld w 478 8
/-- RSPAN of its code: 1, 2, 3, 4, 6, 12; none where the word folds nothing (R96). -/
def rspan (w : SeqWord) : Option Nat := [1, 2, 3, 4, 6, 12][rspanCode w]?
/-- Fabric cycles of the word, stalls and extensions apart (R124). -/
def cycles (w : SeqWord) : Nat := (run w + 1) * (rep w + 1)
/-- Channels that one execution streams (R125). -/
def channels (w : SeqWord) : Nat := if (rspan w).isSome then (run w + 1) / planes w else 0
end SW

/-! ### The fetch descriptor (Table SEQ-2) -/

namespace FD
def src (d : FetchDesc) : Nat := fld d 0 48
def specOk (d : FetchDesc) : Bool := flag d 48
def planeRow (d : FetchDesc) : Bool := flag d 49
def dstKind (d : FetchDesc) : Nat := fld d 56 2
def dstCore (d : FetchDesc) : Nat := fld d 58 6
def dst (d : FetchDesc) : Nat := fld d 64 32
def len (d : FetchDesc) : Nat := fld d 96 32
/-- ROWS; 0 acts as 1. -/
def rows (d : FetchDesc) : Nat := max 1 (fld d 128 16)
def srcStride (d : FetchDesc) : Nat := fld d 144 32
def dstStride (d : FetchDesc) : Nat := fld d 176 16
def doneToken (d : FetchDesc) : Nat := fld d 192 8
def waitToken (d : FetchDesc) : Nat := fld d 200 8
def waitN (d : FetchDesc) : Nat := fld d 208 8
def plane (d : FetchDesc) : Nat := fld d 216 8
/-- Bytes from SRC to the end of the last row (R158). -/
def span (d : FetchDesc) : Nat := (rows d - 1) * srcStride d + len d
/-- The rows' bytes, one source address for each. -/
def rowAddrs (d : FetchDesc) : List Nat := (List.range (rows d)).map fun r => src d + r * srcStride d
end FD

/-! ### The convolution descriptor (Table CNV-1) -/

namespace CV
def inH (d : BitVec 512) : Nat := fld d 0 16
def inW (d : BitVec 512) : Nat := fld d 16 16
def outH (d : BitVec 512) : Nat := fld d 32 16
def outW (d : BitVec 512) : Nat := fld d 48 16
def kh (d : BitVec 512) : Nat := fld d 64 4
def kw (d : BitVec 512) : Nat := fld d 68 4
def kyOff (d : BitVec 512) : Nat := fld d 72 6
def kxOff (d : BitVec 512) : Nat := fld d 80 6
def strideY (d : BitVec 512) : Nat := fld d 88 4
def strideX (d : BitVec 512) : Nat := fld d 92 4
def dilY (d : BitVec 512) : Nat := fld d 96 8
def dilX (d : BitVec 512) : Nat := fld d 104 8
def padMode (d : BitVec 512) : Nat := fld d 112 2
def regroupIn (d : BitVec 512) : Nat := fld d 114 2
def upsample (d : BitVec 512) : Nat := fld d 116 2
def upLog2 (d : BitVec 512) : Nat := fld d 118 2
def mode (d : BitVec 512) : Nat := fld d 120 2
def align (d : BitVec 512) : Bool := flag d 122
def avgDiv (d : BitVec 512) : Bool := flag d 123
def inSigned (d : BitVec 512) : Bool := flag d 124
def in16 (d : BitVec 512) : Bool := flag d 125
def inSrc (d : BitVec 512) : Bool := flag d 126
def padTop (d : BitVec 512) : Nat := fld d 128 16
def padLeft (d : BitVec 512) : Nat := fld d 144 16
def cIn (d : BitVec 512) : Nat := fld d 160 16
def rowPitch (d : BitVec 512) : Nat := fld d 176 16
def inLine (d : BitVec 512) : Nat := fld d 192 32
def planePitch (d : BitVec 512) : Nat := fld d 224 32
def tapMask (d : BitVec 512) : Nat := fld d 256 49
def nt (d : BitVec 512) : Nat := fld d 312 8
def oy0 (d : BitVec 512) : Nat := fld d 320 16
def ox0 (d : BitVec 512) : Nat := fld d 336 16
def chunk (d : BitVec 512) : Nat := fld d 352 16
def half (d : BitVec 512) : Nat := fld d 368 1
def fill (d : BitVec 512) : Bool := flag d 369
def assemble (d : BitVec 512) : Bool := flag d 370
def fillCCount (d : BitVec 512) : Nat := fld d 376 8
def fillCFirst (d : BitVec 512) : Nat := fld d 384 16
def fillOy0 (d : BitVec 512) : Nat := fld d 400 16
def fillOx0 (d : BitVec 512) : Nat := fld d 416 16
def outLayout (d : BitVec 512) : Bool := flag d 432
def regroupOut (d : BitVec 512) : Nat := fld d 433 2
def outRowPitch (d : BitVec 512) : Nat := fld d 448 16
def outPlanePitch (d : BitVec 512) : Nat := fld d 464 32
def outC0 (d : BitVec 512) : Nat := fld d 496 16
/-- Bytes of an element. -/
def elem (d : BitVec 512) : Nat := if in16 d then 2 else 1
end CV

/-! ### The attention descriptor (Table ATT-2) -/

namespace AT
def kind (d : BitVec 1024) : Nat := fld d 0 16
def backward (d : BitVec 1024) : Bool := flag d 16
def position (d : BitVec 1024) : Bool := flag d 17
def causal (d : BitVec 1024) : Bool := flag d 18
def dChunks (d : BitVec 1024) : Nat := fld d 24 3
def hq (d : BitVec 1024) : Nat := fld d 32 8
def hkv (d : BitVec 1024) : Nat := fld d 40 8
def rowSpans (d : BitVec 1024) : Nat := fld d 48 8
def skipLog2 (d : BitVec 1024) : Nat := fld d 56 8
def scoreScale (d : BitVec 1024) : Nat := fld d 64 32
def predSlack (d : BitVec 1024) : Nat := fld d 96 32
def window (d : BitVec 1024) : Nat := fld d 128 16
def nGlobal (d : BitVec 1024) : Nat := fld d 144 8
def buffers (d : BitVec 1024) : Nat := fld d 152 8
def nSeq (d : BitVec 1024) : Nat := fld d 160 16
def rowsMax (d : BitVec 1024) : Nat := fld d 176 16
def lenTable (d : BitVec 1024) : Nat := fld d 192 48
def listStride (d : BitVec 1024) : Nat := fld d 240 16
def pageList (d : BitVec 1024) : Nat := fld d 256 48
def globals (d : BitVec 1024) : Nat := fld d 320 48
def pred (d : BitVec 1024) : Nat := fld d 384 48
def q (d : BitVec 1024) : Nat := fld d 448 48
def bufLine (d : BitVec 1024) : Nat := fld d 512 32
def rowToken (d : BitVec 1024) : Nat := fld d 544 8
def pageToken (d : BitVec 1024) : Nat := fld d 552 8
def lastToken (d : BitVec 1024) : Nat := fld d 560 8
def doneToken (d : BitVec 1024) : Nat := fld d 568 8
def eQ (d : BitVec 1024) : Int := sext 8 (fld d 576 8)
def eK (d : BitVec 1024) : Int := sext 8 (fld d 584 8)
def eV (d : BitVec 1024) : Int := sext 8 (fld d 592 8)
def headFirst (d : BitVec 1024) : Nat := fld d 608 8
def headCount (d : BitVec 1024) : Nat := fld d 616 8
def dieOrd (d : BitVec 1024) : Nat := fld d 624 2
def nDies (d : BitVec 1024) : Nat := fld d 632 3
/-- Query heads per key-value head. -/
def group (d : BitVec 1024) : Nat := hq d / hkv d
/-- Lanes of a row (R199). -/
def lanes (d : BitVec 1024) : Nat := 64 * rowSpans d
end AT

/-! ### The recurrent descriptor (Table REC-1) -/

namespace RC
def kind (d : BitVec 512) : Nat := fld d 0 16
def op (d : BitVec 512) : Nat := fld d 16 2
def residue (d : BitVec 512) : Bool := flag d 18
def handoff (d : BitVec 512) : Bool := flag d 19
def aConst (d : BitVec 512) : Bool := flag d 20
def cConst (d : BitVec 512) : Bool := flag d 21
def masked (d : BitVec 512) : Bool := flag d 22
def quadMask (d : BitVec 512) : Nat := fld d 24 4
def stateBank (d : BitVec 512) : Nat := fld d 32 3
def stateRow (d : BitVec 512) : Nat := fld d 40 5
def stateRows (d : BitVec 512) : Nat := fld d 48 5 + 1
def aValue (d : BitVec 512) : Nat := fld d 64 16
def cValue (d : BitVec 512) : Nat := fld d 80 16
def aLine (d : BitVec 512) : Nat := fld d 96 32
def cLine (d : BitVec 512) : Nat := fld d 128 32
def ioLine (d : BitVec 512) : Nat := fld d 160 32
end RC

/-! ### The move request (Table MEM-5) -/

namespace MR
def obj (l : BitVec 512) : Nat := fld l 0 48
def pages (l : BitVec 512) : Nat := fld l 48 16
def target (l : BitVec 512) : Nat := fld l 64 2
def die (l : BitVec 512) : Nat := fld l 72 2
def core (l : BitVec 512) : Nat := fld l 80 6
def token (l : BitVec 512) : Nat := fld l 88 8
def line (l : BitVec 512) : Nat := fld l 96 32
def zeros (l : BitVec 512) : Bool := fld l 66 6 == 0 && fld l 74 6 == 0 && fld l 86 2 == 0 && fld l 128 384 == 0
end MR

/-- Hub-store offset of the move-request window (Table MEM-2). -/
def moveWindow : Nat := 0xFF0000

/-! ### Jobs, streams and dies -/

def jobOf (j : Nat) (s : State) : Option Job := mapGet s.jobs j
def setJob (j : Nat) (x : Job) (s : State) : State := { s with jobs := mapSet s.jobs j x }
def streamOf (st : Nat) (s : State) : Option Stream := mapGet s.streams st
def setStream (st : Nat) (x : Stream) (s : State) : State := { s with streams := mapSet s.streams st x }
def adjStream (st : Nat) (f : Stream → Stream) (s : State) : State := { s with streams := mapAdjust s.streams st f }
def adjJob (j : Nat) (f : Job → Job) (s : State) : State := { s with jobs := mapAdjust s.jobs j f }

/-- A stream uses a die (Table JOB-2). -/
def usesDie (x : Stream) (d : Nat) : Bool := flag (BitVec.ofNat 4 x.dies) d
/-- The dies of a stream, in ascending order. -/
def diesOf (x : Stream) : List Nat := (List.range 4).filter fun d => usesDie x d

/-- A fresh issue context at a word (R122, R127). -/
def freshCtx (entry : Nat) : Ctx :=
  { issue := entry, exec := 0, atBarrier := false, barrierPassed := false, entered := false, kind := none, before := none, stallFrom := none
    ahead := entry
    path := [], tokens := [], layers := 0, cheap := none, fillStart := entry, fillExec := 0, fillSave := none, fillBank := 0
    fillCount := 0, fillPlanes := none, redo := 0, best := [], bestCh := 0, cheapCh := 0, fill := [], variant := false
    layerClock := [], waitFrom := 0, trail := [] }
/-- The issue context of a stream on a die. -/
def ctxOf (x : Stream) (d : Nat) : Ctx := (mapGet x.ctx d).getD (freshCtx 0)
def adjCtx (st d : Nat) (f : Ctx → Ctx) (s : State) : State :=
  adjStream st (fun x => { x with ctx := mapSet x.ctx d (f (ctxOf x d)) }) s

/-- The sequence section of a job on a die. -/
def seqOf (j : Job) (d : Nat) : Option SeqSection := j.seqs.find? fun q => q.die == d
/-- The entry of a stream on a die (R120). -/
def entryOf (j : Job) (x : Stream) (d : Nat) : Nat := ((seqOf j d).bind fun q => q.entries[x.index]?).getD 0

/-- First line of a stream's core-store reservation on a die (R503). -/
def resBase (st d : Nat) (s : State) : Nat :=
  match streamOf st s with
  | none => 0
  | some x => (((jobOf x.job s).bind fun j => dieRec j d).map fun r => r.base).getD 0

/-- A core-store line relative to a stream's reservation (R503). -/
def lineAddr (st d core line : Nat) (s : State) : Nat := coreAddr d core ((resBase st d s + line) * 64)
/-- An 8-byte core-store row relative to a stream's reservation (R503). -/
def rowAddr (st d core row : Nat) (s : State) : Nat := coreAddr d core (resBase st d s * 64 + row * 8)

/-- A die's state in the limiter, its running point and the MHz of a point (Table LIM-1). -/
def dieLim (n : Nat) (s : State) : DieLim := s.lim.dies.getD n DieLim.reset
def opOf (n : Nat) (s : State) : Nat := (dieLim n s).op
def opMhz (op : Nat) : Nat := [200, 400, 600, 800, 950, 1100, 1250, 1400].getD (op - 1) 1400

/-- The home cores of an execution: the lowest core of each span (R96). -/
def homeCores (rspan : Nat) : List Nat := (List.range 48).filter fun c => c % 12 % rspan == 0

/-- Key of an accumulator word (R86). -/
def accKey (die core array bank row col : Nat) : Nat := ((((die * 48 + core) * 4 + array) * 8 + bank) * 32 + row) * 16 + col
/-- An accumulator word. A word of a working bank that nothing has written in this trick is open (R83); a stream bank reads 0 there. -/
def accWord (k : Nat) (s : State) : BitVec 40 :=
  match mapGet s.acc k with
  | some v => v
  | none =>
    if k / (16 * 32) % 8 < 2 then BitVec.ofNat 40 (Config.free 24 ((dieOf (k / (16 * 32 * 8 * 4 * 48)) s).draw * 2 ^ 40 + k)) else 0
/-- The bank of an accumulator key, and its die. -/
def bankOfKey (k : Nat) : Nat := k / 512 % 8
def dieOfKey (k : Nat) : Nat := k / 786432

/-- Number of a lane of a die: core, array, lane. -/
def laneKey (core array lane : Nat) : Nat := (core * 4 + array) * 16 + lane

/-- An accumulator word as a number. -/
def accGet (k : Nat) (s : State) : Int := (accWord k s).toInt
/-- An accumulator word set. -/
def accSet (k : Nat) (v : Int) (s : State) : State := { s with acc := mapSet s.acc k (BitVec.ofInt 40 v) }

/-- The physical bank of a word's bank code: working banks 0 and 1, or stream bank `b - 2` (R83, Table SEQ-1). -/
def physBank (x : Stream) (d b : Nat) : Nat := if b < 2 then b else ((mapGet x.phys d).getD []).getD (b - 2) 0

end Sys2Proof.Machine
end

