-- ==== Sys2Proof/Machine/Epochs.lean ====
section
/-!
DEFINITION. Tokens, gates, speculation epochs and the facts of a running chunk (R108, R127, R128, R138 to R140, R216 to R218).
-/
namespace Sys2Proof.Machine
open Sys2Proof

/-- A safe-state cause found in this step (Table SAF-4). -/
def raiseCause (job code : Nat) (s : State) : State := { s with causes := s.causes ++ [(job, code)] }

/-! ### Contexts of chunks and dummy frames (R421) -/

/-- The issue context of a stream on a die, of its chunk or of its dummy frame. -/
def runCtx (x : Stream) (d : Nat) (dummy : Bool) : Ctx :=
  if dummy then (mapGet x.dummy.ctx d).getD (freshCtx 0) else ctxOf x d

/-- That context changed. -/
def adjRun (st d : Nat) (dummy : Bool) (f : Ctx → Ctx) (s : State) : State :=
  if dummy then
    adjStream st (fun x => { x with dummy := { x.dummy with ctx := mapSet x.dummy.ctx d (f (runCtx x d true)) } }) s
  else adjCtx st d f s

/-! ### Tokens (R127) -/

/-- A counter of a stream on a die. -/
def tokenOf (st d tok : Nat) (s : State) : Nat :=
  match streamOf st s with
  | some x => (mapGet (ctxOf x d).tokens tok).getD 0
  | none => 0

/-- A counter set. -/
def setToken (st d tok v : Nat) (s : State) : State := adjCtx st d (fun c => { c with tokens := mapSet c.tokens tok v }) s

/-- A job takes token increments: it is not between steps 1 and 7 of a JOB reset (R474). -/
def takesTokens (j : Nat) (s : State) : Bool :=
  match jobOf j s with
  | none => false
  | some x => match x.phase with
    | .resident => true
    | .unloading _ => true
    | .restarting _ => false
    | .held => false

/-- An increment of a counter. Past 65,535 it stays there, TOKEN_OVF is set, FAB event 0x0005 is posted, and the owning job
enters the safe state (R127). Increments to a job in a JOB reset are dropped (R474). -/
def tokenAdd (st d tok n : Nat) (s : State) : State :=
  match streamOf st s with
  | none => s
  | some x =>
    if !(takesTokens x.job s) then s
    else
      let v := tokenOf st d tok s + n
      if v ≤ 65535 then setToken st d tok v s
      else
        raiseCause x.job 7
          (postEvent 3 0x0005 Status.done (d + st * 256 + tok * 65536)
            (setB Fld.fabSeqStatusTokenOvf d true (setToken st d tok 65535 s)))

/-- A hub engine's increment of a token that a register names; 255 names none (R127). -/
def hubToken (st d tok : Nat) (s : State) : State := if tok = 255 then s else tokenAdd st d tok 1 s

/-- Both gates of a word pass (R128). -/
def gatesPass (st d : Nat) (w : SeqWord) (s : State) : Bool :=
  if SW.gateAN w ≠ 0 ∧ SW.gateBN w ≠ 0 ∧ SW.gateAToken w = SW.gateBToken w then
    decide (SW.gateAN w + SW.gateBN w ≤ tokenOf st d (SW.gateAToken w) s)
  else
    (SW.gateAN w == 0 || decide (SW.gateAN w ≤ tokenOf st d (SW.gateAToken w) s))
      && (SW.gateBN w == 0 || decide (SW.gateBN w ≤ tokenOf st d (SW.gateBToken w) s))

/-- The counters reduced by what passing gates take (R128). -/
def takeToken (st d tok n : Nat) (s : State) : State := if n = 0 then s else setToken st d tok (tokenOf st d tok s - n) s

/-- The innermost open SKIP or CHEAP epoch of a die, the one opened last: writes, sends, increments and reports of words go to it
(R138). -/
def innerEpoch (d : Nat) (s : State) : Option Epoch := ((dieOf d s).epochs.filter fun e => e.kind != 1).getLast?

/-- The open epoch of a kind on a die. -/
def epochOf (d kind : Nat) (s : State) : Option Epoch := (dieOf d s).epochs.find? fun e => e.kind == kind

/-- The open epochs of a die. -/
def setEpochs (d : Nat) (l : List Epoch) (s : State) : State := adjDie d (fun x => { x with epochs := l }) s

/-- The open epoch of a kind changed. -/
def adjEpoch (d kind : Nat) (f : Epoch → Epoch) (s : State) : State :=
  adjDie d (fun x => { x with epochs := listUpdate x.epochs (fun e => e.kind == kind) f }) s

/-- A count taken; the innermost SKIP or CHEAP epoch records it (R139). -/
def takeNoted (st d tok n : Nat) (s : State) : State :=
  if n = 0 then s
  else
    let u := takeToken st d tok n s
    match innerEpoch d s with
    | some e => adjEpoch d e.kind (fun e => { e with taken := e.taken ++ [(tok, n)] }) u
    | none => u

/-- Both gates' counts taken in one cycle (R128). -/
def takeGates (st d : Nat) (w : SeqWord) (s : State) : State :=
  takeNoted st d (SW.gateBToken w) (SW.gateBN w) (takeNoted st d (SW.gateAToken w) (SW.gateAN w) s)

/-! ### The running chunk and its facts (R51, R108, R219) -/

/-- A chunk item: CHUNK or CHUNK_TRIGGERED. -/
def isChunk (i : Item) : Bool := i.kind == .chunk || i.kind == .triggered

/-- The started chunk of a stream. -/
def startedChunk (x : Stream) : Option Item := x.items.find? fun i => isChunk i && i.phase == .started

/-- The started chunk of a stream changed. -/
def adjChunk (st : Nat) (f : Item → Item) (s : State) : State :=
  adjStream st (fun x => match startedChunk x with
    | some i => { x with items := listUpdate x.items (fun k => k.id == i.id) f }
    | none => x) s

/-- A status that applies to the started chunk of a stream. -/
def markChunk (st status detail aux : Nat) (s : State) : State :=
  adjChunk st (fun i => { i with facts := addStatus i.facts status detail aux }) s

/-- The started chunk ends at the word with no further issue (R191, R222, R231). -/
def endChunk (st status detail aux : Nat) (s : State) : State :=
  adjChunk st (fun i => { i with ending := true, facts := addStatus i.facts status detail aux }) s

/-- The started chunk ends at its next trick boundary with no further issue (R167). -/
def endAtBoundary (st status detail aux : Nat) (s : State) : State :=
  adjChunk st (fun i => { i with leaving := true, facts := addStatus i.facts status detail aux }) s

/-- The facts of the started chunk changed. -/
def adjFacts (st : Nat) (f : Facts → Facts) (s : State) : State := adjChunk st (fun i => { i with facts := f i.facts }) s

/-! ### Errors met by a job (R118, R173, R175, R176, R423) -/

/-- The stage slot that watches a stream (Table SAF-1, SOURCE 0). -/
def stageOf (st : Nat) (s : State) : Option Nat :=
  (List.range 64).find? fun i =>
    getB Fld.safeStageCfgEn i s && getF Fld.safeStageCfgSource i s == 0 && getF Fld.safeStageCfgStream i s == st

/-- A dummy frame fails, by comparison or by any error during it: SAFE event 0x0005, and the job enters the safe state (R423). -/
def dummyFail (st : Nat) (s : State) : State :=
  match streamOf st s with
  | none => s
  | some x =>
    let s := adjStream st (fun x => { x with dummy := { x.dummy with failed := true } }) s
    raiseCause x.job 2
      (postEvent 13 0x0005 Status.done ((stageOf st s).getD 0) (incF Fld.safeCountDummyFail 0 s))

/-- A read on behalf of a job meets an error: an uncorrectable T0 error reports and restarts the job (R118); a T1 error ends the
chunk as MEMORY_FAULT and restarts the job, but for a WEIGHT page left poisoned after a restart (R173, R175, R176). -/
def readFault (st : Nat) (dummy : Bool) (e : ReadErr) (s : State) : State :=
  match streamOf st s with
  | none => s
  | some x =>
    let (det, aux) := jobErr e s
    let s := match e with
      | .t0 die core => raiseCause x.job 5 (reportT0Ue die core s)
      | .tier _ _ =>
        let s := if dummy then s else endChunk st Status.memoryFault det aux s
        if det = 0x0003 then s else raiseCause x.job 9 s
      | .unreachable _ => raiseCause x.job 9 (if dummy then s else endChunk st Status.memoryFault det aux s)
    if dummy then dummyFail st s else s

/-! ### Reports of words (R108, R117, R139, R171, R413) -/

/-- A report takes effect. -/
def applyNote (st d : Nat) (dummy : Bool) (n : Note) (s : State) : State :=
  match n with
  | .planes layer used fewer =>
    if dummy then s
    else adjChunk st (fun it =>
      let f := it.facts
      let it := { it with facts := { f with planesUsed := if f.planesUsed = 0 then used else min f.planesUsed used } }
      if fewer ∧ !(it.degraded.contains layer) then
        let g := it.facts
        { it with
          degraded := it.degraded ++ [layer]
          facts := addStatus { g with degradedLayers := g.degradedLayers + 1 } Status.doneDegraded 0 0 }
      else it) s
  | .variant tok =>
    if dummy then s
    else
      let s := adjFacts st (fun f => addStatus { f with variant := true } Status.doneDegraded 0 0) s
      { s with tiers := { s.tiers with
        windows := listUpdate s.tiers.windows (fun w => w.stream == st && w.varToken == tok) fun w => { w with stopped := true } } }
  | .mismatch aux =>
    if dummy then dummyFail st s
    else adjChunk st (fun i => { i with failed := true, facts := addStatus i.facts Status.checkMismatch 0x0701 aux }) s
  | .saturated => postEvent 3 0x0003 Status.done (d + st * 256) (setB Fld.fabErrStatusAccSat d true s)
  | .under n => addF Fld.fabCeCountUnderflow d n s
  | .nan n => addF Fld.fabCeCountNan d n s

/-- A word's report: held while a SKIP or CHEAP epoch is open on the die. -/
def report (st d : Nat) (dummy : Bool) (n : Note) (s : State) : State :=
  match innerEpoch d s with
  | some e => adjEpoch d e.kind (fun e => { e with notes := e.notes ++ [n] }) s
  | none => applyNote st d dummy n s

/-! ### What a squash puts back (R139, R197) -/

/-- The memory range of the working and shadow registers of a die. -/
def cellsFrom (d : Nat) : Nat := cellAddr d 0 0 0 0
def cellsLen : Nat := 0x80000

/-- The physical banks of a stream on a die (R83). -/
def banksOn (st d : Nat) (s : State) : List Nat := ((streamOf st s).bind fun x => mapGet x.phys d).getD []

/-- A die as it stands, for a squash to come. -/
def saveDie (st d : Nat) (c : Ctx) (s : State) : Saved :=
  let y := dieOf d s
  { cells := s.mem.filter fun m => decide (cellsFrom d ≤ m.1) && decide (m.1 < cellsFrom d + cellsLen)
    shadowConv := y.shadowConv, tileConv := y.tileConv, shadowExp := y.shadowExp, tileExp := y.tileExp, halves := y.halves
    bankConv := y.bankConv, bankSpan := y.bankSpan, vpuIn := y.vpuIn
    acc := s.acc.filter fun p => dieOfKey p.1 == d && (banksOn st d s).contains (bankOfKey p.1)
    accSat := s.accSat.filter fun r => dieOfKey (r * 16) == d
    accTol := s.accTol.filter fun p => dieOfKey p.1 == d
    best := c.best, bestCh := c.bestCh }

/-- Cells, tiles, halves and the records of banks put back. -/
def restoreCells (d : Nat) (v : Saved) (s : State) : State :=
  let s := { s with mem := memRefill s.mem (cellsFrom d) cellsLen fun i => memByte v.cells (cellsFrom d + i) }
  adjDie d (fun y => { y with
    shadowConv := v.shadowConv, tileConv := v.tileConv, shadowExp := v.shadowExp, tileExp := v.tileExp, halves := v.halves
    bankConv := v.bankConv, bankSpan := v.bankSpan, vpuIn := v.vpuIn }) s

/-- Saturation marks and tolerances of the rows of a die that meet a test put back, by accumulator key. -/
def restoreMarks (d : Nat) (p : Nat → Bool) (v : Saved) (s : State) : State :=
  let mine (k : Nat) : Bool := dieOfKey k == d && p k
  { s with
    accSat := s.accSat.filter (fun r => !(mine (r * 16))) ++ v.accSat.filter (fun r => mine (r * 16))
    accTol := (v.accTol.filter fun e => mine e.1).foldl (fun m e => mapSet m e.1 e.2) (s.accTol.filter fun e => !(mine e.1)) }

/-- The stream banks of a die put back. -/
def restoreBanks (st d : Nat) (v : Saved) (s : State) : State :=
  let others := s.acc.filter fun e => !(dieOfKey e.1 == d && (banksOn st d s).contains (bankOfKey e.1))
  { s with acc := v.acc.foldl (fun m e => mapSet m e.1 e.2) others }

/-! ### Epochs (R138, R139) -/

/-- The epoch tag: kind in bits 7:6, serial in bits 5:0 (R138). -/
def epochTag (e : Epoch) : Nat := e.kind * 64 + e.serial % 64

/-- An epoch opened; at most one of each kind is open on a die (R138). -/
def openEpoch (d kind st : Nat) (dummy : Bool) (restart exec : Nat) (saved : Option Saved) (ctx : Option Ctx) (done : Nat) (s : State) :
    State :=
  if (epochOf d kind s).isSome then s
  else adjDie d (fun x => { x with
    serial := x.serial + 1
    epochs := x.epochs ++ [
      { kind := kind, serial := x.serial, stream := st, dummy := dummy, restart := restart, restartExec := exec, writes := [], exps := []
        tokens := [], sends := [], taken := [], faults := [], notes := [], saved := saved, ctx := ctx, doneExecs := done }] }) s

/-- Provisional slots in use on a die: for each epoch, the 64-line blocks that its provisional writes touch (R138, R216). -/
def slotsUsed (d : Nat) (s : State) : Nat :=
  ((dieOf d s).epochs.map fun e => ((e.writes.map fun w => w.1 / 4096).eraseDups).length).sum

/-- Provisional writes took more than the 64 slots: they wait instead (R135, R138). -/
def slotsShort (d : Nat) (s : State) : Bool := decide (64 < slotsUsed d s)

/-- A byte as a word of the die sees it: the provisional content of a SKIP or CHEAP epoch stands in place of the line, the innermost
first (R216). -/
def seenByte (d a : Nat) (s : State) : Byte :=
  ((dieOf d s).epochs.reverse.findSome? fun e => if e.kind = 1 then none else mapGet e.writes a).getD (memByte s.mem a)

/-- Bytes as a word of the die sees them. -/
def seenBytes (d a n : Nat) (s : State) : List Byte := (List.range n).map fun i => seenByte d (a + i) s

/-- The block exponent of a line as a word of the die sees it. -/
def seenExp (d line : Nat) (s : State) : Option Int :=
  match (dieOf d s).epochs.reverse.find? fun e => e.kind != 1 && e.writes.any (fun w => w.1 / 64 == line) with
  | some e => mapGet e.exps line
  | none => mapGet s.blkExp line

/-- A poisoned line of T0 that a word would read on its die, its core number (255 for staging): a line whose content an open epoch
provides is not read (R118, R174, R216). -/
def poisonHit (d : Nat) (rs : List (Nat × Nat)) (s : State) : Option Nat :=
  (s.tiers.poison.find? fun l =>
    decide (d * 2 ^ 18 ≤ l) && decide (l < (d + 1) * 2 ^ 18)
      && !((dieOf d s).epochs.any fun e => e.kind != 1 && e.writes.any fun w => w.1 / 64 == l)
      && rs.any fun r => r.2 != 0 && decide (r.1 / 64 ≤ l) && decide (l * 64 < r.1 + r.2)).map fun l => t0Core (l * 64)

/-- A word reads a poisoned line of T0: the error of R118, for the job of the running trick. -/
def t0Fault (st d : Nat) (dummy : Bool) (core : Nat) (s : State) : State :=
  let j := ((streamOf st s).map fun x => x.job).getD 0
  let s := raiseCause j 5 (reportT0Ue d core s)
  if dummy then dummyFail st s else s

/-- Bytes set one by one in a map. -/
def mapBytes (m : SMap Byte) : Nat → List Byte → SMap Byte
  | _, [] => m
  | a, b :: bs => mapBytes (mapSet m a b) (a + 1) bs

/-- A write by a drain, a vector post-unit operation or a staging move: provisional under an open SKIP or CHEAP epoch (R138, R216). -/
def dieWrite (d a : Nat) (bs : List Byte) (s : State) : State :=
  match innerEpoch d s with
  | some e => adjEpoch d e.kind (fun e => { e with
      writes := mapBytes e.writes a bs
      exps := e.exps.filter fun x => decide (x.1 * 64 + 64 ≤ a) || decide (a + bs.length ≤ x.1 * 64) }) s
  | none => store a bs s

/-- The block exponent of a line that has just been written (R115). -/
def dieExp (d line : Nat) (v : Int) (s : State) : State :=
  match innerEpoch d s with
  | some e => adjEpoch d e.kind (fun e => { e with exps := mapSet e.exps line v }) s
  | none => { s with blkExp := mapSet s.blkExp line v }

/-- Provisional bytes put in their places, with the exponents of their blocks; whole lines clear poison (R174). -/
def landWrites (w : SMap Byte) (exps : SMap Int) (s : State) : State :=
  let lines := (w.map fun p => p.1 / 64).eraseDups
  let s := { s with
    mem := w.foldl (fun m (a, b) => memPut m a b) s.mem
    blkExp := exps.foldl (fun m e => mapSet m e.1 e.2) (s.blkExp.filter fun e => !(lines.contains e.1)) }
  forEach (lines.filter fun l => (w.countP fun p => p.1 / 64 == l) == 64) (fun l s => cleanLines (l * 64) 64 s) s

/-- A send enters the link on its way (R143). -/
def launch (x : Send) (s : State) : State :=
  { s with sends := s.sends ++ [{ x with id := s.nextSend }], nextSend := s.nextSend + 1 }

/-- The SKIP or CHEAP epoch inside which another one was opened. -/
def outerEpoch (d kind : Nat) (s : State) : Option Epoch :=
  (((dieOf d s).epochs.takeWhile fun e => e.kind != kind).filter fun e => e.kind != 1).getLast?

/-- What an epoch holds passes to the one around it. -/
def mergeEpoch (e o : Epoch) : Epoch :=
  { o with
    writes := e.writes.foldl (fun m p => mapSet m p.1 p.2) o.writes
    exps := e.exps.foldl (fun m p => mapSet m p.1 p.2)
      (o.exps.filter fun x => !(e.writes.any fun w => w.1 / 64 == x.1))
    tokens := o.tokens ++ e.tokens, sends := o.sends ++ e.sends, taken := o.taken ++ e.taken, notes := o.notes ++ e.notes }

/-- What an epoch holds takes effect: its slots take the places of their lines, its held sends leave, its held increments apply and its
reports are made (Table SEQ-3, R139, R217). -/
def landEpoch (d : Nat) (e : Epoch) (s : State) : State :=
  let s := landWrites e.writes e.exps s
  let s := forEach e.sends launch s
  let s := forEach e.tokens (fun (t, n) s => tokenAdd e.stream d t n s) s
  let s := forEach e.faults (readFault e.stream e.dummy) s
  forEach e.notes (applyNote e.stream d e.dummy) s

/-- The threads of a committed PREFETCH epoch: those that are done return to the pool, the others go on (R134, R138). -/
def freeSpec (d serial : Nat) (s : State) : State :=
  adjDie d (fun x => { x with
    threads := listUpdate (x.threads.filter fun t => !(t.spec == some serial && t.done)) (fun t => t.spec == some serial)
      fun t => { t with spec := none } }) s

/-- An epoch commits (Table SEQ-3). -/
def commitEpoch (d kind : Nat) (s : State) : State :=
  match epochOf d kind s with
  | none => s
  | some e =>
    let outer := if kind = 1 then none else outerEpoch d kind s
    let s := setEpochs d ((dieOf d s).epochs.filter fun x => x.kind != kind) s
    match outer with
    | some o => adjEpoch d o.kind (mergeEpoch e) s
    | none => freeSpec d e.serial (landEpoch d e s)

/-- The squash counter of an epoch kind (FAB_EPOCH_COUNT). -/
def squashField (kind : Nat) : Field :=
  if kind = 1 then Fld.fabEpochCountPrefetchSquash
  else if kind = 2 then Fld.fabEpochCountSkipSquash
  else Fld.fabEpochCountCheapSquash

/-- The walker after a squash: its tokens are 0, its buffers free, and it delivers the row again from its first page step, with
skipping off (R218). -/
def walkerSquash (d : Nat) (s : State) : State :=
  match (dieOf d s).walker with
  | none => s
  | some w =>
    let t (tok : Nat) (s : State) := setToken w.stream d tok 0 s
    let s := t (AT.lastToken w.desc) (t (AT.pageToken w.desc) (t (AT.rowToken w.desc) s))
    adjDie d (fun x => { x with walker := some { w with
      step := 0, chunkStep := w.chunkStep - w.step, busy := 0, gated := 0, inRow := false, fresh := false, replay := true
      skipping := false, verified := false, skipped := [], live := [], rowDone := true } }) s

/-- The words from a restart word to before the run-ahead pointer: those finished since, then those still ahead. Their kicks have
been made, and are not made again (R136). -/
def pathFrom (w : Nat) (c : Ctx) : List Nat := c.trail.dropWhile (fun i => i != w) ++ c.path

/-- The issue pointer put back to a restart word, whose barrier has been passed (R138, R140). -/
def rewindTo (st d : Nat) (dummy : Bool) (w e : Nat) (s : State) : State :=
  adjRun st d dummy (fun c =>
    let p := pathFrom w c
    let known := p.head? == some w
    { c with
      issue := w, exec := e, atBarrier := false, barrierPassed := true, entered := false, kind := none, before := none
      stallFrom := none, cheapCh := 0
      path := if known then p else [], ahead := if known then c.ahead else w, trail := c.trail.takeWhile fun i => i != w }) s

/-- The list up to and with the first occurrence of an element. -/
def upTo (w : Nat) : List Nat → List Nat
  | [] => []
  | x :: xs => if x = w then [x] else x :: upTo w xs

/-- The token counts that an epoch's words took, given back (R139). -/
def giveBack (d : Nat) (e : Epoch) (s : State) : State :=
  forEach e.taken (fun (t, n) s => setToken e.stream d t (min 65535 (tokenOf e.stream d t s + n)) s) s

/-- A PREFETCH epoch undone: its outstanding reads are discarded and run-ahead resumes beyond its select (Table SEQ-3). -/
def undoPrefetch (d : Nat) (e : Epoch) (s : State) : State :=
  adjRun e.stream d e.dummy (fun c => { c with path := upTo e.restart c.path, ahead := e.restartExec })
    (adjDie d (fun x => { x with threads := x.threads.filter fun t => t.spec != some e.serial }) s)

/-- A CHEAP epoch undone: the die's registers stand as at the start of the bank fill, whose executions up to the choice are then
recomputed on full planes (R107, R169, R197). -/
def undoCheap (d : Nat) (e : Epoch) (s : State) : State :=
  let bank := ((streamOf e.stream s).map fun x => (runCtx x d e.dummy).fillBank).getD 0
  let s := match e.saved with
    | some v => restoreMarks d (fun k => bankOfKey k == bank) v (restoreCells d v s)
    | none => s
  adjRun e.stream d e.dummy (fun c => { c with
    cheap := some 16, cheapCh := 0, fill := [], fillPlanes := none, fillCount := 0, redo := e.doneExecs
    best := (e.saved.map fun v => v.best).getD [], bestCh := (e.saved.map fun v => v.bestCh).getD 0 }) s

/-- A SKIP epoch undone: registers, stream banks and the issue context stand as at the row start, and the walker begins the row again
(R139, R218). -/
def undoSkip (d : Nat) (e : Epoch) (s : State) : State :=
  let s := match e.saved with
    | some v => restoreMarks d (fun _ => true) v (restoreBanks e.stream d v (restoreCells d v s))
    | none => s
  walkerSquash d (adjRun e.stream d e.dummy (fun c => match e.ctx with
    | some o => { o with
        tokens := c.tokens, ahead := c.ahead, path := c.path, trail := c.trail, waitFrom := c.waitFrom
        layerClock := c.layerClock.take (o.layers + 1) }
    | none => c) s)

/-- The epochs opened inside another one. -/
def innerOf (d kind : Nat) (s : State) : List Epoch :=
  (((dieOf d s).epochs.dropWhile fun e => e.kind != kind).drop 1).filter fun e => e.kind != 1

/-- One epoch squashed: its slots are freed, its increments and sends dropped, and it is counted (Table SEQ-3, R139). -/
def squashEpoch (d kind : Nat) (s : State) : State :=
  match epochOf d kind s with
  | none => s
  | some e =>
    let inner := if kind = 1 then [] else innerOf d kind s
    let s := setEpochs d ((dieOf d s).epochs.filter fun x => x.kind != kind && !(inner.contains x)) s
    let s := forEach inner (giveBack d) (giveBack d e (incF (squashField kind) d s))
    if kind = 1 then undoPrefetch d e s else if kind = 2 then undoSkip d e s else undoCheap d e s

/-- A replay of a row is counted (R219). -/
def countReplay (st : Nat) (s : State) : State := adjFacts st (fun f => { f with replayCount := f.replayCount + 1 }) s

/-- The earlier of two squashed epochs in the order of issue: by the place of its restart word among the words finished since, then by
execution (R140). -/
def earlierRestart (trail : List Nat) (a b : Epoch) : Epoch :=
  let at' (e : Epoch) : Nat := trail.idxOf e.restart
  if at' a < at' b ∨ (at' a = at' b ∧ a.restartExec ≤ b.restartExec) then a else b

/-- Every open epoch of a die squashed at a trick boundary: each is counted and posts FAB event 0x0006, and issue goes back to
the earliest restart word of the squashed SKIP and CHEAP epochs (R140). -/
def squashAll (d : Nat) (s : State) : State :=
  let es := (dieOf d s).epochs
  let trail (e : Epoch) : List Nat := ((streamOf e.stream s).map fun x => (runCtx x d e.dummy).trail).getD []
  let first := (es.filter fun e => e.kind != 1).foldl (fun (a : Option Epoch) e => match a with
    | some b => some (earlierRestart (trail e) b e)
    | none => some e) none
  let s := forEach es.reverse (fun e s =>
    let s := postEvent 3 0x0006 Status.done (d + e.stream * 256 + epochTag e * 65536)
      (incF Fld.fabEpochCountBoundarySquash d (squashEpoch d e.kind s))
    if e.kind = 2 then countReplay e.stream s else s) s
  match first with
  | some e => rewindTo e.stream d e.dummy e.restart e.restartExec s
  | none => s

end Sys2Proof.Machine
end

