-- ==== Sys2Proof/Machine/Flags.lean ====
section
/-!
DEFINITION. Roundings, saturations and floating-point values: the result computations that the arithmetic rules share
(R98, R110, R111, R113 to R116, R227). A block has no flags register; ACC_SAT and the counters stand in registers.
-/
namespace Sys2Proof.Machine
open Sys2Proof

/-! ### Integer rounding -/

/-- `n / d` rounded to nearest, ties to even, for `d` above 0 (R111). -/
def rneDiv (n : Int) (d : Nat) : Int :=
  let q := n / d
  let r := n % d
  if 2 * r < d then q else if (d : Int) < 2 * r then q + 1 else if q % 2 = 0 then q else q + 1

/-- `x * 2^k` rounded to nearest, ties to even. -/
def roundShift (x : Int) (k : Int) : Int := if 0 ≤ k then x * 2 ^ k.toNat else rneDiv x (2 ^ (-k).toNat)

/-- Saturation at plus or minus `2^n - 1` (R98, R110). -/
def satSym (n : Nat) (x : Int) : Int := clampInt (-(2 ^ n - 1)) (2 ^ n - 1) x

/-- `x` lies within plus or minus `2^n - 1`. -/
def inSym (n : Nat) (x : Int) : Bool := decide (-(2 ^ n - 1) ≤ x) && decide (x ≤ 2 ^ n - 1)

/-- Saturation to the range of a width, signed or unsigned (R111). -/
def satWidth (bits : Nat) (signed : Bool) (x : Int) : Int :=
  if signed then clampInt (-(2 ^ (bits - 1))) (2 ^ (bits - 1) - 1) x else clampInt 0 (2 ^ bits - 1) x

/-- Floor division of integers (arithmetic shift right). -/
def asr (x : Int) (k : Nat) : Int := x / (2 ^ k : Nat)

/-! ### Floating-point values -/

/-- A decoded value: the finite ones are plus or minus `m * 2^e`. -/
inductive FVal where
  | nan
  | inf (neg : Bool)
  | fin (neg : Bool) (m : Nat) (e : Int)
  deriving DecidableEq, Repr

/-- A binary format: exponent bits, fraction bits, whether it has infinities, and the maximum to which it saturates where it
has none (R116). -/
structure FFormat where
  eb : Nat
  mb : Nat
  hasInf : Bool
  deriving DecidableEq, Repr

def fp32 : FFormat := ⟨8, 23, true⟩
def fp16 : FFormat := ⟨5, 10, true⟩
def bf16 : FFormat := ⟨8, 7, true⟩
def e4m3 : FFormat := ⟨4, 3, false⟩
def e5m2 : FFormat := ⟨5, 2, true⟩

def FFormat.bias (f : FFormat) : Int := 2 ^ (f.eb - 1) - 1

/-- The value of a bit pattern. E4M3 has no infinity and one NaN magnitude; the others follow IEEE 754. -/
def decodeF (f : FFormat) (x : Nat) : FVal :=
  let neg := bitsAt x (f.eb + f.mb) 1 == 1
  let e := bitsAt x f.mb f.eb
  let m := bitsAt x 0 f.mb
  if e = 2 ^ f.eb - 1 ∧ f.hasInf then (if m = 0 then .inf neg else .nan)
  else if e = 2 ^ f.eb - 1 ∧ m = 2 ^ f.mb - 1 ∧ !f.hasInf then .nan
  else if e = 0 then .fin neg m (1 - f.bias - f.mb)
  else .fin neg (m + 2 ^ f.mb) (e - f.bias - f.mb)

/-- Sign bit and magnitude bits put together. -/
def packF (f : FFormat) (neg : Bool) (mag : Nat) : Nat := mag + (if neg then 2 ^ (f.eb + f.mb) else 0)

/-- `m * 2^e` rounded to `mb + 1` significant bits, ties to even: significand and exponent of its unit. -/
def roundSig (mb m : Nat) (e : Int) : Nat × Int :=
  let l := Nat.log2 m
  if l ≤ mb then (m * 2 ^ (mb - l), e - (mb - l : Nat))
  else
    let q := (rneDiv m (2 ^ (l - mb))).toNat
    if q = 2 ^ (mb + 1) then (2 ^ mb, e + (l - mb : Nat) + 1) else (q, e + (l - mb : Nat))

/-- The NaN that an operation delivers. Its payload is open: a free value. -/
def nanBits (f : FFormat) : Nat :=
  packF f (Config.free 1 0 % 2 == 1) ((2 ^ f.eb - 1) * 2 ^ f.mb + 2 ^ (f.mb - 1) + Config.free 1 1 % 2 ^ (f.mb - 1))

/-- A finite magnitude beyond the format: infinity, or the largest finite value where the conversion saturates. -/
def overflowBits (f : FFormat) (sat neg : Bool) : Nat :=
  if f.hasInf && !sat then packF f neg ((2 ^ f.eb - 1) * 2 ^ f.mb)
  else if f.hasInf then packF f neg ((2 ^ f.eb - 1) * 2 ^ f.mb - 1)
  else packF f neg (2 ^ (f.eb + f.mb) - 2)

/-- A value in a format, rounded to nearest with ties to even. `ftz` flushes subnormal results to zero of the same sign
(R113); `sat` saturates at the largest finite value (R116). -/
def encodeF (f : FFormat) (ftz sat : Bool) (v : FVal) : Nat :=
  match v with
  | .nan => if f.hasInf then nanBits f else packF f false (2 ^ (f.eb + f.mb) - 1)
  | .inf neg => overflowBits f (sat || !f.hasInf) neg
  | .fin neg m e =>
    if m = 0 then packF f neg 0
    else
      let (q, u) := roundSig f.mb m e
      let emin : Int := 1 - f.bias - f.mb
      if u < emin then
        if ftz then packF f neg 0
        else packF f neg (roundShift m (e - emin)).toNat
      else
        let ef := u - emin + 1
        let mag := (ef.toNat) * 2 ^ f.mb + (q - 2 ^ f.mb)
        let top := if f.hasInf then (2 ^ f.eb - 1) * 2 ^ f.mb else 2 ^ (f.eb + f.mb) - 1
        if top ≤ mag then overflowBits f sat neg else packF f neg mag

/-- A subnormal operand counts as zero of the same sign (R113). -/
def flushIn (f : FFormat) (x : Nat) : FVal :=
  match decodeF f x with
  | .fin neg m e => if bitsAt x f.mb f.eb = 0 then .fin neg 0 e else .fin neg m e
  | v => v

/-- The integer that a finite value is at a unit of `2^e`. -/
def atUnit (neg : Bool) (m : Nat) (d : Nat) : Int := if neg then -((m * 2 ^ d : Nat) : Int) else (m * 2 ^ d : Nat)

/-- An exact sum of two finite values; an exact zero of unlike signs is +0 (IEEE 754, round to nearest). -/
def addFin (n1 : Bool) (m1 : Nat) (e1 : Int) (n2 : Bool) (m2 : Nat) (e2 : Int) : FVal :=
  let e := min e1 e2
  let x := atUnit n1 m1 (e1 - e).toNat + atUnit n2 m2 (e2 - e).toNat
  if x = 0 then .fin (n1 && n2) 0 e else .fin (decide (x < 0)) x.natAbs e

/-- Addition of values. -/
def addV (a b : FVal) : FVal :=
  match a, b with
  | .nan, _ => .nan
  | _, .nan => .nan
  | .inf x, .inf y => if x = y then .inf x else .nan
  | .inf x, .fin _ _ _ => .inf x
  | .fin _ _ _, .inf y => .inf y
  | .fin n1 m1 e1, .fin n2 m2 e2 => addFin n1 m1 e1 n2 m2 e2

/-- The value with its sign changed. -/
def negV : FVal → FVal
  | .nan => .nan
  | .inf n => .inf !n
  | .fin n m e => .fin (!n) m e

/-- Multiplication of values, exact. -/
def mulV (a b : FVal) : FVal :=
  match a, b with
  | .nan, _ => .nan
  | _, .nan => .nan
  | .inf x, .inf y => .inf (x != y)
  | .inf x, .fin n m _ => if m = 0 then .nan else .inf (x != n)
  | .fin n m _, .inf y => if m = 0 then .nan else .inf (n != y)
  | .fin n1 m1 e1, .fin n2 m2 e2 => .fin (n1 != n2) (m1 * m2) (e1 + e2)

/-- `a < b` for values that are not NaN, with -0 below +0. -/
def ltV (a b : FVal) : Bool :=
  match a, b with
  | .inf x, .inf y => x && !y
  | .inf x, .fin _ _ _ => x
  | .fin _ _ _, .inf y => !y
  | .fin n1 m1 e1, .fin n2 m2 e2 =>
    let e := min e1 e2
    let x := atUnit n1 m1 (e1 - e).toNat
    let y := atUnit n2 m2 (e2 - e).toNat
    decide (x < y) || (x == y && n1 && !n2)
  | _, _ => false

/-- IEEE 754 maximum: NaN propagates (R113). -/
def maxV (a b : FVal) : FVal :=
  match a, b with
  | .nan, _ => .nan
  | _, .nan => .nan
  | a, b => if ltV a b then b else a

/-- IEEE 754 minimum: NaN propagates (R113). -/
def minV (a b : FVal) : FVal :=
  match a, b with
  | .nan, _ => .nan
  | _, .nan => .nan
  | a, b => if ltV a b then a else b

/-- A rounded FP32 result of the vector post unit (R113). -/
def resF32 (v : FVal) : Nat := encodeF fp32 true false v
/-- An FP32 operand of the vector post unit (R113). -/
def opF32 (x : Nat) : FVal := flushIn fp32 x

def addF32 (a b : Nat) : Nat := resF32 (addV (opF32 a) (opF32 b))
def subF32 (a b : Nat) : Nat := resF32 (addV (opF32 a) (negV (opF32 b)))
def mulF32 (a b : Nat) : Nat := resF32 (mulV (opF32 a) (opF32 b))
def fmaF32 (a b d : Nat) : Nat := resF32 (addV (mulV (opF32 a) (opF32 b)) (opF32 d))
/-- Quotient of two values: 65 fraction bits and a bit for the rest, so that one rounding follows. -/
def divV (a b : FVal) : FVal :=
  match a, b with
  | .nan, _ => .nan
  | _, .nan => .nan
  | .inf _, .inf _ => .nan
  | .inf n, .fin m _ _ => .inf (n != m)
  | .fin n _ _, .inf m => .fin (n != m) 0 0
  | .fin n m e, .fin n' m' e' =>
    if m' = 0 then (if m = 0 then .nan else .inf (n != n'))
    else
      let q := m * 2 ^ 64
      .fin (n != n') (2 * (q / m') + (if q % m' = 0 then 0 else 1)) (e - e' - 65)

def divF32 (a b : Nat) : Nat := resF32 (divV (opF32 a) (opF32 b))
def maxF32 (a b : Nat) : Nat := resF32 (maxV (opF32 a) (opF32 b))
def minF32 (a b : Nat) : Nat := resF32 (minV (opF32 a) (opF32 b))

/-! ### Exact references of the bounded operations (Table FAB-7) -/

/-- ln 2 in units of 10^-40, truncated. -/
def ln2e40 : Nat := 6931471805599453094172321214581765680755

/-- ln 2 in units of 2^-128. -/
def ln2Fix : Int := ln2e40 * 2 ^ 128 / 10 ^ 40

/-- e^x of `x` from 0 to below 1, in units of 2^-128, by its series. -/
def expSeries (x : Int) : Int :=
  ((List.range 40).foldl (fun (p : Int × Int) k =>
    let t := p.2 * x / 2 ^ 128 / (k + 1)
    (p.1 + t, t)) (2 ^ 128, 2 ^ 128)).1

/-- e^x of a fixed-point `x`: a number in units of 2^-128 and the power of two that it is multiplied by. -/
def expFix (x : Int) : Int × Int := (expSeries (x % ln2Fix), x / ln2Fix)

/-- ln of `m * 2^e` for `m` above 0, in units of 2^-128. -/
def lnFix (m : Nat) (e : Int) : Int :=
  let l := Nat.log2 m
  let z : Int := ((m : Int) - 2 ^ l) * 2 ^ 128 / (m + 2 ^ l)
  let z2 := z * z / 2 ^ 128
  let sum := ((List.range 44).foldl (fun (p : Int × Int) i => (p.1 + p.2 / (2 * i + 1), p.2 * z2 / 2 ^ 128)) (0, z)).1
  (e + l) * ln2Fix + 2 * sum

/-- A number in units of 2^-128 as a value. -/
def fixV (x : Int) : FVal := .fin (decide (x < 0)) x.natAbs (-128)

/-- A finite value in units of 2^-128. -/
def toFix (neg : Bool) (m : Nat) (e : Int) : Int := roundShift (if neg then -(m : Int) else m) (e + 128)

/-- e^x, or 2^x: a magnitude of 2^8 or more leaves the range of FP32. -/
def expV (base2 : Bool) (v : FVal) : FVal :=
  match v with
  | .nan => .nan
  | .inf neg => if neg then .fin false 0 0 else .inf false
  | .fin neg m e =>
    if m = 0 then .fin false 1 0
    else if 8 ≤ Nat.log2 m + e then .fin false 1 (if neg then -400 else 400)
    else
      let x := toFix neg m e
      let p := if base2 then (expSeries (x % 2 ^ 128 * ln2Fix / 2 ^ 128), x / 2 ^ 128) else expFix x
      .fin false p.1.natAbs (p.2 - 128)

/-- ln x, or log2 x; the spec gives none for an x that is not above 0. -/
def logV (base2 : Bool) (v : FVal) : Option FVal :=
  match v with
  | .nan => some .nan
  | .inf neg => if neg then none else some (.inf false)
  | .fin neg m e =>
    if neg ∨ m = 0 then none else some (fixV (if base2 then lnFix m e * 2 ^ 128 / ln2Fix else lnFix m e))

/-- The square root, with a bit for the rest. -/
def sqrtV (v : FVal) : FVal :=
  match v with
  | .nan => .nan
  | .inf neg => if neg then .nan else .inf false
  | .fin neg m e =>
    if m = 0 then .fin neg 0 0
    else if neg then .nan
    else
      let d := (e % 2).toNat
      let n := m * 2 ^ (d + 128)
      .fin false (2 * Nat.sqrt n + (if Nat.sqrt n * Nat.sqrt n = n then 0 else 1)) ((e - d) / 2 - 65)

/-- An FP32 result within `k` ulp of an exact one: a free value of its place and key. Zeros, infinities and NaN are exact, and a result
below the normal range is flushed (R113). -/
def nearF32 (k place key : Nat) (v : FVal) : Nat :=
  match v with
  | .nan => resF32 v
  | .inf _ => resF32 v
  | .fin neg m _ =>
    if m = 0 then resF32 v
    else
      let mag := resF32 v % 2 ^ 31 + Config.free place key % (2 * k + 1) - k
      packF fp32 neg (if mag < 2 ^ 23 then 0 else min mag 0x7F800000)

/-- The magnitude of a value. -/
def absV : FVal → FVal
  | .nan => .nan
  | .inf _ => .inf false
  | .fin _ m e => .fin false m e

/-- The sum of values by a tree of `levels` rounded additions, whose order is not given: a free value within their bound. Where partial
sums may leave the range of FP32, the result is open. -/
def sumF32 (levels place key : Nat) (vs : List FVal) : Nat :=
  let zero : FVal := .fin false 0 0
  match vs.foldl addV zero with
  | .nan => resF32 .nan
  | .inf n => resF32 (.inf n)
  | v =>
    let total := (vs.map absV).foldl addV zero
    if !(ltV total (.fin false 1 127)) then Config.free place key % 2 ^ 32
    else
      let bound := addV (mulV total (.fin false ((2 ^ 24 + 1) ^ (levels - 1) - 2 ^ (24 * (levels - 1))) (-(24 * (levels - 1) : Nat))))
        (.fin false 16 (-126))
      let t : Int := (Config.free place key % (2 ^ 33 + 1) : Nat) - 2 ^ 32
      resF32 (addV v (mulV bound (.fin (decide (t < 0)) t.natAbs (-32))))

/-- An integer as a value. -/
def intV (x : Int) : FVal := .fin (decide (x < 0)) x.natAbs 0

/-- A value as an integer at a unit of `2^(-frac)`, rounded to nearest even; none for NaN and infinities. -/
def valueInt (v : FVal) (frac : Nat) : Option Int :=
  match v with
  | .nan => none
  | .inf _ => none
  | .fin neg m e => some (roundShift (if neg then -(m : Int) else m) (e + frac))

/-- FP32 to INT32, saturating; the result for NaN is open, a free value (R113). -/
def f32ToInt32 (x : Nat) : Nat :=
  toField 32 (match opF32 x with
    | .nan => (Config.free 2 x : Int)
    | .inf neg => if neg then -(2 ^ 31) else 2 ^ 31 - 1
    | v => satWidth 32 true ((valueInt v 0).getD 0))

end Sys2Proof.Machine
end

