-- ==== Sys2Proof/Machine/Intake.lean ====
section
/-!
DEFINITION. Consumption of descriptors, their checks, and the beginning of an opcode (R45 to R48, R53, R55, R58, R60).
-/
namespace Sys2Proof.Machine
open Sys2Proof

/-! ### Opcodes (Table HST-4) -/

namespace Op
def nop : Nat := 0x00
def chunk : Nat := 0x01
def chunkTriggered : Nat := 0x02
def jobLoad : Nat := 0x10
def jobUnload : Nat := 0x11
def streamRetire : Nat := 0x12
def streamSwap : Nat := 0x13
def streamSwapForced : Nat := 0x14
def cancel : Nat := 0x15
def jobRestart : Nat := 0x16
def tableWrite : Nat := 0x20
def planRequest : Nat := 0x21
def powerState : Nat := 0x30
def powerPolicy : Nat := 0x31
def updateHeader : Nat := 0x40
def updateBody : Nat := 0x41
def updateCommit : Nat := 0x42
end Op

/-- The opcodes of Table HST-4. -/
def knownOps : List Nat :=
  [Op.nop, Op.chunk, Op.chunkTriggered, Op.jobLoad, Op.jobUnload, Op.streamRetire, Op.streamSwap, Op.streamSwapForced,
    Op.cancel, Op.jobRestart, Op.tableWrite, Op.planRequest, Op.powerState, Op.powerPolicy, Op.updateHeader, Op.updateBody,
    Op.updateCommit]

/-- Byte `i` onwards of ARGS, `n` bytes, counted in the descriptor. -/
def arg (d : Desc) (i n : Nat) : Nat := descField d i n

/-- Bits of ARGS that must be zero are zero: bytes `i` to `i + n - 1`. -/
def argsZero (d : Desc) (i n : Nat) : Bool := descField d i n == 0

/-- Opcodes that recovery accepts (R465). -/
def recoveryOps : List Nat := [Op.nop, Op.updateHeader, Op.updateBody, Op.updateCommit]

/-- DETAIL of a descriptor that breaks a rule common to all opcodes (R46, R47, R153, R465). Where it breaks several, the first of opcode,
address, length, job and ring is reported: the spec gives no order (DESIGN CHOICE, log 70). -/
def formatError (c : Consumed) (s : State) : Option Nat :=
  let d := c.desc
  let op := fld d 0 8
  if s.upd.recovery && !(recoveryOps.contains op) then some 0x011D
  else if !(knownOps.contains op) then some 0x0101
  else if !(addrValid d (inAddr d) (inLen d) true s) || !(addrValid d (outAddr d) (outLen d) false s) then some 0x0102
  else if spaceOf (outAddr d) == 2 && decide (2 ^ 20 < outLen d) then some 0x0105
  else if isStreamOp op then
    match mapGet s.streams (fld d 16 8) with
    | none => some 0x0104
    | some x => if x.job ≠ fld d 24 5 then some 0x0103 else if x.sq ≠ c.sq then some 0x0104 else none
  else none

/-! ### Beginning an opcode -/

/-- A descriptor marked as begun. -/
def markStarted (id : Nat) (s : State) : State :=
  setConsumed (listUpdate s.host.consumed (fun c => c.id == id) fun c => { c with started := true }) s

/-- An earlier descriptor of the same stream has not begun: work on a stream goes on in the order of consumption (R53, Table JOB-4). -/
def behindEarlier (c : Consumed) (s : State) : Bool :=
  isQueueOp (fld c.desc 0 8) && s.host.consumed.any fun e =>
    decide (e.id < c.id) && isQueueOp (fld e.desc 0 8) && fld e.desc 16 8 == fld c.desc 16 8 && !e.started
      && !(s.host.decided.any fun p => p.1 == e.id) && (formatError e s).isNone

/-- The consumed descriptor of an opcode that can begin now (R45, R53, R58). -/
def canBegin (id op : Nat) (s : State) : Option Consumed :=
  if !(running s) then none
  else match consumedById id s with
    | none => none
    | some c =>
      if fld c.desc 0 8 = op && !c.started && fenceOpen c s && !(behindEarlier c s) && !(s.host.decided.any fun p => p.1 == id)
        && (isQueueOp op || roomFor (boundCq c.sq s) s) then some c
      else none

/-- DETAIL of an opcode that is unknown, or that recovery does not accept (R47, R465). -/
def badOp (c : Consumed) (s : State) : Option Nat :=
  if s.upd.recovery && !(recoveryOps.contains (fld c.desc 0 8)) then some 0x011D
  else if knownOps.contains (fld c.desc 0 8) then none
  else some 0x0101

/-- A descriptor of an opcode that is unknown, or that recovery does not accept, completes once its FENCE lets it (R45, R47, R465). -/
def refuseUnknown (c : Consumed) (s : State) : State :=
  match badOp c s with
  | some e => if fenceOpen c s && !(s.host.decided.any fun p => p.1 == c.id) then refuseFormat c e 0 s else s
  | none => s

/-- Such descriptors that have waited for their FENCE complete, in consumption order. -/
def refuseFenced (s : State) : State := forEach s.host.consumed (fun c s => match consumedById c.id s with
    | some k => refuseUnknown k s
    | none => s) s

/-- An opcode begun: malformed descriptors complete as REFUSED_FORMAT, and the others take the opcode's effect (R60). -/
def begin' (id op : Nat) (f : Consumed → State → State) (s : State) : Host.Outcome State Fault Refusal :=
  match canBegin id op s with
  | none => .next s
  | some c =>
    match formatError c s with
    | some e => .next (refuseFenced (refuseFormat c e 0 s))
    | none => .next (refuseFenced (f c (markStarted id s)))

/-- A descriptor completed as DONE. -/
def done (c : Consumed) (aux : Nat) (s : State) : State := completeOrWait c (plainFacts Status.done 0 aux) s

/-- NOP completes as DONE (R47). -/
def execNop (id : Nat) (s : State) : Host.Outcome State Fault Refusal := begin' id Op.nop (fun c s => done c 0 s) s

/-! ### Consumption (R36, R44, R55, R63, R299) -/

/-- A ring whose last consumed descriptor is a PLAN_REQUEST that waits in descriptor intake, the planner's queue being full
(R299). -/
def intakeHeld (sq : Nat) (s : State) : Bool :=
  decide (64 ≤ s.plan.queue.length)
    && s.host.consumed.any fun c => c.sq == sq && fld c.desc 0 8 == Op.planRequest && !c.started

/-- The next unread descriptor of a ring in the push buffer, and its message (R63). -/
def pushedDesc (sq : Nat) (s : State) : Option (Nat × Desc) :=
  match s.host.push.find? fun m => m.sq == sq && decide (0 < m.unread) with
  | none => none
  | some m => (m.descs[m.descs.length - m.unread]?).map fun d => (m.id, d)

/-- A descriptor enters the module: the head passes it, and it has a consumption number. An unknown opcode completes at once
(R47), and so does one that recovery does not accept (R465), unless its FENCE keeps it waiting (R45). -/
def consume (sq : Nat) (msg : Option Nat) (d : Desc) (s : State) : State :=
  let c : Consumed := { id := s.host.nextId, sq := sq, desc := d, msg := msg, started := false, orphan := false }
  let q := sqOf sq s
  let s := setSq sq { q with head := q.head + 1 } s
  let s := { s with host := { s.host with consumed := s.host.consumed ++ [c], nextId := s.host.nextId + 1 } }
  refuseUnknown c s

/-- A consumed POWER_STATE takes MGMT and the attachment domain out of on (R370). -/
def takesAttachment (c : Consumed) (s : State) : Bool :=
  fld c.desc 0 8 == Op.powerState && decide (arg c.desc 48 1 < 2)
    && bitsAt (arg c.desc 40 8) (Dom.mgmt - 1) 1 == 1
    && bitsAt (arg c.desc 40 8) ((if usbAttached s then Dom.usb else Dom.pcie) - 1) 1 == 1

/-- No descriptor is consumed from the consumption of such a command on (R370). -/
def intakeClosed (s : State) : Bool := s.power.closing || s.host.consumed.any fun c => takesAttachment c s

/-- A ring has a descriptor to consume (R36), and no command is taking the attachment down (R370). Recovery serves SQ0 only (R465). -/
def hasWork (sq : Nat) (s : State) : Bool :=
  (!s.upd.recovery || sq == 0) && ringState 0 sq s == 1 && (sqOf sq s).head != (sqOf sq s).tail && !(intakeHeld sq s) && !(intakeClosed s)

/-- Submission rings with descriptors to consume, in ring order. -/
def pendingRings (s : State) : List Nat := (s.host.sqs.map fun p => p.1).filter fun q => hasWork q s

/-- The ring that is served next while more than 256 are pending: round robin, 8 descriptors a turn (R44). -/
def turnRing (s : State) : Option Nat :=
  let l := pendingRings s
  if l.contains s.host.turn.1 && decide (s.host.turn.2 < 8) then some s.host.turn.1
  else (l.find? fun q => decide (s.host.turn.1 < q)).orElse fun _ => l.head?

/-- A ring may be served now: any while at most 256 are pending, else the one whose turn it is (R44). -/
def servedNow (sq : Nat) (s : State) : Bool := decide ((pendingRings s).length ≤ 256) || turnRing s == some sq

/-- A descriptor of a ring has been taken in its turn. -/
def takeTurn (sq : Nat) (s : State) : State :=
  let n := if s.host.turn.1 = sq ∧ s.host.turn.2 < 8 then s.host.turn.2 + 1 else 1
  { s with host := { s.host with turn := (sq, n) } }

/-- The space of a pushed descriptor released when it is consumed (R63). -/
def unpush (m : Nat) (s : State) : State :=
  setPush (listUpdate s.host.push (fun x => x.id == m) fun x => { x with unread := x.unread - 1 }) s

/-- The next descriptor of a ring read: from host memory, where the read may fail and stop the ring (R55, R60), or from the push
buffer over USB. -/
def readDescriptor (sq : Nat) (data : Option Desc) (s : State) : State :=
  if usbAttached s then
    match pushedDesc sq s with
    | some (m, d) => unpush m (consume sq (some m) d s)
    | none => s
  else
    match data with
    | some d => consume sq none d s
    | none => stopRing sq 0x0004 (hostError Fld.hostErrStatusDescFetch 0x0002 Status.hostFault sq s)

/-- DESCRIPTOR_READ (R44, R55). -/
def execDescriptorRead (sq : Fin 4096) (data : Option Desc) (s : State) : Host.Outcome State Fault Refusal :=
  .next (onlyIf (running s && hasWork sq.val s && servedNow sq.val s) (fun s => readDescriptor sq.val data (takeTurn sq.val s)) s)

end Sys2Proof.Machine
end

