-- ==== Sys2Proof/Machine/Tables.lean ====
section
/-!
DEFINITION. The versioned tables of the fusion engine, the planner and the CLE: versions, pending slots and activation (R265, R266).
What makes a table malformed, and when it activates, stands with each engine.
-/
namespace Sys2Proof.Machine
open Sys2Proof

/-- Key of a table. -/
def tableKey (engine kind sensor : Nat) : Nat := engine * 4096 + kind * 64 + sensor

/-- The engine of a key. -/
def tableEngine (key : Nat) : Nat := key / 4096
/-- The kind of a key. -/
def tableKind (key : Nat) : Nat := key / 64 % 64

/-- The active content of a table, if it has a valid version. -/
def activeTable (key : Nat) (s : State) : Option (List Byte) := (mapGet s.tables.active key).map fun p => p.2

/-- The pending version of a table. -/
def pendingTable (key : Nat) (s : State) : Option PendTable := s.tables.pending.find? fun p => p.key == key

/-- The content of a table as it will stand when what is pending has activated (R316). -/
def comingTable (key : Nat) (s : State) : Option (List Byte) :=
  match pendingTable key s with
  | some p => some p.data
  | none => activeTable key s

def setTables (t : Tables) (s : State) : State := { s with tables := t }

/-- VERSION exceeds the active and the pending version, and any version that waits behind them (R265). -/
def versionOk (key version : Nat) (s : State) : Bool :=
  (match mapGet s.tables.active key with
    | some (v, _) => decide (v < version)
    | none => true)
    && (s.tables.pending ++ s.tables.waiting).all fun p => p.key != key || decide (p.version < version)

/-- Bytes of the fusion table space in use by active and pending versions (Table FUS-4). -/
def fusTableSpace (s : State) : Nat :=
  ((s.tables.active.filter fun p => tableEngine p.1 == 1).map fun p => p.2.2.length).sum
    + (((s.tables.pending ++ s.tables.waiting).filter fun p => tableEngine p.key == 1).map fun p => p.data.length).sum

/-- A table fits the free table space: 512 KiB for fusion, a fixed place for the others (R265, Table FUS-4, Table PLN-1). -/
def tableFits (key n : Nat) (s : State) : Bool := tableEngine key != 1 || decide (fusTableSpace s + n ≤ 524288)

/-- A version stored in the pending slot: without HELD it makes every pending version of its engine ready (R266). -/
def storePending (p : PendTable) (s : State) : State :=
  let l := s.tables.pending ++ [{ p with ready := !p.held }]
  let l := if p.held then l else listUpdate l (fun q => tableEngine q.key == tableEngine p.key) fun q => { q with ready := true }
  setTables { s.tables with pending := l } s

/-- A write stored as pending, or waiting while the slot is occupied (R266). -/
def offerTable (p : PendTable) (s : State) : State :=
  if (pendingTable p.key s).isSome || s.tables.waiting.any fun q => q.key == p.key then
    setTables { s.tables with waiting := s.tables.waiting ++ [p] } s
  else storePending p s

/-- Writes that waited for the slot of a table, as far as it is free. -/
def admitWaiting (key : Nat) (s : State) : State :=
  match s.tables.waiting.find? fun q => q.key == key with
  | none => s
  | some p =>
    if (pendingTable key s).isSome then s
    else storePending p (setTables { s.tables with waiting := s.tables.waiting.filter fun q => q.id != p.id } s)

/-- A pending version becomes the active one and its write completes as DONE with an AUX. -/
def activateTable (p : PendTable) (aux : Nat) (s : State) : State :=
  let s := setTables { s.tables with
    active := mapSet s.tables.active p.key (p.version, p.data)
    pending := s.tables.pending.filter fun q => q.key != p.key } s
  let s := match consumedById p.id s with
    | some c => done c aux s
    | none => s
  admitWaiting p.key s

/-- The pending versions of an engine that are ready. -/
def readyTables (engine : Nat) (s : State) : List PendTable := s.tables.pending.filter fun p => p.ready && tableEngine p.key == engine

/-- Entry `i` of a table of entries of a size, as a number. -/
def tableEntry (bs : List Byte) (size i : Nat) : Nat := leNat ((bs.drop (size * i)).take size)

/-- Bits outside the fields of an entry are zero: the fields are given as offset and length. -/
def reservedZero (e : Nat) (fields : List (Nat × Nat)) : Bool := fields.foldl (fun e f => putBits e f.1 f.2 0) e == 0

end Sys2Proof.Machine
end

