-- ==== Sys2Proof/Machine/Time.lean ====
section
/-!
DEFINITION. The time base: extension of 32-bit times, steps, the servo's states, generators, capture queues and gate control lists
(chapter 10, R240 to R255). What a firing releases in other blocks stands in Triggers.
-/
namespace Sys2Proof.Machine
open Sys2Proof

/-- A second in nanoseconds. -/
def secNs : Nat := 1000000000

/-- A 32-bit time extended against a full reference count (R242). -/
def extend32 (ref t32 : Nat) : Int :=
  let d : Int := ((t32 : Int) - (ref % 2 ^ 32 : Nat)) % 2 ^ 32
  (ref : Int) + (if 2 ^ 31 ≤ d then d - 2 ^ 32 else d)

/-- A signed quantity that saturates in a 32-bit field (TIME_STATUS.OFFSET, Table TIM-5). -/
def sat32 (x : Int) : Nat := toField 32 (clampInt (-(2 ^ 31)) (2 ^ 31 - 1) x)

/-- A TIME event (R255). -/
def timeEvent (detail aux : Nat) (s : State) : State := postEvent 5 detail Status.done aux s

def setTime (t : TimeUnit) (s : State) : State := { s with time := t }

/-- The time unit runs: TIME is on. -/
def timeOn (s : State) : Bool := domOn Dom.time s

/-! ### Pins (R247) -/

/-- A pulse begins on a pin: 0 to 7 TRIG, 8 to 15 CAMTRIG. -/
def pulse (g pin endsAt : Nat) (s : State) : State :=
  emit (.pin pin true) (setTime { s.time with pulses := s.time.pulses ++ [(g, pin, endsAt)] } s)

/-- Pulses that meet a test end; a pin goes low when no other pulse holds it. -/
def endPulses (p : Nat × Nat × Nat → Bool) (s : State) : State :=
  let out := s.time.pulses.filter p
  let keep := s.time.pulses.filter fun x => !(p x)
  let s := setTime { s.time with pulses := keep } s
  forEach (out.map fun x => x.2.1).eraseDups (fun pin s => if keep.any fun x => x.2.1 == pin then s else emit (.pin pin false) s) s

/-- Pulse width in nanoseconds: WIDTH microseconds, where 0 acts as 1. -/
def pulseNs (g : Nat) (s : State) : Nat := max 1 (getF Fld.timeGenCfgWidth g s) * 1000

/-- A firing drives the selected pins (R247). -/
def firePins (g : Nat) (s : State) : State :=
  let e := s.clock + pulseNs g s
  let pins := (List.range 8).filter fun i => bitsAt (getF Fld.timeGenCfgPins g s) i 1 == 1
  let cams := (List.range 8).filter fun i => bitsAt (getF Fld.timeGenCfgCams g s) i 1 == 1
  forEach (pins ++ cams.map (· + 8)) (fun p s => pulse g p e s) s

/-! ### Generators (R247, R249, R251) -/

/-- The state of a generator. -/
def genOf (g : Nat) (s : State) : Gen := (mapGet s.time.gens g).getD ⟨none, none⟩
def setGen (g : Nat) (x : Gen) (s : State) : State := setTime { s.time with gens := mapSet s.time.gens g x } s

/-- A generator's period in nanoseconds: 0 is one-shot, 1 to 999 act as 1,000. -/
def genPeriod (g : Nat) (s : State) : Nat :=
  let p := getF Fld.timeGenCfgPeriod g s
  if p = 0 then 0 else max 1000 p

/-- A time given by seconds bits 31:0 and nanoseconds, with seconds bits 47:32 of the time base. -/
def fullTime (sec ns : Nat) (s : State) : Nat := (s.timeN / secNs / 2 ^ 32 * 2 ^ 32 + sec) * secNs + ns

/-- A generator's start S. -/
def genStart (g : Nat) (s : State) : Nat := fullTime (getF Fld.timeGenStartSec g s) (getF Fld.timeGenStartNs g s) s

/-- The first time S + k PER at or after `n`, if there is one. -/
def firstAt (start per n : Nat) : Option Nat :=
  if n ≤ start then some start
  else if per = 0 then none
  else some (start + ceilDiv (n - start) per * per)

/-- ENABLE set: the first firing is scheduled; a one-shot whose time has passed never fires (R249). -/
def genEnable (g : Nat) (s : State) : State :=
  match firstAt (genStart g s) (genPeriod g s) s.timeN with
  | some t => setGen g ⟨some t, none⟩ s
  | none => timeEvent 0x0004 (g + 256) (setGen g ⟨none, none⟩ s)

/-- ENABLE cleared: no further firing, and any pulse in progress ends (R249). -/
def genDisable (g : Nat) (s : State) : State := endPulses (fun p => p.1 == g) (setGen g ⟨none, none⟩ s)

/-- A write of TIME_GEN_CFG of the selected generator (R249). -/
def genCfgWrite (mask v : Nat) (s : State) : State :=
  let g := getF Fld.timeCtrlGenSel 0 s
  let old := getR .timeGenCfg g s
  let new := writtenVal .timeGenCfg old mask v
  let was := newF Fld.timeGenCfgEnable old == 1
  let is := newF Fld.timeGenCfgEnable new == 1
  if was && is then
    if newF Fld.timeGenCfgPeriod new = newF Fld.timeGenCfgPeriod old then setR .timeGenCfg g new s
    else
      setB Fld.timeStatusCfgErr 0 true
        (setR .timeGenCfg g (putBits new 32 32 (newF Fld.timeGenCfgPeriod old)) s)
  else
    let s := setR .timeGenCfg g new s
    if is then genEnable g s else if was then genDisable g s else s

/-- A write of TIME_GEN_START of the selected generator: discarded where it changes an enabled generator (R249). -/
def genStartWrite (mask v : Nat) (s : State) : State :=
  let g := getF Fld.timeCtrlGenSel 0 s
  let old := getR .timeGenStart g s
  let new := writtenVal .timeGenStart old mask v
  if new = old then s
  else if getB Fld.timeGenCfgEnable g s then setB Fld.timeStatusCfgErr 0 true s
  else setR .timeGenStart g new s

/-- A generator is due. -/
def genDue (g : Nat) (s : State) : Bool :=
  timeOn s && (match (genOf g s).next with
    | some t => decide (t ≤ s.timeN)
    | none => false)

/-- A generator fires: its next time is set and its pins are driven (R247). -/
def genFire (g : Nat) (s : State) : State :=
  let x := genOf g s
  let t := x.next.getD s.timeN
  let nxt := if genPeriod g s = 0 then none else some (t + genPeriod g s)
  firePins g (setGen g ⟨nxt, some t⟩ s)

/-! ### Steps (R251) -/

/-- The firing times of a generator in (old, new], counted. -/
def firingsIn (g new : Nat) (s : State) : Nat :=
  match (genOf g s).next with
  | none => 0
  | some t => if new < t then 0 else if genPeriod g s = 0 then 1 else (new - t) / genPeriod g s + 1

/-- After a forward step: a generator passed over fires once; further firings are counted as skipped. -/
def stepGen (new g : Nat) (s : State) : State × Bool :=
  let n := firingsIn g new s
  if n = 0 then (s, false)
  else
    let per := genPeriod g s
    let first := (genOf g s).next.getD 0
    let lastT := first + (n - 1) * per
    let s := setGen g ⟨if per = 0 then none else some (lastT + per), some lastT⟩ s
    let s := firePins g s
    (if 1 < n then timeEvent 0x0004 (g + min (n - 1) (2 ^ 24 - 1) * 256) s else s, true)

/-- A step of the time base, with the generators that fire at it (R251). A change of 0 is not a step. -/
def stepTime (delta : Int) (s : State) : State × List Nat :=
  if delta = 0 then (s, [])
  else
    let new := ((s.timeN : Int) + delta).toNat
    let back := new < s.timeN
    let s := setF Fld.timeStatusStepCount 0 (getF Fld.timeStatusStepCount 0 s + 1) { s with timeN := new, timeFrac := 0 }
    let s := timeEvent 0x0002 (sat32 delta) s
    if back then (s, [])
    else
      (List.range 64).foldl (fun (acc : State × List Nat) g =>
        let (s, f) := stepGen new g acc.1
        (s, if f then acc.2 ++ [g] else acc.2)) (s, [])

/-- The Acorn count: 32.768 kHz periods (R361). -/
def acornTicks (s : State) : Nat := s.clock * 32768 / 1000000000 % 2 ^ 48

/-- The Acorn count in nanoseconds (R240). -/
def acornNs (s : State) : Nat := acornTicks s * 1000000000 / 32768

/-- The reload when TIME returns to on, or after a MODULE reset: the Acorn count carries the time base on, with an error that the
spec bounds only; the reload is a forward step and the state is FREE, in which the servo corrects nothing (R244, R253). The first coming
on is no step: the time base takes the value of the Acorn count (R240). -/
def timeReload (s : State) : State × List Nat :=
  let s := { setF Fld.timeStatusState 0 0 s with rate := 0 }
  if !s.time.loaded then
    (setTime { s.time with loaded := true, stopped := none } { s with timeN := acornNs s, timeFrac := 0 }, [])
  else
    let away := s.clock - s.time.stopped.getD s.clock
    let bound := 31000 + away * 50 / 1000000
    let (f, s) := freeNat 10 s
    let err : Int := ((f % (2 * bound + 1) : Nat) : Int) - bound
    let s := setTime { s.time with stopped := none } s
    stepTime (max 0 ((away : Int) + err)) s

/-! ### Synchronisation (R243 to R245) -/

/-- The step threshold: TIME_JUMP.NS from 100 to 10^9. -/
def jumpNs (s : State) : Nat := min secNs (max 100 (getF Fld.timeJumpNs 0 s))

/-- An offset within the threshold. -/
def withinJump (o : Int) (s : State) : Bool := decide (o.natAbs ≤ jumpNs s)

/-- STATE: 0 FREE, 1 LOCKED, 2 HOLDOVER. -/
def syncState (s : State) : Nat := getF Fld.timeStatusState 0 s

/-- HOLDOVER entered (Table TIM-5): 0 Sync lost, 1 refused step, 2 MGMT not on. -/
def enterHoldover (why : Nat) (s : State) : State := timeEvent 0x0006 why (setF Fld.timeStatusState 0 2 s)

/-- A step refused (R245). -/
def refuseStep (o : Int) (s : State) : State :=
  let s := if syncState s = 1 then enterHoldover 1 s else s
  if getB Fld.timeStatusRefused 0 s then s
  else timeEvent 0x0001 (sat32 o) (setB Fld.timeStatusRefused 0 true s)

/-- The greatest rate correction: 200 ppm of a 2 ns tick, in units of 2^-32 ns (R240). -/
def maxRate : Nat := 1717986

/-- The servo corrects the rate; the spec bounds the correction and gives no law for it. -/
def servo (s : State) : State :=
  let (f, s) := freeNat 11 s
  { s with rate := ((f % (2 * maxRate + 1) : Nat) : Int) - maxRate }

/-- LOCKED reached, stepping by an offset. -/
def lockStep (o : Int) (s : State) : State × List Nat :=
  stepTime o (setTime { s.time with wide := 0 } (setF Fld.timeStatusState 0 1 s))

/-- A Sync measured (R244, R245). -/
def syncMeasured (m : Sync) (s : State) : State × List Nat :=
  let s := setF Fld.timeStatusOffset 0 (sat32 m.offset) (setTime { s.time with offset := m.offset } s)
  match syncState s with
  | 0 => lockStep m.offset s
  | 1 =>
    let n := if 200 < m.offset.natAbs then s.time.wide + 1 else 0
    let s := setTime { s.time with wide := n } s
    if 3 ≤ n || m.newMaster then
      (if withinJump m.offset s then lockStep m.offset s else (refuseStep m.offset s, []))
    else (servo s, [])
  | _ => if withinJump m.offset s then lockStep m.offset s else (refuseStep m.offset s, [])

/-- The protocols run: SYNC_EN is set, and MGMT and TIME are on (R243). -/
def syncRuns (s : State) : Bool :=
  getB Fld.timeCtrlSyncEn 0 s && domOn Dom.mgmt s && timeOn s && domOn Dom.eth s && getF Fld.timePtpCfgPorts 0 s != 0

/-- ACCEPT (R245, Table TIM-2). -/
def acceptStep (s : State) : State × List Nat :=
  if !(getB Fld.timeStatusRefused 0 s && syncState s == 2) then (s, [])
  else
    let (s, fired) := lockStep s.time.offset s
    (if domOn Dom.mgmt s then s else enterHoldover 2 s, fired)

/-- SYNC_TIMEOUT: a LOCKED time base passes to HOLDOVER (Table TIM-2). -/
def execSyncTimeout (s : State) : Host.Outcome State Fault Refusal :=
  .next (onlyIf (running s && timeOn s && syncState s == 1) (enterHoldover 0) s)

/-- GENERATOR_DISABLE: an 8-byte write of TIME_GEN_CFG with ENABLE = 0 (R249). -/
def execGeneratorDisable (v : BitVec 64) (s : State) : Host.Outcome State Fault Refusal :=
  .next (onlyIf (running s && timeOn s && !(flag v 0)) (genCfgWrite (2 ^ 64 - 1) v.toNat) s)

/-- GENERATOR_ENABLE: an 8-byte write of TIME_GEN_CFG with ENABLE = 1 (R249). -/
def execGeneratorEnable (v : BitVec 64) (s : State) : Host.Outcome State Fault Refusal :=
  .next (onlyIf (running s && timeOn s && flag v 0) (genCfgWrite (2 ^ 64 - 1) v.toNat) s)

/-! ### Capture (R250) -/

def capsOf (i : Nat) (s : State) : List (Nat × Bool) := (mapGet s.time.caps i).getD []

/-- The edges that TIME_CAP_CFG.EDGE selects for an input. -/
def edgeSelected (i : Nat) (rising : Bool) (s : State) : Bool :=
  let e := bitsAt (getF Fld.timeCapCfgEdge 0 s) (2 * i) 2
  if rising then e == 1 || e == 3 else e == 2 || e == 3

/-- A captured edge recorded, with its events (R250, R255). -/
def recordEdge (i : Nat) (rising : Bool) (s : State) : State :=
  let q := capsOf i s
  let s := if q.length < 16 then setTime { s.time with caps := mapSet s.time.caps i (q ++ [(s.timeN, rising)]) } s
    else timeEvent 0x0005 i s
  if bitsAt (getF Fld.timeCapCfgEvent 0 s) i 1 = 1 then timeEvent 0x0003 (i + bitsAt (s.timeN % secNs) 6 24 * 256) s else s

/-- The value of TIME_CAP_DATA for a record. -/
def capWord (n : Nat) (rise : Bool) : Nat := n % secNs + rise.toNat * 2 ^ 30 + 2 ^ 31 + n / secNs % 2 ^ 32 * 2 ^ 32

/-- A read of TIME_CAP_DATA: the oldest record of the selected input, removed; an empty queue reads VALID = 0 (R250). -/
def readCap (s : State) : Nat × State :=
  let i := getF Fld.timeCtrlCapSel 0 s
  match capsOf i s with
  | [] => (0, s)
  | (n, r) :: rest => (capWord n r, setTime { s.time with caps := mapSet s.time.caps i rest } s)

/-- TIME_CAP_DATA_READ (R250). -/
def execTimeCapDataRead (s : State) : Host.Outcome State Fault Refusal :=
  .next (onlyIf (running s && timeOn s) (fun s => let (v, s) := readCap s; emit (.barData (natLe 8 v)) s) s)

/-! ### Gate control lists (R254) -/

/-- The bytes of a list's header and its address in the window (Table TIM-4). -/
def qbvAddr (mac list : Nat) : Nat := winAddr (0x58000 + 0x800 * mac + 0x400 * list)

/-- The oper list of a MAC. -/
def qbvOper (mac : Nat) (s : State) : Nat := bitsAt (getF Fld.timeQbvCtrlOper 0 s) mac 1

/-- When a list becomes the oper list: BASE, or the first BASE + m CYCLE that has not passed. -/
def qbvBase (mac list : Nat) (s : State) : Nat :=
  let h := rdMem s (qbvAddr mac list) 16
  let b := fullTime (rdLE h 0 4) (rdLE h 4 4 % 2 ^ 30) s
  (firstAt b (max 1 (rdLE h 8 4)) s.timeN).getD b

/-- TIME_QBV_CTRL.CHANGE of a MAC: the other list is pending (R254). -/
def qbvRequest (mac : Nat) (s : State) : State :=
  let l := 1 - qbvOper mac s
  setTime { s.time with qbv := mapSet s.time.qbv mac (l, qbvBase mac l s) } s

/-- CHANGE (R254). -/
def execQbvChange (mac : Fin 4) (s : State) : Host.Outcome State Fault Refusal :=
  .next (onlyIf (running s && timeOn s && domOn Dom.eth s) (qbvRequest mac.val) s)

/-- The pending list becomes the oper list at its time (R254). -/
def qbvSwitch (mac : Nat) (s : State) : State :=
  match mapGet s.time.qbv mac with
  | some (l, t) =>
    if t ≤ s.timeN then
      setTime { s.time with qbv := mapErase s.time.qbv mac }
        (setF Fld.timeQbvCtrlOper 0 (putBits (getF Fld.timeQbvCtrlOper 0 s) mac 1 l) s)
    else s
  | none => s

/-- QBV_LIST_SWITCH (R254). -/
def execQbvListSwitch (mac : Fin 4) (s : State) : Host.Outcome State Fault Refusal :=
  .next (onlyIf (running s && timeOn s && domOn Dom.eth s) (qbvSwitch mac.val) s)

/-- The gates of a list at an offset into its cycle: the entry whose interval holds it, and the last one beyond them all. -/
def gatesIn : List (Nat × Nat) → Nat → Nat → Nat
  | [], last, _ => last
  | (g, n) :: es, _, t => if t < n then g else gatesIn es g (t - n)

/-- The entries of a list: gates and interval. LEN above 126 acts as 126 (log 77). -/
def gateEntries (mac list : Nat) (s : State) : List (Nat × Nat) :=
  let h := rdMem s (qbvAddr mac list) 1024
  (List.range (min 126 (rdLE h 12 2))).map fun e => (rdLE h (16 + 8 * e) 1, rdLE h (17 + 8 * e) 3)

/-- The open gates of a MAC now: all of them while its ENABLE bit is 0, or its oper list holds no entry (R254; log 77). -/
def gatesNow (mac : Nat) (s : State) : Nat :=
  let l := qbvOper mac s
  let es := gateEntries mac l s
  if bitsAt (getF Fld.timeQbvCtrlEnable 0 s) mac 1 = 0 ∨ es.isEmpty then 255
  else
    let h := rdMem s (qbvAddr mac l) 12
    let b := fullTime (rdLE h 0 4) (rdLE h 4 4 % 2 ^ 30) s
    gatesIn es 255 (((s.timeN : Int) - b) % (max 1 (rdLE h 8 4) : Nat)).toNat

/-- The gate of drive-link frames is open at a MAC (R254, R331). -/
def gateOpen (mac : Nat) (s : State) : Bool := bitsAt (gatesNow mac s) (getF Fld.jpDlCfgTclass 0 s) 1 == 1

/-- A drive-link frame handed to its MAC: it leaves at once through an open gate, and otherwise waits behind those before it. -/
def ethSend (mac : Nat) (f : List Byte) (s : State) : State :=
  if gateOpen mac s && !(s.time.gated.any fun g => g.1 == mac) then emit (.ethFrame mac f) s
  else setTime { s.time with gated := s.time.gated ++ [(mac, f)] } s

/-- The frames whose gate has opened leave, in order. -/
def openGates (s : State) : State :=
  let go := s.time.gated.filter fun g => gateOpen g.1 s
  if go.isEmpty then s
  else forEach go (fun g s => emit (.ethFrame g.1 g.2) s)
    (setTime { s.time with gated := s.time.gated.filter fun g => !(gateOpen g.1 s) } s)

/-! ### Time passing -/

/-- The time base advances by one 2 ns tick under the servo's rate, while TIME is on (R240). -/
def tickTime (s : State) : State :=
  if timeOn s then
    let f : Int := (s.timeFrac : Int) + s.rate
    { s with timeN := ((s.timeN : Int) + 2 + f / 2 ^ 32).toNat, timeFrac := (f % 2 ^ 32).toNat }
  else s

/-- One tick of the time clock: 2 ns pass, pulses whose end has come fall, and frames whose gate has opened leave (R240, R247, R254). -/
def tick (s : State) : State :=
  let s := tickTime { s with clock := s.clock + 2 }
  openGates (endPulses (fun p => decide (p.2.2 ≤ s.clock)) s)

end Sys2Proof.Machine
end

