-- ==== Sys2Proof/Machine/Cle.lean ====
section
/-!
DEFINITION. The closed-loop control engine, its setpoints, its drives and their frames (chapter 13, R311 to R340; R22 to R24, R415).
-/
namespace Sys2Proof.Machine
open Sys2Proof

/-! ### Table entries (Tables CLE-2, CLE-3, CLE-5), as little-endian numbers -/

namespace CH
def drive (e : Nat) : Nat := bitsAt e 0 6
def axis (e : Nat) : Nat := bitsAt e 6 2
def fbSel (e : Nat) : Nat := bitsAt e 8 2
def order (e : Nat) : Nat := bitsAt e 10 1
def fast (e : Nat) : Bool := bitsAt e 11 1 == 1
def trig (e : Nat) : Bool := bitsAt e 12 1 == 1
def src (e : Nat) : Nat := bitsAt e 13 2
def enable (e : Nat) : Bool := bitsAt e 15 1 == 1
def shift (e : Nat) : Nat := bitsAt e 16 5
def gen (e : Nat) : Nat := bitsAt e 24 8
def deadline (e : Nat) : Nat := bitsAt e 32 32
def uMin (e : Nat) : Int := sext 32 (bitsAt e 64 32)
def uMax (e : Nat) : Int := sext 32 (bitsAt e 96 32)
def rMin (e : Nat) : Int := sext 32 (bitsAt e 128 32)
def rMax (e : Nat) : Int := sext 32 (bitsAt e 160 32)
def slew (e : Nat) : Nat := bitsAt e 192 32
/-- B0 to B3, and A1 to A3. -/
def b (e : Nat) : List Int := (List.range 4).map fun i => sext 32 (bitsAt e (224 + 32 * i) 32)
def a (e : Nat) : List Int := (List.range 3).map fun i => sext 32 (bitsAt e (352 + 32 * i) 32)
def plnComp (e : Nat) : Nat := bitsAt e 448 3
def plnRel (e : Nat) : Bool := bitsAt e 451 1 == 1
def stream (e : Nat) : Nat := bitsAt e 456 8
def gain (e : Nat) : Nat := bitsAt e 464 32
/-- The fields of Table CLE-2; every other bit is reserved. -/
def fields : List (Nat × Nat) := [(0, 21), (24, 428), (456, 40)]
end CH

namespace HE
def mode (e : Nat) : Nat := bitsAt e 0 2
def order (e : Nat) : Nat := bitsAt e 2 1
def fbSel (e : Nat) : Nat := bitsAt e 3 2
def shift (e : Nat) : Nat := bitsAt e 8 5
def slew (e : Nat) : Nat := bitsAt e 32 32
def uMin (e : Nat) : Int := sext 32 (bitsAt e 64 32)
def uMax (e : Nat) : Int := sext 32 (bitsAt e 96 32)
def b (e : Nat) : List Int := (List.range 4).map fun i => sext 32 (bitsAt e (128 + 32 * i) 32)
def a (e : Nat) : List Int := (List.range 3).map fun i => sext 32 (bitsAt e (256 + 32 * i) 32)
def fields : List (Nat × Nat) := [(0, 5), (8, 5), (32, 320)]
end HE

namespace DE
def kind (e : Nat) : Nat := bitsAt e 0 2
def port (e : Nat) : Nat := bitsAt e 8 5
def axes (e : Nat) : Nat := bitsAt e 16 3
/-- MISS_LIMIT: 0 acts as 1. -/
def missLimit (e : Nat) : Nat := max 1 (bitsAt e 24 8)
def mac (e : Nat) : Nat := bitsAt e 32 48
def gen (e : Nat) : Nat := bitsAt e 80 6
def offset (e : Nat) : Int := sext 32 (bitsAt e 96 32)
def vlan (e : Nat) : Nat := bitsAt e 128 12
def fields : List (Nat × Nat) := [(0, 2), (8, 5), (16, 3), (24, 62), (96, 44)]
end DE

def cleKey (kind : Nat) : Nat := tableKey 3 kind 0

/-- The active channel, Husk and drive entries; without an active table a channel is disabled, a Husk entry is RELEASE and a
drive is OFF (R335). -/
def chanEntry (c : Nat) (s : State) : Nat := ((activeTable (cleKey 1) s).map fun t => tableEntry t 64 c).getD 0
def huskEntry (c : Nat) (s : State) : Nat := ((activeTable (cleKey 2) s).map fun t => tableEntry t 48 c).getD 2
def driveEntry (d : Nat) (s : State) : Nat := ((activeTable (cleKey 3) s).map fun t => tableEntry t 32 d).getD 0

/-! ### State access -/

def chan0 : Channel := ⟨[0, 0, 0], [0, 0, 0], 0, none, none, 0, 0, 0, 0, 0, false, [0, 0, 0], 0, [], 0⟩
def drive0 : Drive := ⟨0, 0, false, false, false, false, 1000, none, false, false, false, [], 0⟩

def chanOf (c : Nat) (s : State) : Channel := (mapGet s.cle.channels c).getD chan0
def driveOf (d : Nat) (s : State) : Drive := (mapGet s.cle.drives d).getD drive0
def setCle (x : CleUnit) (s : State) : State := { s with cle := x }
def setChan (c : Nat) (x : Channel) (s : State) : State := setCle { s.cle with channels := mapSet s.cle.channels c x } s
def adjChan (c : Nat) (f : Channel → Channel) (s : State) : State := setChan c (f (chanOf c s)) s
def setDrive (d : Nat) (x : Drive) (s : State) : State := setCle { s.cle with drives := mapSet s.cle.drives d x } s
def adjDrive (d : Nat) (f : Drive → Drive) (s : State) : State := setDrive d (f (driveOf d s)) s

/-- JP_DRIVE_STATUS.STATE: 0 OFF, 1 PROBING, 2 JOINED, 3 RUN. -/
def driveState (d : Nat) (s : State) : Nat := getF Fld.jpDriveStatusState d s

/-- CLE and JP events (R339, R340). -/
def cleEvent (detail aux : Nat) (s : State) : State := postEvent 8 detail Status.done aux s
def jpEvent (detail aux : Nat) (s : State) : State := postEvent 9 detail Status.done aux s

/-- Husk is in force; the CLE is halted by a fault. -/
def inHusk (s : State) : Bool := getB Fld.cleStatusHusk 0 s
def cleHalted (s : State) : Bool := getB Fld.cleStatusFault 0 s

/-- Channels and drives run: CLE is on, enabled and not halted (CLE_CTRL.ENABLE, R338). -/
def cleRuns (s : State) : Bool := domOn Dom.cle s && getB Fld.cleCtrlEnable 0 s && !(cleHalted s)

/-- Enabled channels; those of a drive. -/
def enabledChans (s : State) : List Nat := (List.range 64).filter fun c => CH.enable (chanEntry c s)
def chansOf (d : Nat) (s : State) : List Nat := (enabledChans s).filter fun c => CH.drive (chanEntry c s) == d

/-- Active drives. -/
def activeDrives (s : State) : List Nat := (List.range 64).filter fun d => DE.kind (driveEntry d s) != 0

/-- CLE_CH_STATUS.LOST of every channel: an enabled channel whose drive is not in RUN (R333). -/
def showLost (s : State) : State :=
  forEach (List.range 64) (fun c s =>
    setB Fld.cleChStatusLost c (CH.enable (chanEntry c s) && driveState (CH.drive (chanEntry c s)) s != 3) s) s

/-! ### Checks of the tables (R316, R329) -/

def entriesOf (kind size : Nat) (fallback : Nat) (s : State) : List Nat :=
  match comingTable (cleKey kind) s with
  | some t => (List.range 64).map (tableEntry t size)
  | none => List.replicate 64 fallback

/-- A channel entry in range by itself. Ranges that only a running channel uses are held to enabled channels (log 40). -/
def chanOk (e : Nat) : Bool :=
  reservedZero e CH.fields && CH.fbSel e != 3 && CH.src e != 3 && decide (CH.shift e ≤ 30) && decide (CH.plnComp e ≤ 3)
    && decide (CH.uMin e ≤ CH.uMax e) && decide (CH.rMin e ≤ CH.rMax e)
    && (CH.order e == 1 || ((CH.b e).getD 3 0 == 0 && (CH.a e).getD 2 0 == 0))
    && (!(CH.enable e) || (decide (1000 ≤ CH.deadline e) && decide (CH.deadline e ≤ 1000000000)
          && (!(CH.trig e) || decide (CH.gen e ≤ 63))))

def huskOk (e : Nat) : Bool :=
  reservedZero e HE.fields && HE.mode e != 3 && HE.fbSel e != 3 && decide (HE.shift e ≤ 30) && decide (HE.uMin e ≤ HE.uMax e)
    && (HE.order e == 1 || ((HE.b e).getD 3 0 == 0 && (HE.a e).getD 2 0 == 0))

def driveOk (e : Nat) : Bool :=
  reservedZero e DE.fields && DE.kind e != 3
    && (DE.kind e == 0 || (decide (1 ≤ DE.axes e) && decide (DE.axes e ≤ 4)
          && decide (DE.port e < if DE.kind e = 1 then 24 else 4)))

/-- Bit time of a joint port in ns; 0 while its RATE is 0 (JP_PORT.RATE). -/
def bitNs (p : Nat) (s : State) : Nat :=
  match getF Fld.jpPortRate p s with
  | 0 => 0
  | 1 => 800
  | 2 => 400
  | 3 => 200
  | 4 => 100
  | _ => 50

/-- The minimum generator period of a joint-port drive (R329). -/
def minPeriod (d e : Nat) (s : State) : Nat := (21 + 14 * DE.axes e) * 10 * bitNs (DE.port e) s + (driveOf d s).turnNs + 1500

/-- No two elements that a test picks share a key. -/
def distinctOn (l : List Nat) (p : Nat → Bool) (key : Nat → Nat) : Bool := decide ((l.filter p).map key).Nodup

/-- The checks across the channel and drive tables. -/
def crossOk (ch dr : List Nat) : Bool :=
  let on := ch.filter fun e => CH.enable e
  decide ((on.filter fun e => CH.fast e).length ≤ 11)
    && distinctOn on (fun _ => true) (fun e => CH.drive e * 4 + CH.axis e)
    && on.all (fun e => let d := dr.getD (CH.drive e) 0; DE.kind d != 0 && decide (CH.axis e < DE.axes d))
    && decide (((dr.filter fun d => DE.kind d != 0).map DE.axes).sum ≤ 64)
    && distinctOn dr (fun d => DE.kind d == 1) DE.port

/-- The generator periods of joint-port drives (R329). A port whose RATE is 0 has no bit time. -/
def periodsOk (dr : List Nat) (s : State) : Bool :=
  (List.range 64).all fun i =>
    let e := dr.getD i 0
    DE.kind e != 1 || decide (minPeriod i e s ≤ genPeriod (DE.gen e) s)

/-- A CLE table of a kind is well formed against the others as they will stand (R316). -/
def cleTableOk (kind : Nat) (data : List Byte) (s : State) : Bool :=
  match kind with
  | 1 =>
    let ch := (List.range 64).map (tableEntry data 64)
    let dr := entriesOf 3 32 0 s
    data.length == 4096 && ch.all chanOk && crossOk ch dr && periodsOk dr s
  | 2 => data.length == 3072 && ((List.range 64).map (tableEntry data 48)).all huskOk
  | 3 =>
    let dr := (List.range 64).map (tableEntry data 32)
    let ch := entriesOf 1 64 0 s
    data.length == 2048 && dr.all driveOk && crossOk ch dr && periodsOk dr s
  | _ => false

/-! ### Frames (R326, R327, R331) -/

/-- CRC-16 of polynomial 0x1021, initial value 0xFFFF, no reflection and no final XOR (R326). -/
def crc16 (bs : List Byte) : BitVec 16 :=
  bs.foldl (fun c b => (List.range 8).foldl (fun c _ => if c.msb then (c <<< 1) ^^^ 0x1021#16 else c <<< 1)
    (c ^^^ (BitVec.zeroExtend 16 b <<< (8 : Nat)))) 0xFFFF#16

/-- A joint-port frame with its preamble and CRC. -/
def jpFrame (body : List Byte) : List Byte := 0x55#8 :: body ++ natLe 2 (crc16 body).toNat

/-- A frame that passes its check: preamble, CRC. -/
def jpFrameOk (f : List Byte) : Bool :=
  decide (4 ≤ f.length) && f.head? == some 0x55#8
    && natLe 2 (crc16 (f.drop 1).dropLast.dropLast).toNat == f.drop (f.length - 2)

/-- A drive-link frame to a drive, without FCS: destination, source, 802.1Q tag where VLAN is not 0, EtherType 0x88B5, VERSION,
TYPE, SEQ, TIME, body, padded to the minimum size (R331). -/
def dlFrame (e : Nat) (type seq : Nat) (time : BitVec 32) (body : List Byte) (s : State) : List Byte :=
  let tag := if DE.vlan e = 0 then [] else
    let tci := getF Fld.jpDlCfgTclass 0 s * 8192 + DE.vlan e
    [0x81, 0x00, BitVec.ofNat 8 (tci / 256), BitVec.ofNat 8 tci]
  let f := natLe 6 (DE.mac e) ++ natLe 6 (Config.macAddress (DE.port e)) ++ tag ++ [0x88, 0xB5]
    ++ [1, BitVec.ofNat 8 type] ++ natLe 2 seq ++ natLe 4 time.toNat ++ body
  f ++ List.replicate (60 - f.length) 0

/-- A drive's port can send: the joint port has a rate, JPORT is on and its transmitter has not switched off (R490), or ETH is on. While
EXTEST is selected the CLE sends nothing (R451). -/
def canSend (e : Nat) (s : State) : Bool :=
  !s.sec.extest
    && (if DE.kind e = 1 then bitNs (DE.port e) s != 0 && domOn Dom.jport s && (mapGet s.elec.txOff (DE.port e)).isNone
      else domOn Dom.eth s)

/-- A frame sent to a drive. -/
def sendDrive (d : Nat) (type : Nat) (time : BitVec 32) (body : List Byte) (s : State) : State :=
  let e := driveEntry d s
  let x := driveOf d s
  if !(canSend e s) then s
  else if DE.kind e = 1 then
    let q := BitVec.ofNat 8 x.seq
    let f := if type = 0xA1 then [0x55, 0xA1, q, ~~~q] else jpFrame (BitVec.ofNat 8 type :: q :: body)
    emit (.jointFrame (DE.port e) f) s
  else ethSend (DE.port e) (dlFrame e type x.seq time body s) s

/-! ### COMMAND (R327, R328, R333, R335) -/

/-- The enable bit of a channel: not in Husk with RELEASE. -/
def chanEnabled (c : Nat) (s : State) : Bool := !(inHusk s && HE.mode (huskEntry c s) == 2)

/-- The COMMAND of a drive's cycle: one value for each axis; outside RUN every enable bit is clear (Table CLE-6). -/
def commandBody (d : Nat) (s : State) : List Byte :=
  let e := driveEntry d s
  let at' (a : Nat) := (chansOf d s).find? fun c => CH.axis (chanEntry c s) == a
  let en := (List.range (DE.axes e)).foldl (fun m a => match at' a with
    | some c => if driveState d s == 3 && chanEnabled c s then m + 2 ^ a else m
    | none => m) 0
  BitVec.ofNat 8 (en + (inHusk s).toNat * 16)
    :: (List.range (DE.axes e)).flatMap fun a => match at' a with
      | some c => natLe 4 (toField 32 (chanOf c s).command)
      | none => natLe 4 0

/-- TIME of a COMMAND: the T_SAMPLE being answered, or the cycle start for a drive whose channels are time-triggered (R331). -/
def commandTime (d : Nat) (s : State) : BitVec 32 :=
  let cs := chansOf d s
  if !cs.isEmpty && cs.all (fun c => CH.trig (chanEntry c s)) then BitVec.ofNat 32 (driveOf d s).cycleAt else (driveOf d s).tSample

/-- COMMAND sent; where the cycle's feedback has come, this answers it. -/
def sendCommand (d : Nat) (s : State) : State :=
  adjDrive d (fun x => { x with commanded := x.answered }) (sendDrive d 0xA2 (commandTime d s) (commandBody d s) s)

/-- The COMMAND goes out once, when the SYNC has been answered and every sample-triggered channel of the drive has updated or
reached its deadline (R328). -/
def settleDrive (d : Nat) (s : State) : State :=
  let x := driveOf d s
  if x.answered && !x.commanded && (chansOf d s).all (fun c => CH.trig (chanEntry c s) || (chanOf c s).due.isNone) then
    sendCommand d s
  else s

/-! ### The compensator (R318) -/

/-- A parameter set: the normal set or the Husk set of a channel. -/
structure Comp where
  order : Nat
  shift : Nat
  slew : Nat
  uMin : Int
  uMax : Int
  fbSel : Nat
  b : List Int
  a : List Int

def normalComp (e : Nat) : Comp := ⟨CH.order e, CH.shift e, CH.slew e, CH.uMin e, CH.uMax e, CH.fbSel e, CH.b e, CH.a e⟩
def huskComp (e : Nat) : Comp := ⟨HE.order e, HE.shift e, HE.slew e, HE.uMin e, HE.uMax e, HE.fbSel e, HE.b e, HE.a e⟩

/-- Sum of products of two lists. -/
def dot (a b : List Int) : Int := (List.zipWith (· * ·) a b).sum

/-- The setpoint slewed towards a target. -/
def slewTo (p : Comp) (r x : Int) : Int := if p.slew = 0 then x else r + clampInt (-p.slew) p.slew (x - r)

/-- The output v before limiting, with 16 fraction bits: `e` is e[0..K], `u` is u[1..K]. -/
def compOut (p : Comp) (e u : List Int) : Int :=
  let k := if p.order = 0 then 2 else 3
  rneDiv (dot (p.b.take (k + 1)) e * 65536 - dot (p.a.take k) u) (2 ^ p.shift)

/-- One update of a channel from its target: the channel after it, and whether w was limited (R318). -/
def updateChan (p : Comp) (ff x : Int) (ch : Channel) : Channel × Bool :=
  let r := slewTo p ch.r x
  let e0 := clampInt (-(2 ^ 31 - 1)) (2 ^ 31 - 1) (r - ch.fb.getD p.fbSel 0)
  let v := compOut p (e0 :: ch.e) ch.u
  let w := clampInt (p.uMin * 65536) (p.uMax * 65536) (v + ff * 65536)
  ({ ch with r := r, e := (e0 :: ch.e).take 3, u := ((w - ff * 65536) :: ch.u).take 3, command := rneDiv w 65536 },
    decide (w ≠ v + ff * 65536))

/-! ### Planner targets (R323) -/

/-- The difference of two YAW values along the shorter arc. At exactly half a turn both arcs are as short: open (log 41). -/
def yawStep (a b : Int) (s : State) : Int :=
  let d := sext 16 (toField 16 (b - a))
  if d = -32768 ∧ Config.free 13 s.freeCtr % 2 = 1 then 32768 else d

/-- The chosen component at time offset τ, as a fraction: numerator over `dt`. -/
def trajAt (t : Trajectory) (k : Nat) (tau : Int) (s : State) : Int × Nat :=
  let dt := t.dtUs * 1000
  let v (i : Nat) : Int := (t.samples.getD i []).getD k 0
  let n := t.samples.length
  if tau ≤ 0 then (v 0, 1)
  else if ((n - 1) * dt : Nat) ≤ tau then (v (n - 1), 1)
  else
    let i := tau.toNat / dt
    let d := if k = 3 then yawStep (v i) (v (i + 1)) s else v (i + 1) - v i
    (v i * dt + d * (tau.toNat % dt : Nat), dt)

/-- A fraction times an FP32 gain, rounded to nearest with ties to even. A gain that is no number has no product (log 41). -/
def timesGain (num : Int) (den gain : Nat) (s : State) : Int :=
  match decodeF fp32 gain with
  | .fin neg m e =>
    let p := num * (m : Int) * (if neg then -1 else 1)
    if 0 ≤ e then rneDiv (p * 2 ^ e.toNat) den else rneDiv p (den * 2 ^ (-e).toNat)
  | _ => sext 32 (Config.free 14 s.freeCtr)

/-- The target of a planner channel. Before any handover there is no trajectory: open (log 41). -/
def planTarget (e : Nat) (s : State) : Int :=
  let t := s.cle.traj
  if t.samples.isEmpty then sext 32 (Config.free 15 s.freeCtr)
  else
    let k := CH.plnComp e
    let tau := sext 32 (now32 s - t.tStart).toNat
    let (num, den) := trajAt t k tau s
    let base := if CH.plnRel e then (t.samples.getD 0 []).getD k 0 else 0
    timesGain (num - base * den) den (CH.gain e) s

/-! ### Updates (R311 to R313, R318, R336) -/

/-- A normal update of a channel. -/
def normalUpdate (c : Nat) (s : State) : State :=
  let e := chanEntry c s
  let ch := chanOf c s
  let (x, ff) := if CH.src e = 1 then (planTarget e s, (0 : Int)) else (ch.sp, ch.ff)
  let x' := clampInt (CH.rMin e) (CH.rMax e) x
  let s := if x' = x then s else incF Fld.cleStatsClamp 0 s
  let (ch', sat) := updateChan (normalComp e) ff x' ch
  setB Fld.cleChStatusSat c sat (setChan c ch' s)

/-- A Husk update of a channel: HOLD, DAMP, or RELEASE, which commands 0 (R335). -/
def huskUpdate (c : Nat) (s : State) : State :=
  let h := huskEntry c s
  let ch := chanOf c s
  if HE.mode h = 2 then setChan c { ch with command := 0 } s
  else
    let (ch', sat) := updateChan (huskComp h) 0 (if HE.mode h = 0 then ch.hold else 0) ch
    setB Fld.cleChStatusSat c sat (setChan c ch' s)

/-- An update with the set in use. -/
def runUpdate (c : Nat) (s : State) : State := if inHusk s then huskUpdate c s else normalUpdate c s

/-- A missed update (R313). -/
def missChan (c : Nat) (s : State) : State :=
  let s := adjChan c (fun ch => { ch with due := none }) s
  let s := if getB Fld.cleChStatusMiss c s then s else cleEvent 0x0001 c s
  incF Fld.cleChStatusMissCount c (setB Fld.cleChStatusMiss c true s)

/-- The deadline of a channel's running cycle has passed. -/
def pastDeadline (c : Nat) (s : State) : Bool :=
  match (chanOf c s).due with
  | some t => decide (t + CH.deadline (chanEntry c s) ≤ s.timeN)
  | none => false

/-- A release of a channel: served unless it comes less than 20 µs after the previous served one, or after the deadline (R311,
R313). -/
def releaseChan (c : Nat) (s : State) : State :=
  let ch := chanOf c s
  let soon := match ch.lastRelease with
    | some t => decide (s.clock < t + 20000)
    | none => false
  if soon then incF Fld.cleStatsRateDrop 0 (setChan c { ch with due := none } s)
  else if pastDeadline c s then missChan c s
  else runUpdate c (setChan c { ch with lastRelease := some s.clock, due := none } s)

/-- A channel goes ahead of another: FAST first, then the earlier deadline (R312). -/
def servedBefore (s : State) (a b : Nat) : Bool :=
  let d (c : Nat) : Nat := (chanOf c s).due.getD s.timeN + CH.deadline (chanEntry c s)
  let fa := CH.fast (chanEntry a s)
  let fb := CH.fast (chanEntry b s)
  (fa && !fb) || (fa == fb && decide (d a < d b))

/-- Channels released together, in the order in which the engine serves them: ties to the lower channel number (R312). -/
def serveOrder (cs : List Nat) (s : State) : List Nat := cs.foldl insert []
where
  insert : List Nat → Nat → List Nat
    | [], c => [c]
    | x :: l, c => if servedBefore s c x then c :: x :: l else x :: insert l c

/-! ### Drive cycles (R328, R333) -/

/-- A drive enters PROBING (Table CLE-6). -/
def toProbing (d : Nat) (s : State) : State :=
  let s := setF Fld.jpDriveStatusMissRun d 0 (setF Fld.jpDriveStatusState d 1 s)
  let s := adjDrive d (fun x => { x with
    inCycle := false, answered := false, commanded := false, reenable := false, probed := false
    txPol := getB Fld.jpPortTxInv (DE.port (driveEntry d s)) s }) s
  showLost (forEach (chansOf d s) (fun c s => adjChan c (fun ch => { ch with due := none }) s) s)

/-- A drive enters RUN: each channel sets r to its feedback and clears both histories; telemetry begins anew (R333, R324). -/
def toRun (d : Nat) (s : State) : State :=
  let s := setF Fld.jpDriveStatusMissRun d 0 (setF Fld.jpDriveStatusState d 3 s)
  let s := adjDrive d (fun x => { x with reenable := false, inCycle := false, tel := [] }) s
  showLost (forEach (chansOf d s) (fun c s =>
    adjChan c (fun ch => { ch with
      r := ch.fb.getD (CH.fbSel (chanEntry c s)) 0, e := [0, 0, 0], u := [0, 0, 0] }) s) s)

/-- The end of a drive's cycle in RUN: a cycle without valid feedback counts, and MISS_LIMIT of them lose the drive. -/
def endCycle (d : Nat) (s : State) : State :=
  let x := driveOf d s
  if !x.inCycle || driveState d s != 3 || x.answered then s
  else
    let s := incF Fld.jpDriveStatusMissRun d s
    if DE.missLimit (driveEntry d s) ≤ getF Fld.jpDriveStatusMissRun d s then
      let s := jpEvent 0x0001 (d + x.offline.toNat * 256) (incF Fld.jpDriveStatusLostCount d s)
      toProbing d (adjDrive d (fun x => { x with offline := false }) s)
    else s

/-- SEQ of a drive: 8 bits on a joint port, 16 bits on the drive link (R328, R331). -/
def nextSeq (d : Nat) (s : State) : Nat := ((driveOf d s).seq + 1) % (if DE.kind (driveEntry d s) = 1 then 256 else 65536)

/-- PROBE, with the transmit polarity alternating on a joint port (R326, R327). -/
def probe (d t : Nat) (s : State) : State :=
  let e := driveEntry d s
  let s := adjDrive d (fun x => { x with txPol := if x.probed && DE.kind e == 1 then !x.txPol else x.txPol, probed := true }) s
  let grid := BitVec.ofInt 32 ((t : Int) + DE.offset e)
  sendDrive d 0xA3 grid (natLe 4 (genPeriod (DE.gen e) s) ++ [0]) s

/-- A firing of a drive's generator at time `t`. -/
def driveCycle (t d : Nat) (s : State) : State :=
  let s := forEach ((chansOf d s).filter fun c => (chanOf c s).due.isSome && !(CH.trig (chanEntry c s)))
    (fun c s => if pastDeadline c s then missChan c s else s) (endCycle d s)
  let st := driveState d s
  let q := nextSeq d s
  let s := adjDrive d (fun x => { x with seq := q }) s
  if st = 1 then probe d t s
  else
    let s := adjDrive d (fun x => { x with cycleAt := t, inCycle := true, answered := false, commanded := false }) s
    let s := if DE.kind (driveEntry d s) = 1 then sendDrive d 0xA1 0 [] s else s
    if st = 3 then
      forEach ((chansOf d s).filter fun c => !(CH.trig (chanEntry c s))) (fun c s =>
        adjChan c (fun ch => { ch with due := some t }) s) s
    else s

/-- A firing of a generator serves the drives and the time-triggered channels that name it (R247, R311, R328). -/
def cleFire (g t : Nat) (s : State) : State :=
  if !(cleRuns s) then s
  else
    let s := forEach ((activeDrives s).filter fun d => DE.gen (driveEntry d s) == g) (driveCycle t) s
    let cs := (enabledChans s).filter fun c =>
      CH.trig (chanEntry c s) && CH.gen (chanEntry c s) == g && driveState (CH.drive (chanEntry c s)) s == 3
    let s := forEach cs (fun c => adjChan c (fun ch => { ch with due := some t })) s
    forEach (serveOrder cs s) releaseChan s

/-! ### Feedback (R327, R330, R331, R333, R334) -/

/-- What a frame from a drive says: SEQ, STATUS, T_SAMPLE, per axis FB0 to FB2, and telemetry: axis, segment (8 for a whole
record), bytes. -/
structure Feedback where
  seq : Nat
  status : Nat
  time : Option (BitVec 32)
  axes : List (List Int)
  tel : List (Nat × Nat × List Byte)

/-- FB0 to FB2 of an axis. -/
def readAxis (f : List Byte) (o : Nat) : List Int := [sext 32 (rdLE f o 4), sext 32 (rdLE f (o + 4) 4), sext 16 (rdLE f (o + 8) 2)]

/-- FEEDBACK on a joint port (Table CLE-4). -/
def jpFeedback (axes : Nat) (f : List Byte) : Option Feedback :=
  if !(jpFrameOk f) || f.length ≠ 11 + 10 * axes || rdLE f 1 1 ≠ 0xB1 then none
  else
    let t := rdLE f 4 1
    some ⟨rdLE f 2 1, rdLE f 3 1, none, (List.range axes).map fun a => readAxis f (9 + 10 * a),
      if bitsAt t 7 1 = 1 then [(bitsAt t 3 2, bitsAt t 0 3, (f.drop 5).take 4)] else []⟩

/-- The payload of a drive-link frame of a drive: from DRIVE_MAC to the module's MAC, EtherType 0x88B5, VERSION 1 (R331). -/
def dlPayload (e : Nat) (f : List Byte) : Option (List Byte) :=
  let o := if f.drop 12 |>.take 2 |> (· == [0x81, 0x00]) then 16 else 12
  if f.take 6 = natLe 6 (Config.macAddress (DE.port e)) ∧ rdLE f 6 6 = DE.mac e ∧ (f.drop o).take 2 = [0x88, 0xB5] ∧ rdLE f (o + 2) 1 = 1 then some (f.drop (o + 2)) else none

/-- FEEDBACK on the drive link: TMASK in place of TSEG and TDATA, whole records appended (R331). -/
def dlFeedback (e : Nat) (f : List Byte) : Option Feedback :=
  match dlPayload e f with
  | none => none
  | some p =>
    let n := DE.axes e
    let mask := rdLE p 9 1
    let flagged := (List.range 4).filter fun a => bitsAt mask a 1 == 1
    if rdLE p 1 1 ≠ 0xB1 ∨ p.length < 10 + 10 * n + 32 * flagged.length then none
    else
      some ⟨rdLE p 2 2, rdLE p 8 1, some (BitVec.ofNat 32 (rdLE p 4 4)), (List.range n).map fun a => readAxis p (10 + 10 * a),
        flagged.zipIdx.map fun (a, i) => (a, 8, (p.drop (10 + 10 * n + 32 * i)).take 32)⟩

/-- A FEEDBACK frame of a drive, read by its kind. -/
def readFeedback (e : Nat) (f : List Byte) : Option Feedback := if DE.kind e = 1 then jpFeedback (DE.axes e) f else dlFeedback e f

/-- A complete record of an axis; the eight newest are kept for snapshots (R23). -/
def newRecord (t : BitVec 32) (bs : List Byte) (x : AxisTel) : AxisTel :=
  { x with parts := [], record := some (t, bs), past := (x.record.toList ++ x.past).take 7 }

/-- Telemetry taken in: segments 0 to 7 of consecutive cycles make a record, stamped with segment 0's T_SAMPLE (R330). -/
def takeTel (seq : Nat) (t : BitVec 32) (seg : Nat) (bs : List Byte) (x : AxisTel) : AxisTel :=
  if seg = 8 then newRecord t bs x
  else if seg = 0 then { x with parts := bs, stamp := t, seq := seq }
  else if x.parts.length ≠ 4 * seg ∨ seq ≠ (x.seq + 1) % 256 then { x with parts := [] }
  else
    let p := x.parts ++ bs
    if seg = 7 then newRecord x.stamp p x else { x with parts := p, seq := seq }

/-- The telemetry of a frame taken in, axis by axis; an axis in assembly that gets no segment has a gap. -/
def takeTels (d : Nat) (f : Feedback) (t : BitVec 32) (s : State) : State :=
  adjDrive d (fun x => { x with
    tel := f.tel.foldl (fun m (a, seg, bs) =>
      mapSet m a (takeTel f.seq t seg bs ((mapGet m a).getD ⟨[], 0, 0, none, []⟩))) (gaps x.tel) }) s
where
  gaps (m : SMap AxisTel) : SMap AxisTel :=
    m.map fun (a, y) => if f.tel.any fun p => p.1 == a then (a, y) else (a, { y with parts := [] })

/-- DRIVE_FAULT of the channels of a drive, with JP event 0x0004 on each change to 1 (R334). -/
def showDriveFault (d : Nat) (fault : Bool) (s : State) : State :=
  forEach (chansOf d s) (fun c s =>
    let s := if fault && !(getB Fld.cleChStatusDriveFault c s) then jpEvent 0x0004 (d + CH.axis (chanEntry c s) * 256) s else s
    setB Fld.cleChStatusDriveFault c fault s) s

/-- A FEEDBACK for the running cycle's SEQ (R311, R333). -/
def feedbackIn (d : Nat) (f : Feedback) (s : State) : State :=
  let x := driveOf d s
  let t := f.time.getD (BitVec.ofNat 32 x.cycleAt)
  if bitsAt f.status 1 1 = 1 then adjDrive d (fun x => { x with offline := true }) s
  else
    let s := adjDrive d (fun x => { x with answered := true, offline := false, tSample := t }) (setF Fld.jpDriveStatusMissRun d 0 s)
    let s := forEach (chansOf d s) (fun c s => adjChan c (fun ch => { ch with
      fb := f.axes.getD (CH.axis (chanEntry c s)) [0, 0, 0], tSample := t, past := ((ch.tSample, ch.fb) :: ch.past).take 7 }) s) s
    let s := takeTels d f t (showDriveFault d (bitsAt f.status 0 1 == 1) s)
    let s := if driveState d s = 3 then
        forEach (serveOrder ((chansOf d s).filter fun c => !(CH.trig (chanEntry c s)) && (chanOf c s).due.isSome) s) releaseChan s
      else s
    settleDrive d s

/-- A frame that fails its check on a joint port is discarded and counted (R327). -/
def badFrame (e : Nat) (s : State) : State := if DE.kind e = 1 then incF Fld.jpPortCrcErr (DE.port e) s else s

/-- FEEDBACK (R311). A frame for another SEQ, or a second one, starts nothing. -/
def feedback (d : Nat) (frame : List Byte) (s : State) : State :=
  let e := driveEntry d s
  match readFeedback e frame with
  | none => badFrame e s
  | some f =>
    let x := driveOf d s
    if !x.inCycle || x.answered || f.seq ≠ x.seq || driveState d s < 2 then s else feedbackIn d f s

/-- A frame can be received: the drive is active, its receiver is on, the CLE runs. -/
def receives (d : Nat) (s : State) : Bool :=
  cleRuns s && DE.kind (driveEntry d s) != 0 && canSend (driveEntry d s) s

/-- DEADLINE_MISS (R313). -/
def execDeadlineMiss (channel : Fin 64) (s : State) : Host.Outcome State Fault Refusal :=
  let c := channel.val
  .next (onlyIf (running s && cleRuns s && pastDeadline c s)
    (fun s => settleDrive (CH.drive (chanEntry c s)) (missChan c s)) s)

/-! ### IDENT (R326, R327, R333, R350) -/

/-- SEQ, AXES, TURN_NS and DRIVE_ID of an IDENT. -/
def readIdent (e : Nat) (f : List Byte) : Option (Nat × Nat × Nat × Nat) :=
  if DE.kind e = 1 then
    if jpFrameOk f && f.length == 12 && rdLE f 1 1 == 0xB4 then some (rdLE f 2 1, rdLE f 3 1, rdLE f 4 2, rdLE f 6 4) else none
  else match dlPayload e f with
    | some p => if rdLE p 1 1 = 0xB4 ∧ 15 ≤ p.length then some (rdLE p 2 2, rdLE p 8 1, rdLE p 9 2, rdLE p 11 4) else none
    | none => none

/-- The polarity that drew an IDENT is kept (R326). -/
def keepPolarity (d : Nat) (s : State) : State :=
  let e := driveEntry d s
  let x := driveOf d s
  if DE.kind e ≠ 1 ∨ getB Fld.jpPortTxInv (DE.port e) s = x.txPol then s
  else jpEvent 0x0003 (DE.port e + 256) (setB Fld.jpPortTxInv (DE.port e) x.txPol s)

/-- An IDENT answering the last PROBE: its AXES equal to the entry's make the drive JOINED (Table CLE-6). The flag tells that the
drive joined. -/
def ident (d : Nat) (frame : List Byte) (s : State) : State × Bool :=
  let e := driveEntry d s
  match readIdent e frame with
  | none => (badFrame e s, false)
  | some (seq, axes, turn, id) =>
    if driveState d s ≠ 1 ∨ seq ≠ (driveOf d s).seq ∨ !(driveOf d s).probed then (s, false)
    else
      let s := keepPolarity d s
      let s := adjDrive d (fun x => { x with turnNs := turn, driveId := some (BitVec.ofNat 32 id) }) s
      if axes = DE.axes e then
        (jpEvent 0x0002 (d + turn * 65536) (adjDrive d (fun x => { x with inCycle := false }) (setF Fld.jpDriveStatusState d 2 s)),
          true)
      else (jpEvent 0x0005 (d + axes % 8 * 256) s, false)

/-- JP_CTRL.REENABLE for a drive (Table CLE-6). -/
def reenableDrive (d : Nat) (s : State) : State :=
  if driveState d s = 2 then adjDrive d (fun x => { x with reenable := true }) s else s

/-- REENABLE: a 4-byte write of JP_CTRL with the bit set (R333). -/
def execReenable (v : BitVec 32) (s : State) : Host.Outcome State Fault Refusal :=
  .next (onlyIf (running s && domOn Dom.cle s && domOn Dom.jport s && flag v 16) (fun s =>
    let s := setR .jpCtrl 0 (writtenVal .jpCtrl (getR .jpCtrl 0 s) (2 ^ 32 - 1) v.toNat) s
    reenableDrive (getF Fld.jpCtrlDrive 0 s) s) s)

/-! ### Exchanges (R316, R319, R321, R337) -/

/-- The halves of the channels that a commit covers exchange, and the new active halves are copied back (R319). -/
def exchangeChan (c : Nat) (s : State) : State :=
  adjChan c (fun ch => { ch with sp := ch.spNew, ff := ch.ffNew, written := false }) s

/-- The inactive half refreshed from the active half (R321). -/
def refreshChan (c : Nat) (s : State) : State :=
  adjChan c (fun ch => { ch with spNew := ch.sp, ffNew := ch.ff, written := false }) s

/-- The channels that a commit covers: written since their last exchange, of the committer's source (R319). -/
def commitChans (k : CommitKind) (s : State) : List Nat :=
  (List.range 64).filter fun c =>
    let e := chanEntry c s
    match k with
    | .policy _ st _ => (chanOf c s).written && CH.src e == 0 && CH.stream e == st
    | .host _ => (chanOf c s).written && CH.src e == 2
    | .planner => false
    | .table => false

/-- Drives after a new DRIVE table: an entry that becomes active starts in PROBING, one that becomes OFF is OFF (R333). -/
def driveTableIn (s : State) : State :=
  forEach (List.range 64) (fun d s =>
    let on := DE.kind (driveEntry d s) != 0
    if on && driveState d s == 0 then toProbing d s
    else if !on && driveState d s != 0 then setF Fld.jpDriveStatusState d 0 (setF Fld.jpDriveStatusMissRun d 0 (setDrive d drive0 s))
    else s) s

/-- The pending CLE tables activate at an exchange, with the new setpoint version as AUX (R316). -/
def cleActivate (s : State) : State :=
  let v := getF Fld.cleStatusSpVersion 0 s
  let s := forEach (s.tables.pending.filter fun p => tableEngine p.key == 3) (fun p s => activateTable p v s) s
  showLost (driveTableIn s)

/-- Husk is left (R337). -/
def leaveHusk (s : State) : State :=
  if !s.cle.leaving || !(inHusk s) then s
  else
    let s := setB Fld.cleStatusHusk 0 false (setCle { s.cle with leaving := false } s)
    let s := forEach (List.range 64) (fun c s =>
      setB Fld.cleChStatusHusk c false (adjChan c (fun ch => { ch with e := [0, 0, 0] }) s)) s
    cleEvent 0x0005 (getF Fld.cleStatusSpVersion 0 s) s

/-- An exchange: halves, SP_VERSION, table activation, re-enabled drives, end of Husk. -/
def exchangeHalves (k : CommitKind) (s : State) : State :=
  let s := forEach (commitChans k s) exchangeChan s
  let s := setF Fld.cleStatusSpVersion 0 (getF Fld.cleStatusSpVersion 0 s + 1) s
  let s := cleActivate s
  let s := forEach ((List.range 64).filter fun d => (driveOf d s).reenable) (fun d s =>
    if driveState d s = 2 then toRun d s else s) s
  leaveHusk s

/-- A commit joins those that wait. -/
def queueCommit (k : CommitKind) (s : State) : State :=
  setCle { s.cle with commits := s.cle.commits ++ [⟨s.cle.nextCommit, k⟩], nextCommit := s.cle.nextCommit + 1 } s

/-- A table that became pending while no commit waits: its activation is itself an exchange (R316). -/
def queueActivation (s : State) : State :=
  if s.cle.commits.isEmpty && s.tables.pending.any fun p => tableEngine p.key == 3 then queueCommit .table s else s

/-- The commit that is decided next: a waiting policy commit goes first, otherwise landing order (R321). -/
def nextCommitOf (s : State) : Option Commit :=
  match s.cle.commits.find? fun x => match x.kind with
      | .policy _ _ _ => true
      | _ => false with
  | some x => some x
  | none => s.cle.commits.head?

def dropCommit (id : Nat) (s : State) : State := setCle { s.cle with commits := s.cle.commits.filter fun x => x.id != id } s

/-! ### Setpoint writes (R320, R322) -/

/-- A setpoint write discarded: counted, with CLE event 0x0002. -/
def discardSetpoint (c source stream : Nat) (s : State) : State :=
  cleEvent 0x0002 (c % 256 + source * 256 + stream * 65536) (incF Fld.cleStatsDiscard 0 s)

/-- SETPOINT and FF put into the inactive half. -/
def putSetpoint (c : Nat) (sp ff : Int) (s : State) : State := adjChan c (fun ch => { ch with spNew := sp, ffNew := ff, written := true }) s

/-- A policy's entry lands for a channel (R320). -/
def policyEntry (st c : Nat) (bs : List Byte) (s : State) : State :=
  let e := chanEntry c s
  if CH.src e ≠ 0 ∨ CH.stream e ≠ st ∨ rdLE bs 8 1 % 2 = 0 then discardSetpoint c 0 st s
  else putSetpoint c (sext 32 (rdLE bs 0 4)) (sext 32 (rdLE bs 4 4)) s

/-- A host's entry of a SETPOINT write (R322). -/
def hostEntry (bs : List Byte) (s : State) : State :=
  let c := rdLE bs 0 1
  if 64 ≤ c ∨ CH.src (chanEntry c s) ≠ 2 then discardSetpoint c 2 0 s
  else putSetpoint c (sext 32 (rdLE bs 4 4)) (sext 32 (rdLE bs 8 4)) s

/-! ### Husk and faults (R336 to R338) -/

/-- The CLE enters Husk; AUX 0 for the safe state, 1 for the host (R336, Table CLE-8). A halted engine cannot. -/
def enterHusk (aux : Nat) (s : State) : State :=
  if inHusk s || cleHalted s || !(domOn Dom.cle s) then s
  else
    let s := cleEvent 0x0004 aux (setB Fld.cleStatusHusk 0 true (setCle { s.cle with leaving := false } s))
    let s := forEach (List.range 64) (fun c s =>
      let h := huskEntry c s
      setB Fld.cleChStatusHusk c (CH.enable (chanEntry c s))
        (adjChan c (fun ch => { ch with e := [0, 0, 0], hold := ch.fb.getD (HE.fbSel h) 0 }) s)) s
    if !(getB Fld.cleCtrlEnable 0 s) then s
    else
      let s := forEach ((enabledChans s).filter fun c => driveState (CH.drive (chanEntry c s)) s == 3) huskUpdate s
      forEach ((activeDrives s).filter fun d => driveState d s == 3) sendCommand s

/-- HUSK_ENTER: CLE_CTRL.HUSK_ENTER, or notice of the safe state (R336). -/
def execHuskEnter (s : State) : Host.Outcome State Fault Refusal := .next (onlyIf (running s) (enterHusk 1) s)

/-- HUSK_EXIT: Husk ends at the next exchange (R337). -/
def huskExit (s : State) : State := if inHusk s then setCle { s.cle with leaving := true } s else s

def execHuskExit (s : State) : Host.Outcome State Fault Refusal := .next (onlyIf (running s && domOn Dom.cle s) huskExit s)

/-- POLARITY_CORRECTED: the receiver of a port is inverted (R326). -/
def execPolarityCorrected (port : Fin 24) (s : State) : Host.Outcome State Fault Refusal :=
  .next (onlyIf (running s && domOn Dom.jport s && bitNs port.val s != 0) (fun s =>
    jpEvent 0x0003 port.val (setB Fld.jpPortRxInv port.val (!(getB Fld.jpPortRxInv port.val s)) s)) s)

/-! ### Snapshots (R23, R324) -/

/-- The axis number of a drive's axis: drive-table order. -/
def axisIndex (d a : Nat) (s : State) : Nat :=
  (((activeDrives s).filter fun k => decide (k < d)).map fun k => DE.axes (driveEntry k s)).sum + a

/-- The axes in drive-table order: drive and axis. -/
def axisList (s : State) : List (Nat × Nat) :=
  (activeDrives s).flatMap fun d => (List.range (DE.axes (driveEntry d s))).map fun a => (d, a)

/-- The last complete telemetry record of an axis. -/
def telOf (d a : Nat) (s : State) : Option (BitVec 32 × List Byte) := (mapGet (driveOf d s).tel a).bind fun x => x.record

/-- A 32-bit stamp is not after a time. -/
def stampedBy (t : Nat) (x : BitVec 32) : Bool := !(later32 x (BitVec.ofNat 32 t))

/-- The newest feedback of a channel that was sampled at or before a time, with its stamp (R23). -/
def sampledBy (c t : Nat) (s : State) : BitVec 32 × List Int :=
  let ch := chanOf c s
  (((ch.tSample, ch.fb) :: ch.past).find? fun p => stampedBy t p.1).getD (0, [])

/-- The newest complete record of an axis stamped at or before a time (R23). -/
def telAt (d a t : Nat) (s : State) : Option (List Byte) :=
  ((mapGet (driveOf d s).tel a).bind fun x => (x.record.toList ++ x.past).find? fun p => stampedBy t p.1).map fun p => p.2

/-- A channel's record for a trigger at a time (Table CLE-10). -/
def chanRecord (c t : Nat) (s : State) : List Byte :=
  if !(CH.enable (chanEntry c s)) then List.replicate 32 0
  else
    let ch := chanOf c s
    let (stamp, fb) := sampledBy c t s
    natLe 4 (toField 32 (fb.getD 0 0)) ++ natLe 4 (toField 32 (fb.getD 1 0)) ++ natLe 2 (toField 16 (fb.getD 2 0))
      ++ natLe 1 (getR .cleChStatus c s) ++ [0] ++ natLe 4 (toField 32 ch.command) ++ natLe 4 (toField 32 ch.r)
      ++ natLe 4 stamp.toNat ++ List.replicate 8 0

/-- The 4,160 bytes of a snapshot. -/
def snapshotBytes (count t : Nat) (s : State) : List Byte :=
  let tel := ((axisList s).take 64).flatMap fun (d, a) => match telAt d a t s with
    | some r => fitBytes 32 r
    | none => List.replicate 32 0
  natLe 4 count ++ natLe 4 t ++ natLe 4 (getF Fld.cleStatusSpVersion 0 s) ++ List.replicate 52 0
    ++ (List.range 64).flatMap (fun c => chanRecord c t s) ++ fitBytes 2048 tel

/-- A trigger firing at time `t` latches the snapshots of the targets that name it (R324). -/
def latchSnapshots (trig t : Nat) (s : State) : State :=
  if !(domOn Dom.cle s) then s
  else
    forEach ((List.range 4).filter fun k =>
        getB Fld.cleSnapCfgEn k s && getF Fld.cleSnapCfgTrigger k s == trig && decide (trig ≤ 71))
      (fun k s =>
        let n := (mapGet s.cle.snaps k).getD 0 + 1
        let bs := snapshotBytes n t s
        setCle { s.cle with snaps := mapSet s.cle.snaps k n, snapDue := s.cle.snapDue ++ [(k, bs)] } s) s

/-- FB0 to FB2 of every channel for a trigger at a time (R23, R415). -/
def latchFeedback (t : Nat) (s : State) : List Int :=
  (List.range 64).flatMap fun c => (List.range 3).map fun i => (sampledBy c t s).2.getD i 0

/-- A latched snapshot written to its stream's core 0, with its token (R324, R127). -/
def landSnapshot (k : Nat) (bs : List Byte) (s : State) : State :=
  let d := getF Fld.cleSnapCfgDie k s
  let st := getF Fld.cleSnapCfgStream k s
  match jobOf (((streamOf st s).map fun x => x.job).getD 32) s with
  | none => s
  | some j =>
    if (dieRec j d).isNone then s
    else
      hubToken st d (getF Fld.cleSnapCfgToken k s)
        (if domOn (Dom.quad d 0) s then store (lineAddr st d 0 (getF Fld.cleSnapCfgLine k s) s) bs s
         else discardEngineWrite 8 (Dom.quad d 0) s)

end Sys2Proof.Machine
end

