-- ==== Sys2Proof/Machine/Stages.lean ====
section
/-!
DEFINITION. Stage watchdogs, protective clamps, the safety outputs and FAULT_N (R359, R405 to R409, R418, R429 to R433).
-/
namespace Sys2Proof.Machine
open Sys2Proof

/-- A SAFE event (R440). -/
def safeEvent (detail status aux : Nat) (s : State) : State := postEvent 13 detail status aux s

def setSafe (x : SafeUnit) (s : State) : State := { s with safe := x }

/-- POLICY_CLAMPED, by class (0 ageing, 1 thermal, 2 control floor, 3 safety) and BAR0 block (R359, Table HLT-5). -/
def clampReport (cls block : Nat) (s : State) : State :=
  postEvent 10 0x0008 Status.done (cls + block * 16)
    (setF Fld.hltClampBlock 0 block (setF Fld.hltClampClass 0 cls (incF Fld.hltClampCount 0 s)))

/-! ### FAULT_N and the safety outputs (R429 to R433) -/

/-- FAULT_N follows its causes: a job restarting or held, dropped safety outputs, a hub trip (R429), recovery (R465). Outputs that have not been
armed since a reset are not dropped: SAFE_STATUS.FAULT is 0 after it (log 43). -/
def showFault (s : State) : State :=
  let low := getF Fld.safeStatusRestarting 0 s != 0 || getF Fld.safeHeldHeld 0 s != 0
    || decide (2 ≤ getF Fld.safeStatusDropCause 0 s) || s.safe.hubTrip || s.upd.recovery
  let s' := setB Fld.safeStatusFault 0 low (setSafe { s.safe with faultLow := low } s)
  if low = s.safe.faultLow then s' else emit (.pin 18 (!low)) s'

/-- Both output pins at the commanded level. -/
def showOutputs (s : State) : State :=
  let on := s.safe.armed
  emit (.pin 17 on) (emit (.pin 16 on) (setB Fld.safeStatusOutB 0 on (setB Fld.safeStatusOutA 0 on s)))

/-- Both outputs go low, with a cause of SAFE_STATUS.DROP_CAUSE (R430). -/
def dropOutputs (cause : Nat) (s : State) : State :=
  let was := s.safe.armed
  let s := setF Fld.safeStatusDropCause 0 cause (setSafe { s.safe with armed := false } s)
  let s := if was then safeEvent 0x0006 Status.done cause (showOutputs s) else s
  showFault s

/-- A drop cause holds: a CLE fault, a hub trip, SAFE not on, or EXTEST (R430, R451). -/
def dropHolds (s : State) : Bool := cleHalted s || s.safe.hubTrip || !(domOn Dom.safe s) || s.sec.extest

/-- SAFE_CTRL.ARM (R430). -/
def armOutputs (s : State) : State :=
  if dropHolds s then s
  else
    let s := setF Fld.safeStatusDropCause 0 0 (setSafe { s.safe with armed := true } s)
    showFault (safeEvent 0x0007 Status.done 0 (showOutputs s))

/-- ARM (R430). -/
def execArm (s : State) : Host.Outcome State Fault Refusal := .next (onlyIf (running s && domOn Dom.safe s) armOutputs s)

/-- DROP (R430). -/
def execDrop (s : State) : Host.Outcome State Fault Refusal := .next (onlyIf (running s && domOn Dom.safe s) (dropOutputs 3) s)

/-- DISCREPANCY: a readback that differs for more than 100 µs (R431). -/
def execDiscrepancy (channelB : Bool) (s : State) : Host.Outcome State Fault Refusal :=
  .next (onlyIf (running s && domOn Dom.safe s)
    (fun s => dropOutputs 4 (setB (if channelB then Fld.safeStatusOutB else Fld.safeStatusOutA) 0 (!s.safe.armed) s)) s)

/-- TEST_PULSE: each output is pulsed low and read back; the operands are the levels read (R432). -/
def execTestPulse (readA readB : Bool) (s : State) : Host.Outcome State Fault Refusal :=
  .next (onlyIf (running s && domOn Dom.safe s && getB Fld.safeCtrlTestEn 0 s && s.safe.armed) (fun s =>
    let s := emit (.pin 17 true) (emit (.pin 17 false) (emit (.pin 16 true) (emit (.pin 16 false) s)))
    if readA || readB then dropOutputs 4 s else s) s)

/-- The CLE halts: transmissions stop, FAULT is set, the safety outputs drop (R338, R430). Commits still complete. -/
def haltCle (cause : Nat) (s : State) : State :=
  if cleHalted s then s
  else
    let s := setF Fld.cleStatusFaultCause 0 cause (setB Fld.cleStatusFault 0 true s)
    let s := forEach (List.range 64) (fun c s => if (mapGet s.cle.channels c).isSome then adjChan c (fun ch => { ch with due := none }) s else s) s
    dropOutputs 2 (cleEvent 0x0006 cause s)

/-- CLE_FAULT: 1 lockstep, 2 store (R338). -/
def execCleFault (cause : Fin 4) (s : State) : Host.Outcome State Fault Refusal :=
  .next (onlyIf (running s && domOn Dom.cle s && (cause.val == 1 || cause.val == 2)) (haltCle cause.val) s)

/-- The planner reports a colliding brake; the monitor acts while SAFE is on (R433). -/
def brakeReport (s : State) : State :=
  let a := min 2 (getF Fld.safeCfgNssAction 0 s)
  if !(domOn Dom.safe s) then s
  else
    let s := safeEvent 0x0008 Status.done a s
    let s := if 1 ≤ a then enterHusk 1 s else s
    if a = 2 then dropOutputs 5 s else s

/-! ### Stage frames (R405 to R409, R418) -/

def stageRun (i : Nat) (s : State) : StageRun := (mapGet s.safe.stages i).getD ⟨none, false, []⟩
def adjStage (i : Nat) (f : StageRun → StageRun) (s : State) : State :=
  setSafe { s.safe with stages := mapSet s.safe.stages i (f (stageRun i s)) } s

/-- The stage bound to a source: 1 fusion, 2 planner. -/
def stageOfSource (src : Nat) (s : State) : Option Nat :=
  (List.range 64).find? fun i => getB Fld.safeStageCfgEn i s && getF Fld.safeStageCfgSource i s == src

/-- The largest LATE_US of a stage: 1,000,000, and BOUND_US for a guaranteed CONTROL stream (R409). -/
def lateLimit (i : Nat) (s : State) : Nat :=
  match (if getF Fld.safeStageCfgSource i s = 0 then streamOf (getF Fld.safeStageCfgStream i s) s else none) with
  | some x => if x.safety && x.cls == 0 && x.rate != 0 then min 1000000 x.boundUs else 1000000
  | none => 1000000

/-- LATE_US and EARLY_US in force (R409, R359). -/
def lateUs (i : Nat) (s : State) : Nat := min (lateLimit i s) (max 1 (getF Fld.safeStageCfgLateUs i s))
def earlyUs (i : Nat) (s : State) : Nat := min (lateUs i s) (getF Fld.safeStageCfgEarlyUs i s)

/-- The job that owns a stage (R418). -/
def stageJob (i : Nat) (s : State) : Option Nat :=
  match getF Fld.safeStageCfgSource i s with
  | 0 => (streamOf (getF Fld.safeStageCfgStream i s) s).map fun x => x.job
  | 1 => (streamOf (getF Fld.fusOutCfgStream 0 s) s).map fun x => x.job
  | 2 => some (slotOf (getF Fld.plnLatticeAddr 0 s * 512))
  | _ => none

/-- Set bits of a number below 2^16. -/
def ones16 (n : Nat) : Nat := (List.range 16).countP fun i => bitsAt n i 1 == 1

/-- A frame's bit goes into the ring of its stage; 2 faults within 16 frames put the owning job into the safe state (R418). -/
def pushRing (i : Nat) (fault : Bool) (s : State) : State :=
  let r := (getF Fld.safeStageStatusRing i s * 2 + fault.toNat) % 65536
  let s := setF Fld.safeStageStatusRing i r s
  match stageJob i s with
  | some j => if fault && decide (2 ≤ ones16 r) then raiseCause j 1 s else s
  | none => s

/-- The newest bit of a ring marked as a fault. -/
def markRing (i : Nat) (s : State) : State :=
  let r := getF Fld.safeStageStatusRing i s
  if r % 2 = 1 then s
  else
    let s := setF Fld.safeStageStatusRing i (r + 1) s
    match stageJob i s with
    | some j => if 2 ≤ ones16 (r + 1) then raiseCause j 1 s else s
    | none => s

/-- A frame fault counted and reported: 1 mismatch, 2 early, 3 late, 4 miss (R408, R418). -/
def countFault (i kind : Nat) (s : State) : State :=
  let s := incF Fld.safeStageStatusFaults i s
  let s := if kind = 1 then s else incF Fld.safeCountWatchdog 0 s
  safeEvent 0x0004 (if kind = 1 then Status.checkMismatch else Status.watchdogStage) (i + kind * 256) s

/-- A window opens at a clock (Table SAF-1). The monitor watches while SAFE is on. -/
def openStage (i t : Nat) (s : State) : State :=
  if domOn Dom.safe s then adjStage i (fun r => { r with openAt := some t, marked := false }) s else s

/-- Whole microseconds since a stage's window opened. -/
def elapsedUs (i : Nat) (s : State) : Nat := (s.clock - (stageRun i s).openAt.getD s.clock) / 1000

/-- AUX of WATCHDOG_STAGE (R408). -/
def watchdogAux (i : Nat) (s : State) : Nat := i + min (elapsedUs i s) (2 ^ 24 - 1) * 256

/-- The open frame of a stage has not ended LATE_US after its window opened, and this has not been counted. -/
def lateDue (i : Nat) (s : State) : Bool :=
  getB Fld.safeStageCfgEn i s && (match (stageRun i s).openAt with
    | some t => decide (t + lateUs i s * 1000 ≤ s.clock) && !(stageRun i s).marked
    | none => false)

/-- A late fault (R408). -/
def lateStage (i : Nat) (s : State) : State :=
  pushRing i true (countFault i 3 (adjStage i (fun r => { r with marked := true }) s))

/-- A frame ends: early or mismatched frames are faults. The flag tells that it was early. -/
def endStage (i : Nat) (mismatch : Bool) (s : State) : State × Bool :=
  match (stageRun i s).openAt with
  | none => (s, false)
  | some t =>
    let watched := domOn Dom.safe s
    let early := watched && decide (s.clock < t + earlyUs i s * 1000)
    let marked := (stageRun i s).marked || !watched
    let s := if early then countFault i 2 s else s
    let s := if watched && mismatch then countFault i 1 s else s
    let s := if marked then s else pushRing i (early || mismatch) s
    (adjStage i (fun r => { r with openAt := none, marked := false }) s, early)

/-- A frame whose work ends with no result: its window closes. -/
def dropStage (i : Nat) (s : State) : State := adjStage i (fun r => { r with openAt := none, marked := false }) s

/-- The fusion or planner stage, where one is bound. -/
def openSource (src : Nat) (s : State) : State :=
  match stageOfSource src s with
  | some i => openStage i s.clock s
  | none => s
def endSource (src : Nat) (s : State) : State :=
  match stageOfSource src s with
  | some i => (endStage i false s).1
  | none => s
def dropSource (src : Nat) (s : State) : State :=
  match stageOfSource src s with
  | some i => dropStage i s
  | none => s

/-- A CHECK_MISMATCH completion counted (SAFE_COUNT.MISMATCH). -/
def countMismatch (s : State) : State := incF Fld.safeCountMismatch 0 s

end Sys2Proof.Machine
end

