-- ==== Sys2Proof/Machine/Planner.lean ====
section
/-!
DEFINITION. The motion planner engine: map versions, tree commits, occupancy layers, requests, checking and outcomes (chapter 12,
R287 to R310).
-/
namespace Sys2Proof.Machine
open Sys2Proof

/-- A PLN event (R310). -/
def plnEvent (detail aux : Nat) (s : State) : State := postEvent 7 detail Status.done aux s

def setPlan (x : Planner) (s : State) : State := { s with plan := x }

/-- The planner runs: PLAN is on. -/
def planOn (s : State) : Bool := domOn Dom.plan s

/-! ### The planner store (Table PLN-1) -/

/-- A byte of the planner store: page and offset. -/
def planAddr (page off : Nat) : Nat := hubAddr (0x600000 + 0x10000 * page + off)
def bankAddr (b : Nat) : Nat := planAddr (24 * b) 0
def stageSlot (n : Nat) : Nat := planAddr 48 (512 * n)
def brakeSlot : Nat := planAddr 82 0x4000
def layerAddr (l : Nat) : Nat := planAddr (92 + l) 0

/-! ### Trees (R292, R293) -/

namespace TreeNode
def occ (n : Nat) : Nat := bitsAt n 0 16
def child (n : Nat) : Nat := bitsAt n 16 8
def first (n : Nat) : Nat := bitsAt n 32 32
end TreeNode

/-- A tree's header fields and nodes, from its bytes. -/
def treeDepth (h : List Byte) : Nat := rdLE h 2 1
def treeVoxel (h : List Byte) : Nat := rdLE h 4 2
def treeOrigin (h : List Byte) : List Int := [sext 32 (rdLE h 8 4), sext 32 (rdLE h 12 4), sext 32 (rdLE h 16 4)]
def treeCount (h : List Byte) : Nat := rdLE h 20 4
def treeMapT (h : List Byte) : Nat := rdLE h 24 4
def treeNodes (bs : List Byte) : List Nat := (List.range (treeCount bs)).map fun n => rdLE bs (64 + 8 * n) 8

/-- Children of a node: octants with a child. -/
def childCount (n : Nat) : Nat := (List.range 8).countP fun o => bitsAt (TreeNode.child n) o 1 == 1

/-- Greatest depth at which each node is reached from the root, over the nodes before an index: a map from node to depth. -/
def nodeDepths (nodes : List Nat) : SMap Nat :=
  nodes.zipIdx.foldl (fun m (n, i) =>
    match mapGet m i with
    | none => m
    | some d => if TreeNode.child n = 0 then m
        else (List.range (childCount n)).foldl (fun m k =>
          mapSet m (TreeNode.first n + k) (max (d + 1) ((mapGet m (TreeNode.first n + k)).getD 0))) m) [(0, 0)]

/-- The byte offset of the first field of a header that fails (R292, R293). -/
def headerFault (h : List Byte) : Option Nat :=
  if rdLE h 0 2 ≠ 0x7EE0 then some 0
  else if treeDepth h < 1 ∨ 12 < treeDepth h then some 2
  else if rdLE h 3 1 ≠ 0 then some 3
  else if treeVoxel h < 10 ∨ 1000 < treeVoxel h then some 4
  else if rdLE h 6 2 ≠ 0 then [6, 7].find? fun i => byteAt h i != 0
  else if treeCount h < 1 ∨ 196600 < treeCount h then some 20
  else ((List.range 36).map (· + 28)).find? fun i => byteAt h i != 0

/-- The byte within a node of its first field that fails (R293): CHILD of a node at depth DEPTH, the reserved bits, or FIRST where it
does not exceed the node's index or its children reach NODE_COUNT. FIRST of a node without children names nothing and is not tested
(log 44). -/
def nodeBad (depth count i n : Nat) (at' : Option Nat) : Option Nat :=
  let has := TreeNode.child n != 0
  if has && (match at' with
    | some d => decide (depth ≤ d)
    | none => false) then some 2
  else if bitsAt n 24 8 ≠ 0 then some 3
  else if has && (decide (TreeNode.first n ≤ i) || decide (count < TreeNode.first n + childCount n)) then some 4
  else none

/-- The byte offset of the first field of the nodes that fails. -/
def nodeFault (depth count : Nat) (nodes : List Nat) : Option Nat :=
  let ds := nodeDepths nodes
  nodes.zipIdx.findSome? fun (n, i) => (nodeBad depth count i n (mapGet ds i)).map (· + (64 + 8 * i))

/-- The byte offset of the first failing field of a tree, none where it passes. -/
def treeFault (bs : List Byte) : Option Nat :=
  match headerFault bs with
  | some o => some o
  | none => nodeFault (treeDepth bs) (treeCount bs) (treeNodes bs)

/-- The OCC of every node with children replaced by the OR of its children's, from the last node up (R293). -/
def settleOcc (nodes : List Nat) : List Nat :=
  (List.range nodes.length).reverse.foldl (fun ns i =>
    let n := ns.getD i 0
    if TreeNode.child n = 0 then ns
    else
      let o := (List.range (childCount n)).foldl (fun o k => o ||| TreeNode.occ (ns.getD (TreeNode.first n + k) 0)) 0
      ns.set i (putBits n 0 16 o)) nodes

/-- A tree as the planner holds it after a check that passed. -/
def settledTree (bs : List Byte) : List Byte := bs.take 64 ++ (settleOcc (treeNodes bs)).flatMap fun n => natLe 8 n

/-- The tree that a bank holds. -/
def bankTree (b : Nat) (s : State) : List Byte :=
  let h := rdMem s (bankAddr b) 64
  h ++ rdMem s (bankAddr b + 64) (8 * min 196600 (treeCount h))

/-! ### Map versions (R294, R297) -/

/-- The current version. -/
def curMap (s : State) : MapVersion :=
  ⟨getF Fld.plnStatusVersion 0 s,
    if getB Fld.plnStatusTreeValid 0 s then some (getF Fld.plnStatusBank 0 s) else none,
    if getB Fld.plnStatusOccValid 0 s then some (getF Fld.plnStatusLayer 0 s) else none⟩

/-- A bank is released, and a layer is free: neither the current version nor a running cycle's version uses it (R294, R296). -/
def bankReleased (b : Nat) (s : State) : Bool :=
  (curMap s).bank != some b && (s.plan.cycle.bind fun c => c.map.bank) != some b
def layerFree (l : Nat) (s : State) : Bool :=
  (curMap s).layer != some l && (s.plan.cycle.bind fun c => c.map.layer) != some l

/-- PLN_STATUS.RELEASED, BUSY and QUEUED. -/
def showPlan (s : State) : State :=
  setB Fld.plnStatusReleased 0 (bankReleased 0 s || bankReleased 1 s)
    (setB Fld.plnStatusBusy 0 s.plan.cycle.isSome (setF Fld.plnStatusQueued 0 s.plan.queue.length s))

/-- A token of the map writer. -/
def writerToken (tok : Nat) (s : State) : State :=
  hubToken (getF Fld.plnWriterStream 0 s) (getF Fld.plnWriterDie 0 s) tok s

/-- A new version takes a tree or a layer and becomes current (R297). -/
def newVersion (bank layer : Option Nat) (s : State) : State :=
  let v := (getF Fld.plnStatusVersion 0 s + 1) % 2 ^ 32
  let s := setF Fld.plnStatusVersion 0 v s
  let s := match bank with
    | some b => setF Fld.plnStatusBank 0 b (setB Fld.plnStatusTreeValid 0 true s)
    | none => s
  let s := match layer with
    | some l => setF Fld.plnStatusLayer 0 l (setB Fld.plnStatusOccValid 0 true s)
    | none => s
  plnEvent 0x0001 v s

/-- FREE_TOKEN once for each bank that a change released (R294). -/
def releaseTokens (before : State) (s : State) : State :=
  forEach ((List.range 2).filter fun b => !(bankReleased b before) && bankReleased b s)
    (fun _ s => if getB Fld.plnWriterEn 0 s then writerToken (getF Fld.plnWriterFreeToken 0 s) s else s) s

/-- A checked tree committed from its bank. -/
def commitTree (b : Nat) (bs : List Byte) (s : State) : State :=
  releaseTokens s (newVersion (some b) none (store (bankAddr b) (settledTree bs) s))

/-- A waiting TREE write goes into a released bank (R295); its VERSION is then the active one of the TREE table (R265). -/
def treeWriteIn (id : Nat) (bs : List Byte) (b : Nat) (s : State) : State :=
  let v := ((consumedById id s).map fun c => arg c.desc 44 4).getD 0
  let s := commitTree b bs (setTables { s.tables with active := mapSet s.tables.active (tableKey 2 3 0) (v, []) } s)
  completeId id (plainFacts Status.done 0 (getF Fld.plnStatusVersion 0 s)) s

/-- The first TREE write that waits, where a bank is released. -/
def admitTree (s : State) : State :=
  match s.plan.trees with
  | [] => s
  | (id, bs) :: rest =>
    match (List.range 2).find? fun b => bankReleased b s with
    | some b => treeWriteIn id bs b (setPlan { s.plan with trees := rest } s)
    | none => s

/-! ### Commit lines (R288, R294) -/

/-- The first byte of a commit line that breaks its layout, or names a bank that is not released. -/
def commitFault (l : List Byte) (s : State) : Option Nat :=
  if rdLE l 0 1 ≠ 0x01 then some 0
  else if 1 < rdLE l 1 1 ∨ !(bankReleased (rdLE l 1 1) s) then some 1
  else ((List.range 61).find? fun i => byteAt l (i + 3) != 0).map (· + 3)

/-- A commit refused. AUX holds the window line and the offset of the first failing field, in the commit line or in the tree. -/
def refuseCommit (index off : Nat) (s : State) : State :=
  plnEvent 0x0002 (index % 256 + off % 256 * 256) (incF Fld.plnStats2CommitRefused 0 s)

/-- A commit line from the map writer (R294). -/
def mapCommitLine (index : Nat) (l : List Byte) (s : State) : State :=
  let s' := match commitFault l s with
    | some o => refuseCommit index o s
    | none =>
      let b := rdLE l 1 1
      let t := bankTree b s
      match treeFault t with
      | some o => refuseCommit index o s
      | none => commitTree b t s
  writerToken (rdLE l 2 1) s'

/-- The stream is the map writer, and sends from its die (R294). -/
def isWriter (d st : Nat) (s : State) : Bool :=
  getB Fld.plnWriterEn 0 s && getF Fld.plnWriterStream 0 s == st && getF Fld.plnWriterDie 0 s == d

/-- A send into the planner store that is not accepted (R288). -/
def discardPlanSend (d st : Nat) (s : State) : State := plnEvent 0x0003 (d + st * 256) (incF Fld.plnStats2SendDiscard 0 s)

/-- A line of a die-link send lands in the planner store, at an offset from its start (R288). -/
def planSend (d st off : Nat) (l : List Byte) (s : State) : State :=
  if !(planOn s) then s
  else if !(isWriter d st s) then discardPlanSend d st s
  else
    let page := off / 0x10000
    if page < 48 then
      if bankReleased (page / 24) s then store (planAddr 0 off) l s else discardPlanSend d st s
    else if page = 94 then mapCommitLine (off % 0x10000 / 64) l s
    else discardPlanSend d st s

/-! ### Occupancy intake (R296) -/

/-- OCC_INTAKE: the bytes in page 95 copied into a free layer. -/
def occIntake (s : State) : State :=
  match s.plan.intake with
  | none => s
  | some m =>
    let s := setPlan { s.plan with intake := none } s
    if !(getB Fld.plnCfgOccEn 0 s) then s
    else match (List.range 2).find? fun l => layerFree l s with
      | none => plnEvent 0x0004 0 (incF Fld.plnStats2OccSkip 0 s)
      | some l =>
        let lo := sext 16 (getF Fld.plnOccCfgZLo 0 s)
        let m := { m with zLo := lo, zHi := max lo (sext 16 (getF Fld.plnOccCfgZHi 0 s)) }
        let s := store (layerAddr l) (rdMem s (planAddr 95 0) (m.w * m.h)) s
        newVersion none (some l) (setPlan { s.plan with layers := mapSet s.plan.layers l m } s)

/-! ### Primitives (R289 to R291) -/

namespace Prim
def n (p : List Byte) : Nat := rdLE p 0 1
def dtUs (p : List Byte) : Nat := rdLE p 4 4
def cost (p : List Byte) : Nat := rdLE p 8 4
/-- Box `m`: minima and maxima in x, y, z. -/
def lo (p : List Byte) (m : Nat) : List Int := (List.range 3).map fun k => sext 16 (rdLE p (32 + 16 * m + 2 * k) 2)
def hi (p : List Byte) (m : Nat) : List Int := (List.range 3).map fun k => sext 16 (rdLE p (38 + 16 * m + 2 * k) 2)
def empty (p : List Byte) (m : Nat) : Bool := decide ((hi p m).getD 0 0 < (lo p m).getD 0 0)
/-- Position, yaw and posture of sample `i`. -/
def pos (p : List Byte) (i : Nat) : List Int := (List.range 3).map fun k => sext 16 (rdLE p (96 + 12 * i + 2 * k) 2)
def yaw (p : List Byte) (i : Nat) : Int := sext 16 (rdLE p (102 + 12 * i) 2)
def posture (p : List Byte) (i : Nat) : Nat := rdLE p (104 + 12 * i) 1
/-- Samples of segment `m` that exist. -/
def segment (p : List Byte) (m : Nat) : List Nat := (List.range 8).map (· + 8 * m) |>.filter fun i => decide (i < n p)
end Prim

/-- The posture table and the class table, where they are active (R290). -/
def postureTable (s : State) : Option (List Byte) := activeTable (tableKey 2 1 0) s
def classTable (s : State) : Option (List Byte) := activeTable (tableKey 2 2 0) s

/-- The present spheres of a posture: centre and radius (R290). -/
def spheres (t : List Byte) (e : Nat) : List (List Int × Nat) :=
  ((List.range 64).map fun q =>
    let o := 512 * e + 8 * q
    ([sext 16 (rdLE t o 2), sext 16 (rdLE t (o + 2) 2), sext 16 (rdLE t (o + 4) 2)], rdLE t (o + 6) 2)).filter fun x => x.2 != 0

/-- A class entry: FIRST, COUNT, BRAKE. -/
def classEntry (t : List Byte) (c : Nat) : Nat × Nat × Nat := (rdLE t (16 * c) 2, rdLE t (16 * c + 2) 2, rdLE t (16 * c + 4) 2)

/-- A vector turned about z by a yaw. -/
def turn (yaw : Int) (v : List Rat) : List Rat :=
  let c := Config.cosYaw yaw
  let n := Config.sinYaw yaw
  let x := v.getD 0 0
  let y := v.getD 1 0
  [c * x - n * y, n * x + c * y, v.getD 2 0]

def addVec (a b : List Rat) : List Rat := List.zipWith (· + ·) a b
def ratVec (v : List Int) : List Rat := v.map fun x => (x : Rat)

/-- The centre of a sphere of a sample in the start frame. -/
def startCentre (p : List Byte) (i : Nat) (c : List Int) : List Rat := addVec (ratVec (Prim.pos p i)) (turn (Prim.yaw p i) (ratVec c))

/-- The fields of a primitive record are in range (Table PLN-2); its reserved fields have no effect (R9, log 80). COST below 0 or no
number fails; −0 is 0. -/
def primFields (p : List Byte) : Bool :=
  decide (2 ≤ Prim.n p) && decide (Prim.n p ≤ 32) && decide (100 ≤ Prim.dtUs p) && decide (Prim.dtUs p ≤ 100000)
    && (decide (Prim.cost p ≤ 0x7F800000) || Prim.cost p == 0x80000000)
    && (List.range 4).all (fun m => !(Prim.empty p m) || (Prim.segment p m).isEmpty)

/-- A sphere lies within a box in all three axes. -/
def inBox (c : List Rat) (r : Nat) (lo hi : List Int) : Bool :=
  (List.range 3).all fun k => decide ((lo.getD k 0 : Rat) ≤ c.getD k 0 - r) && decide (c.getD k 0 + r ≤ (hi.getD k 0 : Rat))

/-- The verifier (R291). -/
def primOk (postures : List Byte) (p : List Byte) : Bool :=
  primFields p
    && (List.range (Prim.n p)).all fun i =>
      let sp := spheres postures (Prim.posture p i)
      !sp.isEmpty && sp.all fun (c, r) => inBox (startCentre p i c) r (Prim.lo p (i / 8)) (Prim.hi p (i / 8))

/-! ### Occupied space (R301) -/

/-- An occupied or free box: lowest corner, highest corner, and the slices in which it is occupied. -/
structure OccBox where
  lo : List Rat
  hi : List Rat
  slices : Nat

/-- The leaves of a tree under a node: cubes of nodes without children. -/
def leaves (nodes : List Nat) : Nat → Nat → List Rat → Nat → List OccBox
  | 0, _, _, _ => []
  | f + 1, i, o, side =>
    let n := nodes.getD i 0
    if TreeNode.child n = 0 then [⟨o, o.map (· + side), TreeNode.occ n⟩]
    else
      ((List.range 8).filter fun k => bitsAt (TreeNode.child n) k 1 == 1).zipIdx.flatMap fun (k, j) =>
        let h := side / 2
        leaves nodes f (TreeNode.first n + j) (o.zipIdx.map fun (x, a) => if bitsAt k a 1 = 1 then x + h else x) h

/-- The root cube of a tree. -/
def rootBox (t : List Byte) : OccBox :=
  let side := treeVoxel t * 2 ^ treeDepth t
  let o := ratVec (treeOrigin t)
  ⟨o, o.map (· + side), 0⟩

/-- Occupied node cubes of a tree. -/
def treeBoxes (t : List Byte) : List OccBox :=
  (leaves (treeNodes t) (treeDepth t + 1) 0 (ratVec (treeOrigin t)) (treeVoxel t * 2 ^ treeDepth t)).filter fun b => b.slices != 0

/-- Occupied columns of a layer, in every slice (R296). -/
def layerBoxes (m : PlanLayer) (bytes : List Byte) (unknown : Bool) : List OccBox :=
  ((List.range (m.w * m.h)).filter fun i =>
      let c := (byteAt bytes i).toNat % 4
      c == 2 || c == 3 || (c == 0 && unknown)).map fun i =>
    let x : Rat := m.ox + (i % m.w * m.cell : Nat)
    let y : Rat := m.oy + (i / m.w * m.cell : Nat)
    ⟨[x, y, m.bz + m.zLo], [x + m.cell, y + m.cell, m.bz + m.zHi], 65535⟩

/-- What a cycle checks against: occupied boxes, and the root cube whose outside is occupied, if it is. -/
structure Space where
  cubes : List OccBox
  columns : List OccBox
  inside : Option OccBox

/-- Squared distance of a point from a box. -/
def dist2 (c : List Rat) (b : OccBox) : Rat :=
  ((List.range 3).map fun k =>
    let x := c.getD k 0
    let d := max 0 (max (b.lo.getD k 0 - x) (x - b.hi.getD k 0))
    d * d).sum

/-- Squared distance of a point from the outside of a cube. -/
def outside2 (c : List Rat) (b : OccBox) : Rat :=
  let d := (List.range 3).map fun k => min (c.getD k 0 - b.lo.getD k 0) (b.hi.getD k 0 - c.getD k 0)
  let m := max 0 (d.foldl min (d.getD 0 0))
  m * m

/-- Squared distance from the occupied space of some slices, where there is any. -/
def spaceDist2 (w : Space) (mask : Nat) (c : List Rat) : Option Rat :=
  let l := ((w.cubes ++ w.columns).filter fun b => b.slices &&& mask != 0).map (dist2 c)
  (l ++ (w.inside.map (outside2 c)).toList).foldl (fun m d => match m with
    | none => some d
    | some x => some (min x d)) none

/-! ### Checking (R301 to R303) -/

/-- PLN_CFG in force: the margin, the cap, and the flags. -/
def cfgMargin (c : Nat) : Nat := newF Fld.plnCfgMarginMm c
def cfgCap (c : Nat) : Nat := max (cfgMargin c) (newF Fld.plnCfgClearCapMm c)

/-- START of a request: position and yaw. -/
def startPos (q : List Byte) : List Rat := (List.range 3).map fun k => (sext 32 (rdLE q (4 + 4 * k) 4) : Rat)
def startYaw (q : List Byte) : Int := sext 16 (rdLE q 16 2)

/-- The slices ⌊u⌋ and ⌈u⌉ of sample `i` (R301). -/
def sliceLo (q p : List Byte) (mapT i : Nat) : Nat :=
  let d := sext 32 (toField 32 ((rdLE q 0 4 : Int) + i * Prim.dtUs p * 1000 - mapT))
  (clampInt 0 15 (d / 100000000)).toNat
def sliceHi (q p : List Byte) (mapT i : Nat) : Nat :=
  let d := sext 32 (toField 32 ((rdLE q 0 4 : Int) + i * Prim.dtUs p * 1000 - mapT))
  (clampInt 0 15 (-((-d) / 100000000))).toNat

/-- A mask of slices `a` to `b`. -/
def sliceMask (a b : Nat) : Nat := (List.range 16).foldl (fun m k => if a ≤ k ∧ k ≤ b then m + 2 ^ k else m) 0

/-- The slices of a segment. -/
def segMask (q p : List Byte) (mapT m : Nat) : Nat :=
  sliceMask (sliceLo q p mapT (8 * m)) (sliceHi q p mapT ((Prim.segment p m).getLastD (8 * m)))

/-- A box of a candidate in the map frame: turned, bounded along the axes, shifted (R302), and enlarged by `grow`. -/
def mapBox (q p : List Byte) (m grow : Nat) : OccBox :=
  let lo := ratVec (Prim.lo p m)
  let hi := ratVec (Prim.hi p m)
  let corners := [[lo.getD 0 0, lo.getD 1 0], [lo.getD 0 0, hi.getD 1 0], [hi.getD 0 0, lo.getD 1 0], [hi.getD 0 0, hi.getD 1 0]].map
    fun c => turn (startYaw q) (c ++ [0])
  let o := startPos q
  let least (k : Nat) : Rat := (corners.map fun c => c.getD k 0).foldl min ((corners.getD 0 []).getD k 0)
  let most (k : Nat) : Rat := (corners.map fun c => c.getD k 0).foldl max ((corners.getD 0 []).getD k 0)
  ⟨[o.getD 0 0 + least 0 - grow, o.getD 1 0 + least 1 - grow, o.getD 2 0 + lo.getD 2 0 - grow],
    [o.getD 0 0 + most 0 + grow, o.getD 1 0 + most 1 + grow, o.getD 2 0 + hi.getD 2 0 + grow], 0⟩

/-- Box within box; box meets box. -/
def within (a b : OccBox) : Bool :=
  (List.range 3).all fun k => decide (b.lo.getD k 0 ≤ a.lo.getD k 0) && decide (a.hi.getD k 0 ≤ b.hi.getD k 0)
def meets (a b : OccBox) : Bool :=
  (List.range 3).all fun k => decide (a.lo.getD k 0 ≤ b.hi.getD k 0) && decide (b.lo.getD k 0 ≤ a.hi.getD k 0)

/-- The outcome of the coarse stage. -/
inductive Coarse where
  | rejected | clear | survivor
  deriving DecidableEq, Repr

/-- The coarse stage (R302). -/
def coarse (w : Space) (q p : List Byte) (mapT cap : Nat) : Coarse :=
  let ms := (List.range 4).filter fun m => !(Prim.empty p m)
  if ms.any fun m => w.cubes.any fun c => c.slices &&& segMask q p mapT m == segMask q p mapT m && within (mapBox q p m 0) c then .rejected
  else if ms.all fun m =>
      let b := mapBox q p m cap
      !((w.cubes ++ w.columns).any fun c => c.slices &&& segMask q p mapT m != 0 && meets b c)
        && (match w.inside with
          | some r => within b r
          | none => true) then .clear
  else .survivor

/-- The centre of a sphere of a sample in the map frame. -/
def mapCentre (q p : List Byte) (i : Nat) (c : List Int) : List Rat := addVec (startPos q) (turn (startYaw q) (startCentre p i c))

/-- The clearance of a sphere, capped; none where it collides (R303). The comparison with MARGIN_MM is exact. -/
def sphereClear (w : Space) (mask margin cap : Nat) (c : List Rat) (r : Nat) : Option Rat :=
  match spaceDist2 w mask c with
  | none => some cap
  | some d2 =>
    if d2 < ((r + margin : Nat) : Rat) * (r + margin : Nat) then none
    else if ((r + cap : Nat) : Rat) * (r + cap : Nat) ≤ d2 then some cap
    else some (min (Config.root d2 - r) cap)

/-- The fine stage: the first colliding sample, or the smallest clearance (R303). -/
def fine (w : Space) (q p post : List Byte) (mapT margin cap : Nat) : Nat ⊕ Rat :=
  (List.range (Prim.n p)).foldl (fun acc i => match acc with
    | .inl k => .inl k
    | .inr m =>
      let mask := sliceMask (sliceLo q p mapT i) (sliceHi q p mapT i)
      (spheres post (Prim.posture p i)).foldl (fun acc x => match acc with
        | .inl k => .inl k
        | .inr m => match sphereClear w mask margin cap (mapCentre q p i x.1) x.2 with
          | none => .inl i
          | some v => .inr (min m v)) (.inr m)) (.inr (cap : Rat))

/-- What a primitive's evaluation gives: whether it went to the fine stage, and a collision or a clearance. -/
structure Verdict where
  survivor : Bool
  hit : Option Nat
  clear : Rat

/-- A primitive checked by both stages (R302, R303). A failed primitive collides (R291), at its first sample. -/
def checkPrim (w : Space) (q p post : List Byte) (mapT cfg : Nat) (bad : Bool) : Verdict :=
  if bad then ⟨false, some 0, 0⟩
  else match coarse w q p mapT (cfgCap cfg) with
    | .clear => ⟨false, none, cfgCap cfg⟩
    | .rejected => match fine w q p post mapT (cfgMargin cfg) (cfgCap cfg) with
      | .inl k => ⟨false, some k, 0⟩
      | .inr _ => ⟨false, some 0, 0⟩
    | .survivor => match fine w q p post mapT (cfgMargin cfg) (cfgCap cfg) with
      | .inl k => ⟨true, some k, 0⟩
      | .inr m => ⟨true, none, m⟩

/-! ### Cost (R304) -/

def addP (a b : Nat) : Nat := encodeF fp32 false false (addV (decodeF fp32 a) (decodeF fp32 b))
def mulP (a b : Nat) : Nat := encodeF fp32 false false (mulV (decodeF fp32 a) (decodeF fp32 b))

/-- The last sample in the map frame. -/
def endPoint (q p : List Byte) : List Rat := addVec (startPos q) (turn (startYaw q) (ratVec (Prim.pos p (Prim.n p - 1))))
def endYaw (q p : List Byte) : Int := startYaw q + Prim.yaw p (Prim.n p - 1)

/-- The cost of a free candidate. With CLEAR_CAP_MM in force at 0 the quotient of R304 is 0 by 0, for which the spec states no value:
free (log 80). -/
def primCost (q p : List Byte) (clear : Rat) (cap : Nat) : Nat :=
  let g : List Rat := (List.range 3).map fun k => (sext 32 (rdLE q (20 + 4 * k) 4) : Rat)
  let d2 := ((List.range 3).map fun k => let d := (endPoint q p).getD k 0 - g.getD k 0; d * d).sum
  let turnBy := (sext 16 (toField 16 (endYaw q p - sext 16 (rdLE q 32 2)))).natAbs
  let a := addP (Prim.cost p) (mulP (rdLE q 36 4) (Config.toFp32 (Config.root d2)))
  let b := addP a (mulP (rdLE q 40 4) (Config.radians turnBy))
  addP b (mulP (rdLE q 44 4) (if cap = 0 then Config.free 32 0 % 2 ^ 32 else Config.toFp32 ((cap - clear) / cap)))

/-! ### Requests and cycles (R298 to R300, R305) -/

/-- The primitive of an index in the lattice, as the object range holds it. -/
def primAddr (i : Nat) (s : State) : Nat := getF Fld.plnLatticeAddr 0 s * 512 + 512 * i
def latticeCount (s : State) : Nat := getF Fld.plnLatticeCountM1 0 s + 1

/-- ARGS of PLAN_REQUEST (Table PLN-4). -/
def argClass (d : Desc) : Nat := arg d 40 2
def argList (d : Desc) : Bool := arg d 42 1 % 2 == 1
def argNoCle (d : Desc) : Bool := arg d 42 1 / 2 % 2 == 1
def argBudget (d : Desc) : Nat := arg d 46 2

/-- Reserved fields and ranges of a request (R298, DETAIL 0x0113). -/
def requestFields (d : Desc) (q : List Byte) : Bool :=
  decide (argClass d < 1024) && decide (arg d 42 1 < 4) && decide (arg d 43 1 < 4) && argsZero d 48 16 && decide (argBudget d ≤ 50000)
    && rdLE q 34 2 == 0 && rdLE q 48 16 == 0 && decide (rdLE q 18 2 ≤ 4096) && (argList d == (rdLE q 18 2 != 0))

/-- The candidates' primitive indices. -/
def candidates (d : Desc) (q : List Byte) (t : List Byte) : List Nat :=
  if argList d then (List.range (rdLE q 18 2)).map fun n => rdLE q (64 + 2 * n) 2
  else
    let (first, count, _) := classEntry t (argClass d)
    (List.range count).map (· + first)

/-- The tables, the lattice and the indices serve (R298, DETAIL 0x0114). -/
def requestServes (d : Desc) (q : List Byte) (s : State) : Bool :=
  match postureTable s, classTable s with
  | some _, some t =>
    let (_, count, brake) := classEntry t (argClass d)
    inOneObject (primAddr 0 s) (512 * latticeCount s) s && (jobOf (slotOf (primAddr 0 s)) s).isSome
      && (brake :: candidates d q t).all (fun i => decide (i < latticeCount s)) && (argList d || count != 0)
  | _, _ => false

/-- A primitive fetched into a slot of the planner store, and verified (R291). -/
def fetchPrim (post : List Byte) (addr i : Nat) (s : State) : State :=
  let p := readObj (primAddr i s) 512 s
  let s := store addr p s
  if primOk post p then s
  else
    let s := match s.plan.cycle with
      | some c => setPlan { s.plan with cycle := some { c with bad := if c.bad.contains i then c.bad else c.bad ++ [i] } } s
      | none => s
    plnEvent 0x0006 i (incF Fld.plnStatsBadPrim 0 s)

/-- BUDGET_US of a request in ns (Table PLN-4, PLN_CFG). -/
def budgetNs (d : Desc) (s : State) : Nat :=
  (if argBudget d = 0 then min 50000 (max 1 (getF Fld.plnCfgBudgetUs 0 s)) else argBudget d) * 1000

/-- An error that an engine's read met acts for the job whose object it read (R118, R173, R176). -/
def jobFault (j : Nat) (e : ReadErr) (s : State) : State :=
  match e with
  | .t0 _ _ => raiseCause j 5 (noteT0 e s)
  | .tier _ _ => raiseCause j 9 s
  | .unreachable _ => raiseCause j 9 s

/-- The lattice ranges that a cycle over the primitives `ps` reads: 512 bytes each. -/
def primRanges (ps : List Nat) (s : State) : List (Nat × Nat) := ps.map fun i => (primAddr i s, 512)

/-- The primitives of a cycle are fetched into their slots, the brake's first. -/
def fetchPrims (post : List Byte) (cands : List Nat) (brake : Nat) (s : State) : State :=
  forEach cands.zipIdx (fun (i, n) s => fetchPrim post (stageSlot n) i s) (fetchPrim post brakeSlot brake s)

/-- A checked request becomes the running cycle; what its reads of the lattice meet decides whether its primitives land. -/
def beginCycle (c : Consumed) (q t post : List Byte) (ecc : ReadEcc) (s : State) : State :=
  let cands := candidates c.desc q t
  let brake := (classEntry t (argClass c.desc)).2.2
  let ranges := primRanges (brake :: cands) s
  let s := touchRanges ranges (senseRanges ranges ecc s)
  let err := rangesErr 4 ranges s
  let y : PlanCycle :=
    { id := c.id, map := curMap s, record := q, cfg := getR .plnCfg 0 s, job := slotOf (primAddr 0 s), cands := cands, brake := brake
      start := s.clock, budget := budgetNs c.desc s, bad := [], budgetOut := false }
  let run := openSource 2 (setPlan { s.plan with cycle := some y } s)
  match err with
  | some e =>
    if leftPoisoned e s then completeOrWait c (plainFacts Status.memoryFault 0x0003 (jobErr e s).2) s else jobFault (slotOf (primAddr 0 s)) e run
  | none => fetchPrims post cands brake run

/-- A request leaves the queue: the checks of R298, then the cycle. -/
def startRequest (c : Consumed) (rd : ReadData) (ecc : ReadEcc) (s : State) : State :=
  let d := c.desc
  withInput c rd (fun q s =>
    if inLen d ≠ 64 + 2 * rdLE q 18 2 ∨ outLen d < 576 then refuseFormat c 0x0105 0 s
    else if !(requestFields d q) then refuseFormat c 0x0113 0 s
    else if !(requestServes d q s) then refuseFormat c 0x0114 0 s
    else beginCycle c q ((classTable s).getD []) ((postureTable s).getD []) ecc s) s

/-- POSTURE and CLASS tables that are pending activate while no cycle runs (R295). -/
def planActivate (s : State) : State :=
  if s.plan.cycle.isSome then s
  else forEach (s.tables.pending.filter fun p => tableEngine p.key == 2) (fun p s => activateTable p 0 s) s

/-- A planner table is pending: no cycle starts (R295). -/
def planHeld (s : State) : Bool := s.tables.pending.any fun p => tableEngine p.key == 2

/-- PLAN_CYCLE_START: the oldest waiting request leaves the queue (R299). -/
def planStart (rd : ReadData) (ecc : ReadEcc) (s : State) : State :=
  match s.plan.queue with
  | [] => s
  | id :: rest =>
    if s.plan.cycle.isSome || planHeld s then s
    else
      let s := setPlan { s.plan with queue := rest } s
      match consumedById id s with
      | some c => showPlan (startRequest c rd ecc s)
      | none => showPlan s

/-- PLAN_REQUEST: into the queue of 64, or NO_PATH while PLAN is not on (R287, R299). -/
def planRequest (c : Consumed) (s : State) : State :=
  if !(planOn s) then completeOrWait c (plainFacts Status.noPath 0xFFFE 0) s
  else showPlan (setPlan { s.plan with queue := s.plan.queue ++ [c.id] } s)

/-- PLAN_BUDGET: the budget expires (R305). -/
def planBudget (s : State) : State :=
  match s.plan.cycle with
  | some c =>
    if c.budgetOut || decide (s.clock < c.start + c.budget) then s
    else incF Fld.plnStats2BudgetOut 0 (setPlan { s.plan with cycle := some { c with budgetOut := true } } s)
  | none => s

/-! ### Outcomes (R306 to R309) -/

/-- The space that a cycle checks against. -/
def cycleSpace (y : PlanCycle) (s : State) : Space :=
  let t := y.map.bank.map fun b => bankTree b s
  { cubes := (t.map treeBoxes).getD []
    columns := match y.map.layer.bind fun l => (mapGet s.plan.layers l).map fun m => (l, m) with
      | some (l, m) => layerBoxes m (rdMem s (layerAddr l) (m.w * m.h)) (newF Fld.plnCfgUnknown y.cfg == 1)
      | none => []
    inside := if newF Fld.plnCfgOutside y.cfg = 1 then t.map rootBox else none }

/-- MAP_T of a version; 0 without a tree. -/
def cycleMapT (y : PlanCycle) (s : State) : Nat := (y.map.bank.map fun b => treeMapT (rdMem s (bankAddr b) 64)).getD 0

/-- How many candidates finished each stage when the budget stopped the evaluation: the spec bounds the time, not the number
(log 45). -/
def finished (y : PlanCycle) (s : State) : Nat × Nat :=
  let n := y.cands.length
  if y.budgetOut then
    let k := Config.free 16 s.freeCtr % (n + 1)
    (k, if k = n then Config.free 17 s.freeCtr % (n + 1) else 0)
  else (n, n)

/-- Candidates that have been through the coarse stage: index, primitive, verdict. -/
def coarseDone (y : PlanCycle) (post : List Byte) (s : State) : List (Nat × Nat × Verdict) :=
  let w := cycleSpace y s
  let t := cycleMapT y s
  (y.cands.zipIdx.take (finished y s).1).map fun (p, i) =>
    (i, p, checkPrim w y.record (rdMem s (stageSlot i) 512) post t y.cfg (y.bad.contains p))

/-- Those that have finished. -/
def evaluated (y : PlanCycle) (post : List Byte) (s : State) : List (Nat × Nat × Verdict) :=
  let nf := (finished y s).2
  let vs := coarseDone y post s
  let order := (vs.filter fun v => v.2.2.survivor).map fun v => v.1
  vs.filter fun v => !v.2.2.survivor || (order.take nf).contains v.1

/-- The free candidate of lowest cost, ties to the lower index: index, primitive, clearance, cost (R306). -/
def bestOf (y : PlanCycle) (l : List (Nat × Nat × Verdict)) (s : State) : Option (Nat × Nat × Rat × Nat) :=
  (l.filter fun v => v.2.2.hit.isNone).foldl (fun best v =>
    let c := primCost y.record (rdMem s (stageSlot v.1) 512) v.2.2.clear (cfgCap y.cfg)
    match best with
    | none => some (v.1, v.2.1, v.2.2.clear, c)
    | some b => if ltV (decodeF fp32 c) (decodeF fp32 b.2.2.2) then some (v.1, v.2.1, v.2.2.clear, c) else some b) none

/-- What a cycle delivers. -/
structure PlanOut where
  status : Nat
  chosen : Nat
  prim : Nat
  cost : Nat
  clear : Nat
  brakeHit : Option Nat
  count : Nat
  free : Nat
  survivors : Nat

/-- The outcome of R306. With version 0 nothing is checked, and CLEARANCE of the brake is free: the spec states none (log 80). -/
def planOutcome (y : PlanCycle) (s : State) : PlanOut :=
  if y.map.version = 0 then ⟨Status.noPath, 0xFFFF, y.brake, 0, Config.free 33 s.freeCtr % 65536, none, 0, 0, 0⟩
  else
    let post := (postureTable s).getD []
    let b := checkPrim (cycleSpace y s) y.record (rdMem s brakeSlot 512) post (cycleMapT y s) y.cfg (y.bad.contains y.brake)
    let l := evaluated y post s
    let free := (l.filter fun v => v.2.2.hit.isNone).length
    let surv := ((coarseDone y post s).filter fun v => v.2.2.survivor).length
    let mm (r : Rat) : Nat := (clampInt 0 65535 (Config.wholeMm r)).toNat
    match bestOf y l s with
    | some (i, p, clr, c) => ⟨Status.done, i, p, c, mm clr, b.hit, l.length, free, surv⟩
    | none =>
      ⟨if b.hit.isSome then Status.noSafeStop else Status.noPath, 0xFFFF, y.brake, 0,
        if b.hit.isSome then 0 else mm b.clear, b.hit, l.length, free, surv⟩

/-- The record of the delivered primitive. -/
def deliveredPrim (o : PlanOut) (s : State) : List Byte := rdMem s (if o.chosen = 0xFFFF then brakeSlot else stageSlot o.chosen) 512

/-- Sample `i` of a primitive in the map frame: x, y, z, yaw. -/
def mapSample (q p : List Byte) (i : Nat) : List Int :=
  (addVec (startPos q) (turn (startYaw q) (ratVec (Prim.pos p i)))).map Config.wholeMm ++ [sext 16 (toField 16 (startYaw q + Prim.yaw p i))]

/-- The 576 bytes of a result (Table PLN-5). -/
def resultBytes (y : PlanCycle) (o : PlanOut) (status : Nat) (stale : Bool) (s : State) : List Byte :=
  let p := deliveredPrim o s
  let flags := stale.toNat + y.budgetOut.toNat * 2 + o.brakeHit.isSome.toNat * 4 + y.map.bank.isNone.toNat * 8 + y.map.layer.isNone.toNat * 16
  let head := natLe 4 y.map.version ++ natLe 4 (cycleMapT y s) ++ [BitVec.ofNat 8 status, BitVec.ofNat 8 flags]
    ++ natLe 2 o.chosen ++ natLe 2 o.prim ++ natLe 2 o.count ++ natLe 2 o.free ++ natLe 2 o.survivors ++ natLe 4 o.cost
    ++ natLe 2 o.clear ++ natLe 2 (o.brakeHit.getD 0xFFFF) ++ natLe 4 (rdLE y.record 0 4) ++ natLe 4 (Prim.dtUs p) ++ List.replicate 28 0
  head ++ (List.range 32).flatMap fun i =>
    if i < Prim.n p then
      let v := mapSample y.record p i
      (v.take 3).flatMap (fun x => natLe 4 (toField 32 x)) ++ natLe 2 (toField 16 (v.getD 3 0)) ++ [BitVec.ofNat 8 (Prim.posture p i), 1]
    else List.replicate 16 0

/-- The delivered primitive handed to the CLE (R309, R323). -/
def handOver (y : PlanCycle) (o : PlanOut) (s : State) : State :=
  let p := deliveredPrim o s
  let t : Trajectory := ⟨BitVec.ofNat 32 (rdLE y.record 0 4), Prim.dtUs p, (List.range (min 32 (Prim.n p))).map (mapSample y.record p)⟩
  queueCommit .planner (setCle { s.cle with traj := t } s)

/-- The counters of results (PLN_STATS). -/
def countResult (status : Nat) (stale : Bool) (s : State) : State :=
  let s := if stale then incF Fld.plnStatsStale 0 s else s
  if status = Status.noPath then incF Fld.plnStatsNoPath 0 s
  else if status = Status.noSafeStop then incF Fld.plnStatsNoSafeStop 0 s
  else s

/-- A colliding brake: PLN event 0x0005 and the safety monitor (R306, R433). -/
def reportBrake (y : PlanCycle) (hit : Option Nat) (s : State) : State :=
  match hit with
  | none => s
  | some k => brakeReport (plnEvent 0x0005 (k + y.map.version % 65536 * 65536) s)

/-- The cycle is over: banks and layers are released, pending tables and waiting trees follow. -/
def endPlanCycle (s : State) : State :=
  let s' := setPlan { s.plan with cycle := none } s
  showPlan (admitTree (planActivate (releaseTokens s s')))

/-- The result token (R308). -/
def resultToken (d : Desc) (s : State) : State :=
  if arg d 45 1 = 255 then s
  else if (streamOf (arg d 44 1) s).isNone then plnEvent 0x0007 (arg d 44 1) s
  else hubToken (arg d 44 1) (arg d 43 1 % 4) (arg d 45 1) s

/-- PLAN_RESULT: reduction, result, token, completion, handover (R306 to R309). -/
def planResult (s : State) : State :=
  match s.plan.cycle with
  | none => s
  | some y =>
    match consumedById y.id s with
    | none => endPlanCycle (dropSource 2 s)
    | some c =>
      let o := planOutcome y s
      let s := { s with freeCtr := s.freeCtr + 1 }
      let stale := y.map.version != getF Fld.plnStatusVersion 0 s
      let status := if stale && o.status == Status.done then Status.doneStale else o.status
      let final := finalStatus c.desc (now32 s) status
      let bs := resultBytes y o final stale s
      let s := reportBrake y o.brakeHit (countResult o.status stale s)
      let f := plainFacts status o.chosen y.map.version
      let (f, s) := if spaceOf (outAddr c.desc) = 0 then (f, engineWrite 7 (outAddr c.desc % 2 ^ 48) bs s) else makeOutput c bs f s
      let s := resultToken c.desc s
      let s := endSource 2 s
      let s := completeOrWait c f s
      let final := max final f.status
      let hand := !(argNoCle c.desc) && (((final == Status.done || final == Status.doneLate) && !stale)
        || final == Status.noPath || final == Status.noSafeStop)
      endPlanCycle (if hand then handOver y o s else s)

/-- A running cycle ended by its lattice's job: no output and no token (R300). -/
def abortCycle (status : Nat) (s : State) : State :=
  match s.plan.cycle with
  | none => s
  | some y => endPlanCycle (completeId y.id (plainFacts status 0 0) (dropSource 2 s))

/-! ### Tables (R295) -/

/-- A planner table of a kind is well formed. -/
def planTableOk (kind : Nat) (data : List Byte) : Bool :=
  match kind with
  | 1 => data.length == 131072
  | 2 => data.length == 16384
      && (List.range 1024).all fun c => decide (rdLE data (16 * c + 2) 2 ≤ 4096) && rdLE data (16 * c + 6) 10 == 0
  | _ => false

/-- VERSION exceeds those of the active tree and of the TREE writes that wait (R265). -/
def treeVersionOk (v : Nat) (s : State) : Bool :=
  versionOk (tableKey 2 3 0) v s
    && s.plan.trees.all fun p => decide ((((consumedById p.1 s).map fun c => arg c.desc 44 4).getD 0) < v)

/-- A TREE write (R295). -/
def treeWrite (c : Consumed) (data : List Byte) (s : State) : State :=
  if getB Fld.plnWriterEn 0 s || data.length != 64 + 8 * treeCount data || (treeFault data).isSome then refuseFormat c 0x0110 0 s
  else if !(treeVersionOk (arg c.desc 44 4) s) then refuseFormat c 0x0111 0 s
  else showPlan (admitTree (setPlan { s.plan with trees := s.plan.trees ++ [(c.id, data)] } s))

/-- A write of PLN_WRITER: discarded while EN is 1 and a bank is not released. -/
def plnWriterWrite (mask v : Nat) (s : State) : State :=
  if getB Fld.plnWriterEn 0 s && !(bankReleased 0 s && bankReleased 1 s) then s
  else setR .plnWriter 0 (writtenVal .plnWriter (getR .plnWriter 0 s) mask v) s

end Sys2Proof.Machine
end

