-- ==== Sys2Proof/Machine/Fusion.lean ====
section
/-!
DEFINITION. Logical sensors and their intake, fusion posts, closes and results (chapter 11: R256 to R278, R286). The geometry of
lifting and the tracks stand in Lifting.
-/
namespace Sys2Proof.Machine
open Sys2Proof

/-- A FUS event (R286). -/
def fusEvent (detail aux : Nat) (s : State) : State := postEvent 6 detail Status.done aux s

def setFus (x : Fusion) (s : State) : State := { s with fus := x }

/-- The fusion engine runs: FUS is on. -/
def fusOn (s : State) : Bool := domOn Dom.fus s

/-! ### Sensor entries (Table FUS-1) -/

namespace SE
def kind (e : Nat) : Nat := bitsAt e 0 3
def port (e : Nat) : Nat := bitsAt e 8 3
def cs (e : Nat) : Nat := bitsAt e 11 2
def vc (e : Nat) : Nat := bitsAt e 16 4
def dt (e : Nat) : Nat := bitsAt e 24 8
def tsSrc (e : Nat) : Nat := bitsAt e 32 2
def tsGen (e : Nat) : Nat := bitsAt e 40 6
def tsOff (e : Nat) : Nat := bitsAt e 48 16
def offset (e : Nat) : Int := sext 32 (bitsAt e 64 32)
def param0 (e : Nat) : Nat := bitsAt e 96 16
def param1 (e : Nat) : Nat := bitsAt e 112 16
def bufAddr (e : Nat) : Nat := bitsAt e 128 48
def bufCount (e : Nat) : Nat := bitsAt e 176 8
def bufStride (e : Nat) : Nat := bitsAt e 192 32
def tokenDie (e : Nat) : Nat := bitsAt e 224 2
def token (e : Nat) : Nat := bitsAt e 232 8
def tokenStream (e : Nat) : Nat := bitsAt e 240 8
def c (e : Nat) : Nat := bitsAt e 256 7
def chBase (e : Nat) : Nat := bitsAt e 264 6
def occCh (e : Nat) : Nat := bitsAt e 272 8
def splatMax (e : Nat) : Bool := bitsAt e 280 1 == 1
def retEv (e : Nat) : Nat := bitsAt e 288 8
def freeEv (e : Nat) : Nat := bitsAt e 296 8
def carveMax (e : Nat) : Nat := bitsAt e 304 8
def wMin (e : Nat) : Nat := bitsAt e 312 8
def silentMs (e : Nat) : Nat := bitsAt e 320 16
def fields : List (Nat × Nat) :=
  [(0, 3), (8, 5), (16, 4), (24, 10), (40, 6), (48, 136), (192, 34), (232, 16), (256, 7), (264, 6), (272, 9), (288, 48)]
end SE

def fusKey (kind sensor : Nat) : Nat := tableKey 1 kind sensor

/-- The active entry of a sensor; 0, which is OFF, where there is none. -/
def sensorEntry (i : Nat) (s : State) : Nat := ((activeTable (fusKey 1 i) s).map leNat).getD 0

/-- A camera entry, and a range entry. -/
def isCamera (e : Nat) : Bool := SE.kind e == 1
def isCsi (e : Nat) : Bool := SE.kind e == 1 || SE.kind e == 2
def isRange (e : Nat) : Bool := SE.kind e == 2 || SE.kind e == 3
/-- An entry that has buffers. -/
def hasBuffers (e : Nat) : Bool := decide (1 ≤ SE.kind e) && decide (SE.kind e ≤ 4)

/-- The UDP port of an ETH_RANGE entry: matched only with EtherType 0x0800, where 0 is any (Table FUS-1). -/
def udpPort (e : Nat) : Nat := if SE.param0 e = 0x0800 then SE.param1 e else 0

/-- Two entries name one physical source (R256). -/
def sameSource (a b : Nat) : Bool :=
  if isCsi a && isCsi b then SE.port a == SE.port b && SE.vc a == SE.vc b && SE.dt a == SE.dt b
  else if SE.kind a == 3 && SE.kind b == 3 then SE.port a == SE.port b && SE.param0 a == SE.param0 b && udpPort a == udpPort b
  else if SE.kind a == 4 && SE.kind b == 4 then SE.port a == SE.port b && SE.cs a == SE.cs b
  else false

/-- The CSI data types of Table FUS-2. -/
def csiTypes : List Nat := [0x2A, 0x2B, 0x2C, 0x1E, 0x24, 0x30, 0x31, 0x32, 0x33, 0x34, 0x35, 0x36, 0x37]

/-- The buffers of an entry lie within one object of TOKEN_STREAM's job (R257). -/
def buffersOk (e : Nat) (s : State) : Bool :=
  decide (2 ≤ SE.bufCount e) && decide (SE.bufCount e ≤ 64) && SE.bufStride e % 64 == 0
    && inOneObject (SE.bufAddr e) ((SE.bufCount e - 1) * SE.bufStride e + SE.bufStride e) s
    && ((streamOf (SE.tokenStream e) s).map fun x => x.job) == some (slotOf (SE.bufAddr e))

/-- Fields that only one kind of entry uses (Table FUS-1, R258, R260, R261). -/
def kindFieldsOk (e : Nat) : Bool :=
  match SE.kind e with
  | 1 => csiTypes.contains (SE.dt e)
  | 2 => csiTypes.contains (SE.dt e)
  | 3 => decide (SE.port e < 4) && SE.param0 e != 0x88B5 && SE.param0 e != 0x88F7
      && !(SE.param0 e == 0x0800 && (SE.param1 e == 319 || SE.param1 e == 320))
  | 4 => decide (SE.port e < 4) && decide (100 ≤ SE.param0 e) && decide (1 ≤ SE.param1 e / 256) && decide (SE.param1 e / 256 ≤ 24)
  | _ => true

/-- The entry that a sensor has once its pending version is active. -/
def comingEntry (i : Nat) (s : State) : Nat := ((comingTable (fusKey 1 i) s).map leNat).getD 0

/-- A SENSOR table of a sensor is well formed (R256 to R260). A source that another sensor's pending entry names is taken as well, and the
four entries of a CSI port are counted with pending ones: they would be active together (DEDUCED, log 76). -/
def sensorTableOk (i e : Nat) (s : State) : Bool :=
  let rest := (List.range 32).filter (· != i)
  let others := rest.map fun k => sensorEntry k s
  let coming := rest.map fun k => comingEntry k s
  decide (SE.kind e ≤ 5) && reservedZero e SE.fields
    && (SE.kind e == 0 ||
        (decide (SE.c e ≤ 64) && decide (SE.chBase e + SE.c e ≤ 64) && (SE.occCh e == 255 || decide (SE.occCh e < SE.c e))
          && kindFieldsOk e && (!(hasBuffers e) || buffersOk e s) && !((others ++ coming).any (sameSource e))
          && (!(isCsi e) || decide ((coming.filter fun o => isCsi o && SE.port o == SE.port e).length < 4))))

/-- A RIGID table is well formed (R267). -/
def rigidOk (bs : List Byte) : Bool :=
  bs.length == 64 && (decide (rdLE bs 0 1 < 32) || rdLE bs 0 1 == 255) && rdLE bs 1 3 == 0 && rdLE bs 32 32 == 0

/-- Header fields of a RAY table (R268). -/
def rayRows (bs : List Byte) : Nat := rdLE bs 0 2
def rayCols (bs : List Byte) : Nat := rdLE bs 2 2
def rayStep (bs : List Byte) : Nat := rdLE bs 4 1
def rayBins (bs : List Byte) : Nat := rdLE bs 5 1
def rayDepth (bs : List Byte) (b : Nat) : Nat := rdLE bs (8 + 2 * b) 2
def rayNodes (n s : Nat) : Nat := ceilDiv (n - 1) (2 ^ s) + 1

/-- A RAY table of a sensor is well formed (R268). -/
def rayOk (i : Nat) (bs : List Byte) (s : State) : Bool :=
  let e := comingEntry i s
  let nodes := rayNodes (rayRows bs) (rayStep bs) * rayNodes (rayCols bs) (rayStep bs)
  decide (1 ≤ rayRows bs) && decide (rayRows bs ≤ 1024) && decide (1 ≤ rayCols bs) && decide (rayCols bs ≤ 1024)
    && decide (rayStep bs ≤ 3) && decide (rayBins bs ≤ 16) && (!(isCamera e) || rayBins bs != 0) && (!(isRange e) || rayBins bs == 0)
    && rdLE bs 6 2 == 0 && rdLE bs 40 24 == 0 && bs.length == 64 + 8 * nodes && decide (bs.length ≤ 65536)
    && (List.range nodes).all fun n => rdLE bs (64 + 8 * n + 6) 2 == 0

/-- A KINEMATIC table is well formed (R267, Table FUS-6). -/
def kinematicOk (bs : List Byte) : Bool :=
  let n := rdLE bs 0 1
  decide (1 ≤ n) && decide (n ≤ 32) && rdLE bs 1 15 == 0 && bs.length == 16 + 64 * n
    && (List.range n).all fun l =>
      let o := 16 + 64 * l
      (decide (rdLE bs o 1 < l) || rdLE bs o 1 == 255) && decide (rdLE bs (o + 1) 1 < 3) && decide (rdLE bs (o + 2) 1 < 64)
        && rdLE bs (o + 3) 1 == 0 && rdLE bs (o + 40) 24 == 0

/-- A fusion table is well formed. -/
def fusTableOk (kind i : Nat) (bs : List Byte) (s : State) : Bool :=
  match kind with
  | 1 => bs.length == 64 && sensorTableOk i (leNat bs) s
  | 2 => rigidOk bs
  | 3 => rayOk i bs s
  | 4 => i == 0 && kinematicOk bs
  | _ => false

/-! ### Activation (R266) -/

/-- A sensor's intake begins anew when its entry activates. -/
def freshSensor (s : State) : Sensor := ⟨0, s.clock, false, false, s.timeN, 0⟩

/-- Every ready pending version of the fusion engine activates; TABLE_EPOCH counts once (R266). -/
def fusActivate (aux : Nat) (s : State) : State :=
  let l := readyTables 1 s
  if l.isEmpty then s
  else
    let s := setF Fld.fusStatusTableEpoch 0 (getF Fld.fusStatusTableEpoch 0 s + 1) s
    forEach l (fun p s =>
      let s := activateTable p aux s
      if tableKind p.key = 1 then setFus { s.fus with sensors := mapSet s.fus.sensors (p.key % 64) (freshSensor s) } s else s) s

/-- TABLE_ACTIVATION: while instants are stopped, ready versions activate (R266). -/
def execTableActivation (s : State) : Host.Outcome State Fault Refusal :=
  .next (onlyIf (running s && fusOn s && !(getB Fld.fusCtrlEnable 0 s)) (fusActivate 0xFFFFFFFF) s)

/-! ### Intake (R257 to R263) -/

def sensorOf (i : Nat) (s : State) : Sensor := (mapGet s.fus.sensors i).getD ⟨0, 0, false, false, 0, 0⟩
def adjSensor (i : Nat) (f : Sensor → Sensor) (s : State) : State :=
  setFus { s.fus with sensors := mapSet s.fus.sensors i (f (sensorOf i s)) } s

/-- The receiver's domain of an entry is on (R263). -/
def receiverOn (e : Nat) (s : State) : Bool :=
  domOn (match SE.kind e with
    | 1 => if SE.port e < 4 then Dom.csia else Dom.csib
    | 2 => if SE.port e < 4 then Dom.csia else Dom.csib
    | 3 => Dom.eth
    | _ => Dom.jport) s

/-- Intake for an entry runs (R257, R263). A CSI port needs lanes (FUS_CSI_CFG). -/
def intakeOn (i : Nat) (s : State) : Bool :=
  let e := sensorEntry i s
  fusOn s && hasBuffers e && receiverOn e s && !(sensorOf i s).stopped
    && (!(isCsi e) || bitsAt (getR .fusCsiCfg 0 s) (8 * SE.port e) 2 != 0)

/-- The last firing of a generator at or before a time; none where it has not fired. -/
def lastFiring (g t : Nat) (s : State) : Option Nat :=
  match (genOf g s).last with
  | none => none
  | some l =>
    if l ≤ t then some l
    else
      let per := genPeriod g s
      let f := l - ceilDiv (l - t) per * per
      if per = 0 ∨ f < genStart g s then none else some f

/-- T_SAMPLE of a sample taken at a point, and whether an embedded time was rejected (R259). A generator that has not fired by then
gives no time: open (log 46). -/
def sampleTime (e point : Nat) (frame : List Byte) (s : State) : Nat × Bool :=
  let put (t : Int) : Nat := toField 32 (t + SE.offset e)
  match SE.tsSrc e with
  | 0 => (put point, false)
  | 1 => (match lastFiring (SE.tsGen e) point s with
      | some t => put t
      | none => Config.free 18 s.freeCtr % 2 ^ 32, false)
  | k =>
    let at' (o : Nat) : Nat :=
      if k = 2 then rdLE frame (SE.tsOff e + o) 4 else leNat ((frame.drop (SE.tsOff e + o)).take 4).reverse
    let sec := point / secNs
    let t := (sec / 2 ^ 32 * 2 ^ 32 + at' 0) * secNs + at' 4 % 2 ^ 30
    if secNs < (max t point - min t point) then (put point, true) else (put t, false)

/-- The lines of a payload with their offsets: each starts on a 64-byte boundary (R257). An Ethernet or SPI payload is one line. -/
def payloadParts : Nat → List (List Byte) → List (Nat × List Byte)
  | _, [] => []
  | o, l :: ls => (o, l) :: payloadParts (ceilDiv (o + l.length) 64 * 64) ls

/-- Bytes of a payload as it lies in the buffer. -/
def payloadEnd (parts : List (Nat × List Byte)) : Nat := (parts.getLast?.map fun p => p.1 + p.2.length).getD 0

/-- A sample landed in the next buffer: payload, header, token (R257). `errors` are STATUS bits 0 and 2 as received. -/
def landSample (i e : Nat) (time : Nat) (errors : Nat) (lines : List (List Byte)) (s : State) : State :=
  let x := sensorOf i s
  let base := SE.bufAddr e + x.count % SE.bufCount e * SE.bufStride e
  let off := if isCsi e then 64 else 32
  let room := SE.bufStride e - off
  let parts := payloadParts 0 lines
  let len := payloadEnd parts
  let cut := decide (room < len)
  let status := errors + cut.toNat * 2
  let s := if errors % 2 = 1 then incF Fld.fusStats2IntakeErr 0 s else s
  let s := if cut then incF Fld.fusStats2IntakeErr 0 s else s
  let s := forEach (parts.filter fun p => decide (p.1 < room)) (fun p s =>
    engineWrite 6 (base + off + p.1) (p.2.take (room - p.1)) s) s
  let head := natLe 4 time ++ natLe 4 x.count ++ natLe 4 (min len room) ++ [BitVec.ofNat 8 status] ++ List.replicate 19 0
  let s := engineWrite 6 base head s
  let s := adjSensor i (fun x => { x with count := x.count + 1, last := s.clock, silent := false }) s
  hubToken (SE.tokenStream e) (SE.tokenDie e) (SE.token e) s

/-- The sample point of Table FUS-3: the time unit stamped it `age` ns ago. -/
def samplePoint (e age : Nat) (s : State) : Nat :=
  let p := s.timeN - age
  if SE.kind e = 3 then p - getF Fld.timePtpLatIngress (SE.port e) s else p

/-- A camera or Ethernet sample (R257, R259). -/
def takeSample (i age : Nat) (errors : BitVec 3) (lines : List (List Byte)) (s : State) : State :=
  let e := sensorEntry i s
  let (t, bad) := sampleTime e (samplePoint e age s) lines.flatten s
  landSample i e t ((errors.toNat &&& 5) + bad.toNat * 8) lines s

/-- Bits of a pixel of a CSI data type; user-defined data counts bytes (Table FUS-2). -/
def pixelBits (dt : Nat) : Nat :=
  if dt = 0x2B then 10 else if dt = 0x2C then 12 else if dt = 0x1E then 16 else if dt = 0x24 then 24 else 8

/-- A frame within the receiver's size: 8,192 lines of 8,192 pixels (Table FUS-2). -/
def frameFits (e : Nat) (lines : List (List Byte)) : Bool :=
  decide (lines.length ≤ 8192) && lines.all fun l => decide (8 * l.length ≤ 8192 * pixelBits (SE.dt e))

/-- A big-endian 16-bit field of a frame. -/
def be16 (f : List Byte) (o : Nat) : Nat := (byteAt f o).toNat * 256 + (byteAt f (o + 1)).toNat

/-- Where the inner EtherType of a frame stands: behind an IEEE 802.1Q tag, where there is one. -/
def typeOffset (f : List Byte) : Nat := if be16 f 12 = 0x8100 then 16 else 12

/-- The UDP destination port of an IPv4 frame. -/
def udpDest (f : List Byte) : Option Nat :=
  let h := typeOffset f + 2
  if be16 f (typeOffset f) = 0x0800 ∧ byteAt f (h + 9) = 17 then some (be16 f (h + 4 * ((byteAt f h).toNat % 16) + 2)) else none

/-- An Ethernet frame goes to the entry: EtherType and UDP port match, and neither is one of the module's own (R260). -/
def frameMatches (e : Nat) (f : List Byte) : Bool :=
  let t := be16 f (typeOffset f)
  t == SE.param0 e && t != 0x88B5 && t != 0x88F7 && !([319, 320].contains ((udpDest f).getD 0))
    && (udpPort e == 0 || udpDest f == some (udpPort e))

/-- A sample is one that its entry takes in: a camera frame within the receiver's size, or an Ethernet frame that matches. -/
def sampleTaken (e : Nat) (lines : List (List Byte)) : Bool :=
  if isCsi e then frameFits e lines else SE.kind e == 3 && frameMatches e lines.flatten

/-- An SPI assertion is due: its time has come (R261). -/
def spiDue (i : Nat) (s : State) : Bool := decide ((sensorOf i s).spiNext ≤ s.timeN)

/-- Clock time of an SPI transaction in ns: command byte and read length at the rate of JP_SPI_CFG. -/
def spiNs (e : Nat) (s : State) : Nat := (1 + SE.param1 e / 256) * 8 * 20 * (bitsAt (getR .jpSpiCfg 0 s) (16 * SE.port e) 8 + 1)

/-- SPI_ASSERTION: a transaction, or a skip while one runs (R261). -/
def spiAssert (i : Nat) (bytes : List Byte) (s : State) : State :=
  let e := sensorEntry i s
  let x := sensorOf i s
  let s := adjSensor i (fun x => { x with spiNext := x.spiNext + SE.param0 e * 1000 }) s
  if s.clock < x.spiEnd then incF Fld.fusStats2IntakeErr 0 s
  else
    let (t, _) := sampleTime e s.timeN [] s
    landSample i e t 0 [fitBytes (SE.param1 e / 256) bytes] (adjSensor i (fun x => { x with spiEnd := s.clock + spiNs e s }) s)

/-- SENSOR_SILENT (R262). -/
def silentDue (i : Nat) (s : State) : Bool :=
  let e := sensorEntry i s
  let x := sensorOf i s
  fusOn s && SE.kind e != 0 && SE.silentMs e != 0 && !x.silent && decide (x.last + SE.silentMs e * 1000000 ≤ s.clock)

def execSensorSilent (entry : Fin 32) (s : State) : Host.Outcome State Fault Refusal :=
  .next (onlyIf (running s && silentDue entry.val s) (fun s => fusEvent 0x0007 entry.val (adjSensor entry.val (fun x => { x with silent := true }) s)) s)

/-- Intake stops for the entries whose buffers lie in a job that is unloaded (R257). -/
def stopIntakes (job : Nat) (s : State) : State :=
  forEach ((List.range 32).filter fun i =>
      let e := sensorEntry i s
      hasBuffers e && slotOf (SE.bufAddr e) == job && !(sensorOf i s).stopped)
    (fun i s => fusEvent 0x0004 i (adjSensor i (fun x => { x with stopped := true }) s)) s

/-! ### Posts (Table FUS-7, R270, R271, R273) -/

namespace PL
def type (l : BitVec 512) : Nat := fld l 0 8
def sensor (l : BitVec 512) : Nat := fld l 8 8
def doneToken (l : BitVec 512) : Nat := fld l 16 8
def tSample (l : BitVec 512) : Nat := fld l 32 32
def addr (l : BitVec 512) : Nat := fld l 64 48
def rows (l : BitVec 512) : Nat := fld l 128 16
def cols (l : BitVec 512) : Nat := fld l 144 16
def pitch (l : BitVec 512) : Nat := fld l 160 32
def pos (l : BitVec 512) : List Int := (List.range 3).map fun k => sext 32 (fld l (192 + 32 * k) 32)
def rot (l : BitVec 512) : List Int := (List.range 4).map fun k => sext 16 (fld l (288 + 16 * k) 16)
end PL

/-- Instants and their settings in force: period, hold and lateness in ns (FUS_TIMING). -/
def fusPeriod (s : State) : Nat := min 1000000 (max 10000 (newF Fld.fusTimingPeriodUs s.fus.timing)) * 1000
def fusHold (s : State) : Nat :=
  let h := newF Fld.fusTimingHoldUs s.fus.timing * 1000
  if fusPeriod s ≤ h then fusPeriod s / 2 else h
def fusLate (s : State) : Nat := newF Fld.fusTimingLateUs s.fus.timing * 1000

/-- Time and close of an instant (R272). -/
def instantTime (k : Nat) (s : State) : Nat := s.fus.start + k * fusPeriod s
def closeTime (k : Nat) (s : State) : Nat := instantTime k s + fusHold s

/-- The instant in whose window a time lies; below 0 before all windows. -/
def ownInstant (t : Nat) (s : State) : Int := -(((s.fus.start : Int) - t) / (fusPeriod s : Int))

/-- Bytes of a feature cell, and of a map (R270). -/
def cellBytes (e : Nat) (ray : List Byte) : Nat := if isCamera e then SE.c e + rayBins ray else 2 + SE.c e

/-- The cause for which a post is refused (R271); 0 for none. -/
def postCause (st : Nat) (l : BitVec 512) (s : State) : Nat :=
  let e := if PL.sensor l < 32 then sensorEntry (PL.sensor l) s else 0
  let job := ((streamOf st s).map fun x => x.job).getD 32
  let inside (n : Nat) : Bool := slotOf (PL.addr l) == job && inOneObject (PL.addr l) n s
  if PL.type l < 1 ∨ 3 < PL.type l ∨ fld l 24 8 ≠ 0 ∨ fld l 112 16 ≠ 0 ∨ fld l 352 160 ≠ 0 then 1
  else if (PL.type l = 1 ∧ !(isCamera e || isRange e)) ∨ (PL.type l = 2 ∧ PL.sensor l ≠ 255) ∨ (PL.type l = 3 ∧ SE.kind e ≠ 5) then 2
  else if PL.type l = 1 ∧ !(match activeTable (fusKey 3 (PL.sensor l)) s with
      | some r => rayRows r == PL.rows l && rayCols r == PL.cols l
          && inside ((PL.rows l - 1) * PL.pitch l + PL.cols l * cellBytes e r)
      | none => false) then 3
  else if PL.type l = 2 ∧ !(decide (1 ≤ PL.rows l) && decide (PL.rows l ≤ 256) && inside (16 * PL.rows l)) then 3
  else if 1024 ≤ s.fus.posts.length then 4
  else if (s.timeN : Int) < extend32 s.timeN (PL.tSample l) then 5
  else 0

/-- The DONE_TOKEN of a post (R270). -/
def postToken (d st : Nat) (l : BitVec 512) (s : State) : State := hubToken st d (PL.doneToken l) s

/-- A post refused, or a send discarded (cause 6): counted and reported; a refused post's DONE_TOKEN increments (R264, R271). -/
def refusePost (d st index cause : Nat) (s : State) : State :=
  fusEvent 0x0003 (index + cause * 4096 + st * 65536 + d * 2 ^ 24) (if cause = 6 then s else incF Fld.fusStats2PostRefused 0 s)

/-- A list of poses kept in rising time, the last 256. -/
def insertPose (p : FusPose) : List FusPose → List FusPose
  | [] => [p]
  | q :: l => if p.time < q.time then p :: q :: l else if p.time = q.time then p :: l else q :: insertPose p l

/-- A late post dropped (R273). -/
def dropLate (d st : Nat) (l : BitVec 512) (s : State) : State :=
  postToken d st l (incF Fld.fusStatsLateDrop 0 (setFus { s.fus with drops := s.fus.drops + 1 } s))

/-- A FEATURE post assigned to its instant, or folded, or dropped (R273). -/
def placePost (p : FusPost) (s : State) : State :=
  let o := ownInstant p.time s
  match s.fus.next with
  | none => setFus { s.fus with posts := s.fus.posts ++ [{ p with instant := o.toNat }] } s
  | some j =>
    if (j : Int) ≤ o then setFus { s.fus with posts := s.fus.posts ++ [{ p with instant := o.toNat }] } s
    else if instantTime j s ≤ p.time + fusLate s then
      incF Fld.fusStatsLateFold 0 (setFus { s.fus with posts := s.fus.posts ++ [{ p with instant := j, late := true }] } s)
    else dropLate p.die p.stream p.content s

/-- A post line taken when it lands (R270). -/
def landPost (d st index : Nat) (l : BitVec 512) (s : State) : State :=
  if !(fusOn s) then s
  else
    let cause := postCause st l s
    if cause ≠ 0 then postToken d st l (refusePost d st index cause s)
    else
      let t := (extend32 s.timeN (PL.tSample l)).toNat
      if PL.type l = 3 then
        let ps := insertPose ⟨t, PL.pos l, PL.rot l⟩ s.fus.poses
        postToken d st l (setFus { s.fus with poses := ps.drop (ps.length - 256) } s)
      else
        let p : FusPost := { die := d, stream := st, line := index, content := l, time := t, instant := 0, late := false }
        if PL.type l = 1 then placePost p s else setFus { s.fus with posts := s.fus.posts ++ [p] } s

/-- A send into the fusion store: only the post window takes lines (R264). -/
def fusSend (d st off : Nat) (l : List Byte) (s : State) : State :=
  if 0x590000 ≤ off ∧ off < 0x5A0000 then landPost d st ((off - 0x590000) / 64) (BitVec.ofNat 512 (leNat l)) s
  else if fusOn s then refusePost d st 0 6 s
  else s

/-! ### Enabling instants (R272) -/

/-- FEATURE posts that landed while no instants ran find their instants: one whose own instant never closes is late (R273; log 79). -/
def replacePosts (s : State) : State :=
  let ps := s.fus.posts.filter fun p => PL.type p.content == 1
  let s := setFus { s.fus with posts := s.fus.posts.filter fun p => PL.type p.content != 1 } s
  forEach ps (fun p s => placePost { p with late := false } s) s

/-- Instants start at the first k whose close is not earlier than the time base. -/
def startInstants (s : State) : State :=
  let s := setFus { s.fus with
    timing := getR .fusTiming 0 s
    grid := getR .fusGridCfg 0 s
    start := fullTime (getF Fld.fusStartSec 0 s) (getF Fld.fusStartNs 0 s) s } s
  let k := ceilDiv (s.timeN - (s.fus.start + fusHold s)) (fusPeriod s)
  replacePosts (setFus { s.fus with next := some k } s)

/-- A write of FUS_CTRL (R272). -/
def fusCtrlWrite (mask v : Nat) (s : State) : State :=
  let old := getR .fusCtrl 0 s
  let new := writtenVal .fusCtrl old mask v
  let s := setR .fusCtrl 0 new s
  if new % 2 = 1 ∧ old % 2 = 0 then startInstants s
  else if new % 2 = 0 ∧ old % 2 = 1 then setFus { s.fus with next := none } s
  else s

/-- FUSION_ENABLE: a 4-byte write of FUS_CTRL (R272). -/
def execFusionEnable (v : BitVec 32) (s : State) : Host.Outcome State Fault Refusal :=
  .next (onlyIf (running s && fusOn s) (fusCtrlWrite (2 ^ 32 - 1) v.toNat) s)

/-! ### Skipped instants (R277, R278) -/

/-- Posts of an instant that is skipped become late for the next one (R273, R277). -/
def relayPosts (k : Nat) (s : State) : State :=
  let ps := s.fus.posts.filter fun p => PL.type p.content == 1 && p.instant == k
  let s := setFus { s.fus with posts := s.fus.posts.filter fun p => !(PL.type p.content == 1 && p.instant == k) } s
  forEach ps (fun p s => placePost { p with late := false } s) s

/-- An instant skipped. -/
def skipInstant (k : Nat) (s : State) : State :=
  let s := fusEvent 0x0002 k (incF Fld.fusStatsSkipped 0 (setFus { s.fus with next := some (k + 1), skipped := true } s))
  relayPosts k s

/-- A step of the time base: of the closes that a forward step passes all but the last are skipped; after a backward step later
history entries are discarded (R278). -/
def fusStep (old : Nat) (s : State) : State :=
  if s.timeN < old then
    setFus { s.fus with
      kin := s.fus.kin.map fun (c, l) => (c, l.filter fun x => decide (x.1 ≤ s.timeN))
      poses := s.fus.poses.filter fun p => decide (p.time ≤ s.timeN) } s
  else match s.fus.next with
    | none => s
    | some k =>
      if s.timeN < closeTime k s then s
      else
        let passed := (s.timeN - closeTime k s) / fusPeriod s
        (List.range passed).foldl (fun s i => skipInstant (k + i) s) s

/-! ### Joint history (R269) -/

/-- Channels that drive a link of the active KINEMATIC table. -/
def linkChannels (s : State) : List Nat :=
  match activeTable (fusKey 4 0) s with
  | none => []
  | some t => ((List.range (rdLE t 0 1)).map fun l => rdLE t (16 + 64 * l + 2) 1).eraseDups

/-- Position feedback recorded, at most once in 100 µs, 1,024 entries a channel. FB0 is the position (log 47). -/
def recordKin (chans : List Nat) (s : State) : State :=
  if !(fusOn s) then s
  else
    forEach (chans.filter fun c => (linkChannels s).contains c) (fun c s =>
      let l := (mapGet s.fus.kin c).getD []
      let t := (extend32 s.timeN (chanOf c s).tSample.toNat).toNat
      let soon := match l.getLast? with
        | some x => decide (t < x.1 + 100000)
        | none => false
      if soon then s
      else
        let l := l ++ [(t, (chanOf c s).fb.getD 0 0)]
        setFus { s.fus with kin := mapSet s.fus.kin c (l.drop (l.length - 1024)) } s) s

end Sys2Proof.Machine
end

