-- ==== Sys2Proof/Machine/Lifting.lean ====
section
/-!
DEFINITION. The geometry of fusion, lifting and evidence, tracks, and what a close and a result do (R267 to R269, R272, R274 to
R277, R279 to R285). Geometry is exact over the rationals; the cosines, sines and roots in it are the free functions of Config.
-/
namespace Sys2Proof.Machine
open Sys2Proof

/-! ### Vectors, rotations and transforms -/

/-- The value of an FP32 table field. -/
def ratF32 (x : Nat) : Rat :=
  match decodeF fp32 x with
  | .fin neg m e =>
    let v : Rat := if 0 ≤ e then (m * 2 ^ e.toNat : Nat) else (m : Rat) / (2 ^ (-e).toNat : Nat)
    if neg then -v else v
  | .nan => Config.notNumber x
  | .inf _ => Config.notNumber x

/-- `n` FP32 fields from a byte on. -/
def ratsAt (bs : List Byte) (o n : Nat) : List Rat := (List.range n).map fun k => ratF32 (rdLE bs (o + 4 * k) 4)

def comp (v : List Rat) (k : Nat) : Rat := v.getD k 0

/-- Sum of squares. -/
def norm2 (v : List Rat) : Rat := (v.map fun x => x * x).sum

/-- A vector turned by a quaternion, which is normalised (R267). -/
def rotate (q v : List Rat) : List Rat :=
  let n := norm2 q
  if n = 0 then (List.range 3).map Config.noDirection
  else
    let w := comp q 0
    let x := comp q 1
    let y := comp q 2
    let z := comp q 3
    let a := comp v 0
    let b := comp v 1
    let c := comp v 2
    [((w * w + x * x - y * y - z * z) * a + 2 * (x * y - w * z) * b + 2 * (x * z + w * y) * c) / n,
      (2 * (x * y + w * z) * a + (w * w - x * x + y * y - z * z) * b + 2 * (y * z - w * x) * c) / n,
      (2 * (x * z - w * y) * a + 2 * (y * z + w * x) * b + (w * w - x * x - y * y + z * z) * c) / n]

/-- A rigid motion: rotation, then translation in mm. -/
structure Motion where
  q : List Rat
  t : List Rat

/-- A point moved. -/
def Motion.apply (m : Motion) (v : List Rat) : List Rat := addVec m.t (rotate m.q v)

/-- Metres in mm. -/
def metres (v : List Rat) : List Rat := v.map fun x => 1000 * x

/-- A value between two, by a share. -/
def blend (f : Rat) (a b : List Rat) : List Rat := List.zipWith (fun x y => x + f * (y - x)) a b

/-! ### Histories (R269) -/

/-- The last entry at or before a time, and the first one after it. -/
def around {α : Type} (time : α → Nat) (t : Nat) (l : List α) : Option (α × Option α) :=
  ((l.filter fun x => decide (time x ≤ t)).getLast?).map fun a => (a, l.find? fun x => decide (t < time x))

/-- More than 5 ms after the newest entry. -/
def tooNew {α : Type} (time : α → Nat) (t : Nat) (l : List α) : Bool :=
  match l.getLast? with
  | some x => decide (time x + 5000000 < t)
  | none => true

/-- Share of the way from one time to the next. -/
def share (a b t : Nat) : Rat := ((t - a : Nat) : Rat) / ((b - a : Nat) : Rat)

def poseQ (p : FusPose) : List Rat := ratVec p.rot
def poseT (p : FusPose) : List Rat := ratVec p.pos

/-- The pose of the base at a time; the identity with no active POSE entry; none where the history does not reach (R269). -/
def poseAt (t : Nat) (s : State) : Option Motion :=
  if !((List.range 32).any fun i => SE.kind (sensorEntry i s) == 5) then some ⟨[1, 0, 0, 0], [0, 0, 0]⟩
  else if tooNew FusPose.time t s.fus.poses then none
  else match around FusPose.time t s.fus.poses with
    | none => none
    | some (a, none) => some ⟨poseQ a, poseT a⟩
    | some (a, some b) =>
      let f := share a.time b.time t
      some ⟨blend f (poseQ a) (poseQ b), blend f (poseT a) (poseT b)⟩

/-- The position feedback of a channel at a time. -/
def feedbackAt (c t : Nat) (s : State) : Option Rat :=
  let l := (mapGet s.fus.kin c).getD []
  if tooNew (fun x : Nat × Int => x.1) t l then none
  else match around (fun x : Nat × Int => x.1) t l with
    | none => none
    | some (a, none) => some a.2
    | some (a, some b) => some (a.2 + share a.1 b.1 t * (b.2 - a.2))

/-- The motions from the base to a link, outermost first: the joints of its ancestors and its own (Table FUS-6). -/
def chain (table : List Byte) (t : Nat) (s : State) : Nat → Nat → Option (List Motion)
  | 0, _ => none
  | f + 1, l =>
    let o := 16 + 64 * l
    if rdLE table 0 1 ≤ l then none
    else
      let up := rdLE table o 1
      let outer := if up = 255 then some [] else chain table t s f up
      let fixed : Motion := ⟨ratsAt table (o + 24) 4, metres (ratsAt table (o + 12) 3)⟩
      let value := (feedbackAt (rdLE table (o + 2) 1) t s).map fun fb => ratF32 (rdLE table (o + 4) 4) * fb + ratF32 (rdLE table (o + 8) 4)
      let joint := match rdLE table (o + 1) 1 with
        | 1 => value.map fun v => [fixed, ⟨[Config.cosRad (v / 2), 0, 0, Config.sinRad (v / 2)], [0, 0, 0]⟩]
        | 2 => value.map fun v => [fixed, ⟨[1, 0, 0, 0], [0, 0, 1000 * v]⟩]
        | _ => some [fixed]
      match outer, joint with
      | some a, some b => some (a ++ b)
      | _, _ => none

/-- The motions from the odometry frame to a sensor at a time; none where a history that they need does not reach, or where the
sensor has no RIGID table or names a link that no KINEMATIC table has (R267, R269). -/
def sensorMotions (i t : Nat) (s : State) : Option (List Motion) :=
  match poseAt t s, activeTable (fusKey 2 i) s with
  | some p, some r =>
    let link := rdLE r 0 1
    let links := if link = 255 then some [] else match activeTable (fusKey 4 0) s with
      | some k => chain k t s 32 link
      | none => none
    links.map fun ms => p :: ms ++ [⟨ratsAt r 16 4, metres (ratsAt r 4 3)⟩]
  | _, _ => none

/-- A point of the innermost frame in the outermost. -/
def moved (ms : List Motion) (v : List Rat) : List Rat := ms.foldr (fun m v => m.apply v) v

/-! ### Rays (R268) -/

/-- The direction of a node. -/
def rayNode (t : List Byte) (n : Nat) : List Rat :=
  (List.range 3).map fun k => ((sext 16 (rdLE t (64 + 8 * n + 2 * k) 2) : Int) : Rat) / 16384

/-- The ray of a feature cell: bilinear between four nodes, of unit length. -/
def rayOf (t : List Byte) (r c : Nat) : List Rat :=
  let st := 2 ^ rayStep t
  let nr := rayNodes (rayRows t) (rayStep t)
  let nc := rayNodes (rayCols t) (rayStep t)
  let node (a b : Nat) : List Rat := rayNode t (min a (nr - 1) * nc + min b (nc - 1))
  let a := r / st
  let b := c / st
  let fr : Rat := ((r % st : Nat) : Rat) / (st : Nat)
  let fc : Rat := ((c % st : Nat) : Rat) / (st : Nat)
  let d := blend fr (blend fc (node a b) (node a (b + 1))) (blend fc (node (a + 1) b) (node (a + 1) (b + 1)))
  if norm2 d = 0 then (List.range 3).map Config.noDirection else d.map fun x => x / Config.root (norm2 d)

/-! ### The grid of an instant (R272) -/

/-- The grid's settings and frame. -/
structure Grid where
  w : Nat
  h : Nat
  ch : Nat
  cell : Nat
  ox : Int
  oy : Int
  bz : Rat
  zMin : Int
  zMax : Int
  noPose : Bool

/-- W or H from its field. -/
def gridSide (v : Nat) : Nat := max 8 (min 256 v / 8 * 8)

/-- The base position for an instant's grid, and whether the newest pose, or none, stands in for it. -/
def basePos (t : Nat) (s : State) : List Rat × Bool :=
  match poseAt t s with
  | some m => (m.t, false)
  | none => match s.fus.poses.getLast? with
    | some p => (poseT p, true)
    | none => ((List.range 3).map fun k => ((sext 32 (Config.free (19 + k) s.freeCtr) : Int) : Rat), true)

/-- The grid of an instant, from the settings in force. -/
def gridAt (t : Nat) (s : State) : Grid :=
  let g := s.fus.grid
  let w := gridSide (newF Fld.fusGridCfgW g)
  let h := gridSide (newF Fld.fusGridCfgH g)
  let cell := min 2000 (max 10 (newF Fld.fusGridCfgCellMm g))
  let (p, np) := basePos t s
  { w := w, h := h, ch := min 64 (max 1 (newF Fld.fusGridCfgCh g)), cell := cell
    ox := ((comp p 0 / (cell : Nat)).floor - (w / 2 : Nat)) * (cell : Nat)
    oy := ((comp p 1 / (cell : Nat)).floor - (h / 2 : Nat)) * (cell : Nat)
    bz := comp p 2
    zMin := getI Fld.fusLiftCfgZMin 0 s
    zMax := getI Fld.fusLiftCfgZMax 0 s
    noPose := np }

/-- The cell of a point, which may lie outside. -/
def Grid.cellOf (g : Grid) (v : List Rat) : Int × Int :=
  (((comp v 0 - g.ox) / (g.cell : Nat)).floor, ((comp v 1 - g.oy) / (g.cell : Nat)).floor)

def Grid.inside (g : Grid) (c : Int × Int) : Bool :=
  decide (0 ≤ c.1) && decide (c.1 < g.w) && decide (0 ≤ c.2) && decide (c.2 < g.h)

/-- Index of a cell in the fusion store (Table FUS-4). -/
def cellIx (c : Int × Int) : Nat := 256 * c.2.toNat + c.1.toNat

/-! ### Evidence (R280 to R282) -/

/-- A pair list: V1, I1, V2, I2. -/
structure PairList where
  v1 : Nat
  i1 : Nat
  v2 : Nat
  i2 : Nat
  deriving DecidableEq, Repr

def noPairs : PairList := ⟨0, 255, 0, 255⟩

/-- A value from a sensor enters a pair list. -/
def PairList.add (i e : Nat) (p : PairList) : PairList :=
  let p := if i = p.i1 then { p with v1 := max p.v1 e }
    else if i = p.i2 then { p with v2 := max p.v2 e }
    else if p.v2 < e then { p with v2 := e, i2 := i }
    else p
  if p.v1 < p.v2 then ⟨p.v2, p.i2, p.v1, p.i1⟩ else p

/-- An evidence record (Table FUS-9). -/
structure Evid where
  occ : PairList
  free : PairList
  mask : Nat
  hits : Nat
  late : Bool
  deriving DecidableEq, Repr

def noEvid : Evid := ⟨noPairs, noPairs, 0, 0, false⟩

/-- SCORE (R281). -/
def Evid.score (x : Evid) : Nat :=
  let f1 := if x.free.i1 ≠ x.occ.i1 then x.free.v1 else x.free.v2
  let f2 := if x.free.i1 ≠ x.occ.i2 then x.free.v1 else x.free.v2
  max (min x.occ.v1 f1) (min x.occ.v2 f2)

/-- A cell is contested. -/
def Evid.contested (limit : Nat) (x : Evid) : Bool := decide (max 1 limit ≤ x.score)

/-- The occupancy byte (R282). -/
def Evid.occByte (limit : Nat) (x : Evid) : Nat :=
  let cls := if x.contested limit then 3
    else if x.occ.v1 = 0 ∧ x.free.v1 = 0 then 0
    else if x.occ.v1 < x.free.v1 then 1
    else 2
  cls + x.late.toNat * 4 + max x.occ.v1 x.free.v1 / 8 * 8

/-- The 16 bytes of a record. -/
def Evid.bytes (limit : Nat) (x : Evid) : List Byte :=
  [x.occ.v1, x.occ.i1, x.occ.v2, x.occ.i2, x.free.v1, x.free.i1, x.free.v2, x.free.i2].map (BitVec.ofNat 8) ++ natLe 4 x.mask
    ++ natLe 2 x.hits ++ [BitVec.ofNat 8 (x.occByte limit), BitVec.ofNat 8 x.late.toNat]

/-! ### Lifting (R279, R280) -/

/-- The grid and the evidence while an instant is lifted: signed bytes by 64 * cell + channel, records by cell. -/
structure Field2 where
  feats : SMap Int
  evid : SMap Evid

/-- A lift in progress: the field, and how many posts of the instant itself and late ones have been lifted. -/
structure Lift where
  field : Field2
  own : Nat
  folds : Nat

def Field2.ev (f : Field2) (c : Nat) : Evid := (mapGet f.evid c).getD noEvid

/-- Something of a sensor reaches a cell. -/
def reach (i : Nat) (late : Bool) (x : Evid) : Evid :=
  { x with mask := x.mask ||| 2 ^ i, hits := satAdd 16 x.hits 1, late := x.late || late }

/-- `x * w / 255` rounded, ties to even; a weight of none leaves the value. -/
def scaled (w : Option Nat) (x : Int) : Int :=
  match w with
  | some w => rneDiv (x * w) 255
  | none => x

/-- A feature value combined with a grid byte (R279). -/
def splat (useMax : Bool) (old v : Int) : Int := if useMax then max old v else satWidth 8 true (old + v)

/-- A point that remains: features and evidence of its cell. `w` is a camera's bin weight; `ret` a return's own evidence. -/
def addPoint (i e : Nat) (late : Bool) (c : Nat) (w : Option Nat) (feats : List Int) (ret : Nat) (f : Field2) : Field2 :=
  let feats' := feats.zipIdx.foldl (fun m (v, k) =>
    let key := 64 * c + SE.chBase e + k
    mapSet m key (splat (SE.splatMax e) ((mapGet m key).getD 0) (scaled w v))) f.feats
  let x := reach i late (f.ev c)
  let x := if SE.occCh e = 255 then x
    else
      let v := feats.getD (SE.occCh e) 0
      if 0 < v then { x with occ := x.occ.add i (scaled w (2 * v)).toNat }
      else if v < 0 then { x with free := x.free.add i (scaled w (min 255 (-2 * v))).toNat }
      else x
  let x := if ret = 0 then x else { x with occ := x.occ.add i ret }
  ⟨feats', mapSet f.evid c x⟩

/-- The cells that a traversal visits from a cell, up to but not including the last, at most `n`. An exact corner steps in x
first. -/
def traverse (x0 y0 dx dy : Rat) (last : Int × Int) : Nat → Int × Int → List (Int × Int)
  | 0, _ => []
  | n + 1, c =>
    if c = last then []
    else
      let bx : Rat := if 0 < dx then (c.1 + 1 : Int) else (c.1 : Int)
      let by' : Rat := if 0 < dy then (c.2 + 1 : Int) else (c.2 : Int)
      let stepX := c.2 = last.2 ∨ (c.1 ≠ last.1 ∧ (bx - x0) / dx ≤ (by' - y0) / dy)
      let next : Int × Int := if stepX then (if 0 < dx then c.1 + 1 else c.1 - 1, c.2) else (c.1, if 0 < dy then c.2 + 1 else c.2 - 1)
      c :: traverse x0 y0 dx dy last n next

/-- The cells carved by a return, seen from the sensor. -/
def carved (g : Grid) (e : Nat) (from' to' : List Rat) : List (Int × Int) :=
  let u (v : List Rat) (k : Nat) : Rat := (comp v k - (if k = 0 then g.ox else g.oy)) / (g.cell : Nat)
  traverse (u from' 0) (u from' 1) (u to' 0 - u from' 0) (u to' 1 - u from' 1) (g.cellOf to') (SE.carveMax e) (g.cellOf from')

/-- Free evidence of one carved cell. -/
def carveCell (g : Grid) (i e : Nat) (late : Bool) (c : Int × Int) (f : Field2) : Field2 :=
  if !(g.inside c) then f
  else
    let x := reach i late (f.ev (cellIx c))
    { f with evid := mapSet f.evid (cellIx c) { x with free := x.free.add i (SE.freeEv e) } }

/-- A signed byte. -/
def sbyte (b : Byte) : Int := sext 8 b.toNat

/-- One bin of a camera cell. -/
def liftBin (g : Grid) (i e : Nat) (late : Bool) (v : List Rat) (w : Nat) (feats : List Int) (f : Field2) : Field2 :=
  let c := g.cellOf v
  let z := comp v 2 - g.bz
  if w < SE.wMin e ∨ !(g.inside c) ∨ z < g.zMin ∨ (g.zMax : Rat) < z then f
  else addPoint i e late (cellIx c) (some w) feats 0 f

/-- One return of a range cell. -/
def liftReturn (g : Grid) (i e : Nat) (late : Bool) (sensor v : List Rat) (feats : List Int) (f : Field2) : Field2 :=
  let c := g.cellOf v
  let z := comp v 2 - g.bz
  if !(g.inside c) ∨ (g.zMax : Rat) < z then f
  else
    let f := (carved g e sensor v).foldl (fun f c => carveCell g i e late c f) f
    if z < g.zMin then f else addPoint i e late (cellIx c) none feats (SE.retEv e) f

/-- One feature cell of a post. -/
def liftCell (g : Grid) (i e : Nat) (ray : List Byte) (ms : List Motion) (late : Bool) (r c : Nat) (cell : List Byte) (f : Field2) : Field2 :=
  let d := rayOf ray r c
  let at' (mm : Nat) : List Rat := moved ms (d.map fun x => (mm : Rat) * x)
  if isCamera e then
    let feats := (List.range (SE.c e)).map fun k => sbyte (byteAt cell k)
    (List.range (rayBins ray)).foldl (fun f b =>
      liftBin g i e late (at' (rayDepth ray b)) (byteAt cell (SE.c e + b)).toNat feats f) f
  else
    let range := rdLE cell 0 2
    if range = 0 then f
    else
      let feats := (List.range (SE.c e)).map fun k => sbyte (byteAt cell (2 + k))
      liftReturn g i e late (moved ms [0, 0, 0]) (at' range) feats f

/-! ### Posts at a close -/

/-- The whole range that a FEATURE post reads. -/
def mapSpan (l : BitVec 512) (e : Nat) (ray : List Byte) : Nat := (PL.rows l - 1) * PL.pitch l + PL.cols l * cellBytes e ray

/-- An error met in a job's map or list acts for that job (R173, R176). -/
def mapFault (a : Nat) (x : ReadErr) (s : State) : State :=
  if leftPoisoned x s then s else jobFault (slotOf a) x s

/-- The entry and the ray table with which a post is lifted: those active for the instant. -/
def postTables (p : FusPost) (s : State) : Option (Nat × List Byte) :=
  let i := PL.sensor p.content
  let e := sensorEntry i s
  match activeTable (fusKey 3 i) s with
  | some r => if (isCamera e || isRange e) && rayRows r == PL.rows p.content && rayCols r == PL.cols p.content then some (e, r) else none
  | none => none

/-- The range that a FEATURE post reads, where its tables and its motion serve. -/
def liftRanges (p : FusPost) (s : State) : List (Nat × Nat) :=
  match postTables p s, sensorMotions (PL.sensor p.content) p.time s with
  | some (e, ray), some _ => [(PL.addr p.content, mapSpan p.content e ray)]
  | _, _ => []

/-- The memory meets the reads of a list of ranges: the pages are marked read, and what the reads found is noted. -/
def meetRanges (rs : List (Nat × Nat)) (ecc : ReadEcc) (s : State) : State := touchRanges rs (senseRanges rs ecc s)

/-- A FEATURE post lifted into the field, and its token. -/
def liftPost (g : Grid) (p : FusPost) (x : Lift × State) : Lift × State :=
  let (f, s) := x
  let l := p.content
  let tok := postToken p.die p.stream l
  match postTables p s, sensorMotions (PL.sensor l) p.time s with
  | some (e, ray), some ms =>
    match firstErr 4 (PL.addr l) (mapSpan l e ray) s with
    | some er => (f, tok (mapFault (PL.addr l) er s))
    | none =>
      let n := cellBytes e ray
      let field := (List.range (PL.rows l)).foldl (fun f r =>
        (List.range (PL.cols l)).foldl (fun f c =>
          liftCell g (PL.sensor l) e ray ms p.late r c (readObj (PL.addr l + r * PL.pitch l + c * n) n s) f) f) f.field
      ({ field := field, own := f.own + (!p.late).toNat, folds := f.folds + p.late.toNat }, tok s)
  | _, _ => (f, tok (incF Fld.fusStatsNoPose 0 s))

/-- The field stored in the fusion store. -/
def storeField (g : Grid) (limit : Nat) (f : Field2) (s : State) : State :=
  forEach (List.range g.h) (fun j s =>
    forEach (List.range g.w) (fun i s =>
      let c := 256 * j + i
      let s := wrMem (hubAddr (64 * c)) ((List.range 64).map fun k => BitVec.ofNat 8 (toField 8 ((mapGet f.feats (64 * c + k)).getD 0))) s
      wrMem (hubAddr (0x400000 + 16 * c)) ((f.ev c).bytes limit) s) s) s

/-- Cells of the grid in the order of the result. -/
def gridCells (g : Grid) : List Nat := (List.range g.h).flatMap fun j => (List.range g.w).map fun i => 256 * j + i

/-! ### Tracks (R283 to R285) -/

/-- A detection of a list: x, y, class, score. -/
structure Detection where
  x : Int
  y : Int
  cls : Nat
  score : Nat
  contested : Bool

/-- Seconds between two full times. -/
def seconds (a b : Nat) : Rat := ((b : Rat) - (a : Rat)) / (secNs : Nat)

/-- A track's position predicted to a time. -/
def Track.at (k : Track) (t : Nat) : Rat × Rat := (k.x + k.vx * seconds k.update t, k.y + k.vy * seconds k.update t)

/-- A whole number in a signed 32-bit field. -/
def mm32 (r : Rat) : Int := sext 32 (toField 32 (Config.wholeMm r))

/-- Settings of the tracks. -/
def confirmHits (s : State) : Nat := max 1 (getF Fld.fusTrackCfgConfirmHits 0 s)
def confirmRounds (s : State) : Nat := max (confirmHits s) (getF Fld.fusTrackCfgConfirmRounds 0 s)
def deleteMisses (s : State) : Nat := max 1 (getF Fld.fusTrackCfgDeleteMisses 0 s)

/-- The unassociated track of a class nearest to a detection within the gate; ties to the lower index. -/
def nearest (d : Detection) (t gate : Nat) (l : List (Nat × Track)) : Option Nat :=
  (l.foldl (fun best (i, k) =>
    let (x, y) := k.at t
    let q := (d.x - x) * (d.x - x) + (d.y - y) * (d.y - y)
    if k.cls ≠ d.cls ∨ ((gate * gate : Nat) : Rat) < q then best
    else match best with
      | none => some (i, q)
      | some b => if q < b.2 then some (i, q) else best) (none : Option (Nat × Rat))).map fun b => b.1

/-- An associated track takes its detection (R284). -/
def associate (d : Detection) (t : Nat) (alpha beta : Nat) (k : Track) : Track :=
  let (x, y) := k.at t
  let dt := seconds k.update t
  let a : Rat := (alpha : Rat) / 256
  let b : Rat := (beta : Rat) / 256
  { k with
    x := mm32 (x + a * (d.x - x))
    y := mm32 (y + a * (d.y - y))
    vx := mm32 (k.vx + b * (d.x - x) / dt)
    vy := mm32 (k.vy + b * (d.y - y) / dt)
    update := t
    score := d.score }

/-- A round in progress: the tracks, those associated with whether the detection was contested, those born, and the drops. -/
structure Round where
  taken : List (Nat × Bool)
  born : List Nat
  full : Nat

/-- A new track for an unassociated detection (R284). -/
def bear (d : Detection) (t : Nat) (r : Round) (s : State) : Round × State :=
  if d.score < getF Fld.fusTrackCfgBirthScore 0 s ∨ d.contested then (r, s)
  else match (List.range 1024).find? fun i => (mapGet s.fus.tracks i).isNone with
    | none => ({ r with full := r.full + 1 }, incF Fld.fusStats2TrackFull 0 s)
    | some i =>
      let k : Track :=
        { state := 1, cls := d.cls, hits := 1, misses := 0, id := s.fus.nextId, x := d.x, y := d.y, vx := 0, vy := 0, update := t
          rounds := 0, score := d.score }
      let n := (s.fus.nextId + 1) % 2 ^ 32
      ({ r with born := r.born ++ [i] },
        setFus { s.fus with tracks := mapSet s.fus.tracks i k, nextId := if n = 0 then 1 else n } s)

/-- One detection of a round. -/
def takeDetection (t : Nat) (d : Detection) (x : Round × State) : Round × State :=
  let (r, s) := x
  let open' := s.fus.tracks.filter fun p => !(r.born.contains p.1) && !(r.taken.any fun q => q.1 == p.1)
  match nearest d t (getF Fld.fusTrackCfgGateMm 0 s) open' with
  | some i =>
    let f := associate d t (getF Fld.fusTrackCfgAlpha 0 s) (getF Fld.fusTrackCfgBeta 0 s)
    ({ r with taken := r.taken ++ [(i, d.contested)] },
      setFus { s.fus with tracks := mapAdjust s.fus.tracks i f } s)
  | none => bear d t r s

/-- The end of a round for one track that was not born in it: ROUNDS, and the transition of Table FUS-11; none is FREE. -/
def endRound (hit : Option Bool) (hits rounds misses : Nat) (k : Track) : Option Track :=
  let k := { k with rounds := satAdd 8 k.rounds 1 }
  match k.state, hit with
  | 1, some contested =>
    let n := if contested then k.hits else satAdd 8 k.hits 1
    if hits ≤ n ∧ !contested then some { k with state := 2, hits := n, misses := 0 }
    else if rounds ≤ k.rounds then none
    else some { k with hits := n, misses := 0 }
  | 1, none =>
    if 2 ≤ k.misses + 1 ∨ rounds ≤ k.rounds then none else some { k with misses := k.misses + 1 }
  | 2, some _ => some { k with misses := 0 }
  | 2, none => some { k with state := 3, misses := 1 }
  | _, some _ => some { k with state := 2, misses := 0 }
  | _, none => if misses ≤ k.misses + 1 then none else some { k with misses := satAdd 8 k.misses 1 }

/-- Table FUS-11 applied to every track that the round did not bear. -/
def endTracks (r : Round) (s : State) : State :=
  let hit (i : Nat) : Option Bool := (r.taken.find? fun q => q.1 == i).map fun q => q.2
  let l := s.fus.tracks.filterMap fun (i, k) =>
    if r.born.contains i then some (i, k)
    else (endRound (hit i) (confirmHits s) (confirmRounds s) (deleteMisses s) k).map fun k => (i, k)
  setFus { s.fus with tracks := l } s

/-- The detections of a list, in descending score, ties to the lower index (R283, R284). -/
def detections (p : FusPost) (s : State) : List Detection :=
  let bs := readObj (PL.addr p.content) (16 * PL.rows p.content) s
  let inst := s.fus.recent.find? fun x => x.time == p.time
  let l := (List.range (PL.rows p.content)).map fun n =>
    let x := sext 32 (rdLE bs (16 * n) 4)
    let y := sext 32 (rdLE bs (16 * n + 4) 4)
    let cont := match inst with
      | none => true
      | some q =>
        let i := (x - q.ox) / (q.cell : Int)
        let j := (y - q.oy) / (q.cell : Int)
        decide (0 ≤ i) && decide (i < q.w) && decide (0 ≤ j) && decide (j < q.h) && q.contested.contains (cellIx (i, j))
    (⟨x, y, rdLE bs (16 * n + 8) 1, rdLE bs (16 * n + 9) 1, cont⟩ : Detection)
  l.mergeSort fun a b => decide (b.score ≤ a.score)

/-- A DETECTIONS post is older than the last round. -/
def staleRound (p : FusPost) (s : State) : Bool :=
  match s.fus.lastRound with
  | some t => decide (p.time ≤ t)
  | none => false

/-- The range that a DETECTIONS post reads: a stale post reads none. -/
def roundRanges (p : FusPost) (s : State) : List (Nat × Nat) :=
  if staleRound p s then [] else [(PL.addr p.content, 16 * PL.rows p.content)]

/-- One DETECTIONS post: a round, or a stale post (R283). -/
def applyRound (p : FusPost) (s : State) : State :=
  let tok := postToken p.die p.stream p.content
  if staleRound p s then tok (incF Fld.fusStats2StaleDet 0 s)
  else match firstErr 4 (PL.addr p.content) (16 * PL.rows p.content) s with
    | some er => tok (mapFault (PL.addr p.content) er s)
    | none =>
      let ds := detections p s
      let s := setFus { s.fus with lastRound := some p.time } s
      let (r, s) := ds.foldl (fun x d => takeDetection p.time d x) (⟨[], [], 0⟩, s)
      let s := endTracks r s
      tok (if r.full = 0 then s else fusEvent 0x0006 r.full s)

/-- The 64 bytes of a track entry at a position and a time of update (Table FUS-10). -/
def trackBytes (k : Track) (x y : Int) (update : Nat) : List Byte :=
  [k.state, k.cls, k.hits, k.misses].map (BitVec.ofNat 8) ++ natLe 4 k.id ++ natLe 4 (toField 32 x) ++ natLe 4 (toField 32 y)
    ++ natLe 4 (toField 32 k.vx) ++ natLe 4 (toField 32 k.vy) ++ natLe 4 update ++ [k.rounds, k.score].map (BitVec.ofNat 8)
    ++ List.replicate 34 0

/-- The track table as the fusion store holds it. -/
def storeTracks (s : State) : State :=
  forEach s.fus.tracks (fun (i, k) s => wrMem (hubAddr (0x580000 + 64 * i)) (trackBytes k k.x k.y k.update) s)
    (zeroMem (hubAddr 0x580000) 0x10000 s)

/-! ### Closes (R274) -/

/-- Step 1: DETECTIONS in rising T_SAMPLE. -/
def closeDetections (ecc : ReadEcc) (s : State) : ReadEcc × State :=
  let ps := s.fus.posts.filter fun p => PL.type p.content == 2
  let s := setFus { s.fus with posts := s.fus.posts.filter fun p => PL.type p.content != 2 } s
  (ps.mergeSort fun a b => decide (a.time ≤ b.time)).foldl (fun x p =>
    let rs := roundRanges p x.2
    (eccAfter (rangesSize rs) x.1, applyRound p (meetRanges rs x.1 x.2))) (ecc, s)

/-- Step 6: tracks outside the grid at the instant's time are freed. -/
def closeTracks (g : Grid) (t : Nat) (s : State) : State :=
  storeTracks (setFus { s.fus with tracks := s.fus.tracks.filter fun (_, k) => g.inside (g.cellOf [(k.at t).1, (k.at t).2, 0]) } s)

/-- The result of an instant (Table FUS-8, R276). -/
def resultOf (k t : Nat) (g : Grid) (f : Field2) (limit posts folds : Nat) (s : State) : FusIssue :=
  let cells := gridCells g
  let occ := cells.map fun c => BitVec.ofNat 8 ((f.ev c).occByte limit)
  let feats := cells.flatMap fun c => (List.range g.ch).map fun n => BitVec.ofNat 8 (toField 8 ((mapGet f.feats (64 * c + n)).getD 0))
  let tracks := s.fus.tracks.flatMap fun (_, k) => trackBytes k (mm32 (k.at t).1) (mm32 (k.at t).2) 0
  let bz := Config.wholeMm g.bz
  let body := feats ++ occ
  let pad := List.replicate ((64 - body.length % 64) % 64) 0
  let head := natLe 4 k ++ natLe 4 t ++ natLe 4 (toField 32 g.ox) ++ natLe 4 (toField 32 g.oy) ++ natLe 4 (toField 32 bz)
    ++ natLe 2 g.cell ++ natLe 2 g.w ++ natLe 2 g.h
    ++ [BitVec.ofNat 8 g.ch, BitVec.ofNat 8 (g.noPose.toNat + s.fus.skipped.toNat * 2)]
    ++ natLe 2 posts ++ natLe 2 folds ++ natLe 2 (min 65535 s.fus.drops) ++ natLe 2 s.fus.tracks.length
    ++ natLe 4 (cells.countP fun c => (f.ev c).contested limit) ++ natLe 4 (getF Fld.fusStatusTableEpoch 0 s) ++ List.replicate 20 0
  { instant := k, header := head, bytes := body ++ pad ++ tracks, occ := occ, ox := g.ox, oy := g.oy, bz := bz, cell := g.cell
    w := g.w, h := g.h, time := t }

/-- The close of an instant. The settings written since the last close are taken first; the instant keeps its own time. -/
def closeInstant (k : Nat) (ecc : ReadEcc) (s : State) : State :=
  let t := instantTime k s
  let s := setFus { s.fus with timing := getR .fusTiming 0 s, grid := getR .fusGridCfg 0 s } (openSource 1 s)
  let (ecc, s) := closeDetections ecc s
  let s := fusActivate k s
  let g := gridAt t s
  let limit := getF Fld.fusLiftCfgContest 0 s
  let s := { s with freeCtr := s.freeCtr + 1 }
  let mine := s.fus.posts.filter fun p => PL.type p.content == 1 && p.instant == k
  let s := setFus { s.fus with
    posts := s.fus.posts.filter fun p => !(PL.type p.content == 1 && p.instant == k)
    next := some (k + 1)
    lastClose := some t } s
  let s := meetRanges (mine.flatMap fun p => liftRanges p s) ecc s
  let (l, s) := mine.foldl (fun x p => liftPost g p x) (⟨⟨[], []⟩, 0, 0⟩, s)
  let f := l.field
  let s := closeTracks g t (storeField g limit f s)
  let r := resultOf k t g f limit l.own l.folds s
  let kept : FusInstant :=
    { time := t, ox := g.ox, oy := g.oy, cell := g.cell, w := g.w, h := g.h, contested := (gridCells g).filter fun c => (f.ev c).contested limit }
  setB Fld.fusStatusBehind 0 false
    (setFus { s.fus with issue := some r, skipped := false, drops := 0, recent := (kept :: s.fus.recent).take 8 } s)

/-- FUSION_CLOSE: the due close, which waits while the previous result has not landed (R274, R277). -/
def fusionClose (ecc : ReadEcc) (s : State) : State :=
  match s.fus.next with
  | none => s
  | some k =>
    if s.timeN < closeTime k s then s
    else if s.fus.issue.isSome then setB Fld.fusStatusBehind 0 true s
    else closeInstant k ecc s

/-! ### Results (R276, R277) -/

/-- The ring buffer of an instant, and the ring's whole length. -/
def outStride (s : State) : Nat := getF Fld.fusOutCfgStridePages 0 s * 65536
def outCount (s : State) : Nat := max 2 (getF Fld.fusOutCfgCount 0 s)
def outAddrOf (k : Nat) (s : State) : Nat := getF Fld.fusOutAddrAddr 0 s * 65536 + k % outCount s * outStride s

/-- The ring lies within one object of STREAM's job. -/
def outRingOk (s : State) : Bool :=
  inOneObject (outAddrOf 0 s) (outCount s * outStride s) s
    && ((streamOf (getF Fld.fusOutCfgStream 0 s) s).map fun x => x.job) == some (slotOf (outAddrOf 0 s))

/-- The occupancy bytes to the planner store (R276, R288, R296). -/
def occOut (r : FusIssue) (s : State) : State :=
  let page := getF Fld.fusOutCfgOccPage 0 s
  if page = 0xFFFF ∨ !(planOn s) then s
  else if page ≠ 95 then plnEvent 0x0004 1 s
  else
    let m : PlanLayer := ⟨r.ox, r.oy, r.bz, r.cell, r.w, r.h, r.time % 2 ^ 32, 0, 0⟩
    setPlan { s.plan with intake := some m } (store (planAddr 95 0) (r.occ.take 65536) s)

/-- The result written to its buffer, its token and its event. -/
def writeResult (r : FusIssue) (s : State) : State :=
  if !(outRingOk s) then fusEvent 0x0005 r.instant s
  else
    let s := engineWrite 6 (outAddrOf r.instant s) (r.header ++ r.bytes) s
    let s := occOut r s
    let s := hubToken (getF Fld.fusOutCfgStream 0 s) (getF Fld.fusOutCfgDie 0 s) (getF Fld.fusOutCfgToken 0 s) s
    if getB Fld.fusCtrlIssueEvent 0 s then fusEvent 0x0001 r.instant s else s

/-- The instant after a result that landed after the close of the one after that is skipped (R277). -/
def skipBehind (k : Nat) (s : State) : State :=
  if s.fus.next = some (k + 1) ∧ closeTime (k + 2) s < s.timeN then skipInstant (k + 1) s else s

/-- FUSION_RESULT: the result of the issued instant has landed (R276, R277). -/
def fusionResult (s : State) : State :=
  match s.fus.issue with
  | none => s
  | some r =>
    let s := setFus { s.fus with issue := none } s
    let s := setF Fld.fusStatusInstant 0 r.instant (writeResult r s)
    skipBehind r.instant (endSource 1 s)

end Sys2Proof.Machine
end

