-- ==== Sys2Proof/Machine/Health.lean ====
section
/-!
DEFINITION. The prognostics unit: telemetry, junction temperature, rainflow and damage, drift and ESR, history, health records,
alarms, the anomaly feed, saves and drive identity (chapter 14, R341 to R354, R360). Guard bands stand in Limiter.
-/
namespace Sys2Proof.Machine
open Sys2Proof

/-- A HLT event (R360). -/
def hltEvent (detail aux : Nat) (s : State) : State := postEvent 10 detail Status.done aux s

def setProg (x : Prog) (s : State) : State := { s with prog := x }

/-- The unit runs: PROG is on. -/
def progOn (s : State) : Bool := domOn Dom.prog s

def hourNs : Nat := 3600000000000

/-- Module on-hours (R349). -/
def onHours (s : State) : Nat := s.prog.onNs / hourNs

/-! ### Axis parameters (Table HLT-2) -/

def axisParamAddr (a : Nat) : Nat := winAddr (0xA8000 + 64 * a)
def healthAddr (a : Nat) : Nat := winAddr (0xAC000 + 64 * a)
def axisParams (a : Nat) (s : State) : List Byte := rdMem s (axisParamAddr a) 64

namespace AP
def enable (p : List Byte) : Bool := rdLE p 0 1 % 2 == 1
def decim (p : List Byte) : Nat := rdLE p 1 1 % 16
def hyst (p : List Byte) : Nat := max 1 (rdLE p 2 2)
def rth (p : List Byte) : Nat := rdLE p 4 4
def tau (p : List Byte) : Nat := rdLE p 8 4
def lnA (p : List Byte) : Nat := rdLE p 12 4
def alpha (p : List Byte) : Nat := rdLE p 16 4
def eaK (p : List Byte) : Nat := rdLE p 20 4
def tc (p : List Byte) : Nat := rdLE p 24 4
def driftEol (p : List Byte) : Nat := rdLE p 28 4
def esr0 (p : List Byte) : Nat := rdLE p 32 4
def esrEol (p : List Byte) : Nat := rdLE p 36 4
def warnHours (p : List Byte) : Nat := rdLE p 40 4
def anomAlarm (p : List Byte) : Nat := rdLE p 44 4
end AP

/-- An axis with nothing learned. -/
def axis0 : Axis :=
  { stamp := none, tAt := none, pf := 0, tj := 0, tjMax := 0, lo := 0, hi := 0, dir := 0, stack := [], damage := 0, rBar := 0
    rCount := 0, r0 := none, esr := 0, esrCount := 0, esr0 := none, recs := 0, full := 0, hourRecs := 0, hourFull := 0, history := [], flags := 0, gateFaults := 0, gateRise := false, cycles := 0, driveId := 0
    newId := none, startNs := 0, level := 0, calm := 0, anomaly := 0, seen := 0 }

def axisOf (a : Nat) (s : State) : Axis := (mapGet s.prog.axes a).getD axis0
def setAxis (a : Nat) (x : Axis) (s : State) : State := setProg { s.prog with axes := mapSet s.prog.axes a x } s
def adjAxis (a : Nat) (f : Axis → Axis) (s : State) : State := setAxis a (f (axisOf a s)) s

/-- The unit takes records of an axis (R342, R343, R350). -/
def axisActive (a : Nat) (s : State) : Bool :=
  progOn s && getB Fld.hltCtrlEnable 0 s && AP.enable (axisParams a s) && (axisOf a s).newId.isNone

/-! ### Records (Table HLT-1) -/

namespace TR
def vOn (r : List Byte) : Nat := rdLE r 20 2
def iOn (r : List Byte) : Nat := rdLE r 22 2
def ripple (r : List Byte) : Nat := rdLE r 16 2
def iCap (r : List Byte) : Nat := rdLE r 18 2
def tCase (r : List Byte) : Int := sext 16 (rdLE r 8 2)
def loss (r : List Byte) : Nat := rdLE r 24 2
def gates (r : List Byte) : Nat := rdLE r 10 2 % 512
def valid (r : List Byte) (k : Nat) : Bool := bitsAt (rdLE r 30 1) k 1 == 1
end TR

/-- An integer over another in FP32. -/
def ratioF32 (n : Int) (d : Nat) : Nat := divF32 (resF32 (intV n)) (resF32 (intV d))

def ltF32 (a b : Nat) : Bool := ltV (opF32 a) (opF32 b)
def leF32 (a b : Nat) : Bool := a == b || !(ltF32 b a)

/-- The size of an FP32 value. -/
def absF32 (a : Nat) : Nat := a % 2 ^ 31

/-- A quotient of the unit; by 0 it is open. -/
def overR (a b : Rat) : Rat := if b = 0 then Config.quotientByZero a else a / b

/-! ### Rainflow (R345) -/

/-- A counted cycle: damage of a range, a mean and a weight in halves. -/
def countCycle (p : List Byte) (range mean halves : Nat) (x : Axis) : Axis :=
  let tm := ratF32 mean + 27315 / 100
  let nf := Config.exp (ratF32 (AP.lnA p)) * Config.pow (ratF32 range) (-(ratF32 (AP.alpha p))) * Config.exp (overR (ratF32 (AP.eaK p)) tm)
  { x with
    damage := satAdd 64 x.damage (Config.damageUnits (overR ((halves : Rat) / 2) nf))
    cycles := if halves = 2 then satAdd 32 x.cycles 1 else x.cycles }

/-- Range and mean of two points. -/
def rangeOf (a b : Nat) : Nat := absF32 (subF32 a b)
def meanOf (a b : Nat) : Nat := divF32 (addF32 a b) 0x40000000

/-- The four-point rule, repeated while it counts; the stack holds at most 65 points. -/
def fourPoint (p : List Byte) : Nat → Axis → Axis
  | 0, x => x
  | f + 1, x =>
    match x.stack.reverse with
    | d :: c :: b :: a :: rest =>
      if leF32 (rangeOf b c) (rangeOf a b) && leF32 (rangeOf b c) (rangeOf c d) then
        fourPoint p f (countCycle p (rangeOf b c) (meanOf b c) 2 { x with stack := (d :: a :: rest).reverse })
      else x
    | _ => x

/-- A confirmed reversal pushed. -/
def pushPoint (p : List Byte) (v : Nat) (x : Axis) : Axis :=
  let x := fourPoint p 65 { x with stack := x.stack ++ [v] }
  match x.stack with
  | p0 :: p1 :: rest =>
    if 62 < rest.length then countCycle p (rangeOf p0 p1) (meanOf p0 p1) 1 { x with stack := p1 :: rest } else x
  | _ => x

/-- The turning points of T_j: an extreme is confirmed once T_j has moved by DT_HYST from it. Before the first one both extremes
are watched. -/
def turning (p : List Byte) (first : Bool) (x : Axis) : Axis :=
  let t := x.tj
  if first then { x with lo := t, hi := t, dir := 0 }
  else
    let lo := if ltF32 t x.lo then t else x.lo
    let hi := if ltF32 x.hi t then t else x.hi
    let h := ratioF32 (AP.hyst p) 100
    if x.dir ≠ 2 ∧ leF32 h (subF32 hi t) then pushPoint p hi { x with lo := t, hi := t, dir := 2 }
    else if x.dir ≠ 1 ∧ leF32 h (subF32 t lo) then pushPoint p lo { x with lo := t, hi := t, dir := 1 }
    else { x with lo := lo, hi := hi }

/-! ### Estimators (R344, R346, R347) -/

/-- T_j from a record with VALID_T, at its full time. -/
def junction (p r : List Byte) (t : Nat) (x : Axis) : Axis :=
  let loss := ratioF32 (TR.loss r) 10
  let pf := match x.tAt with
    | none => loss
    | some t0 => if secNs < t - t0 then loss else addF32 x.pf (mulF32 (subF32 loss x.pf) (Config.decay (t - t0) (AP.tau p)))
  let tj := addF32 (ratioF32 (TR.tCase r) 100) (mulF32 (AP.rth p) pf)
  let y := { x with pf := pf, tj := tj, tAt := some t, tjMax := if x.tAt.isNone ∨ ltF32 x.tjMax tj then tj else x.tjMax }
  turning p x.tAt.isNone y

/-- A running mean with weight 2^-10, from the 0 that AXIS_RESET leaves (R346, R350; log 81). -/
def meanStep (old : Nat) (v : Rat) : Nat := Config.toFp32 (ratF32 old + (v - ratF32 old) / 1024)

/-- On-resistance at 25 °C and its baseline. -/
def driftStep (p r : List Byte) (x : Axis) : Axis :=
  let ohm := overR (TR.vOn r : Rat) ((TR.iOn r : Rat) * 10)
  let r25 := overR ohm (1 + ratF32 (AP.tc p) * (ratF32 x.tj - 25))
  let m := meanStep x.rBar r25
  let n := min 1024 (x.rCount + 1)
  { x with rBar := m, rCount := n, r0 := if x.r0.isNone ∧ n = 1024 then some m else x.r0 }

/-- ESR and the ESR0 that the 1,024th record learns. V_RIPPLE counts 0.1 mV and I_CAP 10 mA. -/
def esrStep (r : List Byte) (x : Axis) : Axis :=
  let m := meanStep x.esr (overR (TR.ripple r : Rat) ((TR.iCap r : Rat) * 100))
  let n := min 1024 (x.esrCount + 1)
  { x with esr := m, esrCount := n, esr0 := if x.esr0.isNone ∧ n = 1024 then some m else x.esr0 }

/-- Rises of gate flags (R342). -/
def gateStep (r : List Byte) (x : Axis) : Axis :=
  let g := TR.gates r
  let n := (List.range 9).countP fun k => bitsAt g k 1 == 1 && bitsAt x.flags k 1 == 0
  { x with flags := g, gateFaults := satAdd 32 x.gateFaults n, gateRise := x.gateRise || decide (0 < n) }

/-- What a record does to its axis. -/
def axisRecord (p r : List Byte) (stamp : BitVec 32) (t : Nat) (x : Axis) : Axis :=
  let x := gateStep r { x with stamp := some stamp, recs := x.recs + 1, full := x.full + (rdLE r 30 1 % 16 / 15) }
  let x := if TR.valid r 1 then junction p r t x else x
  let x := if TR.valid r 2 ∧ TR.valid r 1 ∧ 100 ≤ TR.iOn r then driftStep p r x else x
  if TR.valid r 3 ∧ 10 ≤ TR.iCap r then esrStep r x else x

/-! ### The feed (R353) -/

/-- T_j in whole hundredths of a degree, 16 bits. -/
def tjField (tj : Nat) : Nat := toField 16 (clampInt (-32768) 32767 (Config.wholeMm (100 * ratF32 tj)))

def feedOn (s : State) : Bool := progOn s && getF Fld.hltFeedCfgToken 0 s != 255 && !s.prog.feedStopped

/-- One record in 2^DECIM joins the batch; those beyond 1,023 are dropped and counted. -/
def feedRecord (a : Nat) (r : List Byte) (stamp : BitVec 32) (s : State) : State :=
  let x := axisOf a s
  let s := adjAxis a (fun x => { x with seen := x.seen + 1 }) s
  if !(feedOn s) || x.seen % 2 ^ AP.decim (axisParams a s) != 0 then s
  else if 1023 ≤ s.prog.feed.length then setProg { s.prog with dropped := s.prog.dropped + 1 } s
  else
    let e := natLe 4 stamp.toNat ++ natLe 4 a ++ natLe 2 (tjField x.tj) ++ List.replicate 22 0 ++ fitBytes 32 r
    setProg { s.prog with feed := s.prog.feed ++ [e] } s

/-- A record of an axis arrives (R342). -/
def takeRecord (a : Nat) (r : List Byte) (stamp : BitVec 32) (s : State) : State :=
  let x := axisOf a s
  let stale := match x.stamp with
    | some t => !(later32 stamp t)
    | none => false
  if !(axisActive a s) || stale then s
  else
    let t := (extend32 s.timeN stamp.toNat).toNat
    feedRecord a r stamp (setAxis a (axisRecord (axisParams a s) r stamp t x) s)

/-- The complete records that a frame of a drive brought, axis by axis. -/
def takeRecords (d : Nat) (old : List (Option (BitVec 32 × List Byte))) (s : State) : State :=
  forEach (List.range (DE.axes (driveEntry d s))) (fun a s =>
    match telOf d a s with
    | some (t, r) => if old.getD a none = some (t, r) ∨ 64 ≤ axisIndex d a s then s else takeRecord (axisIndex d a s) r t s
    | none => s) s

/-- FEEDBACK (R311), with the joint history and the telemetry that follow from it (R269, R342). -/
def execFeedback (drive : Fin 64) (frame : List Byte) (s : State) : Host.Outcome State Fault Refusal :=
  .next (onlyIf (running s && receives drive.val s) (fun s =>
    let was := (driveOf drive.val s).answered
    let old := (List.range 8).map fun a => telOf drive.val a s
    let s := feedback drive.val frame s
    if !was && (driveOf drive.val s).answered then takeRecords drive.val old (recordKin (chansOf drive.val s) s) else s) s)

/-- FEED_MS in ns. -/
def feedNs (s : State) : Nat := max 1 (getF Fld.hltFeedCfgFeedMs 0 s) * 1000000

/-- The feed's ring lies within one object of STREAM's job. -/
def feedRingOk (s : State) : Bool :=
  let a := getF Fld.hltFeedAddrAddr 0 s * 65536
  inOneObject a (max 2 (getF Fld.hltFeedCfgCount 0 s) * 65536) s
    && ((streamOf (getF Fld.hltFeedCfgStream 0 s) s).map fun x => x.job) == some (slotOf a)

/-- The feed stops, with event 0x0003 (R353). -/
def stopFeed (s : State) : State :=
  if feedOn s then hltEvent 0x0003 (getF Fld.hltFeedCfgStream 0 s) (setProg { s.prog with feedStopped := true } s) else s

/-- The feed of a job that is unloaded stops. -/
def stopFeedOf (job : Nat) (s : State) : State :=
  if ((streamOf (getF Fld.hltFeedCfgStream 0 s) s).map fun x => x.job) == some job then stopFeed s else s

/-- A batch lands in its buffer, and the token increments. -/
def feedBatch (s : State) : State :=
  if !(feedRingOk s) then stopFeed s
  else
    let g := s.prog
    let a := getF Fld.hltFeedAddrAddr 0 s * 65536 + 65536 * (g.batch % max 2 (getF Fld.hltFeedCfgCount 0 s))
    let head := natLe 4 g.batch ++ natLe 2 g.feed.length ++ natLe 2 (min 65535 g.dropped) ++ natLe 4 s.timeN ++ List.replicate 52 0
    let s := engineWrite 10 a (head ++ g.feed.flatten) s
    let s := setProg { g with feed := [], dropped := 0, batch := g.batch + 1, lastFeed := s.clock } s
    hubToken (getF Fld.hltFeedCfgStream 0 s) (getF Fld.hltFeedCfgDie 0 s) (getF Fld.hltFeedCfgToken 0 s) s

/-! ### History and remaining life (R346 to R348) -/

/-- Drift; 0 until the baseline exists. -/
def drift (x : Axis) : Rat :=
  match x.r0 with
  | some r => overR (ratF32 x.rBar) (ratF32 r) - 1
  | none => 0

/-- ESR0: the parameter, or the learned value. -/
def baseEsr (p : List Byte) (x : Axis) : Option Rat := if ratF32 (AP.esr0 p) = 0 then x.esr0.map ratF32 else some (ratF32 (AP.esr0 p))

/-- D as a number. -/
def damageR (d : Nat) : Rat := (d : Rat) / (2 ^ 48 : Nat)

/-- What is left until an end of life, over a rate: 0 where it is reached, +infinity where the rate is not above 0. -/
def lifeTerm (left rate : Rat) : Nat := if left ≤ 0 then 0 else if rate ≤ 0 then 0x7F800000 else Config.toFp32 (left / rate)

/-- The hourly entry of an axis (R348). -/
def hourAxis (now : Nat) (x : Axis) : Axis :=
  let h := x.history ++ [(now, x.damage, Config.toFp32 (drift x), x.esr)]
  { x with
    history := h.drop (h.length - 24)
    hourRecs := x.recs
    hourFull := x.full
    recs := 0
    full := 0 }

/-- The rate of a value of the history, per on-hour: newest against oldest (R348). -/
def histRate (x : Axis) (v : Nat × Nat × Nat × Nat → Rat) : Rat :=
  match x.history.head?, x.history.getLast? with
  | some a, some b => if b.1 ≤ a.1 then 0 else (v b - v a) / (((b.1 - a.1 : Nat) : Rat) / (hourNs : Nat))
  | _, _ => 0

/-- The remaining lives from damage, from drift and of the capacitor, whose end of life is assessed once there is an ESR0 (R347,
R348). -/
def rlDamage (x : Axis) : Nat := lifeTerm (1 - damageR x.damage) (histRate x fun h => damageR h.2.1)
def rlDrift (p : List Byte) (x : Axis) : Nat := lifeTerm (ratF32 (AP.driftEol p) - drift x) (histRate x fun h => ratF32 h.2.2.1)
def rlCap (p : List Byte) (x : Axis) : Nat :=
  match baseEsr p x with
  | some b => lifeTerm (ratF32 (AP.esrEol p) * b - ratF32 x.esr) (histRate x fun h => ratF32 h.2.2.2)
  | none => 0x7F800000

/-- CONF: on-hours since AXIS_RESET against 168, times the part of the last hour's records that were complete (R348). -/
def axisConf (now : Nat) (x : Axis) : Nat :=
  let q : Rat := if x.hourRecs = 0 then 0 else (x.hourFull : Rat) / (x.hourRecs : Rat)
  let hours : Rat := ((now - x.startNs : Nat) : Rat) / (hourNs : Nat)
  (255 * min 1 (hours / 168) * q).floor.toNat

/-- The enabled axes. -/
def enabledAxes (s : State) : List Nat := (List.range 64).filter fun a => AP.enable (axisParams a s)

/-- HOURLY_HISTORY: once every on-hour (R348). -/
def execHourlyHistory (s : State) : Host.Outcome State Fault Refusal :=
  .next (onlyIf (running s && progOn s && decide (s.prog.lastHour + hourNs ≤ s.prog.onNs)) (fun s =>
    let now := s.prog.onNs
    let s := setProg { s.prog with lastHour := now } s
    forEach (List.range 64) (fun a s => adjAxis a (hourAxis now) s) s) s)

/-! ### Saves (R349) -/

/-- What a restored axis keeps of its saved form. -/
def restored (x : Axis) : Axis :=
  { x with stamp := none, tAt := none, pf := 0, tj := 0, tjMax := 0, lo := 0, hi := 0, dir := 0, flags := 0, gateRise := false, level := 0, calm := 0
           anomaly := 0, newId := none, seen := 0 }

/-- A save of every axis; one that fails is reported and retried at the next save point. -/
def saveAxes (ok : Bool) (s : State) : State :=
  let s := setProg { s.prog with lastSave := s.prog.onNs } s
  if ok then setProg { s.prog with saved := s.prog.axes, savedNs := s.prog.onNs } s
  else hltEvent 0x0009 0 (setB Fld.hltStatusFlashErr 0 true s)

/-- The axes as the flash holds them (R349, Table RST-2). -/
def restoreAxes (s : State) : State :=
  setProg { s.prog with axes := s.prog.saved.map fun (a, x) => (a, restored x) } s

/-- A save that no command decides: whether it succeeds is open. -/
def saveNow (s : State) : State := saveAxes (Config.saveOk s.freeCtr) { s with freeCtr := s.freeCtr + 1 }

/-- PROGNOSTICS_SAVE: every 15 minutes of on-time (R349). -/
def execPrognosticsSave (ok : Bool) (s : State) : Host.Outcome State Fault Refusal :=
  .next (onlyIf (running s && progOn s && decide (s.prog.lastSave + hourNs / 4 ≤ s.prog.onNs)) (saveAxes ok) s)

/-! ### Drive identity (R350) -/

/-- A drive has joined: its DRIVE_ID compared with the one saved for each of its axes. -/
def checkIdentity (d : Nat) (s : State) : State :=
  if !(progOn s) then s
  else
    let id := ((driveOf d s).driveId.getD 0).toNat
    forEach ((List.range (DE.axes (driveEntry d s))).map fun k => axisIndex d k s) (fun a s =>
      let x := axisOf a s
      if 64 ≤ a then s
      else if x.driveId = 0 then setAxis a { x with driveId := id } s
      else if x.driveId = id then s
      else hltEvent 0x0002 a (setAxis a { x with newId := some id } s)) s

/-- IDENT (R333), with the comparison of R350. -/
def execIdent (drive : Fin 64) (frame : List Byte) (s : State) : Host.Outcome State Fault Refusal :=
  .next (onlyIf (running s && receives drive.val s) (fun s =>
    let (s, joined) := ident drive.val frame s
    if joined then checkIdentity drive.val s else s) s)

/-- AXIS_RESET of an axis. -/
def resetAxis (a : Nat) (s : State) : State :=
  adjAxis a (fun x => { axis0 with driveId := x.newId.getD x.driveId, startNs := s.prog.onNs }) s

/-- AXIS_KEEP of an axis. -/
def keepAxis (a : Nat) (s : State) : State :=
  adjAxis a (fun x => { x with driveId := x.newId.getD x.driveId, newId := none }) s

/-! ### Health records and alarms (R351, R352, R354) -/

/-- HEALTH_S in ns. -/
def healthNs (s : State) : Nat := min 3600 (max 1 (getF Fld.hltTimingHealthS 0 s)) * secNs

/-- The score block, where there is one and it reads. -/
def scoreBlock (s : State) : Option (List Byte) :=
  let a := getF Fld.hltScoreAddrAddr 0 s * 512
  if inOneObject a 512 s && (firstErr 4 a 512 s).isNone then some (readObj a 512 s) else none

/-- An axis's score, where it is accepted. -/
def scoreOf (a : Nat) (block : Option (List Byte)) (s : State) : Option Nat :=
  match block with
  | none => none
  | some bs =>
    let v := rdLE bs (8 * a) 4
    let t := extend32 s.timeN (rdLE bs (8 * a + 4) 4)
    if opF32 v = .nan ∨ t + 2 * healthNs s < s.timeN then none else some v

/-- CAUSES: those of ALARM, those of WARN, and the stale score. -/
structure Causes where
  alarm : Nat
  warn : Nat
  stale : Bool

/-- The causes present in a pass (R352). -/
def causesOf (p : List Byte) (now : Nat) (score : Option Nat) (stale : Bool) (x : Axis) : Causes :=
  let bit (b : Bool) (k : Nat) : Nat := if b then 2 ^ k else 0
  let esrOver := match baseEsr p x with
    | some b => decide (ratF32 (AP.esrEol p) * b ≤ ratF32 x.esr)
    | none => false
  let low (rl : Nat) : Bool := decide (64 ≤ axisConf now x) && ltF32 rl (AP.warnHours p)
  { alarm := bit (decide (2 ^ 48 ≤ x.damage)) 0 + bit (decide (ratF32 (AP.driftEol p) ≤ drift x)) 1 + bit esrOver 2
      + bit (match score with
        | some v => leF32 (AP.anomAlarm p) v
        | none => false) 3
    warn := bit (low (rlDamage x)) 0 + bit (low (rlDrift p x)) 1 + bit (low (rlCap p x)) 2 + bit x.gateRise 4
    stale := stale }

def Causes.bits (c : Causes) : Nat := (c.alarm ||| c.warn) + (if c.stale then 32 else 0)

/-- LEVEL after a pass, and the passes in a row without a cause at it. -/
def nextLevel (c : Causes) (x : Axis) : Nat × Nat :=
  let want := if c.alarm ≠ 0 then 2 else if c.warn ≠ 0 then 1 else 0
  if x.level ≤ want then (want, 0) else if 1 ≤ x.calm then (want, 0) else (x.level, x.calm + 1)

/-- The 64 bytes of a health record (Table HLT-3). -/
def healthRecord (a : Nat) (c : Causes) (x : Axis) (s : State) : List Byte :=
  let p := axisParams a s
  [BitVec.ofNat 8 ((axisActive a s).toNat + x.newId.isSome.toNat * 2 + x.level * 4), BitVec.ofNat 8 c.bits, BitVec.ofNat 8 (axisConf s.prog.onNs x), 0]
    ++ natLe 4 s.timeN ++ natLe 8 x.damage ++ natLe 4 (if ltF32 (rlDrift p x) (rlDamage x) then rlDrift p x else rlDamage x)
    ++ natLe 4 (Config.toFp32 (drift x)) ++ natLe 4 x.esr ++ natLe 4 (rlCap p x) ++ natLe 2 (tjField x.tjMax) ++ natLe 2 (tjField x.tj)
    ++ natLe 4 x.cycles ++ natLe 4 x.anomaly ++ natLe 4 x.gateFaults ++ natLe 4 x.driveId
    ++ natLe 4 ((s.prog.onNs - x.startNs) / hourNs) ++ List.replicate 8 0

/-- One axis of a pass. -/
def passAxis (block : Option (List Byte)) (scored : Bool) (a : Nat) (s : State) : State :=
  let x := axisOf a s
  let sc := if scored then scoreOf a block s else none
  let c := causesOf (axisParams a s) s.prog.onNs sc (scored && sc.isNone) x
  let (lv, calm) := nextLevel c x
  let y := { x with level := lv, calm := calm, anomaly := sc.getD x.anomaly, gateRise := false }
  let s := wrMem (healthAddr a) (healthRecord a c y s) s
  let s := setAxis a { y with tjMax := y.tj } s
  if lv = x.level then s else hltEvent 0x0001 (a + lv * 256 + c.bits * 65536) s

/-- The memory meets the pass's read of the score block: what it found, and the read of its page. -/
def senseScores (ecc : ReadEcc) (s : State) : State :=
  let a := getF Fld.hltScoreAddrAddr 0 s * 512
  if a = 0 ∨ !(inOneObject a 512 s) then s else touchPages a 512 (senseObj a 512 ecc s)

/-- A health pass (R351): records of axes that are not enabled read 0. -/
def healthPass (ecc : ReadEcc) (s : State) : State :=
  let scored := getF Fld.hltScoreAddrAddr 0 s != 0
  let s := senseScores ecc s
  let block := scoreBlock s
  let s := zeroMem (healthAddr 0) 4096 s
  let s := forEach (enabledAxes s) (passAxis block scored) s
  setF Fld.hltStatusGen 0 (getF Fld.hltStatusGen 0 s + 1) (setProg { s.prog with lastPass := s.clock } s)

/-- HEALTH_PASS: every HEALTH_S seconds (R351). -/
def execHealthPass (ecc : ReadEcc) (s : State) : Host.Outcome State Fault Refusal :=
  .next (onlyIf (running s && progOn s && decide (s.prog.lastPass + healthNs s ≤ s.clock)) (healthPass ecc) s)

/-- A write of an axis parameter entry: discarded while its ENABLE is set, but for byte 0 (R343). -/
def axisParamWrite (off : Nat) (bs : List Byte) (s : State) : State :=
  forEach bs.zipIdx (fun (b, i) s =>
    let o := off + i
    if o % 64 ≠ 0 ∧ AP.enable (axisParams (o / 64) s) then setB Fld.hltStatusCfgErr 0 true s
    else wrMem (axisParamAddr 0 + o) [b] s) s

end Sys2Proof.Machine
end

