-- ==== Sys2Proof/Machine/Post.lean ====
section
/-!
DEFINITION. The post unit, activation tables, the vector post unit, format conversion and staging moves (R110 to R116, R126,
R142, R192, R228).
-/
namespace Sys2Proof.Machine
open Sys2Proof

/-! ### Activation tables (R112) -/

/-- A signed field of `n` bytes at byte `off`. -/
def rdI (bs : List Byte) (off n : Nat) : Int := sext (8 * n) (rdLE bs off n)

/-- Coefficient `k` (0, 1, 2) of segment `n` (Table FAB-6): C0 bits 23:0, C1 bits 43:24, C2 bits 63:44. -/
def segCoef (tbl : List Byte) (n k : Nat) : Int :=
  let e := rdLE tbl (16 + 8 * n) 8
  if k = 0 then sext 24 (bitsAt e 0 24) else if k = 1 then sext 20 (bitsAt e 24 20) else sext 20 (bitsAt e 44 20)

/-- The polynomial of a segment at `u` (R112, step 3). -/
def segPoly (tbl : List Byte) (n : Nat) (u : Int) : Int :=
  satSym 31 (segCoef tbl n 0 + asr (segCoef tbl n 1 * u) 16 + asr (segCoef tbl n 2 * u * u) 32)

/-- The activation f(Y) of a table (R112). Below the domain LOW_MODE applies, above it HIGH_MODE. -/
def activation (tbl : List Byte) (y : Int) : Int :=
  let d0 := rdI tbl 0 4
  let sw := min 24 (rdLE tbl 4 1)
  let low := bitsAt (rdLE tbl 5 1) 0 2
  let high := bitsAt (rdLE tbl 5 1) 2 2
  let u (n : Int) := asr ((y - d0 - n * 2 ^ sw) * 2 ^ 16) sw
  let n := asr (y - d0) sw
  if n < 0 then
    if low = 0 then segPoly tbl 0 0 else if low = 1 then y else if low = 2 then 0 else segPoly tbl 0 (u 0)
  else if 64 ≤ n then
    if high = 0 then segPoly tbl 63 (asr ((2 ^ sw - 1) * 2 ^ 16) sw) else if high = 1 then y else if high = 2 then 0 else segPoly tbl 63 (u 63)
  else segPoly tbl n.toNat (u n)

/-! ### Post-unit stages (Table FAB-5) -/

/-- Stages 1 to 4: Y from an accumulator value, the residual byte and the activation table (R110). -/
def postY (p : LayerRow) (a : Int) (v : Nat) (tbl : List Byte) : Int :=
  let y := match p.scale with
    | some (m, e) => satSym 31 (roundShift (a * (max 1 m : Nat)) (e + 8))
    | none => satSym 31 a
  let y := match p.bias with
    | some b => satSym 31 (y + b)
    | none => y
  let y := match p.residual with
    | some (e, signed, _) => satSym 31 (y + roundShift (if signed then sext 8 v else (v : Int)) (e + 8))
    | none => y
  match p.act with
  | some _ => activation tbl y
  | none => y

/-- Stage 5: requantisation (R110, R111). OUT_BITS of 1 delivers the sign bit in the encoding of R91. -/
def postOut (p : LayerRow) (y : Int) : Int :=
  match p.requant with
  | some (sh, zp, bits, signed) =>
    if bits = 1 then (if y < 0 then 1 else 0)
    else satWidth bits signed (roundShift y (-sh - 8) + zp)
  | none => y

/-- OUT_BITS of a row; a bypassed stage 5 leaves the 32-bit Y. -/
def outBits (p : LayerRow) : Nat :=
  match p.requant with
  | some (_, _, bits, _) => bits
  | none => 32

/-- Lines that a drained row writes (R126). -/
def rowLines (p : LayerRow) (outY : Bool) : Nat :=
  if outY then 4 else if outBits p ≤ 8 then 1 else if outBits p ≤ 16 then 2 else 4

/-- The bytes of a descriptor line of a core, as a word sees them, to the end of 64 lines. -/
def layerBytes (st d core line : Nat) (s : State) : List Byte := seenBytes d (lineAddr st d core line s) 4096 s

/-- The parameters of a drained row (free decoding, log 20). -/
def layerRow (st d core line word e r : Nat) (s : State) : LayerRow := Config.layerRow (layerBytes st d core line s) word e r

/-- Stages 1 to 4 of one row of a core: 64 values, array by array, lane by lane. `acc` gives the accumulator values. -/
def rowYs (st d core : Nat) (p : LayerRow) (acc : Nat → Nat → Int) (s : State) : List Int :=
  let res := match p.residual with
    | some (_, _, line) => seenBytes d (lineAddr st d core line s) 64 s
    | none => []
  let tbl := match p.act with
    | some t => seenBytes d (tableAddr d core (t % 4)) 528 s
    | none => []
  (List.range 64).map fun i => postY p (acc (i / 16) (i % 16)) (byteAt res i).toNat tbl

/-- The lines of a drained row: 64 elements of 1, 2 or 4 bytes (R126). -/
def rowBytes (p : LayerRow) (outY : Bool) (ys : List Int) : List Byte :=
  if outY then ys.flatMap fun y => natLe 4 (toField 32 y)
  else
    let n := if outBits p ≤ 8 then 1 else if outBits p ≤ 16 then 2 else 4
    ys.flatMap fun y => natLe n (toField (8 * n) (postOut p y))

/-- Bytes of a drain sent where POST_DEST directs: the core store of a core, or staging (R126). Rows of several home cores
that name the same staging lines leave them open: free bytes. -/
def drainStore (st d core line : Nat) (w : SeqWord) (several : Bool) (bs : List Byte) (s : State) : State :=
  match SW.postDest w with
  | 0 => dieWrite d (lineAddr st d core line s) bs s
  | 1 =>
    if several then
      let (fb, s) := freeBytes 3 bs.length s
      dieWrite d (stagingAddr d line) fb s
    else dieWrite d (stagingAddr d line) bs s
  | _ => s

/-- A drained row as FP32 values for the vector post unit: Y, or the requantised integers (R111, R113). -/
def rowF32 (p : LayerRow) (outY : Bool) (ys : List Int) : List Nat :=
  ys.map fun y =>
    if outY || p.requant.isNone then resF32 (.fin (decide (y < 0)) y.natAbs (-8)) else resF32 (intV (postOut p y))

/-- A drained row goes where POST_DEST directs it. -/
def drainOut (st d core line : Nat) (w : SeqWord) (several : Bool) (p : LayerRow) (ys : List Int) (s : State) : State :=
  if SW.postDest w = 2 then
    adjDie d (fun y => { y with vpuIn := mapSet y.vpuIn core ((mapGet y.vpuIn core).getD [] ++ rowF32 p (SW.outY w) ys) }) s
  else drainStore st d core line w several (rowBytes p (SW.outY w) ys) s

/-! ### The vector post unit (R113) -/

/-- The exact result of an operation of one operand that Table FAB-7 bounds in ulp; none where the spec gives no result. -/
def vpuRef (op : Nat) (v : FVal) : Option FVal :=
  match op with
  | 7 => some (expV false v)
  | 8 => some (expV true v)
  | 9 => logV false v
  | 10 => logV true v
  | 11 => some (divV (.fin false 1 0) v)
  | 12 => some (divV (.fin false 1 0) (sqrtV v))
  | _ => some (sqrtV v)

/-- A result within the bound of Table FAB-7: 2 ulp for exponentials and logarithms, 1 ulp for reciprocals and roots. -/
def freeF32 (op x : Nat) : Nat :=
  match vpuRef op (opF32 x) with
  | some v => nearF32 (if op ≤ 10 then 2 else 1) (100 + op) x v
  | none => Config.free (100 + op) x % 2 ^ 32

/-- An element-wise operation of two or three operands or of one (Table FAB-7, codes by Table SEQ-1). -/
def vpuElem (op a b c : Nat) : Nat :=
  match op with
  | 1 => addF32 a b
  | 2 => subF32 a b
  | 3 => mulF32 a b
  | 4 => fmaF32 a b c
  | 5 => maxF32 a b
  | 6 => minF32 a b
  | _ => freeF32 op a

/-- A row as one number. -/
def rowKey (row : List Nat) : Nat := row.foldl (fun h x => h * 2 ^ 32 + x) 1

/-- The maximum of a row (RMAX, exact). -/
def rowMax (row : List Nat) : Nat :=
  match row with
  | [] => 0
  | x :: xs => xs.foldl maxF32 (resF32 (opF32 x))

/-- e^(x - m) in units of 2^-128, for x at most m. -/
def expBelow (x m : FVal) : Int :=
  match addV x (negV m) with
  | .fin neg k e => if 8 ≤ Nat.log2 k + e ∧ k ≠ 0 then 0 else
    let p := expFix (toFix neg k e)
    roundShift p.1 p.2
  | _ => 0

/-- The log-sum of a row, m + ln of the sum of e^(x - m), within 3 ulp; minus infinity where every value is (Table FAB-7, R213). -/
def logSum (row : List Nat) : Nat :=
  match opF32 (rowMax row) with
  | .nan => nanBits fp32
  | .inf neg => if neg then resF32 (.inf true) else nanBits fp32
  | m =>
    let sum := (row.map fun x => expBelow (opF32 x) m).foldl (· + ·) 0
    nearF32 3 117 (rowKey row) (addV m (fixV (lnFix sum.natAbs (-128))))

/-- The results of a row reduction: SUM, SUMSQ, RMAX one each; SOFTMAX_STATS m followed by l. SUM and SUMSQ keep within the bound of
their tree of 4 levels. -/
def vpuReduce (op : Nat) (row : List Nat) : List Nat :=
  let vs := row.map opF32
  match op with
  | 14 => [sumF32 4 114 (rowKey row) vs]
  | 15 => [sumF32 5 115 (rowKey row) (vs.map fun v => mulV v v)]
  | 16 => [rowMax row]
  | _ => [rowMax row, logSum row]

/-- One element of CONVERT in the direction of VPU_CVT (Table SEQ-1). -/
def convertElem (cvt x : Nat) : Nat :=
  match cvt with
  | 0 => f32ToInt32 x
  | 1 => resF32 (intV (sext 32 x))
  | 2 => encodeF fp16 true false (flushIn fp32 x)
  | 3 => encodeF fp32 true false (flushIn fp16 x)
  | 4 => encodeF bf16 true false (flushIn fp32 x)
  | _ => encodeF fp32 true false (flushIn bf16 x)

/-- Bytes of an element read, and written, by CONVERT. -/
def cvtIn (cvt : Nat) : Nat := if cvt = 3 ∨ cvt = 5 then 2 else 4
def cvtOut (cvt : Nat) : Nat := if cvt = 2 ∨ cvt = 4 then 2 else 4

/-- A list padded with zeros to whole lines. -/
def padLines (bs : List Byte) : List Byte := fitBytes (ceilDiv bs.length 64 * 64) bs

/-- Element `i` of the rows that an operation reads from VPU_SRC_A: rows that the post unit has handed over come in their place
(R113; DEDUCED, log 30). -/
def vpuElemA (d core a k i : Nat) (s : State) : Nat :=
  match (((mapGet (dieOf d s).vpuIn core).getD [])[i]?) with
  | some v => v
  | none => leNat (seenBytes d (a + k * i) k s)

/-- The bytes that a vector post-unit operation writes at VPU_DST of a core (R113). -/
def vpuResult (st d core : Nat) (w : SeqWord) (s : State) : List Byte :=
  let n := SW.vpuLen w
  let a := lineAddr st d core (SW.vpuSrcA w) s
  let b := lineAddr st d core (SW.vpuSrcB w) s
  let t := lineAddr st d core (SW.vpuDst w) s
  let op := SW.vpuOp w
  if op = 18 then
    let k := cvtIn (SW.vpuCvt w)
    (List.range (16 * n)).flatMap fun i =>
      natLe (cvtOut (SW.vpuCvt w)) (convertElem (SW.vpuCvt w) (vpuElemA d core a k i s))
  else if 14 ≤ op then
    padLines (((List.range n).flatMap fun r => vpuReduce op ((List.range 16).map fun i => vpuElemA d core a 4 (16 * r + i) s)).flatMap (natLe 4))
  else
    (List.range (16 * n)).flatMap fun i =>
      natLe 4 (vpuElem op (vpuElemA d core a 4 i s) (leNat (seenBytes d (b + 4 * i) 4 s))
        (leNat (seenBytes d (t + 4 * i) 4 s)))

/-- The vector post-unit operation of a word, in every core (R113). -/
def vpuRun (st d : Nat) (w : SeqWord) (s : State) : State :=
  if SW.vpuOp w = 0 then s
  else
    let outs := (List.range 48).map fun c => (c, vpuResult st d c w s)
    adjDie d (fun y => { y with vpuIn := [] })
      (forEach outs (fun (c, bs) s => dieWrite d (lineAddr st d c (SW.vpuDst w) s) bs s) s)

/-! ### Format conversion (R114 to R116) -/

/-- The format of a STG_FMT code that is a floating format. -/
def stgFloat (code : Nat) : Option FFormat :=
  match code with
  | 2 => some fp16
  | 3 => some bf16
  | 4 => some e4m3
  | 5 => some e5m2
  | 6 => some fp32
  | _ => none

/-- Bits of an element of a STG_FMT format. -/
def stgBits (code : Nat) : Nat :=
  match code with
  | 0 => 8
  | 1 => 4
  | 2 => 16
  | 3 => 16
  | 4 => 8
  | 5 => 8
  | _ => 32

/-- The exponent of a finite non-zero magnitude: its leading bit's weight. -/
def topExp (v : FVal) : Option Int :=
  match v with
  | .fin _ m e => if m = 0 then none else some (e + Nat.log2 m)
  | _ => none

/-- E_blk of a block of values for a target width (R115). -/
def blockExponent (vs : List FVal) (pt : Nat) : Int :=
  match (vs.filterMap topExp).foldl (fun (a : Option Int) e => some (max (a.getD e) e)) none with
  | none => -128
  | some e => clampInt (-128) 127 (e - (pt - 2))

/-- One value scaled by 2^(-E_blk), rounded and saturated to the range of the width; NaN gives 0 (R115). -/
def blockElem (pt : Nat) (eb : Int) (v : FVal) : Int :=
  match v with
  | .nan => 0
  | .inf neg => if neg then -(2 ^ (pt - 1)) else 2 ^ (pt - 1) - 1
  | .fin neg m e => satWidth pt true (roundShift (if neg then -(m : Int) else m) (e - eb))

/-- Elements of `bits` bits each, packed little-endian. -/
def unpackBits (bits n : Nat) (bs : List Byte) : List Nat :=
  let x := leNat bs
  (List.range n).map fun i => bitsAt x (bits * i) bits

/-- Elements packed into bytes. -/
def packBits (bits : Nat) (xs : List Nat) : List Byte :=
  natLe (ceilDiv (bits * xs.length) 8) (xs.foldr (fun x acc => x % 2 ^ bits + acc * 2 ^ bits) 0)

/-- CONVERT_IN of one block of 64 elements: integers of the target width, sign-extended to whole bytes, the NaNs that became 0, and
E_blk (R115). INT8 and INT4 are taken unchanged with E_blk 0 (Table FAB-8). -/
def convertBlock (fmt pt : Nat) (xs : List Nat) : List Int × Nat × Int :=
  match stgFloat fmt with
  | none => (xs.map fun x => sext (stgBits fmt) x, 0, 0)
  | some f =>
    let vs := xs.map (decodeF f)
    let eb := blockExponent vs pt
    (vs.map (blockElem pt eb), vs.countP (fun v => v == .nan), eb)

/-- CONVERT_OUT of one value held as an integer with 8 fraction bits or none (R116). -/
def convertOut (fmt : Nat) (frac : Nat) (y : Int) : Nat :=
  match stgFloat fmt with
  | none => toField (stgBits fmt) (satWidth (stgBits fmt) true (roundShift y (-(frac : Int))))
  | some f => encodeF f false (fmt == 4 || fmt == 5) (.fin (decide (y < 0)) y.natAbs (-(frac : Int)))

/-! ### Staging moves (Table SEQ-4, R142) -/

/-- A square matrix of `n` by `n` elements of `k` bytes transposed. -/
def transposeBlock (n k : Nat) (bs : List Byte) : List Byte :=
  (List.range (n * n * k)).map fun i => byteAt bs ((i / k % n) * n * k + (i / (n * k)) * k + i % k)

/-- One group of 64 elements of `pt` bits as plane rows, sign plane first (R90, R142). -/
def planeRows (pt : Nat) (xs : List Nat) : List Byte :=
  (List.range pt).flatMap fun i => packBits 1 (xs.map fun x => bitsAt x (pt - 1 - i) 1)

/-- Source lines of a staging move. -/
def stgSource (d : Nat) (w : SeqWord) (n : Nat) (s : State) : List Byte := seenBytes d (stagingAddr d (SW.stgSrc w)) (64 * n) s

/-- The blocks of a CONVERT_IN. -/
def stgBlocks (d : Nat) (w : SeqWord) (s : State) : List (List Int × Nat × Int) :=
  let n := SW.stgLen w
  (chunksOf (stgBits (SW.stgFmt w) * 8) (64 * n) (stgSource d w n s)).map fun g =>
    convertBlock (SW.stgFmt w) (SW.stgPt w) (unpackBits (stgBits (SW.stgFmt w)) 64 g)

/-- Block exponents of the lines that a staging move writes, by line of the destination: CONVERT_IN gives them, and a copy keeps them
(R114, R115; DEDUCED, log 21). -/
def stgExps (d : Nat) (w : SeqWord) (s : State) : List (Nat × Int) :=
  match SW.stgOp w with
  | 1 => (List.range (SW.stgLen w)).filterMap fun i =>
      (seenExp d (stagingAddr d (SW.stgSrc w + i) / 64) s).map fun e => (i, e)
  | 5 =>
    let k := if SW.stgPt w ≤ 8 then 1 else 2
    (stgBlocks d w s).zipIdx.flatMap fun (b, i) => (List.range k).map fun h => (k * i + h, b.2.2)
  | _ => []

/-- The bytes that a staging move of operations 1 to 6 writes, and the NaN inputs it converted (R142). CONVERT_OUT reads 32-bit Y
values or integers of STG_PT + 1 bits; no field tells which, so Config.sourceIsY decides freely (log 53). -/
def stgBytes (d : Nat) (w : SeqWord) (s : State) : List Byte × Nat :=
  let n := SW.stgLen w
  let src := stgSource d w n s
  let pt := SW.stgPt w
  match SW.stgOp w with
  | 1 => (src, 0)
  | 2 => ((chunksOf 4096 n src).flatMap (transposeBlock 64 1), 0)
  | 3 => ((chunksOf 2048 n src).flatMap (transposeBlock 32 2), 0)
  | 4 =>
    let k := if pt ≤ 8 then 1 else 2
    ((chunksOf (64 * k) n src).flatMap fun g => planeRows pt (unpackBits (8 * k) 64 g), 0)
  | 5 =>
    let k := if pt ≤ 8 then 1 else 2
    let blocks := stgBlocks d w s
    (blocks.flatMap fun b => b.1.flatMap fun x => natLe k (toField (8 * k) x), (blocks.map (·.2.1)).sum)
  | 6 =>
    let y := Config.sourceIsY w.toNat
    let k := if y then 4 else if pt ≤ 8 then 1 else 2
    let ys := (chunksOf k (64 * n / k) src).map fun e => rdI e 0 k
    (packBits (stgBits (SW.stgFmt w)) (ys.map (convertOut (SW.stgFmt w) (if y then 8 else 0))), 0)
  | _ => ([], 0)

/-- The destination of a staging move: staging, every core store, or one core store (Table SEQ-1). -/
def stgStore (st d : Nat) (w : SeqWord) (bs : List Byte) (exps : List (Nat × Int)) (s : State) : State :=
  let put (a : Nat) (s : State) : State :=
    forEach exps (fun e s => dieExp d (a / 64 + e.1) e.2 s) (dieWrite d a bs s)
  match SW.stgDstSel w with
  | 0 => put (stagingAddr d (SW.stgDst w)) s
  | 1 => forEach (List.range 48) (fun c s => put (lineAddr st d c (SW.stgDst w) s) s) s
  | 2 => put (lineAddr st d (SW.stgCore w) (SW.stgDst w) s) s
  | _ => s

/-- A staging move: operations 1 to 6, or TABLE_LOAD of 9 lines into a table of every core (R142, R112). -/
def stagingMove (st d : Nat) (dummy : Bool) (w : SeqWord) (s : State) : State :=
  if SW.stgOp w = 0 then s
  else if SW.stgOp w = 7 then
    let bs := (stgSource d w 9 s).take 528
    forEach (List.range 48) (fun c s => dieWrite d (tableAddr d c (SW.stgCore w % 4)) bs s) s
  else
    let (bs, nans) := stgBytes d w s
    stgStore st d w bs (stgExps d w s) (if nans = 0 then s else report st d dummy (.nan nans) s)

end Sys2Proof.Machine
end

