-- ==== Sys2Proof/Machine/Conv.lean ====
section
/-!
DEFINITION. The direct engine: the descriptor check, fills, padding, tile assembly and pooling (chapter 07, R179 to R197).
-/
namespace Sys2Proof.Machine
open Sys2Proof

/-! ### The window of a block (R184, R188) -/

/-- Kept taps of a sub-filter as (ky, kx), in increasing order of 7 ky + kx. -/
def convTaps (d : BitVec 512) : List (Nat × Nat) :=
  ((List.range 49).filter fun i => bitsAt (CV.tapMask d) i 1 == 1).map fun i => (i / 7, i % 7)

def minOf (l : List Nat) : Nat := l.foldl min (l.headD 0)
def maxOf (l : List Nat) : Nat := l.foldl max 0

/-- R_in and W_in; both 0 with no kept tap (R184). -/
def rowsIn (d : BitVec 512) : Nat :=
  if CV.nt d = 0 then 0
  else 3 * CV.strideY d + (maxOf ((convTaps d).map (·.1)) - minOf ((convTaps d).map (·.1))) * CV.dilY d + 1
def colsIn (d : BitVec 512) : Nat :=
  if CV.nt d = 0 then 0
  else 15 * CV.strideX d + (maxOf ((convTaps d).map (·.2)) - minOf ((convTaps d).map (·.2))) * CV.dilX d + 1

/-- Logical input row of output row `oy` under tap row `ky`, and column likewise (R188). -/
def inRow (d : BitVec 512) (oy ky : Nat) : Int := oy * CV.strideY d + (CV.kyOff d + ky) * CV.dilY d - (CV.padTop d : Int)
def inCol (d : BitVec 512) (ox kx : Nat) : Int := ox * CV.strideX d + (CV.kxOff d + kx) * CV.dilX d - (CV.padLeft d : Int)

/-- The first logical row and column of the window of a block. -/
def winRow0 (d : BitVec 512) (oy0 : Nat) : Int := inRow d oy0 (minOf ((convTaps d).map (·.1)))
def winCol0 (d : BitVec 512) (ox0 : Nat) : Int := inCol d ox0 (minOf ((convTaps d).map (·.2)))

/-- Padding of a logical index on an axis of length `n`: zero mode gives none outside, reflect folds periodically, replicate
clamps (R185). -/
def padIndex (mode : Nat) (n : Nat) (i : Int) : Option Nat :=
  if mode = 0 then (if 0 ≤ i ∧ i < n then some i.toNat else none)
  else if mode = 1 then
    if n ≤ 1 then some 0
    else
      let m := (i % (2 * ((n : Int) - 1))).toNat
      some (if m < n then m else 2 * (n - 1) - m)
  else some (clampInt 0 (n - 1) i).toNat

/-- A block code: 0 none (1), 1 to 3 give 2, 4, 8. -/
def blockSize (code : Nat) : Nat := 2 ^ code

/-- The source byte of logical element (c, y, x), or none where it is 0 (R183, R184). -/
def sourceByte (d : BitVec 512) (c : Nat) (y x : Int) : Option Nat :=
  match padIndex (CV.padMode d) (CV.inH d) y, padIndex (CV.padMode d) (CV.inW d) x with
  | some y, some x =>
    let u := 2 ^ CV.upLog2 d
    let b := blockSize (CV.regroupIn d)
    let at3 (c y x : Nat) := 64 * CV.inLine d + c * 64 * CV.planePitch d + y * CV.rowPitch d + x * CV.elem d
    if CV.upsample d = 1 then some (at3 c (y / u) (x / u))
    else if CV.upsample d = 2 then (if y % u = 0 ∧ x % u = 0 then some (at3 c (y / u) (x / u)) else none)
    else if CV.regroupIn d = 0 then some (at3 c y x)
    else some (at3 (c / (b * b)) (b * y + c % (b * b) / b) (b * x + c % b))
  | _, _ => none

/-- The logical positions of a fill, in order: channel, row, column (R184). -/
def fillPositions (d : BitVec 512) : List (Nat × Int × Int) :=
  (List.range (CV.fillCCount d)).flatMap fun c =>
    (List.range (rowsIn d)).flatMap fun r =>
      (List.range (colsIn d)).map fun k =>
        (CV.fillCFirst d + c, winRow0 d (CV.fillOy0 d) + r, winCol0 d (CV.fillOx0 d) + k)

/-- Address of a source byte, in the core's store or in staging scratch (R183, R503). -/
def convAddr (st die core : Nat) (d : BitVec 512) (b : Nat) (s : State) : Nat :=
  if CV.inSrc d then stagingAddr die 0 + b else lineAddr st die core 0 s + b

/-- The bytes of an element of the descriptor's width; a fill never reads a provisional slot (R186). -/
def convElem (st die core : Nat) (d : BitVec 512) (p : Nat × Int × Int) (s : State) : List Byte :=
  match sourceByte d p.1 p.2.1 p.2.2 with
  | none => List.replicate (CV.elem d) 0
  | some b => memRead s.mem (convAddr st die core d b s) (CV.elem d)

/-- The content of a half after a fill (R179, R184). -/
def fillData (st die core : Nat) (d : BitVec 512) (s : State) : List Byte :=
  fitBytes 2560 ((fillPositions d).flatMap fun p => convElem st die core d p s)

/-- The lines that a fill reads. -/
def fillLines (st die core : Nat) (d : BitVec 512) (s : State) : List Nat :=
  ((fillPositions d).filterMap fun p => (sourceByte d p.1 p.2.1 p.2.2).map fun b => convAddr st die core d b s / 64).eraseDups

/-! ### The descriptor check (R190) -/

/-- The computed tap mask: in zero mode a tap is dropped when its row or its column lies wholly in padding. -/
def computedMask (d : BitVec 512) : Nat :=
  ((List.range 49).filter fun i =>
    decide (i / 7 < CV.kh d) && decide (i % 7 < CV.kw d) &&
      !(CV.padMode d == 0 &&
        (decide (inRow d (CV.outH d - 1) (i / 7) < 0) || decide ((CV.inH d : Int) ≤ inRow d 0 (i / 7))
          || decide (inCol d (CV.outW d - 1) (i % 7) < 0) || decide ((CV.inW d : Int) ≤ inCol d 0 (i % 7))))).foldl
    (fun m i => m + 2 ^ i) 0

/-- Number of bits set in a mask of 49. -/
def maskCount (m : Nat) : Nat := ((List.range 49).filter fun i => bitsAt m i 1 == 1).length

/-- Channels that the assembly of a chunk needs: first and last, if any (R187, R194). -/
def chunkChannels (d : BitVec 512) : Option (Nat × Nat) :=
  let k := CV.chunk d
  let nt := CV.nt d
  if CV.mode d ≠ 0 then
    (if 64 * k < CV.cIn d then some (64 * k, min (64 * k + 63) (CV.cIn d - 1)) else none)
  else if nt = 0 then none
  else if CV.align d then
    let a := 64 / nt
    (if a * k < CV.cIn d ∧ a ≠ 0 then some (k * a, min (k * a + a - 1) (CV.cIn d - 1)) else none)
  else if 64 * k < CV.cIn d * nt then some (64 * k / nt, min ((64 * k + 63) / nt) (CV.cIn d - 1))
  else none

/-- A half of a core: one that nothing has filled holds zeros and has recorded no fill (R179; DESIGN CHOICE, log 16). -/
def halfOf (die k : Nat) (s : State) : Half :=
  (mapGet (dieOf die s).halves k).getD { desc := 0, valid := false, owner := none, data := List.replicate 2560 0 }

/-- The fields and cross-field conditions of the check, as (byte offset of the field, failing), in byte order (R190). -/
def convFailures (st die core : Nat) (w : SeqWord) (d : BitVec 512) (s : State) : List (Nat × Bool) :=
  let lines := ((streamOf st s).bind fun x => (jobOf x.job s).bind fun j => (dieRec j die).map resLines).getD 0
  let limit := if CV.inSrc d then 8192 * 64 else lines * 64
  let half := halfOf die (core * 2 + CV.half d) s
  let need := CV.fillCCount d * rowsIn d * colsIn d * CV.elem d
  let srcBad := CV.fill d && ((fillPositions d).any fun p => match sourceByte d p.1 p.2.1 p.2.2 with
    | some b => decide (limit < b + CV.elem d)
    | none => false)
  let halfBad := CV.assemble d && (CV.fillOy0 half.desc != CV.oy0 d || CV.fillOx0 half.desc != CV.ox0 d)
  let chBad := CV.assemble d && (match chunkChannels d with
    | some (a, b) => decide (a < CV.fillCFirst half.desc) || decide (CV.fillCFirst half.desc + CV.fillCCount half.desc ≤ b)
    | none => false)
  [(0, CV.inH d == 0), (2, CV.inW d == 0), (4, CV.outH d == 0), (6, CV.outW d == 0),
   (8, CV.kh d == 0 || decide (7 < CV.kh d) || CV.kw d == 0 || decide (7 < CV.kw d)),
   (9, decide (56 < fld d 72 8)), (10, decide (56 < fld d 80 8)),
   (11, CV.strideY d == 0 || decide (8 < CV.strideY d) || CV.strideX d == 0 || decide (8 < CV.strideX d)),
   (12, CV.dilY d == 0), (13, CV.dilX d == 0),
   (14, CV.padMode d == 3 || CV.upsample d == 3 || CV.upLog2 d == 3 || (CV.upsample d != 0 && CV.regroupIn d != 0)),
   (15, CV.mode d == 3 || flag d 127 || (CV.mode d != 0 && CV.in16 d) || (CV.in16 d && SW.abyte w == 0)),
   (20, CV.cIn d == 0), (24, srcBad),
   (32, CV.tapMask d != computedMask d || fld d 305 7 != 0), (39, CV.nt d != maskCount (CV.tapMask d)),
   (40, halfBad), (44, chBad), (46, fld d 371 5 != 0),
   (47, CV.fillCCount d == 0 || (CV.fill d && decide (2560 < need))),
   (54, fld d 435 5 != 0 || (CV.outLayout d && SW.postDest w == 2)), (55, fld d 440 8 != 0)]

/-- The byte offset of the first failing field, if the check fails. -/
def convCheck (st die core : Nat) (w : SeqWord) (d : BitVec 512) (s : State) : Option Nat :=
  ((convFailures st die core w d s).find? fun f => f.2).map (·.1)

/-- The descriptor that a core reads for a word (R181). -/
def convDesc (st die core : Nat) (w : SeqWord) (s : State) : BitVec 512 :=
  BitVec.ofNat 512 (leNat (seenBytes die (lineAddr st die core (SW.aloadAddr w + core % 12 * SW.aloadCoreStride w) s) 64 s))

/-- The first core whose descriptor fails, with the field's offset. -/
def convFault (st die : Nat) (w : SeqWord) (s : State) : Option (Nat × Nat) :=
  (List.range 48).findSome? fun c => (convCheck st die c w (convDesc st die c w s) s).map fun o => (c, o)

/-- A chunk that a word's check refuses ends at the word as REFUSED_FORMAT; a dummy frame fails by it (R191, R222, R231, R423). -/
def refuseRun (st : Nat) (dummy : Bool) (detail aux : Nat) (s : State) : State :=
  if dummy then dummyFail st s else endChunk st Status.refusedFormat detail aux s

/-- A failed check: the chunk ends as REFUSED_FORMAT 0x010C, CHECK_FAIL is set and FAB event 0x0007 is posted (R191). -/
def convRefuse (st die : Nat) (dummy : Bool) (core off : Nat) (s : State) : State :=
  let aux := die + core * 256 + off * 65536 + st * 2 ^ 24
  refuseRun st dummy 0x010C aux
    (postEvent 3 0x0007 Status.refusedFormat aux
      (incF Fld.fabCnvStatusFailCount die (setB Fld.fabCnvStatusCheckFail die true s)))

/-- The descriptor-check unit has computed the tap masks of every core (R179, R190). -/
def noteTaps (st die : Nat) (w : SeqWord) (s : State) : State :=
  let masks := (List.range 48).map fun c => (c, computedMask (convDesc st die c w s))
  adjDie die (fun y => { y with taps := masks }) s

/-! ### Fill and assembly (R184, R187, R188, R194 to R196) -/

def setHalf (die k : Nat) (h : Half) (s : State) : State := adjDie die (fun x => { x with halves := mapSet x.halves k h }) s

/-- A fill of the half that HALF does not name (R181). -/
def convFill (st die core : Nat) (d : BitVec 512) (s : State) : State :=
  if CV.fill d then
    setHalf die (core * 2 + (1 - CV.half d)) { desc := d, valid := true, owner := some st, data := fillData st die core d s } s
  else s

/-- An invalid half refilled from its recorded parameters before it is read (R196). -/
def convRefill (st die core : Nat) (d : BitVec 512) (s : State) : State :=
  let k := core * 2 + CV.half d
  let h := halfOf die k s
  if h.valid then s
  else
    incF Fld.fabCnvStatusRefills die
      (setHalf die k { desc := h.desc, valid := true, owner := some st, data := fillData st die core h.desc s } s)

/-- An element of a filled half at a logical position; the window's own taps place it (R188). -/
def halfElem (h : Half) (c : Nat) (y x : Int) : Int :=
  let r := y - winRow0 h.desc (CV.fillOy0 h.desc)
  let k := x - winCol0 h.desc (CV.fillOx0 h.desc)
  if 0 ≤ r ∧ r < rowsIn h.desc ∧ 0 ≤ k ∧ k < colsIn h.desc ∧ CV.fillCFirst h.desc ≤ c then
    let i := ((c - CV.fillCFirst h.desc) * rowsIn h.desc + r.toNat) * colsIn h.desc + k.toNat
    (rdLE h.data (CV.elem h.desc * i) (CV.elem h.desc) : Nat)
  else 0

/-- The byte of a raw element that a pass loads (R189). -/
def passByte (w : SeqWord) (d : BitVec 512) (v : Int) : Byte :=
  if CV.in16 d && SW.abyte w == 1 then BitVec.ofInt 8 (v / 256) else BitVec.ofInt 8 v

/-- A tap's element at an output. -/
def tapElem (d : BitVec 512) (h : Half) (c oy ox : Nat) (t : Nat × Nat) : Int := halfElem h c (inRow d oy t.1) (inCol d ox t.2)

/-- Cell `i` of a lane in CONV mode (R187). -/
def convCell (d : BitVec 512) (h : Half) (oy ox i : Nat) : Int :=
  let nt := CV.nt d
  let k := CV.chunk d
  let taps := convTaps d
  if nt = 0 then 0
  else if CV.align d then
    let a := 64 / nt
    let c := k * a + i / nt
    if i < a * nt ∧ c < CV.cIn d then tapElem d h c oy ox (taps.getD (i % nt) (0, 0)) else 0
  else
    let e := 64 * k + i
    if e < CV.cIn d * nt then tapElem d h (e / nt) oy ox (taps.getD (e % nt) (0, 0)) else 0

/-- Taps of an output that lie inside the input, whatever the padding mode (R194). -/
def insideCount (d : BitVec 512) (oy ox : Nat) : Nat :=
  (convTaps d).countP fun t =>
    decide (0 ≤ inRow d oy t.1) && decide (inRow d oy t.1 < CV.inH d) && decide (0 ≤ inCol d ox t.2) && decide (inCol d ox t.2 < CV.inW d)

/-- Taps of an output that have a value: those inside the input in zero mode, every tap in the other modes (R185, R194). -/
def insideTaps (d : BitVec 512) (oy ox : Nat) : List (Nat × Nat) :=
  (convTaps d).filter fun t =>
    (padIndex (CV.padMode d) (CV.inH d) (inRow d oy t.1)).isSome && (padIndex (CV.padMode d) (CV.inW d) (inCol d ox t.2)).isSome

/-- The pooled value of a channel at an output (R194). -/
def poolCell (d : BitVec 512) (h : Half) (oy ox i : Nat) : Int :=
  let c := 64 * CV.chunk d + i
  let num (t : Nat × Nat) : Int :=
    let v := tapElem d h c oy ox t
    if CV.inSigned d then sext 8 (toField 8 v) else v
  let ins := insideTaps d oy ox
  if CV.cIn d ≤ c then 0
  else if CV.mode d = 1 then
    match ins with
    | [] => 0
    | t :: ts => ts.foldl (fun m t => max m (num t)) (num t)
  else
    let sum := (ins.map num).foldl (· + ·) 0
    let div := if CV.avgDiv d then insideCount d oy ox else CV.kh d * CV.kw d
    if div = 0 then 0 else satWidth 8 (CV.inSigned d) (rneDiv sum div)

/-- The tile of a core: array by array, lane by lane, 64 cells each. A lane beyond OUT_H or OUT_W takes 0 (R188). -/
def convTile (w : SeqWord) (d : BitVec 512) (h : Half) : List Byte :=
  (List.range 4).flatMap fun a => (List.range 16).flatMap fun j => (List.range 64).map fun i =>
    let oy := CV.oy0 d + a
    let ox := CV.ox0 d + j
    if CV.outH d ≤ oy ∨ CV.outW d ≤ ox then 0
    else if CV.mode d = 0 then passByte w d (convCell d h oy ox i) else passByte w d (poolCell d h oy ox i)

/-- The assembly of a core's tile set into its shadow registers; the descriptor goes with it (R181, R192). -/
def convAssemble (st die core : Nat) (w : SeqWord) (d : BitVec 512) (s : State) : State :=
  if !(CV.assemble d) then s
  else
    let s := convRefill st die core d s
    let tile := convTile w d (halfOf die (core * 2 + CV.half d) s)
    adjDie die (fun x => { x with
      shadowConv := mapSet x.shadowConv core d
      shadowExp := x.shadowExp.filter fun e => e.1 / 64 != core
      window := mapSet x.window core ((List.range 4).flatMap fun a => (tile.drop (1024 * a + 960)).take 64) })
      (wrMem (shadowAddr die core 0 0 0) tile s)

/-- The direct engine's action of a word that has passed its check, core by core (R181). -/
def convRun (st die : Nat) (w : SeqWord) (s : State) : State :=
  forEach (List.range 48) (fun c s =>
    let d := convDesc st die c w s
    convFill st die c d (convAssemble st die c w d s)) s

/-- At a trick of another stream both halves of every core are marked invalid and keep their parameters (R196). -/
def invalidateHalves (die : Nat) (s : State) : State :=
  adjDie die (fun x => { x with halves := x.halves.map fun (k, h) => (k, { h with valid := false }) }) s

/-! ### Output placement (R192) -/

/-- The bytes of a drained row in planar layout, as (byte offset of the destination, byte), for lanes inside the output. -/
def planarBytes (w : SeqWord) (d : BitVec 512) (row : Nat) (outs : List Int) : List (Nat × Byte) :=
  let o := CV.outC0 d + row
  let b := blockSize (CV.regroupOut d)
  let c := o / (b * b)
  let by' := o % (b * b) / b
  let bx := o % b
  (List.range 64).filterMap fun i =>
    let oy := CV.oy0 d + i / 16
    let ox := CV.ox0 d + i % 16
    if CV.outH d ≤ oy ∨ CV.outW d ≤ ox then none
    else some (64 * SW.postAddr w + c * CV.outPlanePitch d + (b * oy + by') * CV.outRowPitch d + b * ox + bx,
      BitVec.ofInt 8 (outs.getD i 0))

end Sys2Proof.Machine
end

