-- ==== Sys2Proof/Machine/Attention.lean ====
section
/-!
DEFINITION. Attention: the descriptor and its checks, rows and page steps, the walker, exclusion, key skipping and its
verification (chapter 08, R199 to R223).
-/
namespace Sys2Proof.Machine
open Sys2Proof

/-- The score of an excluded or skipped key: -(2^39 - 1) (R201). -/
def minScore : Int := -(2 ^ 39 - 1)

/-- The first two bytes of the line that LDESC names, in core 0 (R205, R226). -/
def wordKind (st d : Nat) (w : SeqWord) (s : State) : Nat := leNat (seenBytes d (lineAddr st d 0 (SW.ldesc w) s) 2 s)

/-- A word is an attention word (R205). -/
def isAttention (st d : Nat) (w : SeqWord) (s : State) : Bool := wordKind st d w s == 0xA771

/-- The attention descriptor at a word's LDESC, in core 0 (R205). -/
def attDesc (st d : Nat) (w : SeqWord) (s : State) : BitVec 1024 :=
  BitVec.ofNat 1024 (leNat (seenBytes d (lineAddr st d 0 (SW.ldesc w) s) 128 s))

/-! ### Tables in the object range (R206) -/

/-- An object-range field of a job: little-endian bytes. -/
def objNat (a n : Nat) (s : State) : Nat := leNat (readObj a n s)

/-- A length-table entry (Table ATT-3). -/
structure LenEntry where
  start : Nat
  length : Nat
  kvLen : Nat
  pageBase : Nat
  deriving DecidableEq, Repr

def lenEntry (t : BitVec 1024) (i : Nat) (s : State) : LenEntry :=
  let a := AT.lenTable t + 16 * i
  ⟨objNat a 4 s, objNat (a + 4) 4 s, objNat (a + 8) 4 s, objNat (a + 12) 4 s⟩

/-- The global positions (Table ATT-2). -/
def globalsOf (t : BitVec 1024) (s : State) : List Nat :=
  (List.range (AT.nGlobal t)).map fun i => objNat (AT.globals t + 4 * i) 4 s

/-- The address of the page-list entry of page `n` of head `h` of a sequence (R206). -/
def pageEntryAt (t : BitVec 1024) (e : LenEntry) (h n : Nat) : Nat := AT.pageList t + 8 * (e.pageBase + h * AT.listStride t + n)

/-- The page that such an entry names: bits 47:0; the bits above are reserved and have no effect (R9, R206). -/
def pageEntry (t : BitVec 1024) (e : LenEntry) (h n : Nat) (s : State) : Nat := objNat (pageEntryAt t e h n) 8 s % 2 ^ 48

/-! ### Rows and page steps (R207 to R209) -/

/-- A row of a chunk: sequence, key-value head, first token of the sequence and number of tokens. -/
structure AttRow where
  seq : Nat
  head : Nat
  tok : Nat
  count : Nat
  deriving DecidableEq, Repr

/-- Tokens that one row takes: L / G (R208). -/
def rowTokens (t : BitVec 1024) : Nat := if AT.group t = 0 then 0 else AT.lanes t / AT.group t

/-- The key-value heads of this die (R208, R212). -/
def headsOf (t : BitVec 1024) : List Nat :=
  if AT.position t then List.range (AT.hkv t) else (List.range (AT.headCount t)).map (· + AT.headFirst t)

/-- The real rows of a chunk in walker order (R208). -/
def attRows (t : BitVec 1024) (s : State) : List AttRow :=
  let n := rowTokens t
  (List.range (AT.nSeq t)).flatMap fun q =>
    let e := lenEntry t q s
    (headsOf t).flatMap fun h =>
      (List.range (ceilDiv e.length n)).map fun i => ⟨q, h, i * n, min n (e.length - i * n)⟩

/-- Key `k` is allowed for a query at position `q` (R207). -/
def allowedKey (t : BitVec 1024) (globals : List Nat) (kvLen q k : Nat) : Bool :=
  decide (k < kvLen) && (!(AT.causal t) || decide (k ≤ q)) &&
    (AT.window t == 0 || globals.contains k ||
      (decide (q < k + AT.window t) && (AT.causal t || decide (k < q + AT.window t))))

/-- The position of a row's token `i` (R206). -/
def rowQuery (e : LenEntry) (r : AttRow) (i : Nat) : Nat := e.kvLen - e.length + r.tok + i

/-- Some key of page `n` is allowed for some token of the row. -/
def pageNeeded (t : BitVec 1024) (gl : List Nat) (e : LenEntry) (r : AttRow) (n : Nat) : Bool :=
  (List.range r.count).any fun i => (List.range 64).any fun p => allowedKey t gl e.kvLen (rowQuery e r i) (64 * n + p)

/-- Some key of page `n` lies inside the window of some token of the row. -/
def pageInWindow (t : BitVec 1024) (e : LenEntry) (r : AttRow) (n : Nat) : Bool :=
  (List.range r.count).any fun i => (List.range 64).any fun p => allowedKey t [] e.kvLen (rowQuery e r i) (64 * n + p)

/-- The page steps of a row: pages of global positions outside every window, ascending, then the rest, newest first; a row
with no page gets one empty step (R209). -/
def rowSteps (t : BitVec 1024) (r : Option AttRow) (s : State) : List (Option Nat) :=
  match r with
  | none => [none]
  | some r =>
    let e := lenEntry t r.seq s
    let gl := globalsOf t s
    let pages := (List.range (ceilDiv e.kvLen 64)).filter fun n =>
      pageNeeded t gl e r n && (!(AT.position t) || n % AT.nDies t == AT.dieOrd t)
    let far := pages.filter fun n => !(pageInWindow t e r n)
    let near := (pages.filter fun n => pageInWindow t e r n).reverse
    let all := (far ++ near).map some
    if all.isEmpty then [none] else all

/-- The home core of a span: quadrant by quadrant (R199). -/
def spanCore (t : BitVec 1024) (span : Nat) : Nat :=
  let k := AT.dChunks t
  let per := 12 / (max 1 k)
  span / per * 12 + span % per * k

/-! ### The walker's checks (R222) -/

/-- AUX of a failed check (Table ATT-4). -/
def attAux (d st cause seq : Nat) : Nat := d + st * 256 + cause * 65536 + seq % 256 * 2 ^ 24

/-- The walker of a die changed. -/
def adjWalker (d : Nat) (f : Walker → Walker) (s : State) : State :=
  adjDie d (fun x => { x with walker := x.walker.map f }) s

/-- Skipped keys of attempts that have committed, or that go on with no epoch, counted in the chunk's SKIP_COUNT; a key counts once
for its row (R219). -/
def countSkips (st d : Nat) (s : State) : State :=
  let n := (((dieOf d s).walker).map fun w => w.skipped.length).getD 0
  if n = 0 then s
  else adjWalker d (fun w => { w with skipped := [] }) (adjFacts st (fun f => { f with skipCount := f.skipCount + n }) s)

/-- A failed check: the walker stops, the chunk ends as REFUSED_FORMAT 0x010D, CHECK_FAIL is set, the event is posted, and an
open SKIP epoch is squashed without a replay (R222, R223). -/
def attFail (st d : Nat) (dummy : Bool) (cause seq : Nat) (s : State) : State :=
  let aux := attAux d st cause seq
  let s := if (epochOf d 2 s).isSome then squashEpoch d 2 s else countSkips st d s
  let s := adjDie d (fun x => { x with walker := x.walker.map fun w => { w with stopped := true } }) s
  refuseRun st dummy 0x010D aux
    (postEvent 3 0x0008 Status.refusedFormat aux
      (incF Fld.fabAttStatusFailCount d (setB Fld.fabAttStatusCheckFail d true s)))

/-- A range lies within one object of a job. -/
def inJob (j a n : Nat) (s : State) : Bool := slotOf a == j && inOneObject a n s

/-- The descriptor's check: the cause of Table ATT-4, if it fails. -/
def attDescCheck (st d : Nat) (t : BitVec 1024) (s : State) : Option Nat :=
  let x := streamOf st s
  let j := (x.map fun x => x.job).getD 0
  let lines := ((jobOf j s).bind fun jb => (dieRec jb d).map resLines).getD 0
  let scale := decodeF fp32 (AT.scoreScale t)
  let slack := decodeF fp32 (AT.predSlack t)
  let scaleBad := match scale with
    | .fin neg m _ => neg || m == 0
    | _ => true
  let slackBad := match slack with
    | .fin neg m _ => neg && m != 0
    | _ => true
  let c1 := fld t 19 5 != 0 || fld t 27 5 != 0 || AT.dChunks t == 0 || decide (4 < AT.dChunks t)
    || AT.hq t == 0 || decide (64 < AT.hq t) || AT.hkv t == 0 || decide (64 < AT.hkv t) || AT.hq t % (max 1 (AT.hkv t)) != 0
    || AT.rowSpans t == 0 || decide (48 < AT.rowSpans t * AT.dChunks t) || decide (64 * AT.rowSpans t < AT.group t)
    || decide (30 < AT.skipLog2 t) || scaleBad || slackBad || decide (4096 < AT.window t) || decide (64 < AT.nGlobal t)
    || decide (AT.buffers t < 2) || decide (8 < AT.buffers t) || AT.nSeq t == 0 || decide (1024 < AT.nSeq t)
    || AT.rowsMax t == 0 || AT.listStride t == 0 || decide (4096 < AT.listStride t)
    || fld t 304 16 != 0 || fld t 368 16 != 0 || fld t 432 16 != 0 || fld t 496 16 != 0 || fld t 600 8 != 0
    || fld t 626 6 != 0 || fld t 635 5 != 0 || fld t 640 384 != 0
    || (!(AT.position t) && (AT.headCount t == 0 || decide (64 < AT.headCount t)))
    || (AT.position t && (AT.nDies t == 0 || decide (4 < AT.nDies t) || decide (AT.nDies t ≤ AT.dieOrd t)))
  let predPinned := slotOf (AT.pred t) == j && ((objectOf (AT.pred t) s).map fun o => o.policy == 0).getD false
  let c6 := !(inJob j (AT.lenTable t) (16 * AT.nSeq t) s) || !(inJob j (AT.pageList t) 8 s)
    || (AT.nGlobal t != 0 && !(inJob j (AT.globals t) (4 * AT.nGlobal t) s)) || !(inJob j (AT.q t) 1 s) || !predPinned
  let gl := globalsOf t s
  let c4 := !((gl.zip (gl.drop 1)).all fun p => decide (p.1 < p.2)) || gl.any fun g => decide (262144 ≤ g)
  let c7 := decide (lines < AT.bufLine t + 128 * AT.buffers t)
  if c1 then some 1 else if c6 then some 6 else if c4 then some 4 else if c7 then some 7
  else if decide (AT.rowsMax t < (attRows t s).length) then some 5 else none

/-- A length-table entry's check (cause 0x02). -/
def lenCheck (t : BitVec 1024) (e : LenEntry) (s : State) : Bool :=
  let q := objectOf (AT.q t) s
  let size := (q.map fun o => o.offset + extent o - offsetOf (AT.q t)).getD 0
  decide (e.length ≤ e.kvLen) && decide (e.kvLen ≤ 262144) && decide (e.kvLen ≤ 64 * AT.listStride t)
    && decide ((e.start + e.length) * AT.hq t * AT.dChunks t * 64 ≤ size)

/-- A page-list entry's check (cause 0x03): the entry itself, and the page that it names, lie within an object of the job. -/
def pageCheck (j at' a : Nat) (s : State) : Bool := inJob j at' 8 s && a % 32768 == 0 && inJob j a 32768 s

/-! ### The walker (R208 to R211) -/

/-- The walker starts at the first attention word of a layer: the descriptor is read and checked (R205, R222). -/
def walkerStart (st d : Nat) (dummy : Bool) (w : SeqWord) (s : State) : State :=
  let t := attDesc st d w s
  let wk : Walker :=
    { stream := st, dummy := dummy, desc := t, line := SW.ldesc w, row := 0, step := 0, chunkStep := 0, busy := 0, gated := 0
      rowDone := true, inRow := false, startWord := 0, fresh := false, m := [], pred := [], thr := [], skipping := false
      verified := false, replay := false, skipped := [], stopped := false, live := [] }
  let s := adjDie d (fun x => { x with walker := some wk }) s
  match attDescCheck st d t s with
  | some c => attFail st d dummy c 0 s
  | none =>
    let reads := [(AT.lenTable t, 16 * AT.nSeq t), (AT.globals t, 4 * AT.nGlobal t)]
    match rangesErr d reads s with
    | some e => readFault st dummy e (adjWalker d (fun w => { w with stopped := true }) s)
    | none => touchRanges reads s

/-- The row that the walker stands at; none past the real rows. -/
def walkerRow (w : Walker) (s : State) : Option AttRow := (attRows w.desc s)[w.row]?

/-- K chunk c and V block c of a page copied into the buffer of every span core (R202, R209). -/
def copyPage (st d : Nat) (t : BitVec 1024) (page buf : Nat) (s : State) : State :=
  forEach (List.range (AT.rowSpans t)) (fun sp s =>
    forEach (List.range (AT.dChunks t)) (fun c s =>
      let core := spanCore t sp + c
      let at0 := AT.bufLine t + 128 * buf
      let k := readObj (page + 64 * 64 * c) 4096 s
      let v := readObj (page + 64 * (256 + 64 * c)) 4096 s
      store (lineAddr st d core (at0 + 64) s) v (store (lineAddr st d core at0 s) k s)) s) s

/-- The queries of a row placed in the shadow registers: lane l holds token l div G and head h G + l mod G (R199, R205, R208). -/
def loadQueries (d : Nat) (t : BitVec 1024) (e : LenEntry) (r : AttRow) (s : State) : State :=
  forEach (List.range (AT.lanes t)) (fun l s =>
    forEach (List.range (AT.dChunks t)) (fun c s =>
      let s := adjDie d (fun y => { y with shadowExp := mapErase y.shadowExp (laneKey (spanCore t (l / 64) + c) (l % 64 / 16) (l % 16)) }) s
      let tok := e.start + r.tok + l / AT.group t
      let hq := r.head * AT.group t + l % AT.group t
      let bs := if l / AT.group t < r.count then readObj (AT.q t + 64 * ((tok * AT.hq t + hq) * AT.dChunks t + c)) 64 s
        else List.replicate 64 0
      wrMem (shadowAddr d (spanCore t (l / 64) + c) (l % 64 / 16) (l % 16) 0) bs s) s) s

/-- A page step put in place, with its tokens (R209, R210). -/
def deliverStep (st d : Nat) (w : Walker) (row : Option AttRow) (steps : List (Option Nat)) (s : State) : State :=
  let t := w.desc
  let page := (steps.getD w.step none)
  let s := match page, row with
    | some n, some r => copyPage st d t (pageEntry t (lenEntry t r.seq s) r.head n s) (w.chunkStep % AT.buffers t) s
    | _, _ => s
  let s := match row with
    | some r => if w.step = 0 then loadQueries d t (lenEntry t r.seq s) r s else s
    | none => s
  let last := w.step + 1 == steps.length
  let s := adjWalker d (fun w => { w with
    step := w.step + 1, chunkStep := w.chunkStep + 1, busy := w.busy + 1, rowDone := false
    live := w.live.filter fun b => b != w.chunkStep % AT.buffers t }) s
  let s := if w.step = 0 then tokenAdd st d (AT.rowToken t) 1 s else s
  let s := tokenAdd st d (AT.pageToken t) 1 s
  if last then tokenAdd st d (AT.lastToken t) 1 s else s

/-- The walker may deliver: it has not stopped, a row remains, a buffer is free, and the row before has ended (R210, R211). -/
def walkerReady (w : Walker) (steps : List (Option Nat)) : Bool :=
  !w.stopped && decide (w.row < AT.rowsMax w.desc) && decide (w.step < steps.length) && decide (w.busy < AT.buffers w.desc)
    && (decide (w.step ≠ 0) || w.rowDone)

/-- What the walker reads for a page step: the length-table entry, the global positions, the queries of a row's first step, the page-list
entry and the page's lines of the head's chunks and blocks (R202, R206, R209). -/
def stepReads (t : BitVec 1024) (w : Walker) (r : AttRow) (e : LenEntry) (page : Option Nat) (s : State) : List (Nat × Nat) :=
  let queries := if w.step = 0 then
      (List.range r.count).map fun i =>
        (AT.q t + 64 * (((e.start + r.tok + i) * AT.hq t + r.head * AT.group t) * AT.dChunks t), 64 * AT.group t * AT.dChunks t)
    else []
  let lines := match page with
    | some n =>
      let a := pageEntry t e r.head n s
      (List.range (AT.dChunks t)).flatMap fun c => [(a + 4096 * c, 4096), (a + 64 * (256 + 64 * c), 4096)]
    | none => []
  let entry := match page with
    | some n => [(pageEntryAt t e r.head n, 8)]
    | none => []
  lines ++ queries ++ [(AT.lenTable t + 16 * r.seq, 16), (AT.globals t, 4 * AT.nGlobal t)] ++ entry

/-- The reads of a page step: what they find new, and the first error that they meet (R118, R159, R172, R173). -/
def stepRead (st d : Nat) (dummy : Bool) (rs : List (Nat × Nat)) (ecc : ReadEcc) (ok : State → State) (s : State) : State :=
  let s := touchRanges rs (senseRanges rs ecc s)
  match rangesErr d rs s with
  | some err => readFault st dummy err (adjWalker d (fun w => { w with stopped := true }) s)
  | none => ok s

/-- One page step of the walker, or its failed check (R210, R222). -/
def pageStep (d : Nat) (ecc : ReadEcc) (s : State) : State :=
  match (dieOf d s).walker with
  | none => s
  | some w =>
    let row := walkerRow w s
    let steps := rowSteps w.desc row s
    if !(walkerReady w steps) then s
    else
      let j := ((streamOf w.stream s).map fun x => x.job).getD 0
      match row with
      | none => deliverStep w.stream d w row steps s
      | some r =>
        let e := lenEntry w.desc r.seq s
        if !(lenCheck w.desc e s) then attFail w.stream d w.dummy 2 r.seq s
        else match steps.getD w.step none with
          | none => stepRead w.stream d w.dummy (stepReads w.desc w r e none s) ecc (deliverStep w.stream d w row steps) s
          | some n =>
            if !(pageCheck j (pageEntryAt w.desc e r.head n) (pageEntry w.desc e r.head n s) s) then attFail w.stream d w.dummy 3 r.seq s
            else stepRead w.stream d w.dummy (stepReads w.desc w r e (some n) s) ecc (deliverStep w.stream d w row steps) s

/-! ### Predictions (R214) -/

/-- A finite value over another, positive one, rounded to nearest even; infinities give the clamped ends. -/
def divRound (a b : FVal) : Int :=
  match a, b with
  | .fin n1 m1 e1, .fin _ m2 e2 =>
    let num : Int := if n1 then -(m1 : Int) else m1
    if m2 = 0 then 0
    else if e2 ≤ e1 then rneDiv (num * 2 ^ (e1 - e2).toNat) m2
    else rneDiv num (m2 * 2 ^ (e2 - e1).toNat)
  | .inf n, _ => if n then -(2 ^ 40) else 2 ^ 40
  | _, _ => 0

/-- SKIP_LOG2 in force: FORCE and a descriptor's 0 take the register; values above 30 act as 30; 0 turns skipping off. -/
def skipLog2 (t : BitVec 1024) (s : State) : Nat :=
  let reg := min 30 (getF Fld.fabAttCfgSkipLog2 0 s)
  if getF Fld.fabAttCfgSkipLog2 0 s = 0 then 0
  else if getB Fld.fabAttCfgForce 0 s || AT.skipLog2 t == 0 then reg else AT.skipLog2 t

/-- margin: the least integer at or above SKIP_LOG2 ln 2 / SCORE_SCALE (R214). -/
def skipMargin (t : BitVec 1024) (s : State) : Int :=
  match decodeF fp32 (AT.scoreScale t) with
  | .fin _ m e =>
    if m = 0 then 0
    else
      let num := skipLog2 t s * ln2e40
      if 0 ≤ e then (ceilDiv num (m * 2 ^ e.toNat * 10 ^ 40) : Nat)
      else (ceilDiv (num * 2 ^ (-e).toNat) (m * 10 ^ 40) : Nat)
  | _ => 0

/-- The prediction of a lane, none where its entry is NaN (R214). -/
def lanePred (t : BitVec 1024) (r : AttRow) (l : Nat) (d : Nat) (s : State) : Option Int :=
  let hq := r.head * AT.group t + l % AT.group t
  let nd := if AT.position t then AT.nDies t else 1
  let od := if AT.position t then AT.dieOrd t else 0
  let a := AT.pred t + 4 * ((r.seq * AT.hq t + hq) * nd + od)
  let bits := match resolve a s with
    | some m => leNat (seenBytes d m 4 s)
    | none => 0
  match decodeF fp32 bits with
  | .nan => none
  | v => some (clampInt minScore (2 ^ 39 - 1) (divRound (addV v (negV (decodeF fp32 (AT.predSlack t)))) (decodeF fp32 (AT.scoreScale t))))

/-! ### Row start, skip test and verification (R201, R210, R214 to R217) -/

/-- The row start: maxima are cleared, predictions read, and a SKIP epoch opens where skipping is permitted (R210, R214, R216). -/
def rowStart (st d word : Nat) (dummy : Bool) (skipEn : Bool) (s : State) : State :=
  match (dieOf d s).walker with
  | none => s
  | some w =>
    let t := w.desc
    let lanes := List.range (AT.lanes t)
    let preds := lanes.map fun l => match walkerRow w s with
      | some r => if l / AT.group t < r.count then lanePred t r l d s else none
      | none => none
    let on := skipEn && !(AT.backward t) && !(dieOf d s).exact && decide (skipLog2 t s ≠ 0) && !w.replay
    let mg := skipMargin t s
    let c := ((streamOf st s).map fun x => runCtx x d dummy).getD (freshCtx 0)
    let saved := saveDie st d c s
    let s := adjWalker d (fun w => { w with
      inRow := true, startWord := word, fresh := true, live := [], m := lanes.map fun _ => minScore
      pred := preds.map fun p => p.getD minScore
      thr := preds.map fun p => match p with
        | some v => v - mg
        | none => minScore
      skipping := on, verified := false, skipped := [] }) s
    if on then openEpoch d 2 st dummy word 0 (some saved) (some c) 0 s else s

/-- The prediction holds: M reaches m_pred in every lane (R217). -/
def predictionHolds (w : Walker) : Bool := (w.m.zip w.pred).all fun p => decide (p.2 ≤ p.1)

/-- A SKIP epoch that is verified commits (R217). -/
def verifySkip (st d : Nat) (f : Field) (s : State) : State :=
  incF f d (commitEpoch d 2 (adjWalker d (fun w => { w with verified := true }) (countSkips st d s)))

/-- Increments of a token that a word's gates consume. -/
def gateTakes (w : SeqWord) (tok : Nat) : Nat :=
  (if SW.gateAToken w = tok then SW.gateAN w else 0) + (if SW.gateBToken w = tok then SW.gateBN w else 0)

/-- A gate on PAGE_TOKEN passes. The one that consumes page step k + 1's increment frees the buffer of step k (R211); one on a later
page step than the row's first verifies the prediction (R217). -/
def onGate (st d : Nat) (w : SeqWord) (s : State) : State :=
  match (dieOf d s).walker with
  | none => s
  | some k =>
    let n := if k.stream = st then gateTakes w (AT.pageToken k.desc) else 0
    if n = 0 then s
    else
      let freed := (k.gated + n - 1) - (k.gated - 1)
      let s := adjWalker d (fun w => { w with gated := w.gated + n, busy := w.busy - freed }) s
      if k.inRow && decide (2 ≤ k.gated + n) && k.skipping && !k.verified && (epochOf d 2 s).isSome && predictionHolds k then
        verifySkip st d Fld.fabAttStatusEarlyCommit s
      else s

/-- The row has ended on the walker's side: its buffers are free and the next row may be delivered (R210, R211). -/
def nextRow (d : Nat) (s : State) : State :=
  adjWalker d (fun w => { w with
    row := w.row + 1, step := 0, busy := 0, gated := 0, rowDone := true, inRow := false, replay := false, skipping := false
    live := [] }) s

/-- The row end: an epoch still open is verified, or squashed with the row replayed (R217). The flag says that issue was
rewound. -/
def rowEnd (st d : Nat) (dummy : Bool) (s : State) : State × Bool :=
  match (dieOf d s).walker with
  | none => (s, false)
  | some w =>
    if !w.inRow then (s, false)
    else if (epochOf d 2 s).isSome then
      if predictionHolds w then (nextRow d (verifySkip st d Fld.fabAttStatusEndCommit s), false)
      else (rewindTo st d dummy w.startWord 0 (countReplay st (squashEpoch d 2 s)), true)
    else (nextRow d (countSkips st d s), false)

/-- A weight row lies in the K area of a page buffer: buffer and key position of the page (R201, R205). -/
def keyOfRow (t : BitVec 1024) (row : Nat) : Option (Nat × Nat) :=
  let base := AT.bufLine t * 8
  if row < base then none
  else
    let k := row - base
    if AT.buffers t ≤ k / 1024 then none
    else if k % 1024 < 512 then some (k / 1024, k % 1024 / 8) else none

/-- The page step whose page stands in a buffer: the latest delivered step that used it. -/
def stepInBuffer (w : Walker) (buf : Nat) : Nat :=
  let b := AT.buffers w.desc
  let lastStep := w.chunkStep - 1
  w.step - 1 - (lastStep + b - buf) % b

/-- The query position of a lane, none for a lane that holds no query (R207). -/
def laneQuery (w : Walker) (l : Nat) (s : State) : Option (LenEntry × Nat) :=
  match walkerRow w s with
  | none => none
  | some r =>
    let i := l / AT.group w.desc
    if i < r.count then some (lenEntry w.desc r.seq s, rowQuery (lenEntry w.desc r.seq s) r i) else none

/-- A key of a buffer is excluded for a lane (R201, R207). -/
def excluded (w : Walker) (buf pos l : Nat) (s : State) : Bool :=
  match laneQuery w l s, (rowSteps w.desc (walkerRow w s) s).getD (stepInBuffer w buf) none with
  | some (e, q), some n => !(allowedKey w.desc (globalsOf w.desc s) e.kvLen q (64 * n + pos))
  | _, _ => true

/-- A key of a buffer, as 64 * page + position. -/
def keyNumber (w : Walker) (buf pos : Nat) (s : State) : Nat :=
  ((rowSteps w.desc (walkerRow w s) s).getD (stepInBuffer w buf) none).getD 0 * 64 + pos

/-- The lane of a home core's array lane (R199). -/
def laneOf (t : BitVec 1024) (core array lane : Nat) : Option Nat :=
  (List.range (AT.rowSpans t)).findSome? fun sp =>
    if spanCore t sp = core then some (64 * sp + 16 * array + lane) else none

end Sys2Proof.Machine
end

