-- ==== Sys2Proof/Machine/Recurrent.lean ====
section
/-!
DEFINITION. Recurrent words: the descriptor and its check, update, readout, load and store of the state rows in stream banks
(chapter 09, R224 to R239), with the saturation of accumulator rows (R117).
-/
namespace Sys2Proof.Machine
open Sys2Proof

/-! ### Saturated rows (R117) -/

/-- The row of an accumulator word, as the saturation list names it. -/
def accRowOf (k : Nat) : Nat := k / 16

/-- A row saturates: it is listed until its next clear, ACC_SAT is set and FAB event 0x0003 is posted (R117). -/
def rowSaturates (st d : Nat) (dummy : Bool) (k : Nat) (s : State) : State :=
  if s.accSat.contains (accRowOf k) then s else report st d dummy .saturated { s with accSat := s.accSat ++ [accRowOf k] }

/-- A row cleared: its saturation ends (R117). -/
def rowClears (k : Nat) (s : State) : State := { s with accSat := s.accSat.filter fun r => r != accRowOf k }

/-- A word that has saturated and stays so until its row's next clear (R117). -/
def stuckAt (k : Nat) (v : Int) (s : State) : Bool := s.accSat.contains (accRowOf k) && decide (v.natAbs = 2 ^ 39 - 1)

/-! ### State rows (R225) -/

/-- The kind of a word, as the first cycle of its first execution tests it: 1 attention, 2 recurrent, otherwise 0 (R205, R226). -/
def testKind (st d : Nat) (w : SeqWord) (s : State) : Nat :=
  if wordKind st d w s = 0xA771 then 1 else if wordKind st d w s = 0x5EC7 then 2 else 0

/-- The recurrent descriptor that a home core reads (R226). -/
def recDesc (st d core : Nat) (w : SeqWord) (s : State) : BitVec 512 :=
  BitVec.ofNat 512 (leNat (seenBytes d (lineAddr st d core (SW.ldesc w) s) 64 s))

/-- Rows of a bank that hold state: 16 with RESIDUE, 32 without. -/
def bankRows (t : BitVec 512) : Nat := if RC.residue t then 16 else 32

/-- Stream bank of a state row, counted from 0. -/
def stateBankOf (t : BitVec 512) (r : Nat) : Nat := RC.stateBank t + (RC.stateRow t + r) / bankRows t

/-- Key of a state element's accumulator word. -/
def stateKey (x : Stream) (d core array col : Nat) (t : BitVec 512) (r : Nat) : Nat :=
  accKey d core array (physBank x d (2 + stateBankOf t r)) ((RC.stateRow t + r) % bankRows t) col

/-- State rows of the whole word. -/
def stateRowsAll (w : SeqWord) (t : BitVec 512) : Nat := (SW.rep w + 1) * RC.stateRows t

/-- The span of a bank's last fold; 1 where none has folded into it. -/
def spanOf (d bank : Nat) (s : State) : Nat := (mapGet (dieOf d s).bankSpan bank).getD 1

/-- The working bank that an execution drains (R126). -/
def drainBank (x : Stream) (d e : Nat) (w : SeqWord) : Nat :=
  physBank x d (if SW.postAlt w ∧ SW.postBank w < 2 then (SW.postBank w + e) % 2 else SW.postBank w)

/-- The span whose home cores a recurrent word works on: for an UPDATE that of the drained bank, otherwise that of the state's
first bank, or the word's own where nothing has been recorded (R97, R225). -/
def recSpan (st : Nat) (x : Stream) (d : Nat) (w : SeqWord) (s : State) : Nat :=
  let t := recDesc st d 0 w s
  let own := (SW.rspan w).getD 1
  if RC.op t = 0 then spanOf d (drainBank x d 0 w) s
  else (mapGet (dieOf d s).bankSpan (physBank x d (2 + RC.stateBank t))).getD own

/-! ### The check (R231) -/

/-- A READOUT's destination lines leave the reservation, or scratch for a destination in staging (R228, R231). -/
def readoutOut (st d core : Nat) (lines : Nat) (w : SeqWord) (t : BitVec 512) (s : State) : Bool :=
  let p := layerRow st d core (SW.ldesc w + 1) 0 0 0 s
  let last := SW.postAddr w + stateRowsAll w t * rowLines p (SW.outY w)
  RC.op t == 1 &&
    (if RC.handoff t || SW.postDest w == 0 then decide (lines < last) else SW.postDest w == 1 && decide (8192 < last))

/-- Conditions of the check as (byte offset, failing). A condition on a field of the sequence word itself is reported at
STATE_OP (byte 2; DEDUCED, log 32). -/
def recFailures (st d core : Nat) (x : Stream) (w : SeqWord) (t : BitVec 512) (s : State) : List (Nat × Bool) :=
  let lines := ((jobOf x.job s).bind fun j => (dieRec j d).map resLines).getD 0
  let held := ((mapGet x.phys d).getD []).length
  let n := stateRowsAll w t
  let up := RC.op t == 0
  let io := RC.op t == 2 || RC.op t == 3
  let lastBank := stateBankOf t (n - 1)
  let folds := (SW.rspan w).isSome && decide (2 ≤ SW.accBank w)
  [(0, RC.kind t != 0x5EC7),
   (2, flag t 23 || (up && decide (2 ≤ SW.postBank w)) || SW.skipEn w
      || ((up || RC.op t == 1) && decide (lines ≤ SW.ldesc w + 1)) || readoutOut st d core lines w t s),
   (3, fld t 28 4 != 0),
   (4, fld t 35 5 != 0 || decide (5 < RC.stateBank t) || decide (held ≤ lastBank)
      || (folds && decide (RC.stateBank t ≤ SW.accBank w - 2) && decide (SW.accBank w - 2 ≤ lastBank))),
   (5, fld t 45 3 != 0 || (RC.residue t && decide (15 < RC.stateRow t))),
   (6, fld t 53 3 != 0 || (up && SW.postRows w != RC.stateRows t)),
   (7, fld t 56 8 != 0),
   (12, up && !(RC.aConst t) && decide (lines < RC.aLine t + 2 * n)),
   (16, up && !(RC.cConst t) && decide (lines < RC.cLine t + 2 * n)),
   (20, io && decide (lines < RC.ioLine t + 8 * n)),
   (24, fld t 192 320 != 0)]

/-- The first home core whose descriptor fails, with the field's offset. -/
def recFault (st d : Nat) (x : Stream) (w : SeqWord) (s : State) : Option (Nat × Nat) :=
  (homeCores (recSpan st x d w s)).findSome? fun c =>
    ((recFailures st d c x w (recDesc st d c w s) s).find? fun f => f.2).map fun f => (c, f.1)

/-- A failed check: the chunk ends as REFUSED_FORMAT 0x010E, CHECK_FAIL is set and FAB event 0x0009 is posted (R231, R239). -/
def recRefuse (st d : Nat) (dummy : Bool) (core off : Nat) (s : State) : State :=
  let aux := d + core * 256 + off * 65536 + st * 2 ^ 24
  refuseRun st dummy 0x010E aux
    (postEvent 3 0x0009 Status.refusedFormat aux
      (incF Fld.fabRecStatusFailCount d (setB Fld.fabRecStatusCheckFail d true s)))

/-! ### Update arithmetic (R227) -/

/-- One element: state and residue after an update with gates `a`, `c` of 15 fraction bits and `y` of 8, before saturation of
the state; the flag tells that it saturates. -/
def updateElem (residue : Bool) (a c : Nat) (h r y : Int) : Int × Int × Bool :=
  let p := 2 * (a : Int) * h
  let q := p + rneDiv (a * r) (2 ^ 15)
  let h1 := if residue then (q + 2 ^ 15) / 2 ^ 16 else rneDiv p (2 ^ 16)
  let r1 := if residue then q - h1 * 2 ^ 16 else 0
  let h2 := h1 + 2 * c * y
  if inSym 39 h2 then (h2, r1, false) else (satSym 39 h2, 0, true)

/-- A gate value of state row `r`: a constant, or 2 bytes of its lines (R226). -/
def gateValue (st d core : Nat) (const : Bool) (value line r array col : Nat) (s : State) : Nat :=
  if const then value else leNat (seenBytes d (lineAddr st d core (line + 2 * r) s + 32 * array + 2 * col) 2 s)

/-- The residue of an element: bits 15:0 of the word 16 rows higher (R225). -/
def residueOf (k : Nat) (s : State) : Int := sext 16 (fld (accWord (k + 16 * 16) s) 0 16)

/-- A residue word: R in bits 15:0, 0 above (R225). -/
def setResidue (k : Nat) (r : Int) (s : State) : State := { s with acc := mapSet s.acc (k + 16 * 16) (BitVec.ofNat 40 (toField 16 r)) }

/-- An element updated in place; a saturated one stays as it is (R117, R224). -/
def updateWord (st d core array col : Nat) (dummy : Bool) (x : Stream) (t : BitVec 512) (r : Nat) (y : Int) (s : State) : State :=
  let k := stateKey x d core array col t r
  let a := gateValue st d core (RC.aConst t) (RC.aValue t) (RC.aLine t) r array col s
  let c := gateValue st d core (RC.cConst t) (RC.cValue t) (RC.cLine t) r array col s
  let res := if RC.residue t then residueOf k s else 0
  let u := updateElem (RC.residue t) a c (accGet k s) res y
  if stuckAt k (accGet k s) s then s
  else
    let s := accSet k u.1 s
    let s := if RC.residue t then setResidue k u.2.1 s else s
    if u.2.2 then rowSaturates st d dummy k s else s

/-- The home cores in which an operation takes effect (R232). -/
def activeHomes (st d : Nat) (x : Stream) (w : SeqWord) (s : State) : List Nat :=
  (homeCores (recSpan st x d w s)).filter fun c => bitsAt (RC.quadMask (recDesc st d c w s)) (c / 12) 1 == 1

/-- The 64 places of a row: array and lane. -/
def rowPlaces : List (Nat × Nat) := (List.range 64).map fun i => (i / 16, i % 16)

/-- An accumulator value as a drain sees it: a lane beyond OUT_H or OUT_W of the bank's convolution descriptor counts as 0 (R192). -/
def drainAcc (cd : Option (BitVec 512)) (a l : Nat) (v : Int) : Int :=
  match cd with
  | some d => if CV.outH d ≤ CV.oy0 d + a ∨ CV.outW d ≤ CV.ox0 d + l then 0 else v
  | none => v

/-- An UPDATE in one home core for one execution (R126, R192, R227). -/
def recUpdate (st d core word e : Nat) (dummy : Bool) (x : Stream) (w : SeqWord) (t : BitVec 512) (s : State) : State :=
  forEach (List.range (RC.stateRows t)) (fun i s =>
    let p := layerRow st d core (SW.ldesc w + 1) word e i s
    let bank := drainBank x d e w
    let conv := mapGet (dieOf d s).bankConv (core * 8 + bank)
    let ys := rowYs st d core p (fun a j => drainAcc conv a j (accGet (accKey d core a bank (SW.postRow w + i) j) s)) s
    forEach rowPlaces (fun (a, j) s =>
      updateWord st d core a j dummy x t (e * RC.stateRows t + i) (ys.getD (16 * a + j) 0) s) s) s

/-- Where a HANDOFF places its lines: the same-numbered core of the next quadrant; quadrant 3 its own core (R232). -/
def handoffCore (core : Nat) : Nat := if core / 12 = 3 then core else core + 12

/-- A READOUT in one home core for one execution (R228). -/
def recReadout (st d core word e : Nat) (several : Bool) (x : Stream) (w : SeqWord) (t : BitVec 512) (s : State) : State :=
  forEach (List.range (RC.stateRows t)) (fun i s =>
    let r := e * RC.stateRows t + i
    let p := layerRow st d core (SW.ldesc w + 1) word e i s
    let ys := rowYs st d core p (fun a j => accGet (stateKey x d core a j t r) s) s
    let line := SW.postAddr w + r * rowLines p (SW.outY w)
    if RC.handoff t then dieWrite d (lineAddr st d (handoffCore core) line s) (rowBytes p (SW.outY w) ys) s
    else drainOut st d core line w several p ys s) s

/-- A LOAD in one home core for one execution: element words of 8 bytes (R229). A whole row that is loaded is clear of saturation. -/
def recLoad (st d core e : Nat) (x : Stream) (t : BitVec 512) (s : State) : State :=
  forEach (List.range (RC.stateRows t)) (fun i s =>
    let r := e * RC.stateRows t + i
    let bs := seenBytes d (lineAddr st d core (RC.ioLine t + 8 * r) s) 512 s
    let s := if RC.masked t then s else forEach (List.range 4) (fun a s => rowClears (stateKey x d core a 0 t r) s) s
    forEach rowPlaces (fun (a, j) s =>
      let v := rdLE bs (128 * a + 8 * j) 8
      if RC.masked t && bitsAt v 63 1 == 0 then s
      else
        let k := stateKey x d core a j t r
        let s := incF Fld.fabRecStatusAnchored d (accSet k (sext 40 (bitsAt v 0 40)) s)
        if RC.residue t then setResidue k (sext 16 (bitsAt v 40 16)) s else s) s) s

/-- A STORE in one home core for one execution (R229). -/
def recStore (st d core e : Nat) (x : Stream) (t : BitVec 512) (s : State) : State :=
  forEach (List.range (RC.stateRows t)) (fun i s =>
    let r := e * RC.stateRows t + i
    let bs := rowPlaces.flatMap fun (a, j) =>
      let k := stateKey x d core a j t r
      let res := if RC.residue t then toField 16 (residueOf k s) else 0
      natLe 8 (toField 40 (accGet k s) + res * 2 ^ 40 + 2 ^ 63)
    dieWrite d (lineAddr st d core (RC.ioLine t + 8 * r) s) bs s) s

/-- The span of the state's banks recorded, so that later words find their home cores. -/
def recordSpan (x : Stream) (d span : Nat) (w : SeqWord) (t : BitVec 512) (s : State) : State :=
  forEach (List.range (stateBankOf t (stateRowsAll w t - 1) + 1 - RC.stateBank t)) (fun i s =>
    adjDie d (fun y => { y with bankSpan := mapSet y.bankSpan (physBank x d (2 + RC.stateBank t + i)) span }) s) s

/-- One execution of a recurrent word that has passed its check (R227 to R229). -/
def recRun (st d word e : Nat) (dummy : Bool) (x : Stream) (w : SeqWord) (s : State) : State :=
  let homes := activeHomes st d x w s
  let span := recSpan st x d w s
  let s := forEach homes (fun c s =>
    let t := recDesc st d c w s
    match RC.op t with
    | 0 => recUpdate st d c word e dummy x w t s
    | 1 => recReadout st d c word e (decide (1 < homes.length)) x w t s
    | 2 => recLoad st d c e x t s
    | _ => recStore st d c e x t s) s
  let t := recDesc st d 0 w s
  if RC.op t = 0 ∨ RC.op t = 2 then recordSpan x d span w t s else s

/-- An UPDATE or LOAD waits at issue while a SKIP or CHEAP epoch is open on its die (R230). -/
def recWaits (st d : Nat) (w : SeqWord) (s : State) : Bool :=
  let t := recDesc st d 0 w s
  (RC.op t == 0 || RC.op t == 2) && ((epochOf d 2 s).isSome || (epochOf d 3 s).isSome)

end Sys2Proof.Machine
end

