-- ==== Sys2Proof/Machine/Fabric.lean ====
section
/-!
DEFINITION. The compute fabric: activation loads and exchange, weight streaming in bit-planes, folds, saturation, fewer planes,
key skipping in score folds, checksum rows, and the post-unit drain (R86 to R118, R125, R126, R163, R168, R169, R192, R201,
R215, R410, R411).
-/
namespace Sys2Proof.Machine
open Sys2Proof

/-! ### Where a word's layer descriptor has its post-unit fields (R205, R226) -/

/-- Lines between LDESC and the post-unit fields: 2 for an attention word, 1 for a recurrent word, otherwise 0. -/
def ldescSkip (kind : Nat) : Nat := if kind = 1 then 2 else if kind = 2 then 1 else 0

/-- The layer fields that a core's descriptor gives (free decoding, log 20). Attention layers and the words that change recurrent state
are never degradable for the late-plane rule (R202, R230) and carry no checksum rows (R412). -/
def layerInfo (st d core kind : Nat) (w : SeqWord) (s : State) : LayerInfo :=
  let i := Config.layerInfo (layerBytes st d core (SW.ldesc w + ldescSkip kind) s)
  if kind = 1 ∨ (kind = 2 ∧ (RC.op (recDesc st d 0 w s) = 0 ∨ RC.op (recDesc st d 0 w s) = 2)) then
    { i with degradable := false, checksum := false }
  else i

/-! ### Activation loads and the exchange (R89, R124) -/

/-- The first source byte of a core's tile set. -/
def aloadBase (st d core : Nat) (w : SeqWord) (s : State) : Nat :=
  let line := SW.aloadAddr w + core % 12 * SW.aloadCoreStride w
  if SW.aloadSrc w = 3 then stagingAddr d line else lineAddr st d core line s

/-- Lanes `lo` to `hi - 1` of every array of every core loaded: line 16a + j of the set holds lane j of array a (R89). -/
def loadLanes (st d lo hi : Nat) (w : SeqWord) (s : State) : State :=
  let tiles := (List.range 48).flatMap fun c => (List.range 4).flatMap fun a =>
    ((List.range 16).filter fun j => decide (lo ≤ j) && decide (j < hi)).map fun j =>
      (shadowAddr d c a j 0, seenBytes d (aloadBase st d c w s + 64 * (16 * a + j)) 64 s)
  let exps := (List.range 48).flatMap fun c => (List.range 4).flatMap fun a =>
    ((List.range 16).filter fun j => decide (lo ≤ j) && decide (j < hi)).map fun j =>
      (laneKey c a j, seenExp d ((aloadBase st d c w s + 64 * (16 * a + j)) / 64) s)
  let s := forEach tiles (fun (m, bs) s => wrMem m bs s) s
  adjDie d (fun x => { x with
    shadowConv := []
    shadowExp := exps.foldl (fun m (k, v) => match v with
      | some e => mapSet m k e
      | none => mapErase m k) x.shadowExp }) s

/-- An activation load of some lanes from the core store or staging; other sources load nothing here. -/
def aloadPart (st d lo hi : Nat) (w : SeqWord) (s : State) : State :=
  if SW.aloadSrc w = 1 ∨ SW.aloadSrc w = 3 then (if lo < hi then loadLanes st d lo hi w s else s) else s

/-- Shadow and working registers of the die exchange; convolution descriptors and block exponents go with their tiles (R89). -/
def exchange (d : Nat) (s : State) : State :=
  let n := 48 * 64 * 64
  let work := rdMem s (cellAddr d 0 0 0 0) n
  let shad := rdMem s (shadowAddr d 0 0 0 0) n
  let s := wrMem (shadowAddr d 0 0 0 0) work (wrMem (cellAddr d 0 0 0 0) shad s)
  adjDie d (fun x => { x with
    tileConv := x.shadowConv, shadowConv := x.tileConv, tileExp := x.shadowExp, shadowExp := x.tileExp }) s

/-- Lanes loaded before the exchange of the same word: a load takes 16 cycles, one lane of each array per cycle, and an exchange
at cycle 15 or later follows the whole load (R89, Example SEQ-1). -/
def lanesBefore (w : SeqWord) : Nat :=
  if !(SW.xchgEn w) then 16 else if 15 ≤ SW.xchgCycle w then 16 else SW.xchgCycle w

/-- The direct engine acts at the load of a word with ALOAD_SRC 2; the exchange waits for its assembly (R181). -/
def convPart (st d : Nat) (w : SeqWord) (s : State) : State := if SW.aloadSrc w = 2 then convRun st d w s else s

/-- Load and exchange of a word. -/
def loadAndExchange (st d : Nat) (w : SeqWord) (s : State) : State :=
  let k := lanesBefore w
  let s := convPart st d w (aloadPart st d 0 k w s)
  let s := if SW.xchgEn w then exchange d s else s
  aloadPart st d k 16 w s

/-! ### Weight rows (R88, R125, R163) -/

/-- The core-store row of plane `i` of channel `j` in execution `e` for a core (R125). -/
def weightRow (w : SeqWord) (core e j i : Nat) : Nat :=
  ((SW.waBase w : Int) + e * SW.waRepStride w).toNat + core % 12 * SW.waCoreStride w + j * SW.planes w + i

/-- The core whose store a core's rows come from (R88). -/
def weightCore (w : SeqWord) (core : Nat) : Nat := if SW.wsrc w then SW.bcastQ w * 12 + core % 12 else core

/-- A weight row of 64 bits. -/
def weightBits (st d : Nat) (w : SeqWord) (core e j i : Nat) (s : State) : Nat :=
  leNat (seenBytes d (rowAddr st d (weightCore w core) (weightRow w core e j i) s) 8 s)

/-- The 8-byte rows that a PLANE_ROW thread carries. -/
def planeRows8 (f : FetchDesc) : Nat := FD.rows f * FD.len f / 8

/-- A core-store row is pending: a PLANE_ROW thread of a stream of the job, whose streams share one reservation, has yet to land it
(R163, R503). -/
def rowPending (st d core row : Nat) (s : State) : Bool :=
  let job (k : Nat) : Option Nat := (streamOf k s).map fun x => x.job
  (dieOf d s).threads.any fun t =>
    job t.stream == job st && !t.dropped && FD.planeRow t.desc
      && (FD.dstKind t.desc == 1 || (FD.dstKind t.desc == 0 && FD.dstCore t.desc == core))
      && (let u := (row - FD.dst t.desc) / max 1 (FD.dstStride t.desc)
          decide (FD.dst t.desc ≤ row) && decide (FD.dst t.desc + u * FD.dstStride t.desc = row)
            && decide (t.landed ≤ u) && decide (u < planeRows8 t.desc))

/-- A plane of a channel is pending in some core that streams it. -/
def planePending (st d e j i : Nat) (w : SeqWord) (s : State) : Bool :=
  (List.range 48).any fun c => rowPending st d (weightCore w c) (weightRow w c e j i) s

/-! ### The pass of an output (R101, R193) -/

/-- The bank that an execution folds into (R126). -/
def foldBank (x : Stream) (d e : Nat) (w : SeqWord) : Nat :=
  physBank x d (if SW.accAlt w ∧ SW.accBank w < 2 then (SW.accBank w + e) % 2 else SW.accBank w)

/-- An execution folds into a row of a bank. -/
def foldsRow (x : Stream) (d e : Nat) (w : SeqWord) (bank row : Nat) : Bool :=
  (SW.rspan w).isSome && foldBank x d e w == bank && decide (SW.accRow w ≤ row) && decide (row < SW.accRow w + SW.channels w)

/-- A word drains a row of a bank. -/
def drainsRow (x : Stream) (d : Nat) (w : SeqWord) (bank row : Nat) : Bool :=
  SW.postEn w && ((List.range (SW.rep w + 1)).any fun e => drainBank x d e w == bank)
    && decide (SW.postRow w ≤ row) && decide (row < SW.postRow w + SW.postRows w)

/-- A layer, a chunk or a straight run of words ends after a word. -/
def runEnds (w : SeqWord) : Bool := SW.layerEnd w || SW.chunkEnd w || SW.selectEn w

/-- Among the words that follow, up to a drain of the row or the layer's end, the first that folds into the row adds to it. -/
def laterFold (x : Stream) (d bank row : Nat) : List SeqWord → Bool
  | [] => false
  | w :: ws =>
    if drainsRow x d w bank row then false
    else if (List.range (SW.rep w + 1)).any fun e => foldsRow x d e w bank row then SW.accOp w == 0
    else if runEnds w then false
    else laterFold x d bank row ws

/-- The running pass is the output's last: not a high-byte pass, and nothing adds to the row before it is drained (R101; DEDUCED,
log 33). -/
def lastPass (x : Stream) (d e : Nat) (w : SeqWord) (row : Nat) (rest : List SeqWord) : Bool :=
  let bank := foldBank x d e w
  SW.abyte w != 1
    && !(SW.accOp w == 0 && (List.range (SW.rep w + 1)).any fun k => decide (e < k) && foldsRow x d k w bank row)
    && (runEnds w || !(laterFold x d bank row rest))

/-! ### Planes that a channel uses (R105, R168, R410) -/

/-- The checksum channel of a group streams after the group's 16 channels: the 17th row of a run (R410). -/
def isCheckRow (i : LayerInfo) (row : Nat) : Bool := i.checksum && row % 17 == 16

/-- The planes that channel `j` of the running execution uses after any choice. A choice takes effect in an output's last pass only, and
not on a row that has saturated (R101). -/
def usedPlanes (c : Ctx) (i : LayerInfo) (w : SeqWord) (j : Nat) (last sat : Bool) : Nat :=
  match c.cheap with
  | none => SW.planes w
  | some p =>
    if !i.degradable || !last || sat || decide (j < c.cheapCh) then SW.planes w
    else min (SW.planes w) (if isCheckRow i (SW.accRow w + j) then p + 4 else p)

/-! ### One lane of one channel (R87, R90, R91, R95, R98 to R100) -/

/-- What one lane's edge unit sees of a channel: Q after each plane in order, B_pos, B_neg, terms above the exponent range, and
terms dropped below it. -/
structure LaneTrace where
  qs : List Int
  pos : Int
  neg : Int
  high : Bool
  under : Nat
  deriving DecidableEq, Repr

/-- The lane sum of one core: activations whose weight bit is 1 (R87). -/
def laneSum (acts : List Int) (bits : Nat) : Int :=
  ((acts.zipIdx).map fun (x, k) => if bitsAt bits k 1 = 1 then x else 0).foldl (· + ·) 0

/-- A term aligned by its exponent: none above 15, 0 below 0 (R98). -/
def aligned (d x : Int) : Int := if d < 0 then 0 else x * 2 ^ d.toNat

/-- The plane register after each plane: the sign plane enters with negative weight; for P = 1, S - 2G (R91, R98). -/
def planeSteps (p : Nat) (total : Int) (sums : List Int) : List Int :=
  if p = 1 then sums.map fun g => total - 2 * g
  else
    ((sums.zipIdx).foldl (fun (acc : List Int × Int) (sm, i) =>
      let q := if i = 0 then 2 * acc.2 - sm else 2 * acc.2 + sm
      (acc.1 ++ [q], q)) ([], 0)).1

/-- The trace of a lane: `cores` gives, for each core of the span, its exponent, the activations at each plane's cycle and the
weight bits of each plane. -/
def laneTrace (p : Nat) (cores : List (Int × List (List Int × Nat))) : LaneTrace :=
  let planes := (List.range p).map fun i =>
    (cores.map fun (d, ps) =>
      let (acts, bits) := ps.getD i ([], 0)
      aligned d (laneSum acts bits)).foldl (· + ·) 0
  let part (f : Int → Int) := (cores.map fun (d, ps) =>
    aligned d (((ps.getD 0 ([], 0)).1.map f).foldl (· + ·) 0)).foldl (· + ·) 0
  let pos := part fun x => max x 0
  let neg := part fun x => min x 0
  { qs := planeSteps p (pos + neg) planes, pos := pos, neg := neg
    high := cores.any fun c => decide (15 < c.1)
    under := cores.countP fun c => decide (c.1 < 0) }

/-- The activation of a cell as the pass reads it (R89, R95). -/
def cellValue (signed : Bool) (b : Byte) : Int := if signed then sext 8 b.toNat else (b.toNat : Int)

/-- A pass reads signed activations: the low-byte pass never; the others as IN_SIGNED says for a tile of the direct engine, and as the
layer says otherwise (R95, R189). -/
def passSigned (i : LayerInfo) (cd : Option (BitVec 512)) (w : SeqWord) : Bool :=
  SW.abyte w != 2 && (match cd with
    | some d => CV.inSigned d
    | none => i.actSigned)

/-- The activations of a lane of a core in the working registers of a memory. -/
def laneActs (m : List Host.Cell) (d core a l : Nat) (signed : Bool) : List Int :=
  (memRead m (cellAddr d core a l 0) 64).map (cellValue signed)

/-- The midpoint fill of an output that used `p` of `P` planes (R106). -/
def midpoint (bigP p : Nat) (q pos neg : Int) : Int :=
  q * 2 ^ (bigP - p) + asr ((2 ^ (bigP - p) - 1) * (pos + neg)) 1

/-- The contribution of a channel to its output: exact on full planes, filled on fewer, times 256 in a high-byte pass
(R95, R98, R106). -/
def contribution (w : SeqWord) (used : Nat) (t : LaneTrace) : Int :=
  let q := t.qs.getD (used - 1) 0
  let v := if used < SW.planes w then midpoint (SW.planes w) used q t.pos t.neg else q
  if SW.abyte w = 1 then 256 * v else v

/-- A plane step or an exponent takes the row out of its range (R98, R117). -/
def traceSaturates (t : LaneTrace) (used : Nat) : Bool := t.high || (t.qs.take used).any fun q => !(inSym 39 q)

/-- Half the interval's width, rounded up, where planes were dropped: the tolerance of R411. -/
def dropTolerance (w : SeqWord) (used : Nat) (t : LaneTrace) : Nat :=
  let width := (2 ^ (SW.planes w - used) - 1) * (t.pos - t.neg).toNat
  if used < SW.planes w then ceilDiv width 2 else 0

/-! ### An execution at hand -/

/-- What stays fixed while an execution streams: the tile before its exchange, which cycles before XCHG_CYCLE still see, and the words
that follow. -/
structure Exec where
  st : Nat
  d : Nat
  e : Nat
  kind : Nat
  span : Nat
  dummy : Bool
  x : Stream
  w : SeqWord
  rest : List SeqWord
  old : List Host.Cell
  oldConv : SMap (BitVec 512)
  oldExp : SMap Int
  deriving DecidableEq, Repr

/-- What a channel is to the attention walker. -/
inductive ChannelKind where
  | plain
  | score (buf pos : Nat)
  | value (buf : Nat)
  deriving DecidableEq, Repr

/-- The walker of the stream that runs. -/
def walkerOf (c : Exec) (s : State) : Option Walker :=
  (dieOf c.d s).walker.bind fun k => if k.stream = c.st ∧ k.dummy = c.dummy then some k else none

/-- A weight row lies in the V area of a page buffer: its buffer (R205). -/
def valueBuffer (t : BitVec 1024) (row : Nat) : Option Nat :=
  let base := AT.bufLine t * 8
  if row < base then none
  else
    let k := row - base
    if AT.buffers t ≤ k / 1024 ∨ k % 1024 < 512 then none else some (k / 1024)

/-- The kind of a channel in a home core, from the place of its weight rows alone (R201). -/
def channelKind (c : Exec) (j home : Nat) (s : State) : ChannelKind :=
  match walkerOf c s with
  | none => .plain
  | some k =>
    let row := weightRow c.w home c.e j 0
    match keyOfRow k.desc row, valueBuffer k.desc row with
    | some (b, p), _ => .score b p
    | none, some b => .value b
    | none, none => .plain

/-- E_w and E_x of a core's chunks: the attention descriptor's for keys, queries and values (R199), none for integer formats (R98). -/
def exponents (c : Exec) (ck : ChannelKind) (i : LayerInfo) (info : List Byte) (exps : SMap Int) (core j a l : Nat) (s : State) :
    Int × Int :=
  let t := ((walkerOf c s).map fun k => k.desc).getD 0
  let ew := if i.weightBlock then Config.weightExp info (c.d * 48 + core) (weightRow c.w core c.e j 0) else 0
  let ex := if i.actBlock then (mapGet exps (laneKey core a l)).getD (Config.openExp (c.d * 4096 + laneKey core a l)) else 0
  match ck with
  | .score _ _ => (AT.eK t, AT.eQ t)
  | .value _ => (AT.eV t, ex)
  | .plain => (ew, ex)

/-- The trace of one lane of a home core for a channel that starts in cycle `cyc`. -/
def traceOf (c : Exec) (ck : ChannelKind) (i : LayerInfo) (info : List Byte) (j cyc home a l : Nat) (s : State) : LaneTrace :=
  let first := c.e == 0 && SW.xchgEn c.w
  let y := dieOf c.d s
  let isScore := match ck with
    | .score _ _ => true
    | .value _ => false
    | .plain => false
  let early (k : Nat) : Bool := first && decide (cyc + k < SW.xchgCycle c.w)
  let cores := (List.range c.span).map fun n =>
    let core := home + n
    let acts (old : Bool) : List Int :=
      laneActs (if old then c.old else s.mem) c.d core a l
        (isScore || passSigned i (mapGet (if old then c.oldConv else y.tileConv) core) c.w)
    let p := exponents c ck i info (if early 0 then c.oldExp else y.tileExp) core j a l s
    (p.1 + p.2 - i.eRef, (List.range (SW.planes c.w)).map fun k => (acts (early k), weightBits c.st c.d c.w core c.e j k s))
  laneTrace (SW.planes c.w) cores

/-! ### Landing a fold (R98, R107, R117, R169) -/

/-- Folds of a degradable layer go to shadow rows until the bank fill ends (R107, R169). -/
def shadowed (i : LayerInfo) : Bool := i.degradable

/-- The content that a fold adds to: the fill's shadow row where it has one. -/
def foldBase (c : Exec) (k : Nat) (sh : Bool) (s : State) : Int :=
  let shadow := if sh then (streamOf c.st s).bind fun x => mapGet (runCtx x c.d c.dummy).fill k else none
  match shadow with
  | some v => v.toInt
  | none => accGet k s

/-- The accumulator word of a shadow row that the word names: row SHADOW_ROW + j of working bank SHADOW_BANK (R107). -/
def shadowKey (c : Exec) (j k : Nat) : Nat :=
  accKey (dieOfKey k) (k / 16384 % 48) (k / 4096 % 4) (SW.shadowBank c.w) ((SW.shadowRow c.w + j) % 32) (k % 16)

/-- A word of an accumulator row set; in a fill of a degradable layer, its shadow row, which stands for the row until the fill ends. -/
def foldSet (c : Exec) (j k : Nat) (sh : Bool) (v : Int) (s : State) : State :=
  if sh then
    accSet (shadowKey c j k) v
      (adjRun c.st c.d c.dummy (fun r => { r with fill := mapSet r.fill k (BitVec.ofInt 40 v) }) s)
  else accSet k v s

/-- One fold of a lane: A := A + v, or v after a clear; the result saturates, and a saturated word stays so until a clear
(R98, R117). -/
def foldLane (c : Exec) (j k : Nat) (sh sat : Bool) (v : Int) (s : State) : State :=
  let base := if SW.accOp c.w = 1 then 0 else foldBase c k sh s
  if SW.accOp c.w ≠ 1 ∧ stuckAt k base s then s
  else if sat || !(inSym 39 (base + v)) then
    rowSaturates c.st c.d c.dummy k (foldSet c j k sh (if 0 ≤ v then 2 ^ 39 - 1 else -(2 ^ 39 - 1)) s)
  else foldSet c j k sh (base + v) s

/-- The tolerance of an output after a pass (R411). -/
def addTol (k n : Nat) (clear : Bool) (s : State) : State :=
  let old := if clear then 0 else (mapGet s.accTol k).getD 0
  if old + n = 0 then { s with accTol := mapErase s.accTol k } else { s with accTol := mapSet s.accTol k (old + n) }

/-! ### Intervals and early termination (R100 to R104) -/

/-- The interval of an output after `b` of `bigP` planes: the row's earlier content and the bounds of R100. -/
def interval (bigP b : Nat) (base : Int) (t : LaneTrace) : Int × Int :=
  let k := base + t.qs.getD (b - 1) 0 * 2 ^ (bigP - b)
  (k + (2 ^ (bigP - b) - 1) * t.neg, k + (2 ^ (bigP - b) - 1) * t.pos)

/-- An interval satisfies a consumer test, with the best value among the earlier channels of the position for ARGMAX and ARGMIN
(Table FAB-4). -/
def decided (test : ConsumerTest) (best : Option Int) (v : Int × Int) : Bool :=
  match test with
  | .none => false
  | .relu => decide (v.2 < 0)
  | .clampLow t => decide (v.2 < t.toInt)
  | .clampHigh t => decide (t.toInt ≤ v.1)
  | .argMax => match best with
    | some m => decide (v.2 < m)
    | none => false
  | .argMin => match best with
    | some m => decide (m < v.1)
    | none => false

/-- One lane of a channel: its home core and place, its accumulator word, its layer's fields and its trace. -/
structure FoldLane where
  home : Nat
  a : Nat
  l : Nat
  key : Nat
  info : LayerInfo
  trace : LaneTrace
  deriving DecidableEq, Repr

/-- The row of a lane has saturated and is not cleared by this fold. -/
def satRow (c : Exec) (x : FoldLane) (s : State) : Bool := SW.accOp c.w != 1 && s.accSat.contains (accRowOf x.key)

/-- The planes after which every output of a channel is decided, if any (R103). A layer with checksum rows and a saturated row take no
such decision (R101, R104). -/
def decidedAfter (c : Exec) (r : Ctx) (ls : List FoldLane) (s : State) : Option Nat :=
  if ls.any fun x => x.info.checksum || x.info.test == .none || satRow c x s then none
  else ((List.range (SW.planes c.w)).map (· + 1)).find? fun b =>
    ls.all fun x =>
      !(traceSaturates x.trace b)
        && decided x.info.test ((mapGet r.best (laneKey x.home x.a x.l)).map (·.1))
          (interval (SW.planes c.w) b (if SW.accOp c.w = 1 then 0 else foldBase c x.key (shadowed x.info) s) x.trace)

/-- A finished channel of an ARGMAX or ARGMIN layer against the best of its position; ties stay with the lower channel (R102). -/
def noteBest (c : Exec) (x : FoldLane) (s : State) : State :=
  let v := foldBase c x.key (shadowed x.info) s
  let k := laneKey x.home x.a x.l
  let better (m : Int) : Bool := match x.info.test with
    | .argMax => decide (m < v)
    | .argMin => decide (v < m)
    | _ => false
  match x.info.test with
  | .argMax => put v k better
  | .argMin => put v k better
  | _ => s
where
  /-- The best of a lane replaced where the new value is better. -/
  put (v : Int) (k : Nat) (better : Int → Bool) : State :=
    adjRun c.st c.d c.dummy (fun r => match mapGet r.best k with
      | some (m, _) => if better m then { r with best := mapSet r.best k (v, r.bestCh) } else r
      | none => { r with best := mapSet r.best k (v, r.bestCh) }) s

/-! ### Score folds and key skipping (R201, R215) -/

/-- The skip test of a lane after plane `b`: excluded, or the interval's upper bound below T (R100, R215). -/
def laneSkips (excl : Bool) (thr : Int) (bigP b : Nat) (t : LaneTrace) : Bool := excl || decide ((interval bigP b 0 t).2 < thr)

/-- One lane of a score fold: its place, its row lane, whether the key is excluded for it, and its trace. -/
structure ScoreLane where
  key : Nat
  lane : Option Nat
  excl : Bool
  trace : LaneTrace
  deriving DecidableEq, Repr

/-- The planes after which a key is skipped: the first before the last after which the test holds in every lane of the row (R215). -/
def keySkipped (wk : Walker) (bigP : Nat) (ls : List ScoreLane) : Option Nat :=
  ((List.range (bigP - 1)).map (· + 1)).find? fun b => (ls.filter fun x => x.lane.isSome).all fun x =>
    laneSkips x.excl (wk.thr.getD (x.lane.getD 0) minScore) bigP b x.trace

/-- A score channel folded: skipped and excluded lanes take the least score, which does not count as saturation; the others fold
and raise M (R201). `key` names the key of the row, and the number is the planes streamed. -/
def foldScore (c : Exec) (wk : Walker) (j buf key : Nat) (ls : List ScoreLane) (s : State) : State × Nat :=
  let skip := if wk.skipping && SW.skipEn c.w then keySkipped wk (SW.planes c.w) ls else none
  let streamed := match skip with
    | some b => min (SW.planes c.w) (b + 1)
    | none => SW.planes c.w
  let s := forEach ls (fun x s => if SW.accOp c.w = 1 then rowClears x.key s else s) s
  let s := forEach ls (fun x s =>
    if skip.isSome || x.excl then accSet x.key minScore s
    else
      let s := foldLane c j x.key false (traceSaturates x.trace (SW.planes c.w)) (contribution c.w (SW.planes c.w) x.trace) s
      match x.lane with
      | some l => adjWalker c.d (fun k => { k with m := listAdjust k.m l fun m => max m (accGet x.key s) }) s
      | none => s) s
  let live := skip.isNone && ls.any fun x => x.lane.isSome && !x.excl
  (adjWalker c.d (fun k => { k with
    skipped := if skip.isSome && !(k.skipped.contains key) then k.skipped ++ [key] else k.skipped
    live := if live && !(k.live.contains buf) then k.live ++ [buf] else k.live }) s, streamed)

/-! ### One channel and one execution (R125) -/

/-- How far the folds of an execution have come: the state, the cycle of the next channel, cycles not streamed, the pending plane that
stops them, as channel and planes already issued (R163), a score fold outside a row (R222), and the core of a poisoned weight row
(R174). -/
structure FoldRun where
  s : State
  cyc : Nat
  saved : Nat
  late : Option (Nat × Nat)
  stray : Bool
  bad : Option Nat
  deriving DecidableEq, Repr

/-- A poisoned row among the first `n` planes of a channel. -/
def badRow (c : Exec) (j n : Nat) (s : State) : Option Nat :=
  poisonHit c.d ((List.range 48).map fun k => (rowAddr c.st c.d (weightCore c.w k) (weightRow c.w k c.e j 0) s, 8 * n)) s

/-- The lanes of a die that a word folds: home core, array, array lane. -/
def foldLanes (span : Nat) : List (Nat × Nat × Nat) :=
  (homeCores span).flatMap fun h => rowPlaces.map fun (a, l) => (h, a, l)

/-- Terms dropped below the exponent range, counted (R98). -/
def countUnder (c : Exec) (n : Nat) (s : State) : State := if n = 0 then s else report c.st c.d c.dummy (.under n) s

/-- The planes that a channel of a degradable layer used, kept until its fill ends (R108). -/
def notePlanes (c : Exec) (used : Nat) (i : LayerInfo) (s : State) : State :=
  if !i.degradable then s
  else adjRun c.st c.d c.dummy (fun r => { r with
    fillPlanes := match r.fillPlanes with
      | some (n, f) => some (min n used, f || decide (used < SW.planes c.w))
      | none => some (used, decide (used < SW.planes c.w)) }) s

/-- The lanes of a channel with their traces. -/
def channelLanes (c : Exec) (j cyc : Nat) (homes : List Nat) (s : State) : List (ChannelKind × FoldLane) :=
  let bank := foldBank c.x c.d c.e c.w
  homes.flatMap fun h =>
    let ck := channelKind c j h s
    let i := layerInfo c.st c.d h c.kind c.w s
    let info := layerBytes c.st c.d h (SW.ldesc c.w + ldescSkip c.kind) s
    rowPlaces.map fun (a, l) => (ck,
      { home := h, a := a, l := l, key := accKey c.d h a bank (SW.accRow c.w + j) l, info := i
        trace := traceOf c ck i info j cyc h a l s })

/-- The plain lanes of a channel folded on the planes that it uses; the number is the planes streamed (R98, R103, R106). -/
def foldPlain (c : Exec) (j used : Nat) (last : Bool) (dec : Option Nat) (ls : List FoldLane) (s : State) : State :=
  let exact := match dec with
    | some b => decide (b ≤ used)
    | none => false
  let n := if exact then SW.planes c.w else used
  let s := forEach ls (fun x s => if SW.accOp c.w = 1 then rowClears x.key s else s) s
  let s := forEach ls (fun x s =>
    let s := countUnder c (x.trace.under * (if exact then min used (dec.getD 0 + 1) else used)) s
    let s := foldLane c j x.key (shadowed x.info) (traceSaturates x.trace n) (contribution c.w n x.trace) s
    let s := if x.info.checksum then addTol x.key (dropTolerance c.w n x.trace) (SW.accOp c.w == 1) s else s
    if last then noteBest c x s else s) s
  match ls.head? with
  | some x =>
    let s := notePlanes c n x.info s
    if last then adjRun c.st c.d c.dummy (fun r => { r with bestCh := r.bestCh + 1 }) s else s
  | none => s

/-- The channels of an ARGMAX or ARGMIN layer are complete: the next one begins another position (R102). -/
def nextPosition (c : Exec) (i : LayerInfo) (last : Bool) (s : State) : State :=
  if last && (i.test == .argMax || i.test == .argMin) then
    adjRun c.st c.d c.dummy (fun r => if i.channels ≤ r.bestCh then { r with best := [], bestCh := 0 } else r) s
  else s

/-- One channel of an execution streamed and folded, unless a row that it needs is pending. Its lanes are plain, score or value lanes by
the place of their weight rows; a value channel of a page step whose keys are all skipped is not streamed (R103, R163, R201, R215). -/
def foldChannel (c : Exec) (j : Nat) (f : FoldRun) : FoldRun :=
  if f.late.isSome || f.stray || f.bad.isSome then f
  else
    let s := f.s
    let all := channelLanes c j f.cyc (homeCores c.span) s
    let wk := walkerOf c s
    let scores := all.filterMap fun (ck, x) => match ck with
      | .score b p => some (b, p, x)
      | .value _ => none
      | .plain => none
    let idle := match wk with
      | some k => k.skipping && k.inRow && SW.skipEn c.w && all.all fun (ck, _) => match ck with
          | .value b => !(k.live.contains b)
          | .score _ _ => false
          | .plain => false
      | none => false
    let ls := all.filterMap fun (ck, x) => match ck with
      | .score _ _ => none
      | .value _ => some x
      | .plain => some x
    if idle then
      { f with
        s := forEach ls (fun x s => if SW.accOp c.w = 1 then accSet x.key 0 (rowClears x.key s) else s) s
        saved := f.saved + SW.planes c.w }
    else
      let i := layerInfo c.st c.d 0 c.kind c.w s
      let last := lastPass c.x c.d c.e c.w (SW.accRow c.w + j) c.rest
      let s := nextPosition c i last s
      let r := ((streamOf c.st s).map fun x => runCtx x c.d c.dummy).getD (freshCtx 0)
      let used := usedPlanes r i c.w j last (ls.any fun x => satRow c x s)
      let dec := if last && scores.isEmpty then decidedAfter c r ls s else none
      let need := match dec with
        | some b => min used (b + 1)
        | none => used
      match (List.range need).find? fun k => planePending c.st c.d c.e j k c.w s with
      | some k => { f with late := some (j, k) }
      | none =>
        let s := if ls.isEmpty then s else foldPlain c j used last dec ls s
        match scores.head?, wk with
        | some (b, p, _), some k =>
          if !k.inRow then { f with s := s, stray := true }
          else
            let sl := scores.map fun (_, _, x) =>
              let lane := laneOf k.desc x.home x.a x.l
              ({ key := x.key, lane := lane, excl := (lane.map fun n => excluded k b p n s).getD true, trace := x.trace } : ScoreLane)
            let g := foldScore c k j b (keyNumber k b p s) sl s
            { f with s := g.1, cyc := f.cyc + g.2, saved := f.saved + (SW.planes c.w - g.2), bad := badRow c j g.2 s }
        | _, _ =>
          { f with s := s, cyc := f.cyc + need, saved := f.saved + (SW.planes c.w - need), bad := badRow c j need s }

/-- Every channel of an execution (R125). The home cores of the bank and the convolution descriptors of the tile that the last fold met are
recorded (R97, R192). -/
def foldAll (c : Exec) (s : State) : FoldRun :=
  if (SW.rspan c.w).isNone then { s := s, cyc := 0, saved := 0, late := none, stray := false, bad := none }
  else
    let f := (List.range (SW.channels c.w)).foldl (fun f j => foldChannel c j f)
      { s := s, cyc := 0, saved := 0, late := none, stray := false, bad := none }
    let bank := foldBank c.x c.d c.e c.w
    let before := c.e == 0 && SW.xchgEn c.w && decide (f.cyc ≤ SW.xchgCycle c.w)
    { f with
      s := adjDie c.d (fun y => { y with
        bankSpan := mapSet y.bankSpan bank c.span
        bankConv := (homeCores c.span).foldl (fun m h => match mapGet (if before then c.oldConv else y.tileConv) h with
          | some cd => mapSet m (h * 8 + bank) cd
          | none => mapErase m (h * 8 + bank)) y.bankConv }) f.s }

/-! ### The drain (R97, R110, R126, R192, R411, R413) -/

/-- The 17 rows of a group and its checksum agree within the tolerance in one lane; a group with a saturated row is not
compared (R411). The checksum row follows the group's 16 rows. -/
def groupAgrees (d core a l bank row : Nat) (s : State) : Bool :=
  let key (i : Nat) := accKey d core a bank (row + i) l
  let sat := (List.range 17).any fun i => s.accSat.contains (accRowOf (key i))
  let sum := ((List.range 16).map fun i => accGet (key i) s).foldl (· + ·) 0
  let tol := ((List.range 17).map fun i => (mapGet s.accTol (key i)).getD 0).foldl (· + ·) 0
  sat || decide ((sum - accGet (key 16) s).natAbs ≤ tol)

/-- The checksum comparison of a drain in a core: a failure counts against the running chunk, or fails the dummy frame (R413, R423). -/
def checkGroups (st d core word bank : Nat) (dummy : Bool) (w : SeqWord) (i : LayerInfo) (s : State) : State :=
  if !i.checksum then s
  else
    let starts := (List.range (ceilDiv (SW.postRows w) 17)).filter fun g =>
      decide (17 * g + 16 ≤ SW.postRows w) && decide (SW.postRow w + 17 * g + 16 < 32)
    let bad := starts.any fun g => rowPlaces.any fun (a, l) => !(groupAgrees d core a l bank (SW.postRow w + 17 * g) s)
    if bad then report st d dummy (.mismatch (d + core * 256 + word % 65536 * 65536)) s else s

/-- The winners of a core's 64 lanes in an ARGMAX or ARGMIN layer: value and channel (R102). -/
def winners (st d core : Nat) (dummy : Bool) (s : State) : List (Int × Nat) :=
  let best := ((streamOf st s).map fun x => (runCtx x d dummy).best).getD []
  rowPlaces.map fun (a, l) => (mapGet best (laneKey core a l)).getD (0, 0)

/-- Row `r` of a drain, counted over the executions of the word, in one home core. -/
def drainRow (st d core kind word e r bank : Nat) (dummy several : Bool) (w : SeqWord) (s : State) : State :=
  let i := r % SW.postRows w
  let p := layerRow st d core (SW.ldesc w + ldescSkip kind) word e i s
  let conv := mapGet (dieOf d s).bankConv (core * 8 + bank)
  let ys := rowYs st d core p (fun a l => drainAcc conv a l (accGet (accKey d core a bank (SW.postRow w + i) l) s)) s
  let line := SW.postAddr w + r * rowLines p (SW.outY w)
  let planar := match conv with
    | some cd => if CV.outLayout cd && !(SW.outY w) then some cd else none
    | none => none
  let test := (layerInfo st d core kind w s).test
  match planar with
  | some cd =>
    forEach (planarBytes w cd (SW.postRow w + i) (ys.map (postOut p))) (fun (off, b) s =>
      if SW.postDest w = 0 then dieWrite d (lineAddr st d core 0 s + off) [b] s
      else if SW.postDest w = 1 then dieWrite d (stagingAddr d 0 + off) [b] s
      else s) s
  | none =>
    if test == .argMax || test == .argMin then
      let ws := winners st d core dummy s
      drainStore st d core line w several ((List.range (64 * rowLines p (SW.outY w))).map (Config.argByte ws i)) s
    else drainOut st d core line w several p ys s

/-- The post-unit drain of an execution (R126). -/
def drainAll (st d kind word e : Nat) (dummy : Bool) (x : Stream) (w : SeqWord) (s : State) : State :=
  if !(SW.postEn w) then s
  else
    let bank := drainBank x d e w
    let homes := homeCores (spanOf d bank s)
    forEach homes (fun c s =>
      let s := checkGroups st d c word bank dummy w (layerInfo st d c kind w s) s
      forEach (List.range (SW.postRows w)) (fun i s =>
        drainRow st d c kind word e (e * SW.postRows w + i) bank dummy (decide (1 < homes.length)) w s) s) s

/-- Cycles of a drain: one a row, and B a row in planar layout with REGROUP_OUT (R97, R192). -/
def drainCycles (d e : Nat) (x : Stream) (w : SeqWord) (s : State) : Nat :=
  if !(SW.postEn w) then 0
  else
    let bank := drainBank x d e w
    let per := (homeCores (spanOf d bank s)).map fun c => match mapGet (dieOf d s).bankConv (c * 8 + bank) with
      | some cd => if CV.outLayout cd && !(SW.outY w) then blockSize (CV.regroupOut cd) else 1
      | none => 1
    SW.postRows w * per.foldl max 1

/-! ### Bank fills of degradable layers (R169, Table SEQ-3) -/

/-- The fill's shadow rows become the bank's rows, a CHEAP epoch of the fill commits, and the planes that it used are reported. -/
def endFill (st d : Nat) (dummy : Bool) (s : State) : State :=
  match streamOf st s with
  | none => s
  | some x =>
    let c := runCtx x d dummy
    let s := { s with acc := c.fill.foldl (fun m (k, v) => mapSet m k v) s.acc }
    let s := commitEpoch d 3 (adjRun st d dummy (fun c => { c with
      fill := [], fillSave := none, fillCount := 0, fillPlanes := none, redo := 0 }) s)
    match c.fillPlanes with
    | some (n, fewer) => report st d dummy (.planes c.layers n fewer) s
    | none => s

/-- The next execution, or the next word, folds into another bank, folds nothing, or changes recurrent state (`stateNext`; DEDUCED, log
34): the bank fill ends. -/
def fillEnds (x : Stream) (d e : Nat) (w : SeqWord) (next : Option SeqWord) (stateNext : Bool) : Bool :=
  if e < SW.rep w then SW.accAlt w
  else if SW.layerEnd w || SW.chunkEnd w || SW.selectEn w || stateNext then true
  else match next with
    | none => true
    | some n => (SW.rspan n).isNone || foldBank x d 0 n != foldBank x d e w

/-! ### Errors that the die's own protection finds (R118) -/

/-- FAB_ERR_STATUS, its counts and events for an error met by a word, and the safe-state cause of the job of the trick. -/
def fabError (st d : Nat) (err : FabError) (s : State) : State :=
  let j := ((streamOf st s).map fun x => x.job).getD 0
  match err with
  | .clean => s
  | .t0Corrected _ => incF Fld.fabCeCountT0Ce d (setB Fld.fabErrStatusT0Ce d true s)
  | .t0Uncorrectable c => raiseCause j 5 (reportT0Ue d (if c < 48 then c else 255) s)
  | .refillCorrected _ => s
  | .refillUncorrectable _ => s
  | .accParity c b =>
    let owner := (s.streams.find? fun (_, x) => decide (2 ≤ b.val) && ((mapGet x.phys d).getD []).contains b.val).map fun (_, x) => x.job
    raiseCause (owner.getD j) 6
      (postEvent 3 0x0002 Status.done (d + c.val * 256 + b.val * 65536) (setB Fld.fabErrStatusAccParity d true s))

end Sys2Proof.Machine
end

