-- ==== Sys2Proof/Machine/Sequence.lean ====
section
/-!
DEFINITION. The sequence engine: the sequence cache, words at the issue pointer, run-ahead and kicks, executions, signals, selects,
boundaries, sends and fetch threads (chapter 05, R120 to R144; R163, R166, R168, R171, R205, R230).
-/
namespace Sys2Proof.Machine
open Sys2Proof

/-! ### Words -/

/-- The word of an index in a job's section of a die (R120). -/
def wordAt (j : Job) (d i : Nat) : Option SeqWord := (seqOf j d).bind fun q => q.words[i]?

/-- The fetch descriptors that a word kicks (R133). -/
def kickList (j : Job) (d : Nat) (w : SeqWord) : List FetchDesc :=
  match seqOf j d with
  | some q => (q.fetch.drop (SW.ftFirst w)).take (SW.ftCount w)
  | none => []

/-! ### The sequence cache (R120, R121) -/

/-- Byte offset of a word in its section (R120). -/
def wordOffset (q : SeqSection) (i : Nat) : Nat := 4 * q.entries.length + 32 * q.fetch.length + 64 * i

/-- The memory address of a byte of a section, in the T1 pages that hold it. -/
def seqByte (q : SeqSection) (k : Nat) : Option Nat := (q.pages[k / 65536]?).map fun p => placeAddr p + k % 65536

/-- The memory addresses at which a word begins and ends. -/
def wordEnds (j : Job) (d i : Nat) : List Nat :=
  match seqOf j d with
  | some q => ([0, 63] : List Nat).filterMap fun k => seqByte q (wordOffset q i + k)
  | none => []

/-- The error that reading a word from T1 meets. -/
def wordErr (j : Job) (d i : Nat) (s : State) : Option ReadErr := (wordEnds j d i).findSome? fun m => errAt d m none s

/-- The way from a word's pages to its die is open. -/
def wordPath (j : Job) (d i : Nat) (s : State) : Bool := (wordEnds j d i).all fun m => pathOpen d (memHome m) s

/-- A word of a job slot is in the die's sequence cache (R121). -/
def inCache (d slot i : Nat) (s : State) : Bool := (dieOf d s).cache.contains (slot, i)

/-- Words that the firmware's fetch threads keep ahead of a word (R121; DEDUCED, log 35). -/
def refillWords : Nat := 128

/-- The cache refilled from a word on: those words of the section that can be read, the oldest of more than 4,096 going (R121). -/
def refill (d slot i : Nat) (j : Job) (s : State) : State :=
  let new := ((List.range refillWords).map (· + i)).filter fun k =>
    (wordAt j d k).isSome && !(inCache d slot k s) && wordPath j d k s && (wordErr j d k s).isNone
  adjDie d (fun y =>
    let l := y.cache ++ new.map fun k => (slot, k)
    { y with cache := l.drop (l.length - 4096) }) s

/-- What a refill from a word finds new in T1 (R172, R173). -/
def refillEcc (d i : Nat) (j : Job) (err : FabError) (s : State) : State :=
  let at' (k : Nat) : Option Nat := if 64 * refillWords ≤ k then none else (seqOf j d).bind fun q => seqByte q (wordOffset q i + k)
  let go (corrected : Bool) (k : Nat) : State := match at' k with
    | some m => senseAt corrected m s
    | none => s
  match err with
  | .refillCorrected k => go true k
  | .refillUncorrectable k => go false k
  | .clean => s
  | .t0Corrected _ => s
  | .t0Uncorrectable _ => s
  | .accParity _ _ => s

/-- The cache of a die as it is when issue stands at a word: the words from there and from the run-ahead pointer. A due word that was not
there stalls issue for this step; one that cannot be read is the error of R173 and R176. The flag tells that issue may go on. -/
def fetchWord (st d word : Nat) (dummy : Bool) (x : Stream) (j : Job) (err : FabError) (s : State) : State × Bool :=
  let held := inCache d x.job word s
  let s := refill d x.job (runCtx x d dummy).ahead j (refill d x.job word j (refillEcc d word j err s))
  if held then (s, true)
  else if !(wordPath j d word s) then (s, false)
  else match wordErr j d word s with
    | some e => (readFault st dummy e s, false)
    | none => (s, false)

/-- The words of a job slot leave the caches of every die. -/
def dropCache (slot : Nat) (s : State) : State :=
  forEach (List.range 4) (fun d s => adjDie d (fun y => { y with cache := y.cache.filter fun e => e.1 != slot }) s) s

/-- The job of a stream. -/
def jobOfStream (st : Nat) (s : State) : Option Job := (streamOf st s).bind fun x => jobOf x.job s

/-- Where issue goes after a word if its select, where it has one, resolves as given (R130). -/
def nextWord (i : Nat) (w : SeqWord) (taken : Bool) : Nat := if SW.selectEn w && taken then SW.selectTarget w else i + 1

/-! ### Kicks and run-ahead (R134, R136, R137) -/

/-- Threads of a job in use on a die. -/
def threadsUsed (j d : Nat) (s : State) : Nat :=
  ((dieOf d s).threads.filter fun t => ((streamOf t.stream s).map fun x => x.job) == some j).length

/-- Free threads of a stream's pool (R134): those its job declares on the die and does not use. -/
def threadsFree (st d : Nat) (s : State) : Nat :=
  match streamOf st s with
  | none => 0
  | some x => (((jobOf x.job s).bind fun j => dieRec j d).map fun r => r.fetchThreads).getD 0 - threadsUsed x.job d s

/-- One thread started. -/
def startThread (st d : Nat) (dummy : Bool) (spec : Option Nat) (f : FetchDesc) (s : State) : State :=
  let t : Thread :=
    { id := s.nextSend, stream := st, desc := f, dummy := dummy, spec := spec, waited := false, landed := 0, dropped := false
      done := false }
  adjDie d (fun y => { y with threads := y.threads ++ [t] }) { s with nextSend := s.nextSend + 1 }

/-- The kick of a word: one thread for each descriptor. -/
def kick (st d : Nat) (dummy : Bool) (spec : Option Nat) (fs : List FetchDesc) (s : State) : State :=
  forEach fs (startThread st d dummy spec) s

/-- Words of a path that satisfy a test. -/
def pathCount (j : Job) (d : Nat) (p : SeqWord → Bool) (path : List Nat) : Nat :=
  path.countP fun i => ((wordAt j d i).map p).getD false

/-- The select whose outcome a word beyond it rests on: the first unresolved one on the path. -/
def openSelect (j : Job) (d : Nat) (path : List Nat) : Option Nat :=
  path.find? fun i => ((wordAt j d i).map SW.selectEn).getD false

/-- The run-ahead limit: MEM_MIG_CFG.RUNAHEAD, where 0 acts as 1 and values above 64 as 64 (R164). -/
def runAheadLimit (s : State) : Nat := min 64 (max 1 (getF Fld.memMigCfgRunahead 0 s))

/-- The pointer may pass the last word of its path (R136). -/
def mayPass (j : Job) (d : Nat) (path : List Nat) : Bool :=
  match path.getLast? with
  | none => true
  | some i =>
    match wordAt j d i with
    | none => false
    | some w =>
      !(SW.chunkEnd w) && !(SW.layerEnd w && decide (2 ≤ pathCount j d SW.layerEnd path))
        && !(SW.selectEn w && decide (2 ≤ pathCount j d SW.selectEn path))

/-- The word that follows a select of the path on the side that run-ahead took. -/
def afterSelect (k : Nat) (c : Ctx) : Nat := (((c.path.dropWhile fun i => i != k).drop 1).head?).getD c.ahead

/-- One word taken by the run-ahead pointer, with its kick; none where it must wait: for the word itself, for threads, for the select of a
descriptor without SPEC_OK, or while every provisional slot is taken (R121, R134, R137, R138). -/
def aheadStep (st d : Nat) (dummy : Bool) (j : Job) (s : State) : Option State :=
  match streamOf st s with
  | none => none
  | some x =>
    let c := runCtx x d dummy
    match wordAt j d c.ahead with
    | none => none
    | some w =>
      let full := (epochOf d 1 s).isSome && decide (64 ≤ slotsUsed d s)
      if runAheadLimit s < c.path.length || !(mayPass j d c.path) || full || !(inCache d x.job c.ahead s) then none
      else
        let fs := kickList j d w
        let sel := openSelect j d c.path
        let wait := decide (threadsFree st d s < fs.length) || (sel.isSome && fs.any fun f => !(FD.specOk f))
        if wait then none
        else
          let s := match sel with
            | some k => if fs.isEmpty then s else openEpoch d 1 st dummy k (afterSelect k c) none none 0 s
            | none => s
          let spec := match sel with
            | some _ => (epochOf d 1 s).map fun e => e.serial
            | none => none
          let s := kick st d dummy spec fs s
          some (adjRun st d dummy (fun c => { c with
            path := c.path ++ [c.ahead]
            ahead := nextWord c.ahead w (SW.selectPredict w) }) s)

/-- The run-ahead pointer moves as far as it can. -/
def runAhead (st d : Nat) (dummy : Bool) (j : Job) : Nat → State → State
  | 0, s => s
  | n + 1, s =>
    match aheadStep st d dummy j s with
    | some s' => runAhead st d dummy j n s'
    | none => s

/-! ### Sends (R142, R143, R139, R21) -/

/-- The die-link send of a word: held under an open SKIP or CHEAP epoch; a dummy frame's sends to the hub are discarded
(R143, R139, R421). -/
def sendWord (st d : Nat) (dummy : Bool) (w : SeqWord) (s : State) : State :=
  if SW.dlOp w = 0 ∨ SW.dlOp w = 3 ∨ (SW.dlOp w = 2 ∧ dummy) then s
  else
    let lines := (List.range (SW.dlLen w)).map fun i => seenBytes d (stagingAddr d (SW.dlSrc w + i)) 64 s
    let x : Send :=
      { id := 0, srcDie := d, stream := st, dummy := dummy, dst := if SW.dlOp w = 1 then SW.dlDie w else 4, addr := SW.dlDst w
        token := SW.dlToken w, lines := lines, dropped := false }
    match innerEpoch d s with
    | some e => adjEpoch d e.kind (fun e => { e with sends := e.sends ++ [x] }) s
    | none => launch x s

/-! ### Signals (R124, R128) -/

/-- The signal of an execution: held while a SKIP or CHEAP epoch is open on the die (R128, R138). -/
def signalWord (st d : Nat) (w : SeqWord) (s : State) : State :=
  if SW.signalInc w = 0 then s
  else
    match innerEpoch d s with
    | some e => adjEpoch d e.kind (fun e => { e with tokens := e.tokens ++ [(SW.signalToken w, SW.signalInc w)] }) s
    | none => tokenAdd st d (SW.signalToken w) (SW.signalInc w) s

/-! ### Windows of streamed objects: the layer count (R166, R171) -/

/-- The segment of a window at a count, which runs on from lap to lap: object offset, pages, need layer, ready token, ready die. -/
def winSeg (w : Window) (i : Nat) : Nat × Nat × Nat × Nat × Nat := w.segs.getD (i % max 1 w.segs.length) (0, 0, 0, 0, 0)

/-- The lap of a count. -/
def segLap (w : Window) (i : Nat) : Nat := i / max 1 w.segs.length

/-- The object of a window. -/
def winObj (w : Window) (s : State) : Option TierObj := (jobOf w.job s).bind fun j => j.objs[w.obj]?

/-- The layer count of the stream that reads a window, on its home die. -/
def winLayers (w : Window) (s : State) : Nat :=
  match winObj w s, streamOf w.stream s with
  | some o, some x => (ctxOf x o.homeDie).layers
  | _, _ => 0

/-- The running chunk's layer count has reached a segment's NEED_LAYER, or exceeds it. -/
def segNeeded (w : Window) (i : Nat) (s : State) : Bool := decide (segLap w i ≤ w.lap) && decide ((winSeg w i).2.2.1 ≤ winLayers w s)
def segPassed (w : Window) (i : Nat) (s : State) : Bool := decide (segLap w i ≤ w.lap) && decide ((winSeg w i).2.2.1 < winLayers w s)

/-- The pages of a segment. -/
def segPages (w : Window) (i : Nat) (s : State) : List Nat :=
  match winObj w s with
  | some o => (List.range (winSeg w i).2.1).map fun k => (w.job * 2 ^ 43 + o.offset + (winSeg w i).1) / 65536 + k
  | none => []

/-- A later lap's instance of the same segment stands in the window. -/
def landedAgain (w : Window) (i : Nat) : Bool :=
  w.landed.any fun k => decide (i < k) && k % max 1 w.segs.length == i % max 1 w.segs.length

/-- Pages of a segment back on their T2 home, unless a later lap has landed them again (R166). -/
def unplaceSeg (w : Window) (i : Nat) (s : State) : State :=
  if landedAgain w i then s
  else forEach (segPages w i s) (fun page s =>
    match mapGet s.tiers.copies page with
    | some t2 => { s with tiers := { s.tiers with pages := mapSet s.tiers.pages page (.t2 t2) } }
    | none => s) s

/-- A window changed. -/
def adjWindow (id : Nat) (f : Window → Window) (s : State) : State :=
  { s with tiers := { s.tiers with windows := listUpdate s.tiers.windows (fun w => w.id == id) f } }

/-- A frame of a window that has held a poisoned granule and holds no page now is retired; a free frame takes its place in the ring,
which is shorter where there is none (R175). -/
def retireWinFrame (id f : Nat) (s : State) : State :=
  match s.tiers.windows.find? fun w => w.id == id with
  | none => s
  | some w =>
    match winObj w s with
    | none => s
    | some o =>
      let d := o.homeDie
      if !(s.tiers.tainted.contains (frameKey d f)) || s.tiers.pages.any fun e => e.2 == .t1 d f then s
      else
        match takeFrame d w.job (leaveFrame d f s) with
        | some (g, s) => adjWindow id (fun v => { v with frames := v.frames.map fun k => if k = f then g else k }) s
        | none =>
          adjWindow id (fun v =>
            let i := v.frames.idxOf f
            let n := v.frames.length - 1
            { v with frames := v.frames.filter fun k => k != f, pos := (if i < v.pos then v.pos - 1 else v.pos) % max 1 n })
            (leaveFrame d f s)

/-- The frames of a window that have to go. -/
def retireWindow (w : Window) (s : State) : State := forEach w.frames (retireWinFrame w.id) s

/-- When the chunk's layer count reached a segment's NEED_LAYER; a segment of an earlier lap has been needed since the chunk's start. -/
def neededSince (w : Window) (i : Nat) (s : State) : Nat :=
  match winObj w s, streamOf w.stream s with
  | some o, some x =>
    let l := (ctxOf x o.homeDie).layerClock
    l.getD (if segLap w i < w.lap then 0 else (winSeg w i).2.2.1) s.clock
  | _, _ => s.clock

/-- The wait for a window's missing segment: since a started chunk's layer count reached its NEED_LAYER (R171). -/
def watchWindow (w : Window) (s : State) : State :=
  let miss := w.copying.getD w.next
  let waits := segNeeded w miss s && ((streamOf w.stream s).bind startedChunk).isSome
  adjWindow w.id (fun v => { v with waitFrom := if waits then some (neededSince w miss s) else none }) s

/-- The windows of a stream watched. -/
def watchWindows (st : Nat) (s : State) : State := forEach (s.tiers.windows.filter fun w => w.stream == st) watchWindow s

/-- Segments whose frames are free: the layer count exceeds their NEED_LAYER (R166). -/
def freeSegments (st : Nat) (s : State) : State :=
  let s := forEach (s.tiers.windows.filter fun w => w.stream == st) (fun w s =>
    let gone := w.landed.filter fun i => segPassed w i s
    let s := forEach gone (unplaceSeg w) s
    let s := adjWindow w.id (fun v => { v with landed := v.landed.filter fun i => !(gone.contains i) }) s
    if gone.isEmpty then s else retireWindow w s) s
  watchWindows st s

/-- Frames that landed segments of a window take. -/
def winUsed (w : Window) : Nat := (w.landed.map fun i => (winSeg w i).2.1).sum

/-- The next segment of a window may be copied: room for all its pages, and its schedule runs (R166). -/
def canCopy (w : Window) : Bool :=
  w.copying.isNone && !w.stopped && w.segs.length != 0 && (w.cyclic || decide (w.next < w.segs.length))
    && decide (winUsed w + (winSeg w w.next).2.1 ≤ w.frames.length)

/-- The copies that can start do. -/
def startCopies (s : State) : State :=
  let go (w : Window) : Window := { w with copying := some w.next, next := w.next + 1, fails := 0 }
  { s with tiers := { s.tiers with windows := listUpdate s.tiers.windows canCopy go } }

/-- The windows of a stream follow its layer count, once no word of it can still be squashed (R139, R166, R171). -/
def followLayers (st d : Nat) (s : State) : State :=
  if (innerEpoch d s).isSome || !(s.tiers.windows.any fun w => w.stream == st) then s else startCopies (freeSegments st s)

/-- A chunk's end on the window's home die: the next lap begins, and a schedule that the chunk's failure or variant stopped begins
again at segment 0 (R166, R167, R171). -/
def nextLap (st d : Nat) (s : State) : State :=
  forEach (s.tiers.windows.filter fun w => w.stream == st && ((winObj w s).map fun o => o.homeDie) == some d) (fun w s =>
    if w.stopped then
      let s := forEach w.landed (unplaceSeg { w with landed := [] }) s
      retireWindow w (adjWindow w.id (fun v => { v with
        lap := 0, next := 0, landed := [], copying := none, pos := 0, fails := 0, signalled := false, stopped := false, waitFrom := none }) s)
    else adjWindow w.id (fun v => { v with lap := if v.cyclic then v.lap + 1 else v.lap, signalled := false, waitFrom := none }) s) s

/-! ### One execution (R124, R125, R230) -/

/-- What an attempt at an execution did: ran, waits, or left the word (a rewind, an ended chunk, a fault). -/
inductive Ran where
  | done | wait | left
  deriving DecidableEq, Repr

/-- FAB_SEQ_STATUS stall bits. -/
def stall (d : Nat) (gate barrier : Bool) (s : State) : State :=
  setB Fld.fabSeqStatusGateStall d gate (setB Fld.fabSeqStatusBarrierStall d barrier s)

/-- The started chunk must end with no further issue. -/
def isEnding (st : Nat) (s : State) : Bool := (((streamOf st s).bind startedChunk).map fun i => i.ending).getD false

/-- The started chunk ends at its next trick boundary (R167). -/
def isLeaving (st : Nat) (s : State) : Bool := (((streamOf st s).bind startedChunk).map fun i => i.leaving).getD false

/-- Fabric cycles of an execution with its extension: `run` cycles of streaming, then drain, vector operation, staging move, send and state
rows (R124, R113, R125, R142, R143, R229). The vector operation's bound stands for its length. -/
def execCycles (st d e kind run : Nat) (x : Stream) (w : SeqWord) (s : State) : Nat :=
  let t := recDesc st d 0 w s
  let state := if kind ≠ 2 then 0 else if RC.op t = 2 ∨ RC.op t = 3 then 8 * RC.stateRows t else RC.stateRows t
  let vpu := if SW.vpuOp w = 0 then 0 else SW.vpuLen w + 12
  let stg := if e ≠ 0 ∨ SW.stgOp w = 0 then 0 else if SW.stgOp w = 7 then 9 else SW.stgLen w
  let snd := if e ≠ 0 ∨ SW.dlOp w = 0 then 0 else SW.dlLen w
  max run (max state (max (drainCycles d e x w s) (max vpu (max stg snd))))

/-- The row start: the first execution of a word whose gate A names ROW_TOKEN (R210). -/
def startsRow (st d e : Nat) (dummy : Bool) (w : SeqWord) (s : State) : Bool :=
  match (dieOf d s).walker with
  | some k => k.stream == st && k.dummy == dummy && e == 0 && SW.gateAN w != 0 && SW.gateAToken w == AT.rowToken k.desc && !k.inRow
  | none => false

/-- The row end: the last execution of a later word whose SIGNAL_TOKEN is DONE_TOKEN (R210). -/
def endsRow (st d e : Nat) (dummy : Bool) (w : SeqWord) (s : State) : Bool :=
  match (dieOf d s).walker with
  | some k => k.stream == st && k.dummy == dummy && e == SW.rep w && SW.signalInc w != 0 && SW.signalToken w == AT.doneToken k.desc
      && k.inRow && !k.fresh
  | none => false

/-- The start of a bank fill of a degradable layer is kept for a squash to come; a further bank of a layer that finishes on fewer planes
opens its own CHEAP epoch (R169, Table SEQ-3). -/
def beginFill (st d word : Nat) (dummy : Bool) (x : Stream) (w : SeqWord) (s : State) : State :=
  let c := ((streamOf st s).map fun y => runCtx y d dummy).getD (freshCtx 0)
  let i := layerInfo st d 0 (c.kind.getD 0) w s
  if (SW.rspan w).isNone || !(shadowed i) || c.fillSave.isSome then s
  else
    let v := saveDie st d c s
    let s := adjRun st d dummy (fun c => { c with
      fillStart := word, fillExec := c.exec, fillBank := foldBank x d c.exec w, fillCount := 0, fillSave := some v }) s
    match c.cheap with
    | some p => if p < SW.planes w then openEpoch d 3 st dummy word c.exec (some v) none 0 s else s
    | none => s

/-! ### Poisoned lines that a word reads (R118, R174) -/

/-- What the first cycle of a word reads of its die's T0: the line that LDESC names, activation tiles, convolution descriptors and the
source of a fill, and the sources of a staging move and a send. -/
def entryReads (st d : Nat) (dummy : Bool) (w : SeqWord) (s : State) : List (Nat × Nat) :=
  let tiles := if SW.aloadSrc w = 1 ∨ SW.aloadSrc w = 3 then (List.range 48).map fun c => (aloadBase st d c w s, 4096)
    else if SW.aloadSrc w = 2 then (List.range 48).flatMap fun c =>
      let t := convDesc st d c w s
      (lineAddr st d c (SW.aloadAddr w + c % 12 * SW.aloadCoreStride w) s, 64)
        :: (if CV.fill t then (fillLines st d c t s).map fun l => (l * 64, 64) else [])
    else []
  let moved := if SW.stgOp w = 0 then [] else [(stagingAddr d (SW.stgSrc w), 64 * (if SW.stgOp w = 7 then 9 else SW.stgLen w))]
  let sent := if SW.dlOp w = 1 ∨ (SW.dlOp w = 2 ∧ !dummy) then [(stagingAddr d (SW.dlSrc w), 64 * SW.dlLen w)] else []
  (lineAddr st d 0 (SW.ldesc w) s, 64) :: (tiles ++ moved ++ sent)

/-- The lines of gates and elements that a recurrent execution reads in a home core (R226, R229). -/
def stateReads (st d core e : Nat) (w : SeqWord) (s : State) : List (Nat × Nat) :=
  let t := recDesc st d core w s
  let n := RC.stateRows t
  let at' (line per : Nat) : Nat × Nat := (lineAddr st d core (line + per * (e * n)) s, 64 * (per * n))
  if RC.op t = 0 then (if RC.aConst t then [] else [at' (RC.aLine t) 2]) ++ (if RC.cConst t then [] else [at' (RC.cLine t) 2])
  else if RC.op t = 2 then [at' (RC.ioLine t) 8]
  else []

/-- The lines that a drain reads in a home core: the layer's fields and the rows' residuals (R110). -/
def drainReads (st d core kind word e : Nat) (w : SeqWord) (s : State) : List (Nat × Nat) :=
  let line := SW.ldesc w + ldescSkip kind
  (lineAddr st d core line s, 64) :: (List.range (SW.postRows w)).filterMap fun i =>
    (layerRow st d core line word e i s).residual.map fun r => (lineAddr st d core r.2.2 s, 64)

/-- The operands of a vector operation in a core (R113). -/
def vpuReads (st d core : Nat) (w : SeqWord) (s : State) : List (Nat × Nat) :=
  let n := 16 * SW.vpuLen w
  let src (line k : Nat) : Nat × Nat := (lineAddr st d core line s, n * k)
  if SW.vpuOp w = 0 then []
  else if SW.vpuOp w = 18 then [src (SW.vpuSrcA w) (cvtIn (SW.vpuCvt w))]
  else
    src (SW.vpuSrcA w) 4 :: ((if SW.vpuOp w ≤ 6 then [src (SW.vpuSrcB w) 4] else []) ++ (if SW.vpuOp w = 4 then [src (SW.vpuDst w) 4] else []))

/-- What the rest of an execution reads. -/
def execReads (st d kind word e : Nat) (x : Stream) (w : SeqWord) (s : State) : List (Nat × Nat) :=
  let state := if kind = 2 then (activeHomes st d x w s).flatMap fun c => stateReads st d c e w s else []
  let drain := if SW.postEn w then (homeCores (spanOf d (drainBank x d e w) s)).flatMap fun c => drainReads st d c kind word e w s else []
  state ++ drain ++ (List.range 48).flatMap fun c => vpuReads st d c w s

/-! ### The first cycle of an execution (R124, R128, R190, R205, R210, R226, R231) -/

/-- What the first execution does before streaming: load, exchange, staging move and send (R124). In a fill that is recomputed, the load and
the exchange alone are made again (R139). -/
def firstActions (st d : Nat) (dummy again : Bool) (w : SeqWord) (s : State) : State :=
  let c := ((streamOf st s).map fun x => runCtx x d dummy).getD (freshCtx 0)
  let s := if SW.xchgEn w then
      let v := saveDie st d c s
      adjRun st d dummy (fun c => { c with before := some v }) s
    else s
  let s := loadAndExchange st d w s
  if again then s else sendWord st d dummy w (stagingMove st d dummy w s)

/-- The descriptor checks of the first execution: the failing part has had its effect where one fails (R190, R231). -/
def firstChecks (st d kind : Nat) (dummy : Bool) (x : Stream) (w : SeqWord) (s : State) : State × Bool :=
  let s := if SW.aloadSrc w = 2 then noteTaps st d w s else s
  match (if SW.aloadSrc w = 2 then convFault st d w s else none) with
  | some (c, off) => (convRefuse st d dummy c off s, false)
  | none =>
    match (if kind = 2 then recFault st d x w s else none) with
    | some (c, off) => (recRefuse st d dummy c off s, false)
    | none => (s, true)

/-- The walker starts at an attention word: the chunk's first, and one whose descriptor is another layer's (R205, R222). -/
def meetWalker (st d : Nat) (dummy : Bool) (w : SeqWord) (s : State) : State :=
  match (dieOf d s).walker with
  | none => walkerStart st d dummy w s
  | some k => if !k.inRow && (k.line != SW.ldesc w || k.desc != attDesc st d w s) then walkerStart st d dummy w s else s

/-- The chunk of a trick, or its dummy frame, has failed. -/
def runFailed (st : Nat) (dummy : Bool) (s : State) : Bool :=
  if dummy then ((streamOf st s).map fun x => x.dummy.failed).getD false else isEnding st s

/-- The first cycle of the word's first execution, after its gates: errors of T0, the walker, the descriptor checks, and the first actions. The
flag tells that the execution goes on. -/
def firstCycle (st d kind : Nat) (dummy again : Bool) (x : Stream) (w : SeqWord) (s : State) : State × Bool :=
  match poisonHit d (entryReads st d dummy w s) s with
  | some core => (t0Fault st d dummy core s, false)
  | none =>
    if again then (firstActions st d dummy again w s, true)
    else
      let s := if kind = 1 then meetWalker st d dummy w s else s
      if runFailed st dummy s then (s, false)
      else
        let r := firstChecks st d kind dummy x w s
        if r.2 then (firstActions st d dummy again w r.1, true) else (r.1, false)

/-- An execution enters: its gates pass, an UPDATE or LOAD finds no SKIP or CHEAP epoch open, and its first cycle runs. A recomputed execution
takes no gate again (R128, R139, R230). -/
def enterExec (st d word : Nat) (dummy : Bool) (x : Stream) (w : SeqWord) (s0 : State) : State × Ran :=
  let c := runCtx x d dummy
  let again := c.redo != 0
  let kind := c.kind.getD (testKind st d w s0)
  if !again && !(gatesPass st d w s0) then (stall d true false s0, .wait)
  else if kind = 2 && !again && recWaits st d w s0 then (stall d false false s0, .wait)
  else
    let s := adjRun st d dummy (fun c => { c with kind := some kind, entered := true }) (stall d false false s0)
    let s := if !again && startsRow st d c.exec dummy w s then rowStart st d word dummy (SW.skipEn w) s else s
    let s := beginFill st d word dummy x w s
    let s := if again then s else onGate st d w (takeGates st d w s)
    let r := if c.exec = 0 then firstCycle st d kind dummy again x w s else (s, true)
    if !r.2 then (r.1, .left)
    else if (innerEpoch d r.1).isSome && slotsShort d r.1 then (s0, .wait)
    else (r.1, .done)

/-! ### The rest of an execution (R124, R125, R163, R168) -/

/-- The execution at hand, with what its folds need to know. -/
def execAt (st d word : Nat) (dummy : Bool) (j : Job) (x : Stream) (w : SeqWord) (s : State) : Exec :=
  let c := runCtx x d dummy
  { st := st, d := d, e := c.exec, kind := c.kind.getD 0, span := (SW.rspan w).getD 1, dummy := dummy, x := x, w := w
    rest := ((seqOf j d).map fun q => q.words.drop (word + 1)).getD []
    old := (c.before.map fun v => v.cells).getD s.mem
    oldConv := (c.before.map fun v => v.tileConv).getD []
    oldExp := (c.before.map fun v => v.tileExp).getD [] }

/-- The next word changes recurrent state. -/
def stateNext (st d : Nat) (next : Option SeqWord) (s : State) : Bool :=
  match next with
  | some w => testKind st d w s == 2 && (RC.op (recDesc st d 0 w s) == 0 || RC.op (recDesc st d 0 w s) == 2)
  | none => false

/-- The drain, the state rows and the vector operation of an execution (R124, R227 to R229). -/
def outputs (ex : Exec) (word : Nat) (x : Stream) (s : State) : State :=
  let op := RC.op (recDesc ex.st ex.d 0 ex.w s)
  let r := ex.kind == 2
  let s := if r && (SW.postEn ex.w || decide (2 ≤ op)) then recRun ex.st ex.d word ex.e ex.dummy x ex.w s else s
  let s := if r && decide (op < 2) then s else drainAll ex.st ex.d ex.kind word ex.e ex.dummy x ex.w s
  vpuRun ex.st ex.d ex.w s

/-- What follows the folds: the end of a bank fill, the outputs, the signal and the count of the execution. A recomputed execution, but for
the one in which the choice was made, has had its outputs and its signal (R139). -/
def closeExec (ex : Exec) (word : Nat) (last : Bool) (saved : Nat) (s : State) : State :=
  let again := decide (2 ≤ (runCtx ex.x ex.d ex.dummy).redo)
  let s := if last then endFill ex.st ex.d ex.dummy s else s
  let run := SW.run ex.w + 1 - saved
  let cyc := if again then run else execCycles ex.st ex.d ex.e ex.kind run ex.x ex.w s
  let s := if again then s else signalWord ex.st ex.d ex.w (outputs ex word ((streamOf ex.st s).getD ex.x) s)
  let s := adjDie ex.d (fun y => { y with cycles := y.cycles + cyc }) s
  adjRun ex.st ex.d ex.dummy (fun c => { c with
    exec := c.exec + 1, entered := false, before := none, stallFrom := none, cheapCh := 0
    fillCount := if c.fillSave.isSome then c.fillCount + 1 else 0, redo := c.redo - 1 }) s

/-- The rest of an execution that has entered: it waits while a row due for issue is pending (R163), or while its provisional writes find no
free slot (R138, R216). -/
def finishExec (st d word : Nat) (dummy : Bool) (j : Job) (x : Stream) (w : SeqWord) (s0 : State) : State × Ran :=
  let ex := execAt st d word dummy j x w s0
  let f := foldAll ex s0
  if f.late.isSome then
    (adjRun st d dummy (fun c => { c with stallFrom := some (c.stallFrom.getD s0.clock) }) (stall d false false s0), .wait)
  else if f.stray then (attFail st d dummy 7 0 s0, .left)
  else
    let again := decide (2 ≤ (runCtx x d dummy).redo)
    match (if again then f.bad else f.bad.orElse fun _ => poisonHit d (execReads st d ex.kind word ex.e x w s0) s0) with
    | some core => (t0Fault st d dummy core s0, .left)
    | none =>
      let next := wordAt j d (word + 1)
      let last := (SW.rspan w).isSome && fillEnds x d ex.e w next (stateNext st d next f.s)
      let ends := endsRow st d ex.e dummy w f.s
      let s := closeExec ex word last f.saved f.s
      if (innerEpoch d s).isSome && slotsShort d s then (stall d false false s0, .wait)
      else if runFailed st dummy s then (s, .left)
      else if ends then
        let r := rowEnd st d dummy s
        (r.1, if r.2 then .left else .done)
      else (s, .done)

/-- One execution of the word at the issue pointer: it enters, unless it has, and runs to its end. -/
def execOnce (st d word : Nat) (dummy : Bool) (j : Job) (w : SeqWord) (s0 : State) : State × Ran :=
  match streamOf st s0 with
  | none => (s0, .left)
  | some x =>
    let r := if (runCtx x d dummy).entered then (s0, Ran.done) else enterExec st d word dummy x w s0
    match r with
    | (s, .done) => match streamOf st s with
      | some x => finishExec st d word dummy j x w s
      | none => (s, .left)
    | (s, .wait) => (s, .wait)
    | (s, .left) => (s, .left)

/-- Executions until the word is done or one of them waits. -/
def execAll (st d word : Nat) (dummy : Bool) (j : Job) (w : SeqWord) : Nat → State → State × Ran
  | 0, s => (s, .done)
  | n + 1, s =>
    match execOnce st d word dummy j w s with
    | (s, .done) => execAll st d word dummy j w n s
    | (s, r) => (s, r)

/-! ### Ends of words, tricks and chunks (R130, R131, R140, R166, R171) -/

/-- A send on its way to the hub carries a move request that names a token (R160). -/
def asksMove (tok : Nat) (x : Send) : Bool :=
  x.dst == 4 && x.lines.zipIdx.any fun (bs, i) =>
    decide (moveWindow ≤ x.addr + 64 * i) && decide (x.addr + 64 * i < 0x1000000) && MR.token (BitVec.ofNat 512 (leNat bs)) == tok

/-- Increments to a counter that the stream has issued and that have not been applied: of fetch threads, of sends, of signals held under an
open SKIP or CHEAP epoch, and of move requests (R127, R130, R160). -/
def incrementsDue (st d tok : Nat) (s : State) : Bool :=
  let due (x : Send) : Bool := x.stream == st && !x.dropped && ((x.dst == d && x.token == tok) || (x.srcDie == d && asksMove tok x))
  let held := (List.range 4).flatMap fun k => (dieOf k s).epochs.filter fun e => e.kind != 1 && e.stream == st
  ((dieOf d s).threads.any fun t => t.stream == st && FD.doneToken t.desc == tok && t.spec.isNone && !t.dropped)
    || s.sends.any due || held.any (fun e => e.sends.any due)
    || ((dieOf d s).epochs.any fun e => e.kind != 1 && e.stream == st && e.tokens.any fun t => t.1 == tok && t.2 != 0)
    || (s.tiers.requests.any fun r => r.stream == st && r.die == d && r.token == tok && !r.dropped)
    || s.tiers.waiting.any fun w => w.1 == d && w.2.1 == st && MR.token w.2.2.1 == tok && !w.2.2.2.2

/-- The tokens by which the stream's variants are signalled (R171). -/
def isVarToken (st tok : Nat) (s : State) : Bool := s.tiers.windows.any fun w => w.stream == st && w.varToken == tok && tok != 255

/-- A select that is taken consumes a VAR_TOKEN: the chunk reports its variant, and the engine copies no more segments for it
(R171). -/
def takeVariant (st d tok : Nat) (dummy : Bool) (s : State) : State :=
  if !(isVarToken st tok s) then s else report st d dummy (.variant tok) s

/-- The words finished in a bank fill or a SKIP row in progress, with one more; none outside them. -/
def trailWith (word : Nat) (open' : Bool) (c : Ctx) : List Nat := if open' || c.fillSave.isSome then c.trail ++ [word] else []

/-- Issue goes on to a word; the run-ahead path is kept where it goes there, and begins anew otherwise. -/
def issueAt (word n : Nat) (onPath open' : Bool) (c : Ctx) : Ctx :=
  if onPath then { c with issue := n, path := c.path.drop 1, trail := trailWith word open' c }
  else { c with issue := n, path := [], ahead := n, trail := trailWith word open' c }

/-- The select of a word, resolved. A PREFETCH epoch of the select commits where it resolves as predicted, and is squashed
otherwise (R130, R137, Table SEQ-3). -/
def resolveSelect (st d word : Nat) (dummy : Bool) (w : SeqWord) (s : State) : State :=
  let open' := (dieOf d s).epochs.any fun e => e.kind != 1
  if !(SW.selectEn w) then adjRun st d dummy (issueAt word (word + 1) true open') s
  else
    let taken := decide (1 ≤ tokenOf st d (SW.selectToken w) s)
    let s := if taken then takeVariant st d (SW.selectToken w) dummy (takeNoted st d (SW.selectToken w) 1 s) else s
    let n := nextWord word w taken
    let c := ((streamOf st s).map fun x => runCtx x d dummy).getD (freshCtx 0)
    let mine := ((epochOf d 1 s).map fun e => e.restart == word).getD false
    let onPath := ((c.path.drop 1).head?).getD c.ahead == n
    if onPath && (!mine || taken == SW.selectPredict w) then
      let s := adjRun st d dummy (issueAt word n true open') s
      if mine then commitEpoch d 1 s else s
    else adjRun st d dummy (issueAt word n false open') (squashEpoch d 1 s)

/-- The trick on a die ends: open epochs are squashed, and the die is free (R78, R140). -/
def endTrick (st d : Nat) (dummy : Bool) (s : State) : State :=
  let s := squashAll d s
  let s := adjDie d (fun y => { y with
    running := none, lastStream := some st, lastDummy := dummy,
    parked := match y.walker with
      | some k => mapSet y.parked (2 * k.stream + k.dummy.toNat) k
      | none => y.parked
    walker := none }) s
  adjRun st d dummy (fun c => { c with waitFrom := s.clock }) s

/-- The walker of a chunk is done with. The keys that it skipped in a row whose attempt has committed, or that had no epoch, count (R219). -/
def dropWalker (st d : Nat) (dummy : Bool) (s : State) : State :=
  let p := mapGet (dieOf d s).parked (2 * st + dummy.toNat)
  let n := (p.map fun w => w.skipped.length).getD 0
  let s := countSkips st d s
  let s := if n = 0 then s else adjFacts st (fun f => { f with skipCount := f.skipCount + n }) s
  adjDie d (fun y => { y with walker := none, parked := mapErase y.parked (2 * st + dummy.toNat) }) s

/-- A chunk, or a dummy frame, has ended on a die: the layer count and VAR_TOKEN return to 0 (R166, R171). -/
def endOnDie (st d : Nat) (dummy : Bool) (s : State) : State :=
  let s := dropWalker st d dummy s
  if dummy then
    adjStream st (fun x => { x with dummy := { x.dummy with
      doneDies := x.dummy.doneDies ++ [d]
      ended := (diesOf x).all fun k => k == d || x.dummy.doneDies.contains k } }) s
  else
    let toks := (s.tiers.windows.filter fun w => w.stream == st && w.varToken != 255).map fun w => w.varToken
    let s := forEach toks (fun t s => setToken st d t 0 s) s
    let s := adjCtx st d (fun c => { c with
      layers := 0, layerClock := [], cheap := none, cheapCh := 0, fill := [], fillSave := none, fillPlanes := none, fillCount := 0, redo := 0
      best := [], bestCh := 0, entered := false, kind := none, before := none, stallFrom := none, variant := false }) s
    let s := nextLap st d s
    adjChunk st (fun i => { i with doneDies := if i.doneDies.contains d then i.doneDies else i.doneDies ++ [d] }) s

/-- The row's start word has been left: a row may end from now on (R210). -/
def leaveStart (d : Nat) (s : State) : State := adjWalker d (fun k => { k with fresh := false }) s

/-- A layer boundary: the chunk's layer count goes on (R166). -/
def layerEnds (st d : Nat) (dummy : Bool) (s : State) : State :=
  adjRun st d dummy (fun c => { c with
    layers := c.layers + 1, layerClock := c.layerClock ++ [s.clock], cheap := none, cheapCh := 0, best := [], bestCh := 0 }) s

/-- After the last execution: select, layer end, then TRICK_END and CHUNK_END (R124, R131). A word that was recomputed has met its boundary
already (R139). -/
def finishWord (st d word : Nat) (dummy : Bool) (w : SeqWord) (s : State) : State :=
  let again := ((streamOf st s).map fun x => decide ((runCtx x d dummy).redo ≠ 0)).getD false
  if SW.selectEn w && incrementsDue st d (SW.selectToken w) s then s
  else
    let s := resolveSelect st d word dummy w s
    let s := leaveStart d (adjRun st d dummy (fun c => { c with exec := 0, kind := none, atBarrier := false, barrierPassed := false }) s)
    let s := if SW.layerEnd w then layerEnds st d dummy s else s
    if SW.chunkEnd w then
      let open' := (dieOf d s).epochs.any fun e => e.kind != 1
      let s := endTrick st d dummy s
      if open' then s else endOnDie st d dummy s
    else if SW.trickEnd w && !again then
      let s := endTrick st d dummy s
      if !dummy && isLeaving st s then endOnDie st d false s else s
    else s

/-- The chunk ends at its next word with no further issue (R167, R191, R222, R231). -/
def endEarly (st d : Nat) (s : State) : State :=
  endOnDie st d false (endTrick st d false s)

/-- The barrier of a word (R129): passed at once in a single-die stream, otherwise reached and waited for. The flag tells that
issue may go on. -/
def meetBarrier (st d : Nat) (dummy : Bool) (x : Stream) (w : SeqWord) (s : State) : State × Bool :=
  let c := runCtx x d dummy
  if !(SW.barrierEn w) || c.barrierPassed || decide (c.exec ≠ 0) || decide (c.redo ≠ 0) then (s, true)
  else if (diesOf x).length ≤ 1 then (adjRun st d dummy (fun c => { c with barrierPassed := true }) s, true)
  else (stall d false true (adjRun st d dummy (fun c => { c with atBarrier := true }) s), false)

/-- The ISSUE and THREADS_BUSY fields of FAB_SEQ_STATUS. -/
def showSeq (st d : Nat) (dummy : Bool) (s : State) : State :=
  let i := ((streamOf st s).map fun x => (runCtx x d dummy).issue).getD 0
  setF Fld.fabSeqStatusThreadsBusy d (dieOf d s).threads.length (setF Fld.fabSeqStatusIssue d i s)

/-- An error that the die's own protection finds before the word runs; the flag tells that the word cannot run. -/
def ownError (st d : Nat) (dummy : Bool) (err : FabError) (s : State) : State × Bool :=
  let s := fabError st d err s
  let bad := match err with
    | .clean => false
    | .t0Corrected _ => false
    | .t0Uncorrectable _ => true
    | .accParity _ _ => true
    | .refillCorrected _ => false
    | .refillUncorrectable _ => false
  (if bad && dummy then dummyFail st s else s, bad)

/-- The executions of the word at the issue pointer, and what follows them. -/
def runExecs (st d word : Nat) (dummy : Bool) (j : Job) (w : SeqWord) (s : State) : State :=
  let e := ((streamOf st s).map fun x => (runCtx x d dummy).exec).getD 0
  match execAll st d word dummy j w (SW.rep w + 1 - e) s with
  | (s, .done) => finishWord st d word dummy w s
  | (s, .wait) => s
  | (s, .left) => if !dummy && isEnding st s then endEarly st d s else s

/-- The word at the issue pointer of the running trick: the cache, run-ahead, the barrier, gates, executions, and what follows them
(R121, R124, R136). -/
def runWord (st d : Nat) (dummy : Bool) (err : FabError) (s : State) : State :=
  match streamOf st s, jobOfStream st s with
  | some x, some j =>
    if !dummy && (isEnding st s || (isLeaving st s && decide ((dieOf d s).cycles = 0))) then endEarly st d s
    else
      let word := (runCtx x d dummy).issue
      match wordAt j d word with
      | none => s
      | some w =>
        let r := fetchWord st d word dummy x j err s
        if !r.2 then r.1
        else
          let r := meetBarrier st d dummy x w (runAhead st d dummy j 65 r.1)
          let c := ((streamOf st r.1).map fun x => runCtx x d dummy).getD (freshCtx 0)
          if !r.2 || c.path.isEmpty then r.1
          else
            let r := ownError st d dummy err r.1
            if r.2 then r.1 else followLayers st d (runExecs st d word dummy j w r.1)
  | _, _ => s

/-- What runs on a die. -/
def runningOn (d : Nat) (s : State) : Option (Nat × Bool) :=
  match (dieOf d s).running with
  | some (st, .chunk) => some (st, false)
  | some (st, .dummy) => some (st, true)
  | some (_, .swap) => none
  | none => none

/-- SEQUENCE_WORD on a die. -/
def seqStep (d : Nat) (err : FabError) (s : State) : State :=
  match runningOn d s with
  | some (st, dummy) => showSeq st d dummy (runWord st d dummy err s)
  | none => s

/-! ### Die barriers (R129) -/

/-- The barrier number at which a die of a stream waits. -/
def barrierOf (j : Job) (c : Ctx) (d : Nat) : Option Nat :=
  if c.atBarrier then (wordAt j d c.issue).map SW.barrierId else none

/-- BARRIER_PASS: every die of the stream has reached a word with the same BARRIER_ID (R129). -/
def barrierPass (st : Nat) (dummy : Bool) (s : State) : State :=
  match streamOf st s, jobOfStream st s with
  | some x, some j =>
    match (diesOf x).map fun d => barrierOf j (runCtx x d dummy) d with
    | some b :: rest =>
      if rest.all fun r => r == some b then
        forEach (diesOf x) (fun d s =>
          setB Fld.fabSeqStatusBarrierStall d false
            (adjRun st d dummy (fun c => { c with atBarrier := false, barrierPassed := true }) s)) s
      else s
    | _ => s
  | _, _ => s

/-! ### Fetch threads (R133 to R135, R163, R173) -/

/-- The thread of a number on a die. -/
def threadOf (d id : Nat) (s : State) : Option Thread := (dieOf d s).threads.find? fun t => t.id == id

/-- A thread changed, and a thread removed. -/
def adjThread (d id : Nat) (f : Thread → Thread) (s : State) : State :=
  adjDie d (fun y => { y with threads := listUpdate y.threads (fun t => t.id == id) f }) s
def dropThread (d id : Nat) (s : State) : State := adjDie d (fun y => { y with threads := y.threads.filter fun t => t.id != id }) s

/-- The memory addresses at which row `r` of a thread lands (R133, R503). -/
def landAddrs (st d : Nat) (f : FetchDesc) (r : Nat) (s : State) : List Nat :=
  let line := FD.dst f + r * FD.dstStride f
  match FD.dstKind f with
  | 0 => [lineAddr st d (FD.dstCore f) line s]
  | 1 => (List.range 48).map fun c => lineAddr st d c line s
  | 2 => [stagingAddr d line]
  | _ => [hubAddr (FD.dst f + r * FD.dstStride f * 64)]

/-- Where 8-byte row `u` of a PLANE_ROW thread lands (R163). -/
def planeAddrs (st d : Nat) (f : FetchDesc) (u : Nat) (s : State) : List Nat :=
  let row := FD.dst f + u * FD.dstStride f
  if FD.dstKind f = 1 then (List.range 48).map fun c => rowAddr st d c row s else [rowAddr st d (FD.dstCore f) row s]

/-- The source address of byte `b` of a thread, counted across its rows. -/
def srcByte (f : FetchDesc) (b : Nat) : Nat := FD.src f + b / FD.len f * FD.srcStride f + b % FD.len f

/-- Bytes that a thread moves. -/
def threadBytes (f : FetchDesc) : Nat := FD.rows f * FD.len f

/-- Bytes put in place, or held in the PREFETCH epoch of the thread. -/
def landBytes (d : Nat) (spec : Option Nat) (a : Nat) (bs : List Byte) (s : State) : State :=
  match spec with
  | some _ => adjEpoch d 1 (fun e => { e with writes := mapBytes e.writes a bs }) s
  | none => store a bs s

/-- One row of a PLANE_ROW thread lands. -/
def landPlaneRow (d : Nat) (t : Thread) (s : State) : State :=
  let u := t.landed
  let bs := readObj (srcByte t.desc (8 * u)) 8 s
  let s := forEach (planeAddrs t.stream d t.desc u s) (fun a s => landBytes d t.spec a bs s) s
  adjThread d t.id (fun t => { t with landed := t.landed + 1 }) s

/-- The first error that a thread's reads meet. -/
def threadErr (d : Nat) (f : FetchDesc) (s : State) : Option ReadErr := (FD.rowAddrs f).findSome? fun a => firstErr d a (FD.len f) s

/-- The way from everything that a thread reads to its die is open (R16 to R18, R20). -/
def threadPath (d : Nat) (f : FetchDesc) (s : State) : Bool :=
  (FD.rowAddrs f).all fun a => (linesOf a (FD.len f)).all fun l => match resolve (l * 64) s with
    | some m => pathOpen d (memHome m) s
    | none => true

/-- The ranges that a thread reads. -/
def threadRanges (f : FetchDesc) : List (Nat × Nat) := (FD.rowAddrs f).map fun a => (a, FD.len f)

/-- A thread may write now: its WAIT_TOKEN has been met, and a thread aimed at scratch holds the die (R134, R135). A thread of before a JOB
reset waits on no token (R474). -/
def mayWrite (d : Nat) (t : Thread) (s : State) : Bool :=
  (t.waited || t.dropped || FD.waitN t.desc == 0 || decide (FD.waitN t.desc ≤ tokenOf t.stream d (FD.waitToken t.desc) s))
    && (FD.dstKind t.desc != 2 || runningOn d s == some (t.stream, t.dummy))

/-- WAIT_TOKEN taken at the thread's first write; a PREFETCH epoch notes what its threads took (R134, R139). -/
def takeWait (d : Nat) (t : Thread) (s : State) : State :=
  if t.waited ∨ FD.waitN t.desc = 0 then s
  else
    let s := takeToken t.stream d (FD.waitToken t.desc) (FD.waitN t.desc) s
    let s := if t.spec.isSome then
        adjEpoch d 1 (fun e => { e with taken := e.taken ++ [(FD.waitToken t.desc, FD.waitN t.desc)] }) s
      else s
    adjThread d t.id (fun t => { t with waited := true }) s

/-- All rows of a thread put in place. -/
def landThread (d : Nat) (t : Thread) (s : State) : State :=
  if FD.planeRow t.desc then
    (List.range (planeRows8 t.desc - t.landed)).foldl (fun s _ =>
      match threadOf d t.id s with
      | some t => landPlaneRow d t s
      | none => s) s
  else
    let rows := (List.range (FD.rows t.desc)).map fun r =>
      (landAddrs t.stream d t.desc r s, readObj (FD.src t.desc + r * FD.srcStride t.desc) (FD.len t.desc) s)
    forEach rows (fun (as, bs) s => forEach as (fun a s => landBytes d t.spec a bs s) s) s

/-- A thread's DONE_TOKEN: held under its PREFETCH epoch, dropped for a thread of before a JOB reset (R133, R138, R474). -/
def threadToken (d : Nat) (t : Thread) (s : State) : State :=
  if t.dropped then s
  else match t.spec with
    | some _ => adjEpoch d 1 (fun e => { e with tokens := e.tokens ++ [(FD.doneToken t.desc, 1)] }) s
    | none => tokenAdd t.stream d (FD.doneToken t.desc) 1 s

/-- A thread is done: it returns to the pool, one of a PREFETCH epoch when its held increment applies (R134, R138). -/
def endThread (d : Nat) (t : Thread) (s : State) : State :=
  if t.spec.isSome then adjThread d t.id (fun t => { t with done := true }) s else dropThread d t.id s

/-- FETCH_THREAD_DONE: the last byte of a thread has landed (R133, R134). Data does not cross a closed link. A thread of a PREFETCH epoch
that meets an error is reported only if the epoch commits: its data does not land, and the error is counted (R140, R173). A provisional
write that finds no free slot waits (R138). -/
def fetchDone (d id : Nat) (ecc : ReadEcc) (s0 : State) : State :=
  match threadOf d id s0 with
  | none => s0
  | some t =>
    if t.done || !(mayWrite d t s0) || !(threadPath d t.desc s0) then s0
    else if t.dropped then
      if (threadErr d t.desc s0).isNone then dropThread d id (landThread d t s0) else dropThread d id s0
    else
      let s := touchRanges (threadRanges t.desc) (senseRanges (threadRanges t.desc) ecc s0)
      match threadErr d t.desc s with
      | some e => match t.spec with
        | some _ => endThread d t (adjEpoch d 1 (fun x => { x with faults := x.faults ++ [e] }) s)
        | none => readFault t.stream t.dummy e (dropThread d id s)
      | none =>
        let u := landThread d t (takeWait d t s)
        if t.spec.isSome && slotsShort d u then s0 else endThread d t (threadToken d t u)

/-- PENDING_ROW_LANDED: the next row of a PLANE_ROW thread lands (R163). -/
def rowLanded (d id : Nat) (s0 : State) : State :=
  match threadOf d id s0 with
  | none => s0
  | some t =>
    if t.done || t.dropped || !(FD.planeRow t.desc) || decide (planeRows8 t.desc ≤ t.landed) || !(mayWrite d t s0)
      || !(threadPath d t.desc s0) || (threadErr d t.desc s0).isSome then s0
    else
      let s := takeWait d t s0
      match threadOf d id s with
      | some t =>
        let u := landPlaneRow d t s
        if t.spec.isSome && slotsShort d u then s0 else u
      | none => s

/-! ### The cheap-path choice (R105, R168) -/

/-- LATE_CYCLES of a class: values 1 to 63 act as 64, 0 makes no choice (MEM_LATE_CFG). -/
def lateCycles (cls : Nat) (s : State) : Nat :=
  let v := match cls with
    | 0 => getF Fld.memLateCfgControl 0 s
    | 1 => getF Fld.memLateCfgPerception 0 s
    | 2 => getF Fld.memLateCfgDeliberation 0 s
    | _ => getF Fld.memLateCfgBackground 0 s
  if v = 0 then 0 else max 64 v

/-- A stall on a pending row has lasted a number of fabric cycles. -/
def stalledFor (d n : Nat) (c : Ctx) (s : State) : Bool :=
  match c.stallFrom with
  | some t => decide (n * 1000 ≤ (s.clock - t) * opMhz (opOf d s))
  | none => false

/-- The rows of channel `j` that have saturated take no choice (R101). -/
def channelSaturated (ex : Exec) (j : Nat) (s : State) : Bool :=
  SW.accOp ex.w != 1 && (homeCores ex.span).any fun h => rowPlaces.any fun (a, l) =>
    s.accSat.contains (accRowOf (accKey ex.d h a (foldBank ex.x ex.d ex.e ex.w) (SW.accRow ex.w + j) l))

/-- The choice at a stall on plane `b` of channel `j` may be made (R105, R168, R101, R109). -/
def mayChoose (ex : Exec) (j b : Nat) (c : Ctx) (s : State) : Bool :=
  let i := layerInfo ex.st ex.d 0 ex.kind ex.w s
  let late := lateCycles ex.x.cls s
  i.degradable && !(dieOf ex.d s).exact && c.cheap.isNone && decide (i.minPlanes ≤ b) && decide (b < SW.planes ex.w) && late != 0
    && stalledFor ex.d late c s && lastPass ex.x ex.d ex.e ex.w (SW.accRow ex.w + j) ex.rest && !(channelSaturated ex j s)

/-- CHEAP_PATH_CHOICE: after a stall of LATE_CYCLES on a pending row, p becomes the planes already issued, and the CHEAP epoch of the bank
fill opens (R168, R169). -/
def cheapChoice (d : Nat) (s : State) : State :=
  match runningOn d s with
  | some (st, false) =>
    match streamOf st s, jobOfStream st s with
    | some x, some j =>
      let c := ctxOf x d
      match wordAt j d c.issue with
      | none => s
      | some w =>
        let ex := execAt st d c.issue false j x w s
        match (if c.entered then (foldAll ex s).late else none) with
        | none => s
        | some (ch, b) =>
          if !(mayChoose ex ch b c s) then s
          else
            let s := openEpoch d 3 st false c.fillStart c.fillExec c.fillSave none (c.fillCount + 1) s
            adjDie d (fun y => { y with cycles := y.cycles + lateCycles x.cls s })
              (adjCtx st d (fun c => { c with cheap := some b, cheapCh := ch, stallFrom := none }) s)
    | _, _ => s
  | _ => s

/-! ### Arrival of a transfer at a compute die (R19, R143) -/

/-- No earlier transfer of the same source and destination is still on its way (R19). -/
def firstOnRoute (x : Send) (s : State) : Bool :=
  !(s.sends.any fun y => y.srcDie == x.srcDie && y.dst == x.dst && decide (y.id < x.id))

/-- A transfer lands on a compute die: its lines, then its DL_TOKEN, which is dropped for one of before a JOB reset (R143, R474). -/
def landOnDie (x : Send) (s : State) : State :=
  let s := forEach x.lines.zipIdx (fun (bs, i) s => store (stagingAddr x.dst (x.addr + i)) bs s) s
  if x.dropped then s else tokenAdd x.stream x.dst x.token 1 s

end Sys2Proof.Machine
end

