-- ==== Sys2Proof/Machine/MemTiers.lean ====
section
/-!
DEFINITION. Pool pages, page moves, migration, move requests, streaming windows, the scrub and the recalibration of the
memory tiers (chapter 06: R150, R152, R156, R159 to R161, R165 to R167, R171, R172, R174, R175, R178).
-/
namespace Sys2Proof.Machine
open Sys2Proof

/-! ### Pool pages -/

/-- Pages of the T2 pool: none over USB (R154). -/
def poolSize (s : State) : Nat := if usbAttached s then 0 else getF Fld.memT2SizePages 0 s
def freePool (s : State) : Nat := poolSize s - s.tiers.pool.length

/-- The lowest free pool page. -/
def lowPool (s : State) : Nat → Nat → Option Nat
  | 0, _ => none
  | n + 1, i => if (mapGet s.tiers.pool i).isSome then lowPool s n (i + 1) else some i

/-- A free pool page taken for a job. -/
def takePool (job : Nat) (s : State) : Option (Nat × State) :=
  (lowPool s (min (poolSize s) (s.tiers.pool.length + 1)) 0).map fun p => (p, setTiers { s.tiers with pool := mapSet s.tiers.pool p job } s)

/-- A place given back. The T2 home or backup of a page stays its own. -/
def releasePlace (page : Nat) (p : Place) (s : State) : State :=
  match p with
  | .t0 _ _ _ => s
  | .t1 d f => leaveFrame d f s
  | .t2 t => if mapGet s.tiers.copies page = some t then s else setTiers { s.tiers with pool := mapErase s.tiers.pool t } s

/-- 64 KiB copied, with their poison: poisoned granules stay poisoned, and good ones clear what stood at the destination (R174). -/
def movePages (src dst : Nat) (s : State) : State :=
  let bad := s.tiers.poison.filter fun l => decide (src / 64 ≤ l) && decide (l < src / 64 + 1024)
  let s := store dst (rdMem s src 65536) s
  forEach bad (fun l s => poisonAt (dst + (l * 64 - src)) s) s

/-! ### Moves (R160, R161) -/

/-- A move started towards a place that has been taken for it. -/
def startMove (page : Nat) (dest : Place) (req : Option Nat) (s : State) : State :=
  let m : Move := ⟨s.tiers.nextId, page, dest, req, []⟩
  setTiers { s.tiers with moves := s.tiers.moves ++ [m], nextId := s.tiers.nextId + 1 } s

/-- The bytes of a place can be read and written now. -/
def placeReachable (p : Place) (s : State) : Bool :=
  match p with
  | .t0 d _ _ => dieReady d s
  | .t1 d f => (List.range 4).all fun k => t1Reachable d (f * 65536 + 4096 * k) s
  | .t2 _ => true

/-- All pages of a request are in place: its token increments (R160, R474). -/
def requestDone (r : Request) (s : State) : State :=
  let s := setTiers { s.tiers with requests := s.tiers.requests.filter fun x => x.id != r.id } s
  if r.dropped then s else tokenAdd r.stream r.die r.token 1 s

/-- One page of a request is in place. -/
def pageInPlace (id : Nat) (s : State) : State :=
  let s := setTiers { s.tiers with requests := listUpdate s.tiers.requests (fun r => r.id == id) fun r => { r with left := r.left - 1 } } s
  match s.tiers.requests.find? fun r => r.id == id with
  | some r => if r.left = 0 then requestDone r s else s
  | none => s

/-- The pages that a request names. -/
def reqPages (l : BitVec 512) : List Nat := (List.range (MR.pages l)).map (· + MR.obj l / 65536)

/-- The T0 frame of page `i` of a request: its first line in the core store. -/
def t0Place (j : Job) (l : BitVec 512) (i : Nat) : Place :=
  .t0 (MR.die l) (MR.core l + i) (((dieRec j (MR.die l)).map fun r => r.base).getD 0 + MR.line l)

/-- Another page holds, or is moving to, lines of a T0 frame. -/
def t0Taken (page : Nat) (p : Place) (s : State) : Bool :=
  let hits (q : Nat) (x : Place) : Bool :=
    match p, x with
    | .t0 d c l, .t0 d' c' l' => q != page && d == d' && c == c' && decide (l < l' + 1024) && decide (l' < l + 1024)
    | _, _ => false
  (s.tiers.pages.any fun e => hits e.1 e.2) || s.tiers.moves.any fun m => hits m.page m.dest

/-- A page is already at a request's target. -/
def atTarget (j : Job) (l : BitVec 512) (i page : Nat) (s : State) : Bool :=
  match mapGet s.tiers.pages page, MR.target l with
  | some p, 0 => p == t0Place j l i
  | some (.t1 d _), 1 => d == MR.die l
  | some (.t2 _), 2 => true
  | _, _ => false

/-- A request is served: it is well formed, its pages are SPILLABLE pages of the stream's job, and the target has room (R160). -/
def requestOk (j : Job) (job : Nat) (l : BitVec 512) (s : State) : Bool :=
  let ps := reqPages l
  let need := (ps.zipIdx.filter fun (p, i) => !(atTarget j l i p s)).length
  MR.zeros l && MR.obj l % 65536 == 0 && decide (1 ≤ MR.pages l) && decide (MR.pages l ≤ 256) && decide (MR.target l < 3)
    && ps.all (fun p => slotOf (p * 65536) == job && (match objectOf (p * 65536) s with
        | some o => o.policy == 3 && !o.weight
        | none => false) && (mapGet s.tiers.pages p).isSome)
    && (match MR.target l with
      | 0 => decide (MR.core l + MR.pages l ≤ 48)
          && decide (MR.line l + 1024 ≤ ((dieRec j (MR.die l)).map resLines).getD 0)
          && ps.zipIdx.all fun (p, i) => !(t0Taken p (t0Place j l i) s)
      | 1 => decide (need ≤ freeFrames (MR.die l) s)
      | _ => decide (need ≤ freePool s))

/-- One page of a served request: its place is taken and its move starts; a page that is there already counts at once. -/
def movePage (j : Job) (job : Nat) (l : BitVec 512) (id i page : Nat) (s : State) : State :=
  if atTarget j l i page s then pageInPlace id s
  else match MR.target l with
    | 0 => startMove page (t0Place j l i) (some id) s
    | 1 => match takeFrame (MR.die l) job s with
      | some (f, s) => startMove page (.t1 (MR.die l) f) (some id) s
      | none => s
    | _ => match takePool job s with
      | some (t, s) => startMove page (.t2 t) (some id) s
      | none => s

/-- A request refused: MEM event 0x0006, and its token increments (R160). -/
def refuseMove (d st n : Nat) (l : BitVec 512) (lost : Bool) (s : State) : State :=
  let s := memEvent 0x0006 Status.done (d + st * 256 + n % 256 * 65536) s
  if lost then s else tokenAdd st d (MR.token l) 1 s

/-- The oldest waiting request of a die served or refused, where no earlier one of the die runs and none of its pages is moving. -/
def serveOne (d : Nat) (s : State) : Option State :=
  match s.tiers.waiting.find? fun w => w.1 == d with
  | none => none
  | some w =>
    let (_, st, l, n, lost) := w
    if s.tiers.requests.any (fun r => r.die == d) || (reqPages l).any (fun p => (moveOf p s).isSome) then none
    else
      let s := setTiers { s.tiers with waiting := s.tiers.waiting.erase w } s
      match streamOf st s with
      | none => some s
      | some x =>
        match jobOf x.job s with
        | none => some s
        | some j =>
          if !(requestOk j x.job l s) then some (refuseMove d st n l lost s)
          else
            let id := s.tiers.nextId
            let r : Request := ⟨id, d, st, MR.token l, MR.pages l, lost⟩
            let s := setTiers { s.tiers with requests := s.tiers.requests ++ [r], nextId := id + 1 } s
            some (forEach (reqPages l).zipIdx (fun (p, i) s => movePage j x.job l id i p s) s)

/-- Waiting requests of a die served as far as they can be. -/
def serveRequests (d : Nat) : Nat → State → State
  | 0, s => s
  | n + 1, s => match serveOne d s with
    | some s' => serveRequests d n s'
    | none => s

/-- A request line lands in the move-request window (R160). -/
def landRequest (d st n : Nat) (l : BitVec 512) (s : State) : State :=
  let s := setTiers { s.tiers with waiting := s.tiers.waiting ++ [(d, st, l, n, false)] } s
  serveRequests d s.tiers.waiting.length s

/-- PAGE_MOVE_DONE: the copy is complete; the map changes, the source is freed, held host writes apply, and completions that waited for them
are posted (R54, R161). `ecc` is what reading the source finds (R172, R173). -/
def moveDone (id : Nat) (ecc : ReadEcc) (s : State) : State :=
  match s.tiers.moves.find? fun m => m.id == id with
  | none => s
  | some m =>
    match mapGet s.tiers.pages m.page with
    | none => setTiers { s.tiers with moves := s.tiers.moves.filter fun x => x.id != id } s
    | some src =>
      if !(placeReachable src s) || !(placeReachable m.dest s) || !(pathOpen (memHome (placeAddr src)) (memHome (placeAddr m.dest)) s) then s
      else
        let s := senseObj (m.page * 65536) 65536 ecc s
        let s := movePages (placeAddr src) (placeAddr m.dest) s
        let s := setTiers { s.tiers with
          pages := mapSet s.tiers.pages m.page m.dest
          moves := s.tiers.moves.filter fun x => x.id != id
          back := s.tiers.back.filter fun p => p != m.page } s
        let s := releasePlace m.page src s
        let s := forEach m.held (fun (a, bs) s => writeObj a bs s) s
        let s := match m.request with
          | some r => pageInPlace r s
          | none => s
        drainDecided ((List.range 4).foldl (fun s d => serveRequests d s.tiers.waiting.length s) s)

/-! ### Migration (R159) -/

/-- LOW_MARK. -/
def lowMark (s : State) : Nat := getF Fld.memMigCfgLowMark 0 s

/-- Pages of an object that are in T1 and stay there. -/
def residentPages (job : Nat) (o : TierObj) (s : State) : Nat :=
  let lo := (job * 2 ^ 43 + o.offset) / 65536
  s.tiers.pages.countP fun (p, pl) => decide (lo ≤ p) && decide (p < lo + ceilDiv o.size 65536) && (moveOf p s).isNone
    && (match pl with
      | .t1 _ _ => true
      | .t2 _ => false
      | .t0 _ _ _ => false)

/-- SPILLABLE pages of a die's T1 that may leave it. -/
def spillable (d : Nat) (s : State) : List Nat :=
  (s.tiers.pages.filter fun (p, pl) =>
    (match pl with
      | .t1 k _ => k == d
      | .t2 _ => false
      | .t0 _ _ _ => false)
    && (moveOf p s).isNone
    && (match objectOf (p * 65536) s with
      | some o => o.policy == 3 && decide (o.minResident < residentPages (slotOf (p * 65536)) o s)
      | none => false)).map fun e => e.1

/-- Sweeps since a page was last read. -/
def unreadOf (p : Nat) (s : State) : Nat := (mapGet s.tiers.unread p).getD 0

/-- The page that has gone longest unread; ties to the lower page. -/
def longestUnread (l : List Nat) (s : State) : Option Nat :=
  l.foldl (fun best p => match best with
    | none => some p
    | some b => if unreadOf b s < unreadOf p s then some p else best) none

/-- Moves from a die's T1 to the pool, until `want` frames more are on their way to be free. -/
def spill (d : Nat) : Nat → State → State
  | 0, s => s
  | n + 1, s =>
    match longestUnread (spillable d s) s with
    | none => s
    | some p =>
      match takePool (slotOf (p * 65536)) s with
      | some (t, s) => spill d n (startMove p (.t2 t) none s)
      | none => s

/-- A page moved to a place that has been taken for it, at once. -/
def pageTo (p : Nat) (src dest : Place) (s : State) : State :=
  let s := movePages (placeAddr src) (placeAddr dest) s
  releasePlace p src (setTiers { s.tiers with pages := mapSet s.tiers.pages p dest } s)

/-- A frame of a die made free by the move of its longest unread SPILLABLE page to the pool (log 75). -/
def freeByMove (d job : Nat) (s : State) : Option (Nat × State) :=
  match longestUnread (spillable d s) s with
  | none => none
  | some p =>
    match mapGet s.tiers.pages p with
    | none => none
    | some src => if !(placeReachable src s) then none
      else (takePool (slotOf (p * 65536)) s).bind fun (t, s) => takeFrame d job (pageTo p src (.t2 t) s)

/-- T1 placement that makes room where no frame is free: SPILLABLE pages beyond MIN_RESIDENT give way (R70, R156). -/
def placeT1Room (home job : Nat) (s : State) : Option (Place × State) :=
  (placeT1 home job s).orElse fun _ =>
    (dieOrder home).findSome? fun d => (freeByMove d job s).map fun (f, s) => (.t1 d f, s)

/-- A frame of one die, made free where none is. -/
def takeFrameRoom (d job : Nat) (s : State) : Option (Nat × State) :=
  (takeFrame d job s).orElse fun _ => freeByMove d job s

/-- Frames of a die's T1 whose pages are moving away. -/
def leaving (d : Nat) (s : State) : Nat :=
  s.tiers.moves.countP fun m => match mapGet s.tiers.pages m.page with
    | some (.t1 k _) => k == d
    | _ => false

/-- A page queued for T1 moves back where its home die has more than twice LOW_MARK free frames. -/
def bringBack (p : Nat) (s : State) : State :=
  match objectOf (p * 65536) s with
  | none => setTiers { s.tiers with back := s.tiers.back.filter fun x => x != p } s
  | some o =>
    if (moveOf p s).isSome || decide (freeFrames o.homeDie s ≤ 2 * lowMark s) then s
    else match takeFrame o.homeDie (slotOf (p * 65536)) s with
      | some (f, s) => startMove p (.t1 o.homeDie f) none s
      | none => s

/-- MIGRATION_SWEEP: every 10 ms. -/
def sweep (s : State) : State :=
  let s := setTiers { s.tiers with
    lastSweep := s.clock
    unread := s.tiers.pages.map fun (p, _) => (p, unreadOf p s + 1) } s
  let s := forEach s.tiers.back bringBack s
  forEach (List.range 4) (fun d s =>
    let n := freeFrames d s
    if lowMark s ≤ n then s else spill d (2 * lowMark s - n - leaving d s) s) s

/-! ### Windows (R165 to R167, R171) -/

/-- SEGMENT_LANDED: the segment's pages are in the window's next frames, and READY_TOKEN increments (R166). -/
def segmentLanded (id : Nat) (s : State) : State :=
  match s.tiers.windows.find? fun w => w.id == id with
  | none => s
  | some w =>
    match w.copying, winObj w s with
    | some i, some o =>
      let seg := winSeg w i
      let s := forEach (segPages w i s).zipIdx (fun (page, k) s =>
        let f := w.frames.getD ((w.pos + k) % max 1 w.frames.length) 0
        match mapGet s.tiers.copies page with
        | some t =>
          let s := movePages (t2Addr t) (t1Addr o.homeDie (f * 65536)) s
          setTiers { s.tiers with pages := mapSet s.tiers.pages page (.t1 o.homeDie f) } s
        | none => s) s
      let s := adjWindow id (fun v => { v with
        copying := none, landed := v.landed ++ [i], pos := (v.pos + seg.2.1) % max 1 v.frames.length, fails := 0, waitFrom := none }) s
      let s := tokenAdd w.stream seg.2.2.2.2 seg.2.2.2.1 1 s
      startCopies (watchWindows w.stream s)
    | _, _ => s

/-- The die of a window's object runs in exact mode. -/
def winExact (w : Window) (s : State) : Bool := ((winObj w s).map fun o => (dieOf o.homeDie s).exact).getD false

/-- VAR_TOKEN on every die of the stream, at most once per chunk (R171). -/
def signalVariant (w : Window) (s : State) : State :=
  if w.signalled ∨ w.varToken = 255 then s
  else
    let s := adjWindow w.id (fun v => { v with signalled := true }) s
    forEach (((streamOf w.stream s).map diesOf).getD []) (fun d s => tokenAdd w.stream d w.varToken 1 s) s

/-- VARIANT_SIGNAL: the missing segment has been waited for VAR_WAIT_US (R171). -/
def variantDue (w : Window) (s : State) : Bool :=
  !w.signalled && w.varToken != 255 && !(winExact w s) && ((streamOf w.stream s).bind startedChunk).isSome
    && (match w.waitFrom with
      | some t => decide (t + w.varWaitUs * 1000 ≤ s.clock)
      | none => false)

/-- A segment read has failed for good (R167). -/
def segmentFailed (w : Window) (i : Nat) (s : State) : State :=
  let sq := ((streamOf w.stream s).map fun x => x.sq).getD 0
  let s := hostError Fld.hostErrStatusDma 0x0007 Status.hostFault sq s
  let s := memEvent 0x0007 Status.hostFault (i % max 1 w.segs.length + w.stream * 65536) s
  if w.varToken ≠ 255 then
    let s := adjWindow w.id (fun v => { v with fails := 0 }) s
    if winExact w s then s else signalVariant w s
  else
    let s := adjWindow w.id (fun v => { v with copying := none, stopped := true }) s
    if ((streamOf w.stream s).bind startedChunk).isSome then endAtBoundary w.stream Status.hostFault 0x0001 0 s
    else
      let s := forEach w.landed (unplaceSeg { w with landed := [] }) s
      retireWindow w (adjWindow w.id (fun v => { v with lap := 0, next := 0, landed := [], pos := 0, stopped := false }) s)

/-- SEGMENT_READ_FAILED: the first two failures are retried (R167). -/
def segmentReadFailed (id : Nat) (s : State) : State :=
  match s.tiers.windows.find? fun w => w.id == id with
  | none => s
  | some w =>
    match w.copying with
    | none => s
    | some i =>
      if w.fails < 2 then adjWindow id (fun v => { v with fails := v.fails + 1 }) s
      else startCopies (segmentFailed w i s)

/-- A thread reads from the T2 pool. -/
def readsT2 (t : Thread) (s : State) : Bool :=
  (FD.rowAddrs t.desc).any fun a => (linesOf a (FD.len t.desc)).any fun l => match resolve (l * 64) s with
    | some m => decide (2 ^ 40 ≤ m) && decide (m < 2 ^ 50)
    | none => false

/-- A thread's T2 read fails: the stream's variant is signalled where it has one, and the chunk ends otherwise (R66, R167). -/
def threadFailed (d : Nat) (t : Thread) (s : State) : State :=
  let sq := ((streamOf t.stream s).map fun x => x.sq).getD 0
  let s := hostError Fld.hostErrStatusDma 0x0007 Status.hostFault sq (dropThread d t.id s)
  if t.dropped then s
  else if t.dummy then dummyFail t.stream s
  else match s.tiers.windows.find? fun w => w.stream == t.stream && w.varToken != 255 with
    | some w => if winExact w s then s else signalVariant w s
    | none => endAtBoundary t.stream Status.hostFault 0x0001 0 s

/-- Every T2 read in flight fails, at a LINK reset (R66, R167, R469). A page move from the pool reads its page again. -/
def failT2Reads (s : State) : State :=
  let s := forEach (s.tiers.windows.filter fun w => w.copying.isSome) (fun w s =>
    match w.copying with
    | some i => segmentFailed w i s
    | none => s) s
  forEach (List.range 4) (fun d s => forEach ((dieOf d s).threads.filter fun t => readsT2 t s) (threadFailed d) s) s

/-! ### Scrub and recalibration (R150, R172, R174) -/

/-- The pod of a granule of a die is trained, on, and not in self-refresh. -/
def scrubRuns (d a : Nat) (s : State) : Bool :=
  getF Fld.memEccCfgScrubHours 0 s != 0 && decide (a < framesPerDie * 65536) && t1Reachable d a s

/-- What the scrub finds in a granule. -/
def scrub (d g : Nat) (ecc : ReadEcc) (s : State) : State :=
  match ecc with
  | .clean => s
  | .corrected _ => reportCe (t1Addr d (g * 256)) s
  | .uncorrectable _ => reportUe (t1Addr d (g * 256)) 0x0003 s

/-! ### Commands -/

/-- MIGRATION_SWEEP: the engine runs on the management cores (R159). -/
def execMigrationSweep (s : State) : Host.Outcome State Fault Refusal :=
  .next (onlyIf (running s && domOn Dom.mgmt s && decide (s.tiers.lastSweep + 10000000 ≤ s.clock)) sweep s)

/-- PATROL_SCRUB of one granule of a die (R172, R174). -/
def execPatrolScrub (die : Fin 4) (granule : Nat) (ecc : ReadEcc) (s : State) : Host.Outcome State Fault Refusal :=
  .next (onlyIf (running s && scrubRuns die.val (granule * 256) s) (scrub die.val granule ecc) s)

/-- RECALIBRATION: accesses to each channel of the pod wait for at most 1 µs; nothing else changes (R150). The model has no access
times. -/
def execRecalibration (_pod : Fin 16) (s : State) : Host.Outcome State Fault Refusal := .next s

end Sys2Proof.Machine
end

