-- ==== Sys2Proof/Machine/Attach.lean ====
section
/-!
DEFINITION. The LINK reset of the host interface (R66, R467, R469, R477); domains that a transition takes
from a die (R369); and the times that the limiter adds up: idle dies, barrier waits and held dies (R388, R399).
-/
namespace Sys2Proof.Machine
open Sys2Proof

/-- A PWR event (R382) and a LIM event (R404). -/
def pwrEvent (detail aux : Nat) (s : State) : State := postEvent 11 detail Status.done aux s
def limEvent (detail aux : Nat) (s : State) : State := postEvent 12 detail Status.done aux s

def setPower (x : PowerUnit) (s : State) : State := { s with power := x }
def setLim (x : Limiter) (s : State) : State := { s with lim := x }

/-! ### Dies that a transition takes domains from (R369) -/

/-- Domains of a compute die, its MEM rail among them. -/
def dieDomains (n : Nat) : List Nat := (List.range 10).map (fun k => 21 + 10 * n + k) ++ [Dom.mem n]

/-- The running transition takes a domain of the die out of on: no trick starts there. -/
def dieLeaving (n : Nat) (s : State) : Bool :=
  match s.power.trans with
  | none => false
  | some t =>
    (dieDomains n).any fun d =>
      (t.goals.any fun g => g.1 == d && g.2 != .on && domOn d s) || t.moving.any fun m => m.1 == d && m.2.1 != .on

/-! ### Times that the limiter adds up -/

def setDieLim (n : Nat) (x : DieLim) (s : State) : State := setLim { s.lim with dies := s.lim.dies.set n x } s
def adjDieLim (n : Nat) (f : DieLim → DieLim) (s : State) : State := setDieLim n (f (dieLim n s)) s

/-- Issue slots of a die in sixteenths (R394). -/
def slotsOf (n : Nat) (s : State) : Nat := bitsAt (getF Fld.limStatusSlotsM1 0 s) (4 * n) 4 + 1
def setSlots (n k : Nat) (s : State) : State :=
  setF Fld.limStatusSlotsM1 0 (putBits (getF Fld.limStatusSlotsM1 0 s) (4 * n) 4 (k - 1)) s

/-- Nanoseconds that a die has been throttled since they were last added, with their reason: stretching counts as DROOP (R403). -/
def throttledNs (n : Nat) (s : State) : Option (Nat × Nat) :=
  let x := dieLim n s
  if x.stretchFrom.isSome then some (2, s.clock - x.thrFrom)
  else if decide (x.op < x.bid) || decide (slotsOf n s < 16) then some (x.reason, s.clock - x.thrFrom)
  else none

/-- Throttled time added up to now: to be done before anything that it depends on changes (R403). -/
def accrue (n : Nat) (s : State) : State :=
  let s' := match throttledNs n s with
    | some (r, ns) =>
      let k := 8 * n + r
      setLim { s.lim with thr := mapSet s.lim.thr k ((mapGet s.lim.thr k).getD 0 + ns) } s
    | none => s
  adjDieLim n (fun x => { x with thrFrom := s.clock }) s'

/-- A die back at OP1 with every slot and no ceiling; samples at 112 °C go on counting. -/
def restDie (n : Nat) (s : State) : State := setSlots n 16 (adjDieLim n (fun x => { DieLim.reset with hot := x.hot }) (accrue n s))

/-- Idle time of a die's Dealer, opened or closed at this clock (R388). -/
def accountIdle (n : Nat) (s : State) : State :=
  let x := dieLim n s
  match (dieOf n s).running, x.idleFrom with
  | none, none => setDieLim n { x with idleFrom := some s.clock } s
  | some _, some t => setDieLim n { x with idleFrom := none, idleNs := x.idleNs + (s.clock - t) } s
  | _, _ => s

/-- An open interval closed into its total, or opened, by whether it holds now. -/
def accountKey (holds : Bool) (k clock : Nat) (p : SMap Nat × SMap Nat) : SMap Nat × SMap Nat :=
  match mapGet p.1 k with
  | some t => if holds then p else (mapErase p.1 k, mapSet p.2 k ((mapGet p.2 k).getD 0 + (clock - t)))
  | none => if holds then (mapSet p.1 k clock, p.2) else p

/-- Streams that use several dies. -/
def gangStreams (s : State) : List (Nat × Stream) := s.streams.filter fun x => decide (2 ≤ (diesOf x.2).length)

/-- Time held, and time waited at barriers, by each die of each stream that uses several (R399). -/
def accountGangs (s : State) : State :=
  let keys := (gangStreams s).flatMap fun (st, x) => (diesOf x).map fun d => (st, x, d)
  let runs (st d : Nat) : Bool := (dieOf d s).running == some (st, .chunk)
  let held := keys.foldl (fun p (st, _, d) => accountKey (runs st d) (4 * st + d) s.clock p) (s.lim.heldFrom, s.lim.held)
  let wait := keys.foldl (fun p (st, x, d) =>
    accountKey (runs st d && (ctxOf x d).atBarrier) (4 * st + d) s.clock p) (s.lim.arrived, s.lim.wait)
  setLim { s.lim with heldFrom := held.1, held := held.2, arrived := wait.1, wait := wait.2 } s

/-- Every running interval brought up to date with what runs now. -/
def account (s : State) : State := accountGangs (forEach (List.range 4) accountIdle s)

/-! ### LINK reset -/

/-- A reset's event entry, logged at once and owed to CQ0 (R477): kind 1 LINK, 2 JOB. -/
def resetEvent (kind job : Nat) (s : State) : State :=
  let e := eventEntry 11 0x0006 Status.done (getF Fld.pwrResetCauseLast 0 s + kind * 2 ^ 8 + job * 2 ^ 16) s
  let s := logEvent e s
  if ringState 1 0 s = 1 then
    let (s', lost) := eventOnCq0 e s
    if lost then setCqLost 0 s' else s'
  else { s with host := { s.host with owed := s.host.owed ++ [e] } }

/-- The rings of the entries that stand on no ring of the host yet: those entries are lost (R66). -/
def unpostedEntries (s : State) : List Nat := s.host.hold.map (fun p => p.cq) ++ s.host.cqs.flatMap fun c => c.2.unsent.map fun _ => c.1

/-- The host interface after a LINK reset: rings, counts, push buffer, MSI-X state and registers (R66, Table RST-2). -/
def dropHost (s : State) : State :=
  let lost := unpostedEntries s
  let push := (s.host.push.map fun m => { m with unsent := m.unsent - m.unread, unread := 0 }).filter fun m => m.unsent != 0
  let consumed := s.host.consumed.map fun c => { c with orphan := true }
  let s := { s with host := { s.host with
    sqs := [], cqs := [], hold := [], push := push, consumed := consumed, pushBase := s.host.nextMsg, seq := 0, msixTable := [], pba := 0 } }
  drainDecided (forEach lost loseCpl (resetRegs .link (fun r => regBlock r == 1) s))

/-- A LINK reset (R66, R469, R477). -/
def linkReset (s : State) : State := resetEvent 1 0 (startCopies (failT2Reads (dropHost s)))

/-- The cause belongs to the attachment in use (R467). -/
def causeApplies (c : LinkCause) (s : State) : Bool :=
  match c with
  | .usbReset => usbAttached s
  | .hotReset => !(usbAttached s)
  | .functionReset => !(usbAttached s)
  | .perstAsserted => !(usbAttached s)

/-- PERST_N goes low. -/
def assertPerst (c : LinkCause) (s : State) : State :=
  match c with
  | .perstAsserted => setPower { s.power with perst := true } s
  | _ => s

/-- The attachment domain selected by R31. -/
def attachDomain (s : State) : Nat := if usbAttached s then Dom.usb else Dom.pcie

end Sys2Proof.Machine
end

