-- ==== Sys2Proof/Machine/Hold.lean ====
section
/-!
DEFINITION. Lines that die-link sends bring to the hub, lines that the hub holds for chunks of SAFETY streams, policy commits and
their plausibility, and the end and the completion of a chunk (R143, R146, R288, R320, R321, R407, R408, R413 to R418; R49 to R54).
-/
namespace Sys2Proof.Machine
open Sys2Proof

/-! ### Items -/

/-- An item of a stream by its descriptor's number. -/
def itemOf (x : Stream) (id : Nat) : Option Item := x.items.find? fun i => i.id == id

/-- An item changed, by its number; and removed. -/
def adjItem (st id : Nat) (f : Item → Item) (s : State) : State :=
  adjStream st (fun x => { x with items := listUpdate x.items (fun i => i.id == id) f }) s
def dropItem (st id : Nat) (s : State) : State :=
  adjStream st (fun x => { x with items := x.items.filter fun i => i.id != id }) s

/-- The items of a stream ahead of its first queued swap: what stands behind it starts from the new state (R84). -/
def beforeSwap (l : List Item) : List Item := l.takeWhile fun i => i.kind != .swap && i.kind != .forced

/-- The chunk of a stream that runs, or has ended and not completed: what the stream sends belongs to it. -/
def liveChunk (x : Stream) : Option Item := x.items.find? fun i => isChunk i && (i.phase == .started || i.phase == .ended)

/-- A frame of a SAFETY stream is withheld: a failure mark or a late fault (R417). -/
def withheld (i : Item) : Bool := i.failed || i.late

/-! ### Lines landing on the hub (R146, R264, R288, R320) -/

/-- Hub-store offsets: the planner's commit window, the CLE window and its commit line. -/
def mapWindow : Nat := 0xBE0000
def cleWindow : Nat := 0xC88000
def cleCommitLine : Nat := 0xC88400

/-- The fusion post window, the planner commit window and the CLE commit line (R417). -/
def isPostLine (off : Nat) : Bool := decide (0x590000 ≤ off) && decide (off < 0x5A0000)
def isMapCommit (d st off : Nat) (s : State) : Bool := decide (mapWindow ≤ off) && decide (off < mapWindow + 0x10000) && isWriter d st s
def isCleCommit (off : Nat) : Bool := off == cleCommitLine

/-- A commit line holds 0x02 in byte 0 and 0 elsewhere (R320). -/
def commitLineOk (bs : List Byte) : Bool := rdLE bs 0 64 == 2

/-- The number of the chunk that a stream's sends belong to; one that names no chunk where none runs. -/
def liveId (st : Nat) (s : State) : Nat := (((streamOf st s).bind liveChunk).map fun i => i.id).getD s.host.nextId

/-- A line lands in the control, safety and time store: four entries of the CLE window, the commit line, or a discarded send (R320). -/
def cleLine (d st off : Nat) (bs : List Byte) (s : State) : State :=
  if !(domOn Dom.cle s) then s
  else if isCleCommit off then
    if commitLineOk bs then queueCommit (.policy d st (liveId st s)) s else discardSetpoint 0xFF 0 st s
  else if cleWindow ≤ off ∧ off < cleCommitLine ∧ off % 16 = 0 then
    forEach (List.range 4) (fun k s =>
      if off + 16 * k < cleCommitLine then policyEntry st ((off - cleWindow) / 16 + k) ((bs.drop (16 * k)).take 16) s
      else discardSetpoint 0xFF 0 st s) s
  else discardSetpoint 0xFF 0 st s

/-- Part of the management store that takes no send: what lands there is discarded (R146). -/
def isLostLine (off : Nat) : Bool := decide (0xD00000 ≤ off) && !(decide (moveWindow ≤ off) && decide (off < 0x1000000))

/-- A discarded send reported (R146). -/
def reportLost (d st : Nat) (lost : Bool) (s : State) : State := if lost then memEvent 0x0006 Status.done (d + st * 256) s else s

/-- A line of a send lands at a hub-store offset: each area takes what the chapter of its engine allows (R146). -/
def landHubLine (d st off : Nat) (bs : List Byte) (s : State) : State :=
  if off < 0x600000 then fusSend d st off bs s
  else if off < 0xC00000 then planSend d st (off - 0x600000) bs s
  else if off < 0xD00000 then cleLine d st off bs s
  else if moveWindow ≤ off ∧ off < 0x1000000 then landRequest d st ((off - moveWindow) / 64) (BitVec.ofNat 512 (leNat bs)) s
  else s

/-- A withheld line: a post increments its DONE_TOKEN as a refused one does; a CLE commit leaves the halves as a refused one does (R417,
R321). -/
def discardHeld (d st off : Nat) (bs : List Byte) (s : State) : State :=
  if isPostLine off then postToken d st (BitVec.ofNat 512 (leNat bs)) s
  else if isCleCommit off then forEach (commitChans (.policy d st 0) s) refreshChan s
  else s

/-- The hub holds this line while the chunk runs: it belongs to a chunk of a SAFETY stream (R417). -/
def holdsLine (d st off : Nat) (s : State) : Bool :=
  (isPostLine off || isMapCommit d st off s || isCleCommit off)
    && ((streamOf st s).map fun x => x.safety && (liveChunk x).isSome).getD false

/-- Lines held for a die (R417). -/
def heldOn (d : Nat) (s : State) : Nat := s.safe.held.countP fun h => h.die == d

/-- A line lands, or is held until its chunk ends, or finds the hold of 256 lines full. A line of a chunk that has ended shares the
decision of that end. -/
def takeHubLine (d st off : Nat) (bs : List Byte) (s : State) : Option State :=
  if !(holdsLine d st off s) then some (landHubLine d st off bs s)
  else match (streamOf st s).bind liveChunk with
    | none => none
    | some i =>
      if i.phase == .ended then some (if withheld i then discardHeld d st off bs s else landHubLine d st off bs s)
      else if 256 ≤ heldOn d s then none
      else some (setSafe { s.safe with held := s.safe.held ++ [⟨d, st, i.id, off, bs⟩] } s)

/-- Lines taken in order, until one has to wait: the state, and how many were taken. -/
def takeHubLines (d st : Nat) : Nat → List (List Byte) → State → State × Nat
  | _, [], s => (s, 0)
  | off, bs :: rest, s =>
    match takeHubLine d st off bs s with
    | none => (s, 0)
    | some s => let (s, n) := takeHubLines d st (off + 64) rest s; (s, n + 1)

/-- The held lines of a chunk released in landing order, or discarded (R417). -/
def releaseHeld (st : Nat) (i : Item) (s : State) : State :=
  let mine := s.safe.held.filter fun h => h.stream == st && h.item == i.id
  let s := setSafe { s.safe with held := s.safe.held.filter fun h => !(h.stream == st && h.item == i.id) } s
  forEach mine (fun h s =>
    if withheld i then discardHeld h.die h.stream h.addr h.bytes s else landHubLine h.die h.stream h.addr h.bytes s) s

/-- DIE_LINK_ARRIVAL: a transfer reaches its destination, after every earlier one of its route (R19, R143). Sends to the hub of before a
JOB reset are discarded (R474). -/
def arrive (id : Nat) (s : State) : State :=
  match s.sends.find? fun x => x.id == id with
  | none => s
  | some x =>
    let gone (s : State) : State := { s with sends := s.sends.filter fun y => y.id != id }
    if !(firstOnRoute x s) || !(pathOpen x.srcDie x.dst s) then s
    else if x.dst < 4 then landOnDie x (gone s)
    else if x.dropped then gone s
    else
      let (s, n) := takeHubLines x.srcDie x.stream x.addr x.lines s
      let s := reportLost x.srcDie x.stream ((List.range n).any fun i => isLostLine (x.addr + 64 * i)) s
      if x.lines.length ≤ n then gone s
      else { s with sends := listUpdate s.sends (fun y => y.id == id) fun y => { y with addr := y.addr + 64 * n, lines := y.lines.drop n } }

/-! ### Plausibility (R414, R415) -/

/-- The tolerance of the reduced model: widened when the chunk finished a layer on fewer planes, skipped a key or used a variant. For a
WIDEN_LOG2 above 8 the spec states no width: it is open (log 83). -/
def modelTol (bs : List Byte) (f : Facts) (s : State) : Nat :=
  let wide := f.degradedLayers != 0 || f.skipCount != 0 || f.variant
  let n := rdLE bs 28 1 % 16
  rdLE bs 24 4 * (if wide then (if n ≤ 8 then 2 ^ n else Config.free 34 s.freeCtr) else 1)

/-- y: MODEL_FB of the snapshot latched at the trigger. Without a snapshot, and for the reserved code, it is open (log 48). -/
def modelFb (bs : List Byte) (c : Nat) (latched : List Int) (s : State) : Int :=
  let k := rdLE bs 20 1 % 4
  if k < 3 then (latched[3 * c + k]?).getD (sext 32 (Config.free 12 s.freeCtr)) else sext 32 (Config.free 12 s.freeCtr)

/-- The first check that a channel's new setpoint fails: DETAIL 0x0702 range, 0x0703 rate, 0x0704 model. -/
def plausFault (c : Nat) (f : Facts) (latched : List Int) (s : State) : Option Nat :=
  let bs := rdMem s (winAddr (0xD8000 + 32 * c)) 32
  let i (off : Nat) : Int := sext 32 (rdLE bs off 4)
  let k (off : Nat) : Int := sext 16 (rdLE bs off 2)
  let en := rdLE bs 21 1
  let x := (chanOf c s).spNew
  let r := (chanOf c s).sp
  let model := i 12 + rneDiv (k 16 * r) (2 ^ 14) + rneDiv (k 18 * modelFb bs c latched s) (2 ^ 14)
  if bitsAt en 0 1 = 1 ∧ (x < i 0 ∨ i 4 < x) then some 0x0702
  else if bitsAt en 1 1 = 1 ∧ rdLE bs 8 4 < (x - r).natAbs then some 0x0703
  else if bitsAt en 2 1 = 1 ∧ modelTol bs f s < (x - model).natAbs then some 0x0704
  else none

/-- The first failing channel of a policy commit, in ascending order. -/
def commitFaultOf (k : CommitKind) (st item : Nat) (s : State) : Option (Nat × Nat) :=
  let i := (streamOf st s).bind fun x => itemOf x item
  let f := (i.map fun i => i.facts).getD (plainFacts 0 0 0)
  let latched := (i.map fun i => i.latched).getD []
  (commitChans k s).findSome? fun c => (plausFault c f latched s).map fun det => (c, det)

/-- A refused policy commit: the written halves are refreshed and the chunk completes as CHECK_MISMATCH (R321, R415, R418). -/
def refusePolicy (k : CommitKind) (st item c det : Nat) (s : State) : State :=
  let s := forEach (commitChans k s) refreshChan s
  let s := cleEvent 0x0003 st (incF Fld.cleStatsRejected 0 s)
  let ended := (((streamOf st s).bind fun x => itemOf x item).map fun i => i.phase == .ended).getD false
  let s := adjItem st item (fun i => { i with facts := addStatus i.facts Status.checkMismatch det c }) s
  match stageOf st s with
  | some g => if ended then markRing g (countFault g 1 s) else s
  | none => s

/-- A commit decided (R321): the policy's after its plausibility check; the host's write completes with the new version. -/
def decideCommit (x : Commit) (s : State) : State :=
  let s := dropCommit x.id s
  match x.kind with
  | .policy d st item =>
    match commitFaultOf (.policy d st item) st item s with
    | some (c, det) => refusePolicy (.policy d st item) st item c det s
    | none => exchangeHalves x.kind s
  | .host id =>
    let s := exchangeHalves x.kind s
    match consumedById id s with
    | some c => completeOrWait c (plainFacts Status.done 0 (getF Fld.cleStatusSpVersion 0 s)) s
    | none => s
  | .planner => exchangeHalves x.kind s
  | .table => exchangeHalves x.kind s

/-- A commit of a number, if it is the one decided next. -/
def setpointCommit (id : Nat) (s : State) : State :=
  match nextCommitOf s with
  | some x => if x.id = id then decideCommit x s else s
  | none => s

/-! ### The end of a chunk -/

/-- Every die of the stream has executed the chunk's end. -/
def chunkDone (x : Stream) (i : Item) : Bool := isChunk i && i.phase == .started && (diesOf x).all fun d => i.doneDies.contains d

/-- The stage window of a released chunk: the firing of its trigger, or the later of its release and the end of the previous chunk
(Table SAF-1). -/
def openFrame (st : Nat) (x : Stream) (i : Item) (s : State) : State :=
  match stageOf st s with
  | some g => openStage g (if i.kind == .triggered then i.releasedAt else max i.releasedAt x.lastEnd) s
  | none => s

/-- The next released chunk of a stream. -/
def nextReleased (x : Stream) : Option Item := x.items.find? fun i => isChunk i && i.phase == .released

/-- A chunk's frame ends: early faults are counted, held lines are released or discarded, and the next released chunk's window
opens (R407, R408, R417, R418). -/
def endFrame (st id : Nat) (s : State) : State :=
  let s := adjStream st (fun x => { x with lastEnd := s.clock }) (adjItem st id (fun i => { i with phase := .ended }) s)
  let s := match stageOf st s, (streamOf st s).bind fun x => itemOf x id with
    | some g, some i =>
      let aux := watchdogAux g s
      let (s, early) := endStage g (i.facts.status == Status.checkMismatch) s
      if early then adjItem st id (fun i => { i with facts := addStatus i.facts Status.watchdogStage 0x0601 aux }) s else s
    | _, _ => s
  let s := match (streamOf st s).bind fun x => itemOf x id with
    | some i => releaseHeld st i s
    | none => s
  let s := match streamOf st s with
    | some x => match nextReleased x with
      | some n => openFrame st x n s
      | none => s
    | none => s
  startCopies s

/-- Nothing that the chunk sent is still on its way or waits for its decision (R321, R417). -/
def chunkSettled (st id : Nat) (s : State) : Bool :=
  !(s.sends.any fun x => x.stream == st && x.dst == 4 && !x.dropped)
    && !(s.cle.commits.any fun k => match k.kind with
      | .policy _ st' i => st' == st && i == id
      | .host _ => false
      | .planner => false
      | .table => false)

/-- Statuses whose AUX a rule of their own fills: MEMORY_FAULT, CHECK_MISMATCH, WATCHDOG_STAGE and REFUSED_FORMAT. -/
def ownAux (status : Nat) : Bool := [Status.refusedFormat, Status.checkMismatch, Status.watchdogStage, Status.memoryFault].contains status

/-- The facts that a chunk's completion carries: AUX of a triggered chunk is the count of firings that found the stream empty, where its
status has no AUX of its own (R76). One that was never released carries the count so far. -/
def chunkFacts (x : Stream) (i : Item) : Facts :=
  if i.kind == .triggered && !(ownAux i.facts.status) then
    { i.facts with aux := if i.phase = .waiting then x.misses else i.missed }
  else i.facts

/-- A completion of a stream's descriptor: those of CONTROL streams do not wait for room and may be lost (R58). -/
def completeFor (control : Bool) (c : Consumed) (f : Facts) (s : State) : State :=
  if control && !(outputHeld c.desc s) then complete c f s else completeOrWait c f s

/-- An item of a descriptor, waiting. -/
def newItem (id : Nat) (kind : ItemKind) (input : ReadData) : Item :=
  { id := id, kind := kind, phase := .waiting, releasedAt := 0, missed := 0, facts := plainFacts 0 0 0, ending := false, leaving := false
    doneDies := [], input := input, late := false, failed := false, degraded := [], latched := [] }

/-- The facts of a stream's descriptor that completes with a status and has not run: AUX as for a chunk that waits (R76). -/
def turnedAway (x : Stream) (c : Consumed) (status : Nat) : Facts :=
  let kind := if fld c.desc 0 8 = 0x02 then ItemKind.triggered else ItemKind.chunk
  chunkFacts x { newItem c.id kind (.bytes []) with facts := plainFacts status 0 0 }

/-- An ended chunk completes: its output, whose bytes are open (log 49), lands before the entry (R54); a chunk that ended early, or
whose output failed, makes none. -/
def completeChunk (st id : Nat) (s : State) : State :=
  match streamOf st s with
  | none => s
  | some x =>
    match itemOf x id, consumedById id s with
    | some i, some c =>
      let makes := outLen c.desc != 0 && !i.ending && !i.leaving && i.facts.status != Status.hostFault
      let (bs, s) := if makes then freeBytes 22 (outLen c.desc) s else ([], s)
      let (g, s) := if makes then makeOutput c bs i.facts s else (i.facts, s)
      let f := chunkFacts x { i with facts := g }
      let s := if finalStatus c.desc (now32 s) f.status = Status.checkMismatch then countMismatch s else s
      completeFor (x.cls == 0) c f (dropItem st id s)
    | _, _ => dropItem st id s

/-- Frames of chunks that have ended on every die end, and chunks with nothing on its way complete. -/
def finishStream (st : Nat) (s : State) : State :=
  match streamOf st s with
  | none => s
  | some x =>
    let s := match x.items.find? (chunkDone x) with
      | some i => endFrame st i.id s
      | none => s
    match (streamOf st s).bind fun x => x.items.find? fun i => isChunk i && i.phase == .ended with
    | some i => if chunkSettled st i.id s then completeChunk st i.id s else s
    | none => s

def finishChunks (s : State) : State := forEach (s.streams.map fun p => p.1) finishStream s

end Sys2Proof.Machine
end

