-- ==== Sys2Proof/Machine/Restart.lean ====
section
/-!
DEFINITION. The safe state, the JOB reset, and dummy frames (R118, R173 to R175, R419 to R429, R474 to R476).
-/
namespace Sys2Proof.Machine
open Sys2Proof

/-! ### Names of a job's parts -/

/-- Stream numbers of a job, with the streams. -/
def jobStreams (j : Nat) (s : State) : List (Nat × Stream) := s.streams.filter fun p => p.2.job == j

/-- A stream number belongs to a job. -/
def ofJob (j st : Nat) (s : State) : Bool := ((streamOf st s).map fun x => x.job) == some j

/-- Dies of a job, in order. -/
def jobDies (j : Nat) (s : State) : List Nat := (List.range 4).filter fun d => (jobStreams j s).any fun p => usesDie p.2 d

/-- Stages bound to a job's streams. -/
def jobStages (j : Nat) (s : State) : List Nat := (jobStreams j s).filterMap fun p => stageOf p.1 s

/-- Where a job stands. -/
def phaseOf (j : Nat) (s : State) : Option JobPhase := (jobOf j s).map fun x => x.phase

/-- A bit of a job mask register. -/
def setJobBit (f : Field) (j : Nat) (b : Bool) (s : State) : State := setF f 0 (putBits (getF f 0 s) j 1 b.toNat) s

/-! ### Banks (R83) -/

/-- The physical accumulator banks that a stream has on a die. -/
def physOf (x : Stream) (d : Nat) : List Nat := (mapGet x.phys d).getD []

/-- An accumulator key lies in one of the banks of a die. -/
def keyIn (d : Nat) (banks : List Nat) (k : Nat) : Bool := k / (16 * 32 * 8 * 4 * 48) == d && banks.contains (k / (16 * 32) % 8)

/-- Banks of a die zeroed, with what is recorded of their folds: saturated rows, tolerances, span and convolution descriptors. -/
def zeroBanks (d : Nat) (banks : List Nat) (s : State) : State :=
  adjDie d (fun y => { y with
    bankSpan := y.bankSpan.filter fun e => !(banks.contains e.1)
    bankConv := y.bankConv.filter fun e => !(banks.contains (e.1 % 8)) })
    { s with
      acc := s.acc.filter fun p => !(keyIn d banks p.1)
      accSat := s.accSat.filter fun r => !(keyIn d banks (r * 16))
      accTol := s.accTol.filter fun p => !(keyIn d banks p.1) }

/-- All banks of a stream zeroed (R84, R85, R474). -/
def zeroStream (x : Stream) (s : State) : State := forEach (diesOf x) (fun d s => zeroBanks d (physOf x d) s) s

/-! ### Stopping a job's work (R474 steps 1 to 4, R475) -/

/-- Running tricks of a job are abandoned, and gangs of it hold no die. -/
def stopTricks (j : Nat) (s : State) : State :=
  forEach (List.range 4) (fun d s =>
    let s := match (dieOf d s).running with
      | some (st, k) =>
        if ofJob j st s then
          match k with
          | .chunk => endTrick st d false s
          | .dummy => endTrick st d true s
          | .swap => adjDie d (fun y => { y with running := none, lastStream := some st, lastDummy := false }) s
        else s
      | none => s
    adjDie d (fun y => { y with gang := if (y.gang.map fun st => ofJob j st s).getD false then none else y.gang }) s) s

/-- Fetch threads, sends and move requests of a job lose their increments. -/
def dropIncrements (j : Nat) (s : State) : State :=
  let mine (st : Nat) : Bool := ofJob j st s
  let s := forEach (List.range 4) (fun d s =>
    adjDie d (fun y => { y with threads := listUpdate y.threads (fun t => mine t.stream) fun t => { t with dropped := true } }) s) s
  let s := { s with sends := listUpdate s.sends (fun x => mine x.stream) fun x => { x with dropped := true } }
  let reqs := listUpdate s.tiers.requests (fun r => mine r.stream) fun r => { r with dropped := true }
  let wait := s.tiers.waiting.map fun (d, st, l, n, b) => (d, st, l, n, b || mine st)
  setTiers { s.tiers with requests := reqs, waiting := wait } s

/-- What the hub engines hold for a job: posts not lifted, lines held, policy commits and written halves, a planning cycle. -/
def dropEngineWork (j status : Nat) (s : State) : State :=
  let mine (st : Nat) : Bool := ofJob j st s
  let n := s.fus.posts.countP fun p => mine p.stream
  let s := addF Fld.fusStats2PostRefused 0 n (setFus { s.fus with posts := s.fus.posts.filter fun p => !(mine p.stream) } s)
  let s := setSafe { s.safe with held := s.safe.held.filter fun h => !(mine h.stream) } s
  let s := setCle { s.cle with commits := s.cle.commits.filter fun k => match k.kind with
    | .policy _ st _ => !(mine st)
    | .host _ => true
    | .planner => true
    | .table => true } s
  let s := forEach (List.range 64) (fun c s =>
    let e := chanEntry c s
    if (chanOf c s).written && CH.src e == 0 && mine (CH.stream e) then refreshChan c s else s) s
  match s.plan.cycle with
  | some y => if y.job = j then abortCycle status s else s
  | none => s

/-- The descriptors of a job that have been consumed and not completed: its stream opcodes and its unloads (R67). -/
def jobDescs (j : Nat) (s : State) : List Consumed :=
  s.host.consumed.filter fun c =>
    fld c.desc 24 5 == j && (isStreamOp (fld c.desc 0 8) || fld c.desc 0 8 == Op.jobUnload)
      && !(s.host.decided.any fun p => p.1 == c.id)

/-- The facts gathered for a descriptor's item, with a further status. -/
def itemFacts (c : Consumed) (status : Nat) (s : State) : Facts :=
  let i := (streamOf (fld c.desc 16 8) s).bind fun x => itemOf x c.id
  addStatus ((i.map fun i => i.facts).getD (plainFacts 0 0 0)) status 0 0

/-- A descriptor of a job completes with a status. -/
def endDesc (status : Nat) (c : Consumed) (s : State) : State :=
  let control := isQueueOp (fld c.desc 0 8) && ((streamOf (fld c.desc 16 8) s).map fun x => x.cls == 0).getD false
  completeFor control c (itemFacts c status s) s

/-- Every consumed descriptor of a job completes, in consumption order; their items leave the streams. -/
def abortDescs (j status : Nat) (s : State) : State :=
  let s := forEach (jobDescs j s) (endDesc status) s
  forEach (jobStreams j s) (fun p s => adjStream p.1 (fun x => { x with items := [], retiring := false }) s) s

/-- Steps 1 to 4: the job stands still, and its descriptors complete as ABORTED_JOB_RESTART. -/
def stopJob (j : Nat) (s : State) : State :=
  let s := dropIncrements j (stopTricks j s)
  let s := abortDescs j Status.abortedJobRestart (dropEngineWork j Status.abortedJobRestart s)
  let s := forEach (jobStages j s) dropStage s
  forEach (jobStreams j s) (fun p s => adjStream p.1 (fun x => { x with valid := false }) s) s

/-! ### Rebuilding a job (R474 steps 5 and 6, R175) -/

/-- A stream after a JOB reset: its issue pointers at its entries, its counters at 0, and no fixed trigger. -/
def rebuiltStream (job : Job) (x : Stream) : Stream :=
  { x with
    trigger := none, jumped := false
    ctx := (diesOf x).foldl (fun m d => mapSet m d (freshCtx (entryOf job x d))) []
    dummy := { x.dummy with due := x.safety, owed := x.safety, started := false, ended := false, failed := false, doneDies := [], ctx := [] } }

/-- A window schedule at segment 0 again. -/
def rebuiltWindow (w : Window) (s : State) : State :=
  let s := forEach w.landed (unplaceSeg { w with landed := [] }) s
  retireWindow w (adjWindow w.id (fun v => { v with
    lap := 0, next := 0, landed := [], copying := none, pos := 0, fails := 0, signalled := false, stopped := false, waitFrom := none }) s)

/-- Walkers of a job release every buffer, and the line buffers of its dies are invalid. -/
def rebuiltDie (j d : Nat) (s : State) : State :=
  let y := dieOf d s
  let keep (k : Walker) : Bool := !(ofJob j k.stream s)
  let halves := y.halves.map fun p => (p.1, { p.2 with valid := false })
  let walker := y.walker.filter keep
  setDie d { y with halves := halves, walker := walker, parked := y.parked.filter fun p => keep p.2 } s

/-- A WEIGHT page of a job in T1 that holds a poisoned granule. -/
def poisonedWeights (j : Nat) (s : State) : List Nat :=
  (s.tiers.pages.filter fun (p, pl) =>
    slotOf (p * 65536) == j && ((objectOf (p * 65536) s).map fun o => o.weight).getD false
      && s.tiers.poison.any fun l => decide (placeAddr pl / 64 ≤ l) && decide (l < placeAddr pl / 64 + 1024)).map fun e => e.1

/-- A poisoned WEIGHT page refilled from its T2 copy into a fresh frame; the flag tells that it was. -/
def refillPage (j p : Nat) (s : State) : State × Bool :=
  match mapGet s.tiers.pages p, mapGet s.tiers.copies p with
  | some (.t1 d f), some t =>
    match placeT1 d j s with
    | some (.t1 d' f', s) =>
      let s := movePages (t2Addr t) (t1Addr d' (f' * 65536)) s
      let s := setTiers { s.tiers with pages := mapSet s.tiers.pages p (.t1 d' f') } s
      (leaveFrame d f s, true)
    | _ => (s, false)
  | _, _ => (s, false)

/-- Poisoned WEIGHT pages refilled where they have a copy. -/
def refillPages (j : Nat) (s : State) : State := forEach (poisonedWeights j s) (fun p s => (refillPage j p s).1) s

/-- Steps 5 and 6. -/
def rebuildJob (j : Nat) (s : State) : State :=
  match jobOf j s with
  | none => s
  | some job =>
    let s := forEach (jobStreams j s) (fun p s => setStream p.1 (rebuiltStream job p.2) (zeroStream p.2 s)) s
    let s := forEach (s.tiers.windows.filter fun w => w.job == j) rebuiltWindow s
    let s := forEach (jobDies j s) (rebuiltDie j) s
    startCopies (refillPages j s)

/-- A JOB reset of a job for causes or for JOB_RESTART descriptors (R474, R477). Step 7 follows when its dummy frames have passed. -/
def jobReset (j : Nat) (ids : List Nat) (s : State) : State :=
  let s := rebuildJob j (stopJob j s)
  let s := adjJob j (fun x => { x with phase := .restarting ids }) s
  showFault (setJobBit Fld.safeStatusRestarting j true (setJobBit Fld.safeHeldHeld j false (resetEvent 2 j s)))

/-! ### The safe state (R425 to R428) -/

/-- RESTART_LIMIT; 0 acts as 1. -/
def restartLimit (s : State) : Nat := max 1 (getF Fld.safeCfgRestartLimit 0 s)

/-- Husk for a job in HUSK_JOBS, or for a job with a CONTROL stream, whose cleared bit acts as set and is reported (R427). -/
def safeHusk (j : Nat) (s : State) : State :=
  if bitsAt (getF Fld.safeCfgHuskJobs 0 s) j 1 = 1 then enterHusk 0 s
  else if (jobStreams j s).any fun p => p.2.cls == 0 then enterHusk 0 (clampReport 3 13 s)
  else s

/-- A held job: it stands still and is not rebuilt (R428). -/
def holdJob (j : Nat) (s : State) : State :=
  let s := adjJob j (fun x => { x with phase := .held }) (stopJob j s)
  showFault (safeEvent 0x0003 Status.done j (setJobBit Fld.safeHeldHeld j true s))

/-- A job enters the safe state for a cause of Table SAF-4 (R425, R427, R428). -/
def enterSafe (j code : Nat) (s : State) : State :=
  match jobOf j s with
  | none => s
  | some job =>
    let s := incF Fld.safeCountSafeStates 0 s
    let go (s : State) : State :=
      let s := safeHusk j (safeEvent 0x0001 Status.done (j + code * 256) s)
      let times := (job.safeTimes.filter fun t => decide (s.clock < t + 60000000000)) ++ [s.clock]
      let s := adjJob j (fun x => { x with safeTimes := times }) s
      if restartLimit s < times.length then holdJob j s else jobReset j [] s
    match job.phase with
    | .resident => go s
    | .unloading _ => go s
    | .restarting _ => s
    | .held => s

/-- Causes found in a step acted on, in order. -/
def actOnCauses (s : State) : State := forEach s.causes (fun p s => enterSafe p.1 p.2 s) { s with causes := [] }

/-! ### Dummy frames (R423, R424) -/

/-- The dummy record of a stream. -/
def dummyRec (x : Stream) (s : State) : Option DummyRec := (jobOf x.job s).bind fun j => j.dummies.find? fun r => r.stream == x.index

/-- A dummy frame is done with: the next interval runs from its start. -/
def clearDummy (st : Nat) (owed : Bool) (s : State) : State :=
  adjStream st (fun x => { x with dummy := { x.dummy with
    due := owed, owed := owed, started := false, ended := false, failed := false, doneDies := [], ctx := [] } }) s

/-- The job of a stream restarts. -/
def restartingJob (x : Stream) (s : State) : Bool :=
  match phaseOf x.job s with
  | some (.restarting _) => true
  | _ => false

/-- DUMMY_COMPARE: OUT compared with GOLD, both read by the hub. A dummy frame that fails during a restart is owed again (R423, R427; log
50). -/
def dummyCompare (st : Nat) (ecc : ReadEcc) (s : State) : State :=
  match streamOf st s with
  | none => s
  | some x =>
    if !(x.dummy.ended) then s
    else match dummyRec x s with
      | none => s
      | some r =>
        let base := x.job * 2 ^ 43
        let reads := [(base + r.out, r.outLen), (base + r.gold, r.outLen)]
        let s := touchRanges reads (senseRanges reads ecc s)
        let fault := rangesErr 4 reads s
        let same := readObj (base + r.out) r.outLen s == readObj (base + r.gold) r.outLen s
        if !(x.dummy.failed) && fault.isNone && same then
          let s := match stageOf st s with
            | some g => incF Fld.safeStageStatusDummyPass g s
            | none => s
          clearDummy st false s
        else
          let s := match fault with
            | some e => if x.dummy.failed then s else readFault st true e s
            | none => if x.dummy.failed then s else dummyFail st s
          clearDummy st (restartingJob x s) s

/-- DUMMY_INTERVAL_US of a SAFETY stream in ns. -/
def dummyNs (x : Stream) : Nat := x.dummyUs * 1000

/-- The MEM rails of a die are on, where it holds T1 frames of a job (R372). -/
def memReady (j d : Nat) (s : State) : Bool :=
  domOn (Dom.mem d) s || !(s.tiers.frames.any fun p => p.1 / 2 ^ 18 == d && p.2 == j)

/-- Service of a stream as far as its dummy frames go: its dies and the memory of its job run, and it is not stopped (R424). -/
def inService (x : Stream) (s : State) : Bool :=
  (diesOf x).all (fun d => dieReady d s && memReady x.job d s && !(dieLeaving d s)) && (match phaseOf x.job s with
    | some .resident => true
    | some (.unloading _) => true
    | some (.restarting _) => true
    | _ => false)

/-- The interval of a stream that is not ready does not run; one that becomes ready again after more than its interval owes a dummy
frame (R424). -/
def trackReady (st : Nat) (s : State) : State :=
  match streamOf st s with
  | none => s
  | some x =>
    if !(x.safety) then s
    else match inService x s, x.dummy.pausedAt with
      | true, some t =>
        let away := s.clock - t
        let owe := decide (dummyNs x < away)
        adjStream st (fun x => { x with dummy := { x.dummy with
          pausedAt := none, lastStart := x.dummy.lastStart + away, due := x.dummy.due || owe, owed := x.dummy.owed || owe } }) s
      | false, none => adjStream st (fun x => { x with dummy := { x.dummy with pausedAt := some s.clock } }) s
      | _, _ => s

/-- DUMMY_OVERDUE: a ready stream's dummy frame has not started within the interval (R424, cause 3). -/
def dummyOverdue (st : Nat) (s : State) : State :=
  match streamOf st s with
  | none => s
  | some x =>
    if x.safety && inService x s && !(restartingJob x s) && !(x.dummy.started)
        && decide (x.dummy.lastStart + dummyNs x < s.clock) then raiseCause x.job 3 s
    else s

/-- RESTART_COMPLETE, step 7: every SAFETY stream of the job has passed its dummy frame (R418, R474, R476). -/
def restartComplete (j : Nat) (s : State) : State :=
  match jobOf j s with
  | none => s
  | some job => match job.phase with
    | .restarting ids =>
      if (jobStreams j s).any fun p => p.2.dummy.owed || p.2.dummy.started then s
      else
        let s := forEach (jobStreams j s) (fun p s => adjStream p.1 (fun x => { x with valid := true }) s) s
        let s := adjJob j (fun x => { x with phase := .resident }) s
        let s := forEach (jobStages j s) (fun g s => setF Fld.safeStageStatusRing g 0 s) s
        let bad := poisonedWeights j s
        let s := setTiers { s.tiers with bad := s.tiers.bad ++ bad.filter fun p => !(s.tiers.bad.contains p) } s
        let s := safeEvent 0x0002 Status.done j (setJobBit Fld.safeStatusRestarting j false s)
        let s := forEach ids (fun id s => match consumedById id s with
          | some c => completeOrWait c (plainFacts Status.done 0 0) s
          | none => s) s
        showFault s
    | .resident => s
    | .unloading _ => s
    | .held => s

end Sys2Proof.Machine
end

