-- ==== Sys2Proof/Machine/Guarantee.lean ====
section
/-!
DEFINITION. The CONTROL guarantee, the trick budget and the dummy guard (R26, R79 to R82).
-/
namespace Sys2Proof.Machine
open Sys2Proof

/-! ### The CONTROL guarantee (R79 to R82) -/

/-- T in ns of a die with these streams: 32,768 cycles at the floor, or 2.62 ms where none is a CONTROL stream. -/
def trickNs (op : Nat) (l : List Stream) : Rat :=
  if l.any fun x => x.cls == 0 then (32768000 : Rat) / (opMhz op : Nat) else 2621440

/-- Guaranteed CONTROL streams. -/
def isGuaranteed (x : Stream) : Bool := x.cls == 0 && x.rate != 0

/-- The streams that use a die. -/
def streamsOn (d : Nat) (s : State) : List Stream := (s.streams.map fun p => p.2).filter fun x => usesDie x d

/-- A point of a die that R357 has withdrawn. -/
def withdrawn (d k : Nat) (s : State) : Bool := bitsAt (getF Fld.hltMarginWithdrawn d s) (k - 1) 1 == 1

/-- The highest point that is not withdrawn. -/
def highestPoint (d : Nat) (s : State) : Option Nat :=
  ((List.range 8).map (· + 1)).foldl (fun b k => if withdrawn d k s then b else some k) none

/-- The point at which the resident guaranteed CONTROL streams of a die were checked, 1 where there is none (R82). -/
def checkedFloor (d : Nat) (s : State) : Nat := (((streamsOn d s).filter isGuaranteed).map fun x => x.checkedOp).foldl max 1

/-- The control floor that the host asked for. -/
def floorAsked (d : Nat) (s : State) : Nat := min 8 (max 1 (bitsAt (getF Fld.limPolicyFloor 0 s) (4 * d) 4))

/-- The control floor in force on a die (R82, R357, R359, R389). -/
def floorOp (d : Nat) (s : State) : Nat := max 1 (min ((highestPoint d s).getD 1) (max (floorAsked d s) (checkedFloor d s)))

/-- A_c in ns, for `x` among the streams of its die (R79). -/
def latencyNs (op : Nat) (l : List Stream) (x : Stream) : Rat :=
  13000 + 2 * trickNs op l + (((l.filter fun y => isGuaranteed y && !(y.job == x.job && y.index == x.index)).map fun y => y.wcetNs + 2000).sum : Nat)
    + (x.wcetNs : Nat)

/-- BOUND_US of a guaranteed stream: A_c + 55.08 µs, in whole µs (R79). -/
def boundOf (op : Nat) (l : List Stream) (x : Stream) : Nat := ((latencyNs op l x + 55080) / 1000).ceil.toNat

/-- A guaranteed stream keeps R26 and R79. -/
def latencyOk (op : Nat) (l : List Stream) (x : Stream) : Bool :=
  let a := latencyNs op l x
  decide (x.wcetNs ≤ 250000) && decide (a ≤ 344920) && decide (a * (x.rate : Nat) ≤ 1000000000)

/-- Σ over dummy frames of DUMMY_TRICKS × T + 2 µs, in ns. -/
def dummyTime (t : Rat) (x : Stream) : Rat := (x.dummyTricks : Nat) * t + 2000

/-- U (R80). -/
def trickBudget (op : Nat) (l : List Stream) : Rat :=
  let t := trickNs op l
  (((l.filter isGuaranteed).map fun x => x.rate * (x.wcetNs + 2000)).sum : Nat) / (1000000000 : Rat)
    + ((l.filter fun x => x.safety).map fun x => dummyTime t x / (x.dummyUs * 1000 : Nat)).sum

/-- G in ns (R81). -/
def guardNs (op : Nat) (l : List Stream) : Rat :=
  let t := trickNs op l
  t + (((l.filter isGuaranteed).map fun x => x.wcetNs).foldl max 0 : Nat)
    + ((l.filter fun x => x.safety).map (dummyTime t)).sum + 4000

/-- The shortest dummy interval keeps twice the guard (R81). -/
def guardOk (op : Nat) (l : List Stream) : Bool :=
  (l.filter fun x => x.safety).all fun x => decide (2 * guardNs op l ≤ (x.dummyUs * 1000 : Nat))

/-- G of a die as it stands, in whole ns. -/
def dieGuard (d : Nat) (s : State) : Nat := (guardNs (floorOp d s) (streamsOn d s)).ceil.toNat

/-- BOUND_US of every guaranteed stream, for the streams that there are now and the floor at which they were checked (R79, R82). -/
def setBounds (s : State) : State :=
  { s with streams := s.streams.map fun (n, x) =>
      if isGuaranteed x then (n, { x with boundUs := boundOf x.checkedOp (streamsOn ((diesOf x).headD 0) s) x }) else (n, x) }

/-- A load checks every guaranteed stream at the floor in force (R82). -/
def recheck (s : State) : State :=
  setBounds { s with streams := s.streams.map fun (n, x) => (n, { x with checkedOp := floorOp ((diesOf x).headD 0) s }) }

end Sys2Proof.Machine
end

