-- ==== Sys2Proof/Machine/Domains.lean ====
section
/-!
DEFINITION. The power domains: their parents, and what each loses when it leaves on (R361 to R365, R370, R371, R470, Tables PWR-1 and
RST-2).
-/
namespace Sys2Proof.Machine
open Sys2Proof

/-! ### Table PWR-1 -/

/-- Compute die of domains 21 to 60 and of MEMn. -/
def domDie (d : Nat) : Option Nat :=
  if 21 ≤ d ∧ d ≤ 60 then some ((d - 21) / 10) else if 61 ≤ d ∧ d ≤ 64 then some (d - 61) else none

/-- Part of a compute-die domain: 0 to 3 quadrants, 4 SEQ, 5 to 8 pods, 9 LINK, 10 MEM. -/
def domPart (d : Nat) : Nat := if 61 ≤ d then 10 else (d - 21) % 10

/-- The parents of a domain. -/
def parentsOf (d : Nat) : List Nat :=
  match domDie d with
  | some n =>
    let k := domPart d
    if k < 4 then [Dom.seq n] else if k = 4 then [] else if k < 9 then [Dom.mem n] else if k = 9 then [Dom.hs n] else []
  | none =>
    if d = 4 then [3, 2] else if d = 5 then [1] else if 6 ≤ d ∧ d ≤ 10 then [5] else if d = 11 then [3]
    else if d = 12 ∨ d = 13 then [6] else if 15 ≤ d ∧ d ≤ 18 then [20] else if d = 19 then [1] else []

/-- The children of a domain. -/
def childrenOf (d : Nat) : List Nat := ((List.range 64).map (· + 1)).filter fun c => (parentsOf c).contains d

/-- A domain with its ancestors. -/
def withParents (d : Nat) : List Nat := d :: (parentsOf d).flatMap fun p => p :: (parentsOf p).flatMap fun q => q :: parentsOf q

/-- A child may be in state `c` while its parent is in state `p` (R363). -/
def allowedUnder (c p : DomState) : Bool :=
  match c, p with
  | .on, .on => true
  | .on, _ => false
  | .retention, .on => true
  | .retention, .retention => true
  | .retention, _ => false
  | _, _ => true

/-- Domain mask bit of a domain (R361). -/
def inMask (mask d : Nat) : Bool := bitsAt mask (d - 1) 1 == 1

def setDomain (d : Nat) (x : DomState) (s : State) : State := { s with domains := s.domains.set (d - 1) x }

/-! ### The debug session -/

/-- The session ends, with a reason: 0 host or probe, 1 expiry, 2 a domain, 3 a reset, 4 RETURN (R454). EXTEST, which needs it, ends
with it (DEDUCED, log 65). -/
def endSession (reason : Nat) (s : State) : State :=
  if s.sec.session.isNone then s
  else postEvent 14 0x0004 Status.done reason { s with sec := { s.sec with session := none, extest := false } }

/-! ### The blocks of a domain (R471, Table ARC-2) -/

/-- A register lies in a block of the domain. PWR and ID lie in Acorn. -/
def regInDomain (d : Nat) (r : Reg) (s : State) : Bool :=
  if r = .jpEthCfg ∨ r = .timeQbvCtrl then d == Dom.eth
  else match regBlock r with
  | 1 => d == attachDomain s
  | 2 => d == Dom.mgmt
  | 3 => d == Dom.mgmt
  | 4 => d == Dom.mgmt
  | 5 => d == Dom.time
  | 6 => d == Dom.fus
  | 7 => d == Dom.plan
  | 8 => d == Dom.cle
  | 9 => d == Dom.jport
  | 10 => d == Dom.prog
  | 12 => d == Dom.mgmt
  | 13 => d == Dom.safe
  | 14 => d == Dom.sec
  | 15 => if regOffset r < 0xF8000 then d == Dom.dbg else d == Dom.mgmt
  | _ => false

/-- Every register of the domain's blocks at its MODULE value (R471). -/
def resetBlock (d : Nat) (s : State) : State := resetRegs .module (fun r => regInDomain d r s) s

/-- The mailbox of SEC_CMD in the state's memory (R444). -/
def mailboxBase : Nat := 2 ^ 51

/-! ### What leaves with a domain (R362, Table RST-2) -/

/-- Accumulator words of a quadrant of a die, with a bank test. -/
def quadAcc (n k : Nat) (bank : Nat → Bool) (key : Nat) : Bool :=
  key / (16 * 32 * 8 * 4 * 48) == n && key / (16 * 32 * 8 * 4) % 48 / 12 == k && bank (key / (16 * 32) % 8)

/-- Accumulator words of a quadrant lost. -/
def loseAcc (n k : Nat) (bank : Nat → Bool) (s : State) : State :=
  { s with
    acc := s.acc.filter fun p => !(quadAcc n k bank p.1)
    accSat := s.accSat.filter fun r => !(quadAcc n k bank (r * 16))
    accTol := s.accTol.filter fun p => !(quadAcc n k bank p.1) }

/-- Memory that loses its content: it reads as 0, without an error and without block exponents. -/
def wipe (m n : Nat) (s : State) : State := dropExps m n (cleanLines m n (zeroMem m n s))

/-- A quadrant leaves on: shadow and working registers, line buffers, windows, tap tables and working banks go, and every bank of
Table PWR-1 that is not kept. -/
def loseQuad (n k : Nat) (keep : Nat → Bool) (s : State) : State :=
  let cores := (List.range 12).map fun c => 12 * k + c
  let s := loseAcc n k (fun b => decide (b < 2) || !(keep 1)) s
  let s := forEach cores (fun c s =>
    let s := zeroMem (shadowAddr n c 0 0 0) 4096 (zeroMem (cellAddr n c 0 0 0) 4096 s)
    let s := if keep 0 then s else wipe (coreAddr n c 0) 196608 s
    if keep 2 then s else zeroMem (tableAddr n c 0) 4096 s) s
  adjDie n (fun y =>
    let out (core : Nat) : Bool := cores.contains core
    { y with
      halves := y.halves.filter fun p => !(out (p.1 / 2))
      window := y.window.filter fun p => !(out p.1)
      taps := y.taps.filter fun p => !(out p.1)
      shadowConv := y.shadowConv.filter fun p => !(out p.1)
      tileConv := y.tileConv.filter fun p => !(out p.1)
      shadowExp := y.shadowExp.filter fun p => !(out (p.1 / 64))
      tileExp := y.tileExp.filter fun p => !(out (p.1 / 64))
      vpuIn := y.vpuIn.filter fun p => !(out p.1)
      bankConv := y.bankConv.filter fun p => !(out (p.1 / 8)) }) s

/-- SEQ leaves on: provisional slots and the sequence cache go, and staging scratch where it is not kept. Stream contexts outlive it
only in retention with its bank kept: R368 refuses anything else while a job uses the die. -/
def loseSeq (n : Nat) (keep : Nat → Bool) (s : State) : State :=
  let s := adjDie n (fun y => { y with cache := [] }) (wipe (stagingAddr n 8192) 524288 s)
  if keep 1 then s else wipe (stagingAddr n 0) 524288 s

/-- Every T1 byte of a die lost; every page held there is poisoned, and its frame marked for retirement (R175, R176). -/
def loseT1 (n : Nat) (s : State) : State :=
  let frames := (s.tiers.frames.filter fun p => p.1 / 2 ^ 18 == n).map fun p => p.1
  let lines := frames.flatMap fun f => (List.range 1024).map fun i => t1Addr n (f % 2 ^ 18 * 65536) / 64 + i
  let s := zeroMem (t1Addr n 0) (2 ^ 34) s
  { s with tiers := { s.tiers with
      poison := s.tiers.poison ++ lines.filter (fun l => !(s.tiers.poison.contains l))
      tainted := s.tiers.tainted ++ frames.filter (fun f => !(s.tiers.tainted.contains f)) } }

/-- The fusion engine with nothing but what its banks keep: 1 table space, 2 tracks and histories; bank 0 is memory. -/
def loseFus (keep : Nat → Bool) (s : State) : State :=
  let f := s.fus
  let s := setFus { Fusion.reset with
    kin := if keep 2 then f.kin else []
    poses := if keep 2 then f.poses else []
    tracks := if keep 2 then f.tracks else []
    nextId := if keep 2 then f.nextId else 1 } s
  let s := if keep 0 then s else zeroMem (hubAddr 0) 0x500000 s
  let s := if keep 1 then s
    else setTables { s.tables with active := s.tables.active.filter fun p => tableEngine p.1 != 1 } (zeroMem (hubAddr 0x500000) 0x80000 s)
  let s := if keep 2 then s else zeroMem (hubAddr 0x5A0000) 0x60000 (zeroMem (hubAddr 0x580000) 0x10000 s)
  zeroMem (hubAddr 0x590000) 0x10000 s

/-- Requests that the planner held when it left on end as those that it meets while it is not on (R287; DEDUCED, log 60). -/
def dropPlans (s : State) : State :=
  let ids := (s.plan.cycle.map fun y => y.id).toList ++ s.plan.queue
  let s := setPlan { s.plan with cycle := none, queue := [], intake := none } s
  forEach ids (fun id s => completeId id (plainFacts Status.noPath 0xFFFE 0) s) s

/-- The planner's store with what its banks keep: 0 tree banks, 1 posture and class tables, 2 occupancy layers (R287). The map version
survives with a bank that it names. -/
def losePlan (keep : Nat → Bool) (s : State) : State :=
  let s := if keep 0 then s
    else
      let s := setTables { s.tables with active := mapErase s.tables.active (tableKey 2 3 0) } s
      setB Fld.plnStatusTreeValid 0 false (zeroMem (planAddr 0 0) (48 * 65536) s)
  let s := if keep 1 then s
    else
      let s := setTables { s.tables with active := mapErase (mapErase s.tables.active (tableKey 2 1 0)) (tableKey 2 2 0) } s
      zeroMem (planAddr 82 0) 0x4000 (zeroMem (planAddr 80 0) (2 * 65536) s)
  let s := if keep 2 then s
    else setPlan { s.plan with layers := [] } (setB Fld.plnStatusOccValid 0 false (zeroMem (planAddr 92 0) (2 * 65536) s))
  let s := if keep 0 || keep 2 then s else setF Fld.plnStatusVersion 0 0 s
  zeroMem (planAddr 94 0) (2 * 65536) (zeroMem (planAddr 82 0x4000) (65536 * 10 - 0x4000) (zeroMem (planAddr 48 0) (32 * 65536) s))

/-- A time unit that lost everything, at the clock at which it stopped. -/
def stoppedTime (s : State) : TimeUnit := { TimeUnit.reset with loaded := s.time.loaded, stopped := s.time.stopped, gated := s.time.gated }

/-- The CLE lost: channels, drives, trajectory, tables (Table RST-2). Writes that wait keep waiting. -/
def loseCle (s : State) : State :=
  let waits := s.cle.commits.filter fun k => match k.kind with
    | .host _ => true
    | .policy _ _ _ => false
    | .planner => false
    | .table => false
  let s := setCle { CleUnit.reset with commits := waits, nextCommit := s.cle.nextCommit } s
  setTables { s.tables with active := s.tables.active.filter fun p => tableEngine p.1 != 3 } s

/-- What a domain loses on its way to retention or off, given the banks that it keeps. A domain that keeps everything in retention
loses nothing there. -/
def loseDomain (d : Nat) (target : DomState) (keep : Nat → Bool) (s : State) : State :=
  let off := target == .off
  match domDie d with
  | some n =>
    let k := domPart d
    if k < 4 then loseQuad n k keep s
    else if k = 4 then loseSeq n keep s
    else if k = 10 then (if off then loseT1 n s else s)
    else s
  | none =>
    match d with
    | 1 => zeroMem mailboxBase 1024 { s with sec := { s.sec with nonce := none, cmd := none } }
    | 2 => if off then zeroMem (winAddr 0xD8000) 0x800 (setSafe { SafeUnit.reset with faultLow := s.safe.faultLow, hubTrip := s.safe.hubTrip } s) else s
    | 3 => if off then setTime (stoppedTime s) s else s
    | 4 => if off then loseCle s else s
    | 6 => loseFus keep s
    | 7 => losePlan keep s
    | 8 =>
      let s := zeroMem (winAddr 0xAC000) 0x1000 (zeroMem (winAddr 0xA8000) 0x1000 s)
      setProg { s.prog with axes := if keep 0 then s.prog.axes else [], feed := [] } s
    | 11 => zeroMem (winAddr 0x58000) 0x2000 (setTime { s.time with qbv := [], gated := [] } s)
    | 14 => { s with elec := { s.elec with txOff := [] } }
    | _ => s

/-! ### Leaving on -/

/-- What happens at once when a domain leaves on (R365, R370, R371, R385, R454; Table TIM-5). -/
def leaveOn (d : Nat) (s : State) : State :=
  let s := if d = attachDomain s then linkReset (setPower { s.power with closing := false } (setB Fld.hostCtrlLinkUp 0 false s)) else s
  match d with
  | 1 => endSession 2 s
  | 19 => endSession 2 s
  | 2 =>
    let was := s.safe.armed
    let s := setF Fld.safeStatusDropCause 0 1 (setSafe { s.safe with armed := false } s)
    showFault (if was then showOutputs s else s)
  | 3 => setTime { s.time with stopped := some s.clock } (endPulses (fun _ => true) s)
  | 5 =>
    let s := forEach (List.range 4) restDie s
    if timeOn s && syncState s == 1 then enterHoldover 2 s else s
  | 7 => dropPlans s
  | 8 => saveNow s
  | _ => match domDie d with
    | some n => if domPart d = 4 then restDie n s else s
    | none => s

end Sys2Proof.Machine
end

