-- ==== Sys2Proof/Machine/Transit.lean ====
section
/-!
DEFINITION. The regulator rails, and the transition that carries out a POWER_STATE or a wake: which domain starts to change when, and
what a domain that fails leaves behind (R364, R369, R374, R377 to R379, R383).
-/
namespace Sys2Proof.Machine
open Sys2Proof

/-! ### Points and rails (R378, R379, R383) -/

/-- V_k of Table LIM-1 in 0.1 mV. -/
def pointVolts (k : Nat) : Nat := [5500, 5500, 5800, 6200, 6600, 7000, 7500, 8000].getD (k - 1) 8000

/-- EXTRA of HLT_MARGIN, which applies to all dies; values above 24 act as 24. -/
def extraSteps (s : State) : Nat := min 24 (getF Fld.hltMarginExtra 0 s)

/-- The guard band G_k of a die (4 the hub) in steps. -/
def guardBand (n k : Nat) (s : State) : Nat := bitsAt (getR .hltMargin n s) (5 * (k - 1)) 5

/-- The effective guard band in 0.1 mV (R358). -/
def guardVolts (n k : Nat) (s : State) : Nat := 25 * min 24 (guardBand n k s + extraSteps s)

/-- The voltage of VCDn at a point (R383), and of VHUB, whose point the spec does not give (log 61). -/
def railVolts (n k : Nat) (s : State) : Nat := pointVolts k + guardVolts n k s
def hubVolts (s : State) : Nat := Config.hubPoint + guardVolts 4 1 s

/-- The last acknowledged level of a rail, and a change of a rail. -/
def railOf (r : Nat) (s : State) : Rail := s.power.rails.getD r ⟨0, none⟩
def setRail (r : Nat) (x : Rail) (s : State) : State := setPower { s.power with rails := s.power.rails.set r x } s

/-- A rail has failed (PWR_AVS_STATUS.FAIL). -/
def railFailed (r : Nat) (s : State) : Bool := bitsAt (getF Fld.pwrAvsStatusFail 0 s) r 1 == 1

/-- Domains CDn.Q0 to CDn.LINK. -/
def cdDomains (n : Nat) : List Nat := (List.range 10).map fun k => 21 + 10 * n + k

/-- The domains that move to on. -/
def movingOn (d : Nat) (s : State) : Bool :=
  match s.power.trans with
  | some t => t.moving.any fun m => m.1 == d && m.2.1 == .on
  | none => false

/-- The level that a compute-die rail has to carry (R378): `wake` names domains that are about to come on. -/
def wantedVolts (n : Nat) (wake : List Nat) (s : State) : Nat :=
  let up (d : Nat) : Bool := domOn d s || movingOn d s || wake.contains d
  let ds := cdDomains n
  let held (d : Nat) : Bool := domState d s == .retention || domState d s == .changing
  if ds.any fun d => up d && (domPart d < 5 || domPart d == 9) then
    railVolts n (match (dieLim n s).up with
      | some k => k
      | none => (dieLim n s).op) s
  else if ds.any up then railVolts n 1 s
  else if ds.any held then 4500
  else 0

/-- A request is sent, where the rail is free and not at the level (R379). -/
def requestRail (r level : Nat) (s : State) : State :=
  let x := railOf r s
  if railFailed r s || x.request.isSome || x.level = level then s
  else emit (.avsRequest r level) (setRail r { x with request := some (level, 1, s.clock) } s)

/-! ### The transition -/

def setTrans (t : Option Transition) (s : State) : State := setPower { s.power with trans := t } s
def adjTrans (f : Transition → Transition) (s : State) : State := setTrans (s.power.trans.map f) s

/-- The goal of a domain. -/
def goalOf (t : Transition) (d : Nat) : Option DomState := (t.goals.find? fun g => g.1 == d).map fun g => g.2

/-- A state in the order off, retention, on. -/
def rank : DomState → Nat
  | .off => 0
  | .retention => 1
  | .on => 2
  | .changing => 2

/-- A domain is changing. -/
def isMoving (t : Transition) (d : Nat) : Bool := t.moving.any fun m => m.1 == d

/-- Work on a die has come to rest: no trick runs, and what was issued and can land has landed (R369). -/
def dieQuiet (n : Nat) (s : State) : Bool :=
  (dieOf n s).running.isNone && !((dieOf n s).threads.any fun t => !t.dropped && mayWrite n t s)
    && !(s.sends.any fun x => x.srcDie == n)

/-- Some goal still takes a domain down. -/
def goesDown (t : Transition) (s : State) : Bool := t.goals.any fun g => decide (rank g.2 < rank (domState g.1 s))

/-- The pod domains of a die. -/
def podsOf (n : Nat) : List Nat := (List.range 4).map fun k => Dom.pod n k

/-- A MEM rail changes between on and retention: its pods must be on (R364). -/
def needsPods (d : Nat) (target : DomState) (s : State) : Bool :=
  domPart d == 10 && (domDie d).isSome
    && ((domState d s == .on && target == .retention) || (domState d s == .retention && target == .on))

/-- A retention that a MEM rail enters from off goes by way of on (Table PWR-5). -/
def nextState (d : Nat) (target : DomState) (s : State) : DomState :=
  if domPart d = 10 ∧ (domDie d).isSome ∧ target = .retention ∧ domState d s = .off then .on else target

/-- A domain starts to change. What it loses on leaving on is lost now. -/
def beginMove (d : Nat) (target : DomState) (temp : Bool) (s : State) : State :=
  let old := domState d s
  let s := if old == .on && !temp then leaveOn d s else s
  adjTrans (fun t => { t with moving := t.moving ++ [(d, target, old, temp)] }) (setDomain d .changing s)

/-- The rail of a domain that is to come on carries what it needs, and whether it never will. -/
def railReady (d : Nat) (s : State) : Bool :=
  match domDie d with
  | some n => domPart d == 10 || decide (wantedVolts n [d] s ≤ (railOf n s).level)
  | none => true
def railDead (d : Nat) (s : State) : Bool :=
  match domDie d with
  | some n => domPart d != 10 && railFailed n s && decide ((railOf n s).level < wantedVolts n [d] s)
  | none => false

/-- The parents of a domain allow a state. A pod comes on ahead of a MEM rail that leaves retention (R364, Example PWR-1). -/
def parentsAllow (t : Transition) (d : Nat) (target : DomState) (s : State) : Bool :=
  (parentsOf d).all fun p =>
    allowedUnder target (domState p s)
      || (decide (61 ≤ p) && target == .on && domState p s == .retention && goalOf t p == some .on)
def childrenAllow (d : Nat) (target : DomState) (s : State) : Bool :=
  (childrenOf d).all fun c => allowedUnder (domState c s) target && domState c s != .changing

/-- Pods turned on for the transition of a MEM rail: those that are not on and not named to come on. -/
def startTemps (d : Nat) (s : State) : State :=
  let ps := podsOf ((domDie d).getD 0)
  forEach ps (fun p s =>
    match s.power.trans with
    | none => s
    | some t =>
      if domOn p s || isMoving t p || goalOf t p == some .on || !(railReady p s) then s
      else
        let former := domState p s
        beginMove p .on true (adjTrans (fun t => { t with temps := t.temps ++ [(p, former)] }) s)) s

/-- No child stands in the way of a MEM rail's transition: its pods have gone where they are named to go (R364). -/
def podsSettled (t : Transition) (d : Nat) : Bool :=
  (childrenOf d).all fun c => match goalOf t c with
    | some x => x == .on
    | none => true

/-- Whether a goal may start now. -/
def mayMove (t : Transition) (d : Nat) (target : DomState) (s : State) : Bool :=
  let next := nextState d target s
  let down := decide (rank next < rank (domState d s))
  !(isMoving t d)
    && (if down then
        (if needsPods d next s then podsSettled t d else childrenAllow d next s) && (match domDie d with
          | some n => domState d s != .on || dieQuiet n s
          | none => true)
      else !(goesDown t s) && parentsAllow t d next s && (next != .on || railReady d s))
    && (!(needsPods d next s) || (podsOf ((domDie d).getD 0)).all fun p => domOn p s)

/-- A domain and everything named above it in its tree of dependants. -/
def dependsOn (d c : Nat) : Bool := (withParents c).contains d

/-- A domain that does not reach its target stays off, but for a MEM rail, which keeps its state; it is reported, and domains that
depend on it are not changed (R364, R369). -/
def failDomain (d : Nat) (former : DomState) (s : State) : State :=
  let stay := if domPart d = 10 ∧ (domDie d).isSome then former else .off
  let s := setDomain d stay (if former != .off && stay == .off then loseDomain d .off (fun _ => false) s else s)
  let s := adjTrans (fun t => { t with
    failed := some (t.failed.getD d)
    goals := t.goals.filter fun g => g.1 != d && (g.2 != .on || !(dependsOn d g.1))
    moving := t.moving.filter fun m => m.1 != d }) s
  pwrEvent 0x0004 d s

/-- A pod that was to come on for a MEM rail's transition did not: the rail keeps its state (R364). -/
def failTemp (p : Nat) (s : State) : State :=
  let n := (domDie p).getD 0
  let m := Dom.mem n
  match s.power.trans with
  | none => s
  | some t =>
    let s := match t.temps.find? fun x => x.1 == p with
      | some x => setDomain p x.2 s
      | none => s
    let s := adjTrans (fun t => { t with
      moving := t.moving.filter fun x => x.1 != p, temps := t.temps.filter fun x => x.1 != p }) s
    if (goalOf t m).isSome then failDomain m (domState m s) s else s

/-- A goal that can only fail, its rail being dead. -/
def deadGoal (t : Transition) (g : Nat × DomState) (s : State) : Bool := g.2 == .on && !(isMoving t g.1) && railDead g.1 s

/-- Goals whose rail will never carry what they need fail; those that depend on one of them are not changed (R369, R379). -/
def failDead (s : State) : State :=
  match s.power.trans with
  | none => s
  | some t =>
    let dead := t.goals.filter fun g => deadGoal t g s
    let s := forEach (dead.filter fun g => !(dead.any fun p => p.1 != g.1 && dependsOn p.1 g.1)) (fun g s =>
      match s.power.trans with
      | some t => if (goalOf t g.1).isSome then failDomain g.1 (domState g.1 s) s else s
      | none => s) s
    forEach (t.goals.filter fun g => needsPods g.1 (nextState g.1 g.2 s) s && (podsOf ((domDie g.1).getD 0)).any fun p => !(domOn p s) && railDead p s)
      (fun g s =>
        match s.power.trans with
        | some t => if (goalOf t g.1).isSome then failDomain g.1 (domState g.1 s) s else s
        | none => s) s

/-- Requests for the rails of dies with a domain that waits to come on. -/
def requestRails (s : State) : State :=
  match s.power.trans with
  | none => s
  | some t =>
    let named := if goesDown t s then [] else (t.goals.filter fun g => g.2 == .on).map fun g => g.1
    let mems := ((t.goals.filter fun g => needsPods g.1 (nextState g.1 g.2 s) s).map fun g => podsOf ((domDie g.1).getD 0)).flatten
    let go := (named ++ mems).filter fun d => !(domOn d s)
    forEach (List.range 4) (fun n s =>
      let mine := go.filter fun d => domDie d == some n && domPart d != 10
      if mine.isEmpty then s
      else
        let v := wantedVolts n mine s
        if (railOf n s).level < v then requestRail n v s else s) s

/-- Temporary pods go back once their MEM rail has moved. -/
def restoreTemps (s : State) : State :=
  match s.power.trans with
  | none => s
  | some t =>
    forEach (t.temps.filter fun x => domOn x.1 s && (goalOf t (Dom.mem ((domDie x.1).getD 0))).isNone) (fun x s => beginMove x.1 x.2 true s) s

/-- Everything that can start now starts. -/
def startMoves (s : State) : State :=
  match s.power.trans with
  | none => s
  | some t =>
    let s := forEach (t.goals.filter fun g => needsPods g.1 (nextState g.1 g.2 s) s && podsSettled t g.1) (fun g s => startTemps g.1 s) s
    forEach t.goals (fun g s =>
      match s.power.trans with
      | some t => if (goalOf t g.1).isSome && mayMove t g.1 g.2 s then beginMove g.1 (nextState g.1 g.2 s) false s else s
      | none => s) s

/-- The end of a transition: the command completes, or the wake reports (R369, R374). -/
def endTransition (t : Transition) (s : State) : State :=
  let s := setTrans none s
  let s := if t.wake then pwrEvent 0x0002 t.changed s else s
  match t.id with
  | none => s
  | some id => match t.failed with
    | some d => completeId id (plainFacts Status.done 0x0501 d) s
    | none => completeId id (plainFacts Status.done 0 t.changed) s

/-- Between transitions, the compute-die rails are brought to what the domains ask for (R378). -/
def settleRails (s : State) : State :=
  if s.power.trans.isSome then s else forEach (List.range 4) (fun n s => requestRail n (wantedVolts n [] s) s) s

/-- One round of the transition. -/
def advanceOnce (s : State) : State := startMoves (restoreTemps (requestRails (failDead s)))

/-- The transition goes on as far as it can; it ends when nothing is left to do. -/
def advance (s : State) : State :=
  match s.power.trans with
  | none => s
  | some _ =>
    let s := advanceOnce s
    match s.power.trans with
    | none => s
    | some t =>
      if t.goals.isEmpty && t.moving.isEmpty && t.temps.isEmpty then settleRails (endTransition t s) else s

end Sys2Proof.Machine
end

