-- ==== Sys2Proof/Machine/Settle.lean ====
section
/-!
DEFINITION. What follows any step at once: causes of the safe state, ends of chunks, retires and unloads that can finish, releases of
chunks, domains that can start to change, and the running times (R74, R85, R257, R353, R369, R405, R424).
-/
namespace Sys2Proof.Machine
open Sys2Proof

/-! ### Freeing (R85, R405, R175) -/

/-- A stage slot freed. -/
def freeStage (g : Nat) (s : State) : State :=
  setF Fld.safeStageStatusRing g 0 (setR .safeStageCfg g 0 (setSafe { s.safe with stages := mapErase s.safe.stages g } s))

/-- Streams that leave: threads, sends, requests, windows, held lines and commits of theirs are gone. -/
def dropStreamWork (mine : Nat → Bool) (s : State) : State :=
  let s := forEach (List.range 4) (fun d s =>
    adjDie d (fun y =>
      let walker := y.walker.filter fun k => !(mine k.stream)
      { y with
        lastStream := y.lastStream.map fun k => if decide (k < 256) && mine k then 256 + k else k
        threads := y.threads.filter fun t => !(mine t.stream)
        epochs := y.epochs.filter fun e => !(mine e.stream)
        gang := y.gang.filter fun st => !(mine st)
        walker := walker
        parked := y.parked.filter fun p => !(mine p.2.stream) }) s) s
  let s := { s with sends := s.sends.filter fun x => !(mine x.stream) }
  let s := forEach (s.tiers.windows.filter fun w => mine w.stream) (fun w s => forEach w.landed (unplaceSeg w) s) s
  let s := setTiers { s.tiers with
    requests := s.tiers.requests.filter fun r => !(mine r.stream)
    waiting := s.tiers.waiting.filter fun w => !(mine w.2.1)
    windows := s.tiers.windows.filter fun w => !(mine w.stream) } s
  let s := setSafe { s.safe with held := s.safe.held.filter fun h => !(mine h.stream) } s
  setCle { s.cle with commits := s.cle.commits.filter fun k => match k.kind with
    | .policy _ st _ => !(mine st)
    | .host _ => true
    | .planner => true
    | .table => true } s

/-- A running trick of a stream that leaves ends: it can only be a dummy frame's. -/
def stopRunning (st : Nat) (s : State) : State :=
  forEach (List.range 4) (fun d s => match (dieOf d s).running with
    | some (st', k) => if st' = st then endTrick st d (k == .dummy) s else s
    | none => s) s

/-- A stage's LATE_US that a lower BOUND_US makes unlawful is clamped again, and reported once (R359, R409). -/
def reclampStages (before s : State) : State :=
  forEach (List.range 64) (fun g s =>
    let asked := getF Fld.safeStageCfgLateUs g s
    if getB Fld.safeStageCfgEn g s && decide (lateLimit g s < asked) && decide (asked < lateLimit g before) then clampReport 3 13 s
    else s) s

/-- A stream freed: banks zeroed and freed, its number and stage slot free (R85, R405). -/
def freeStream (st : Nat) (s : State) : State :=
  match streamOf st s with
  | none => s
  | some x =>
    let s := stopRunning st s
    let s := match stageOf st s with
      | some g => freeStage g s
      | none => s
    let s := dropStreamWork (fun k => k == st) (zeroStream x s)
    let s := { s with streams := mapErase s.streams st }
    reclampStages s (setBounds s)

/-- Pages, frames, pool pages and moves of a job freed. -/
def freeMemory (j : Nat) (s : State) : State :=
  let frames := (s.tiers.frames.filter fun p => p.2 == j).map fun p => p.1
  let s := forEach frames (fun k s => leaveFrame (k / 2 ^ 18) (k % 2 ^ 18) s) s
  let mine (p : Nat) : Bool := slotOf (p * 65536) == j
  setTiers { s.tiers with
    pages := s.tiers.pages.filter fun e => !(mine e.1)
    pool := s.tiers.pool.filter fun e => e.2 != j
    copies := s.tiers.copies.filter fun e => !(mine e.1)
    unread := s.tiers.unread.filter fun e => !(mine e.1)
    back := s.tiers.back.filter fun p => !(mine p)
    moves := s.tiers.moves.filter fun m => !(mine m.page)
    bad := s.tiers.bad.filter fun p => !(mine p) } s

/-- A job's resources freed (R85): a planning cycle of its lattice is cancelled, intakes into its objects stop (R257, R300, R353). -/
def freeJob (j : Nat) (s : State) : State :=
  let s := match s.plan.cycle with
    | some y => if y.job = j then abortCycle Status.cancelled s else s
    | none => s
  let s := stopFeedOf j (stopIntakes j s)
  let s := forEach ((jobStreams j s).map fun p => p.1) freeStream s
  let s := dropCache j (freeMemory j s)
  drainDecided
    (showFault (setJobBit Fld.safeHeldHeld j false (setJobBit Fld.safeStatusRestarting j false { s with jobs := mapErase s.jobs j })))

/-! ### Retires and unloads that can finish (Table JOB-4) -/

/-- A retire takes effect at the head of its stream. -/
def retireNow (st id : Nat) (control : Bool) (s : State) : State :=
  let c := consumedById id s
  let s := freeStream st s
  match c with
  | some c => completeFor control c (plainFacts Status.done 0 0) s
  | none => s

/-- The items that a retire meets: pre-posted chunks that still wait are cancelled, and the retire at the head takes effect. -/
def settleRetire (st : Nat) : Nat → State → State
  | 0, s => s
  | n + 1, s =>
    match streamOf st s with
    | none => s
    | some x =>
      match x.items with
      | [] => s
      | i :: _ =>
        if i.kind == .retire then retireNow st i.id (x.cls == 0) s
        else if i.kind == .triggered && i.phase == .waiting && x.items.any (fun k => k.kind == .retire) then
          let s := match consumedById i.id s with
            | some c => completeFor (x.cls == 0) c (chunkFacts x { i with facts := plainFacts Status.cancelled 0 0 }) s
            | none => s
          settleRetire st n (dropItem st i.id s)
        else s

/-- An unload whose started chunks have ended (R85). -/
def settleUnload (j : Nat) (s : State) : State :=
  match phaseOf j s with
  | some (.unloading ids) =>
    if (jobStreams j s).any fun p => !(p.2.items.isEmpty) then s
    else
      let s := freeJob j s
      forEach ids (fun id s => match consumedById id s with
        | some c => completeOrWait c (plainFacts Status.done 0 0) s
        | none => s) s
  | _ => s

def settleJobs (s : State) : State :=
  let s := forEach (s.streams.map fun p => p.1) (fun st s => settleRetire st (s.host.consumed.length + 1) s) s
  forEach (List.range 32) settleUnload s

/-! ### Releases (R74, R407, R424) -/

/-- An item released to the Dealer: the frame's window opens where no earlier chunk of the stream has one. -/
def releaseItem (st id missed : Nat) (latched : List Int) (s : State) : State :=
  let s := adjItem st id (fun i => { i with phase := .released, releasedAt := s.clock, missed := missed, latched := latched }) s
  let s := match streamOf st s with
    | some x =>
      let first := x.items.find? fun i => isChunk i && i.phase != .waiting && i.phase != .ended
      match first with
      | some i => if i.id = id then openFrame st x i s else s
      | none => s
    | none => s
  let ready (c : Ctx) : Ctx := { c with waitFrom := s.clock }
  let only := ((streamOf st s).map fun x => (x.items.filter fun i => i.phase != .waiting).length).getD 0 == 1
  if only then adjStream st (fun x => { x with ctx := x.ctx.map fun p => (p.1, ready p.2) }) s else s

/-- A stream whose waiting chunks may be released: in service, with no dummy frame owed (R424). -/
def mayRelease (x : Stream) (s : State) : Bool := x.valid && !(x.dummy.owed) && phaseOf x.job s == some .resident

/-- Waiting chunks that need no trigger are released as soon as their stream may: all that no queued swap stands before, in order. When a
plain chunk becomes released the spec does not say (R74, R424; DESIGN CHOICE, log 73). -/
def releaseStream (st : Nat) (s : State) : State :=
  match streamOf st s with
  | none => s
  | some x =>
    if !(mayRelease x s) then s
    else forEach ((beforeSwap x.items).filter fun i => i.kind == .chunk && i.phase == .waiting) (fun i s => releaseItem st i.id 0 [] s) s

/-! ### All of it -/

/-- One round. -/
def settleRound (s : State) : State :=
  let s := settleJobs (finishChunks (actOnCauses s))
  let s := forEach (s.streams.map fun p => p.1) trackReady s
  forEach (s.streams.map fun p => p.1) releaseStream s

/-- What follows a step at once. Every cause that the round finds is acted on before the step ends. -/
def settle (s : State) : State := refuseFenced (openGates (account (advance (actOnCauses (settleRound s)))))

end Sys2Proof.Machine
end

