-- ==== Sys2Proof/Machine/Arrivals.lean ====
section
/-!
DEFINITION. Commands that bring work to an end or a line to its place, each followed by what follows at once: memory tiers, die links,
hub engines, the safety monitor, the LINK reset (chapters 02, 06, 11, 12, 13, 14, 17, 19).
-/
namespace Sys2Proof.Machine
open Sys2Proof

/-- A change of state that a command makes where a condition holds, with what follows it at once. -/
def settled (c : Bool) (f : State → State) (s : State) : Host.Outcome State Fault Refusal := .next (onlyIf c (fun s => settle (f s)) s)

/-! ### Memory tiers -/

/-- PAGE_MOVE_DONE (R161). -/
def execPageMoveDone (m : Nat) (ecc : ReadEcc) (s : State) : Host.Outcome State Fault Refusal := settled (running s) (moveDone m ecc) s

/-- SEGMENT_LANDED (R166). -/
def execSegmentLanded (w : Nat) (s : State) : Host.Outcome State Fault Refusal := settled (running s) (segmentLanded w) s

/-- SEGMENT_READ_FAILED (R167). -/
def execSegmentReadFailed (w : Nat) (s : State) : Host.Outcome State Fault Refusal := settled (running s) (segmentReadFailed w) s

/-- The variant of a window's chunk is signalled where it is due. -/
def variantSignal (id : Nat) (s : State) : State :=
  match s.tiers.windows.find? fun w => w.id == id with
  | some w => if variantDue w s then signalVariant w s else s
  | none => s

/-- VARIANT_SIGNAL (R171). -/
def execVariantSignal (id : Nat) (s : State) : Host.Outcome State Fault Refusal := settled (running s) (variantSignal id) s

/-! ### Die links and hub windows -/

/-- DIE_LINK_ARRIVAL (R143). -/
def execDieLinkArrival (transfer : Nat) (s : State) : Host.Outcome State Fault Refusal := settled (running s) (arrive transfer) s

/-- A line sent to a hub-store offset lands, or is held; where the hold is full it stays outside. -/
def sendLine (d st off : Nat) (bs : List Byte) (s : State) : State := (takeHubLine d st off bs s).getD s

/-- The 64 bytes of a line. -/
def lineBytes (l : BitVec 512) : List Byte := natLe 64 l.toNat

/-- MOVE_REQUEST: a line in the move-request window (R160). -/
def execMoveRequest (die : Fin 4) (stream : Fin 256) (index : Fin 1024) (line : BitVec 512) (s : State) :
    Host.Outcome State Fault Refusal :=
  settled (running s) (sendLine die.val stream.val (moveWindow + 64 * index.val) (lineBytes line)) s

/-- POST: a line in the fusion post window (R270). -/
def execPost (die : Fin 4) (stream : Fin 256) (index : Fin 1024) (line : BitVec 512) (s : State) :
    Host.Outcome State Fault Refusal :=
  settled (running s) (sendLine die.val stream.val (0x590000 + 64 * index.val) (lineBytes line)) s

/-- MAP_COMMIT: a line in the planner's commit window (R294). -/
def execMapCommit (die : Fin 4) (stream : Fin 256) (index : Fin 1024) (line : BitVec 512) (s : State) :
    Host.Outcome State Fault Refusal :=
  settled (running s) (sendLine die.val stream.val (mapWindow + 64 * index.val) (lineBytes line)) s

/-- SETPOINT_ENTRY: a policy's entry for a channel in the CLE window (R320). -/
def execSetpointEntry (_die : Fin 4) (stream : Fin 256) (channel : Fin 64) (entry : BitVec 128) (s : State) :
    Host.Outcome State Fault Refusal :=
  settled (running s && domOn Dom.cle s) (policyEntry stream.val channel.val (natLe 16 entry.toNat)) s

/-- SETPOINT_COMMIT: the next commit is decided (R321). -/
def execSetpointCommit (commit : Nat) (s : State) : Host.Outcome State Fault Refusal :=
  settled (running s && domOn Dom.cle s) (setpointCommit commit) s

/-! ### Fusion, planner, feed -/

/-- FUSION_CLOSE (R274). -/
def execFusionClose (ecc : ReadEcc) (s : State) : Host.Outcome State Fault Refusal :=
  settled (running s && fusOn s) (fusionClose ecc) s

/-- FUSION_RESULT (R276). -/
def execFusionResult (s : State) : Host.Outcome State Fault Refusal := settled (running s && fusOn s) fusionResult s

/-- PLAN_REQUEST: while the queue of 64 is full the descriptor waits in intake (R299). -/
def execPlanRequest (id : Nat) (s : State) : Host.Outcome State Fault Refusal :=
  if planOn s && decide (64 ≤ s.plan.queue.length) then .next s else begin' id Op.planRequest planRequest s

/-- PLAN_CYCLE_START (R299). -/
def execPlanCycleStart (record : ReadData) (ecc : ReadEcc) (s : State) : Host.Outcome State Fault Refusal :=
  settled (running s && planOn s) (planStart record ecc) s

/-- PLAN_BUDGET (R305). -/
def execPlanBudget (s : State) : Host.Outcome State Fault Refusal := settled (running s && planOn s) planBudget s

/-- PLAN_RESULT (R306). -/
def execPlanResult (s : State) : Host.Outcome State Fault Refusal := settled (running s && planOn s) planResult s

/-- OCC_INTAKE (R296). -/
def execOccIntake (s : State) : Host.Outcome State Fault Refusal := settled (running s && planOn s) occIntake s

/-- FEED_BATCH: every FEED_MS ms (R353). -/
def execFeedBatch (s : State) : Host.Outcome State Fault Refusal :=
  settled (running s && feedOn s && decide (s.prog.lastFeed + feedNs s ≤ s.clock)) feedBatch s

/-! ### The safety monitor -/

/-- The chunk whose frame a stage watches is late (R408). -/
def lateChunk (g : Nat) (s : State) : State :=
  if getF Fld.safeStageCfgSource g s ≠ 0 then s
  else
    let st := getF Fld.safeStageCfgStream g s
    match (streamOf st s).bind fun x => x.items.find? fun i => isChunk i && (i.phase == .started || i.phase == .released) with
    | some i => adjItem st i.id (fun i => { i with
        late := true, facts := addStatus i.facts Status.watchdogStage 0x0602 (watchdogAux g s) }) s
    | none => s

/-- STAGE_LATE: a frame has not ended LATE_US after its window opened (R408). -/
def execStageLate (stage : Fin 64) (s : State) : Host.Outcome State Fault Refusal :=
  settled (running s && domOn Dom.safe s && lateDue stage.val s) (fun s => lateStage stage.val (lateChunk stage.val s)) s

/-- The oldest firing that released nothing, LATE_US after it (R408). -/
def missDue (g : Nat) (s : State) : Bool :=
  getB Fld.safeStageCfgEn g s && (match (stageRun g s).misses with
    | t :: _ => decide (t + lateUs g s * 1000 ≤ s.clock)
    | [] => false)

/-- A miss fault. -/
def missStage (g : Nat) (s : State) : State :=
  pushRing g true (countFault g 4 (adjStage g (fun r => { r with misses := r.misses.drop 1 }) s))

/-- STAGE_MISS (R408). -/
def execStageMiss (stage : Fin 64) (s : State) : Host.Outcome State Fault Refusal :=
  settled (running s && domOn Dom.safe s && missDue stage.val s) (missStage stage.val) s

/-- DUMMY_COMPARE (R423). -/
def execDummyCompare (stream : Fin 256) (ecc : ReadEcc) (s : State) : Host.Outcome State Fault Refusal :=
  settled (running s) (dummyCompare stream.val ecc) s

/-- DUMMY_OVERDUE (R424). -/
def execDummyOverdue (stream : Fin 256) (s : State) : Host.Outcome State Fault Refusal := settled (running s) (dummyOverdue stream.val) s

/-- RESTART_COMPLETE (R474). -/
def execRestartComplete (job : Fin 32) (s : State) : Host.Outcome State Fault Refusal := settled (running s) (restartComplete job.val) s

/-! ### LINK reset -/

/-- LINK_RESET (R66, R469): PERST_N may fall at any time; the reset reaches a running module over the attachment in use. -/
def execLinkReset (cause : LinkCause) (s : State) : Host.Outcome State Fault Refusal :=
  settled (running s && causeApplies cause s) linkReset (assertPerst cause s)

end Sys2Proof.Machine
end

