-- ==== Sys2Proof/Machine/Triggers.lean ====
section
/-!
DEFINITION. What a trigger's firing does in the whole module, steps of the time base, samples and snapshots (R23, R76, R244 to R251,
R257, R261, R311, R324, R328, R408).
-/
namespace Sys2Proof.Machine
open Sys2Proof

/-! ### Firings -/

/-- A firing that finds a stream with no waiting chunk: counted, reported, and a miss fault LATE_US later for a SAFETY stream (R76,
R408). -/
def triggerMiss (st : Nat) (s : State) : State :=
  let s := postEvent 2 0x0001 Status.done st (incF Fld.dlrStatsTriggerMiss 0 s)
  let s := adjStream st (fun x => { x with misses := min (x.misses + 1) 0xFFFFFFFF }) s
  match stageOf st s with
  | some g => adjStage g (fun r => { r with misses := r.misses ++ [s.clock] }) s
  | none => s

/-- The oldest waiting pre-posted chunk of a stream; those behind a queued swap name the trigger that holds after it (R76). -/
def oldestWaiting (x : Stream) : Option Item := (beforeSwap x.items).find? fun i => i.kind == .triggered && i.phase == .waiting

/-- A firing of a stream's trigger: at most one release (R76). -/
def fireStream (latched : List Int) (st : Nat) (s : State) : State :=
  match streamOf st s with
  | none => s
  | some x =>
    match oldestWaiting x with
    | none => triggerMiss st s
    | some i => adjStream st (fun x => { x with misses := 0 }) (releaseItem st i.id x.misses latched s)

/-- A trigger fires at time `t`: 0 to 63 generators, 64 to 71 capture inputs (R23, R76, R247, R248). -/
def fireTrigger (trig t : Nat) (s : State) : State :=
  let latched := latchFeedback t s
  let s := latchSnapshots trig t s
  let s := forEach ((s.streams.filter fun p => p.2.triggered && p.2.trigger == some trig).map fun p => p.1) (fireStream latched) s
  if trig < 64 then cleFire trig t s else s

/-- A generator fires. -/
def fireGenerator (g : Nat) (s : State) : State :=
  let t := (genOf g s).next.getD s.timeN
  fireTrigger g t (genFire g s)

/-- What a change of the time base brings: closes that a step passes, and the generators that fire at it (R251, R278). -/
def afterStep (old : Nat) (r : State × List Nat) : State :=
  let s := if r.1.timeN = old then r.1 else fusStep old r.1
  forEach r.2 (fun g s => fireTrigger g ((genOf g s).last.getD s.timeN) s) s

/-- GENERATOR_FIRING (R247). -/
def execGeneratorFiring (g : Fin 64) (s : State) : Host.Outcome State Fault Refusal :=
  settled (running s && genDue g.val s) (fireGenerator g.val) s

/-- SYNC_MESSAGE (R244). -/
def execSyncMessage (m : Sync) (s : State) : Host.Outcome State Fault Refusal :=
  settled (running s && syncRuns s) (fun s => afterStep s.timeN (syncMeasured m s)) s

/-- ACCEPT (R245). -/
def execTimeAccept (s : State) : Host.Outcome State Fault Refusal :=
  settled (running s && timeOn s) (fun s => afterStep s.timeN (acceptStep s)) s

/-- An edge on a capture input (R250). -/
def captureEdge (i : Nat) (rising : Bool) (s : State) : State :=
  if timeOn s && edgeSelected i rising s then fireTrigger (64 + i) s.timeN (recordEdge i rising s) else s

/-! ### Samples -/

/-- SENSOR_SAMPLE: a camera or Ethernet frame (R257). -/
def execSensorSample (entry : Fin 32) (age : Nat) (errors : BitVec 3) (lines : List (List Byte)) (s : State) :
    Host.Outcome State Fault Refusal :=
  settled (running s && intakeOn entry.val s && sampleTaken (sensorEntry entry.val s) lines) (takeSample entry.val age errors lines) s

/-- SPI_ASSERTION (R261). -/
def execSpiAssertion (entry : Fin 32) (bytes : List Byte) (s : State) : Host.Outcome State Fault Refusal :=
  settled (running s && intakeOn entry.val s && SE.kind (sensorEntry entry.val s) == 4 && spiDue entry.val s) (spiAssert entry.val bytes) s

/-- The oldest latched snapshot of a target is written (R324). -/
def writeSnapshot (k : Nat) (s : State) : State :=
  match s.cle.snapDue.find? fun p => p.1 == k with
  | none => s
  | some p => landSnapshot k p.2 (setCle { s.cle with snapDue := s.cle.snapDue.erase p } s)

/-- SNAPSHOT (R324). -/
def execSnapshot (target : Fin 4) (s : State) : Host.Outcome State Fault Refusal :=
  settled (running s && domOn Dom.cle s) (writeSnapshot target.val) s

end Sys2Proof.Machine
end

