-- ==== Sys2Proof/Machine/LoadImage.lean ====
section
/-!
DEFINITION. Reading a load image: header, section table, declaration, sequence sections, tier-object headers, dummy records, and the
layout and authentication checks on them (R68 to R72, R120, R155, R165, R419, R443, R447 to R449, R504).
-/
namespace Sys2Proof.Machine
open Sys2Proof

/-- A refusal: status, DETAIL, AUX. -/
abbrev LoadErr := Nat × Nat × Nat

/-- A refusal where a condition holds. -/
def refuseIf (c : Bool) (status detail aux : Nat) : Option LoadErr := if c then some (status, detail, aux) else none

/-- The first refusal of a list of checks. -/
def firstRefusal (l : List (Option LoadErr)) : Option LoadErr := l.findSome? id

namespace Img

/-! ### Header (Table JOB-1) -/

def flags (im : List Byte) : Nat := rdLE im 8 4
def signed (im : List Byte) : Bool := bitsAt (flags im) 0 1 == 1
def encrypted (im : List Byte) : Bool := bitsAt (flags im) 1 1 == 1
def generation (im : List Byte) : Nat := rdLE im 6 2
def imageId (im : List Byte) : Nat := rdLE im 24 8
def sectCount (im : List Byte) : Nat := rdLE im 32 4
def tableOff (im : List Byte) : Nat := rdLE im 36 4
def minFirmware (im : List Byte) : Nat := rdLE im 40 4

/-- The header keeps R68, for an image of `n` bytes. A section table that runs past the image is a fault of the header (DEDUCED,
log 85). -/
def headerOk (im : List Byte) (n : Nat) : Bool :=
  decide (128 ≤ n) && rdLE im 0 4 == 0x54564C49 && rdLE im 4 2 == 1 && flags im / 4 == 0 && rdLE im 12 4 == 128
    && rdLE im 16 8 == n && decide (3 ≤ sectCount im) && decide (sectCount im ≤ 64) && tableOff im % 32 == 0
    && decide (tableOff im + 32 * sectCount im ≤ n) && rdLE im 44 84 == 0

/-! ### Section table (R69) -/

/-- A section-table entry, with its 32 bytes. -/
structure Sect where
  typ : Nat
  die : Nat
  zeros : Bool
  off : Nat
  len : Nat
  loadOff : Nat
  entry : List Byte
  deriving DecidableEq, Repr

def sectAt (im : List Byte) (i : Nat) : Sect :=
  let e := fitBytes 32 (im.drop (tableOff im + 32 * i))
  ⟨rdLE e 0 1, rdLE e 1 1, rdLE e 2 6 == 0, rdLE e 8 8, rdLE e 16 8, rdLE e 24 8, e⟩

/-- The sections of a table of at most 64 entries. -/
def sects (im : List Byte) : List Sect := (List.range (min 64 (sectCount im))).map (sectAt im)

/-- Two entries of which a table may hold only one. -/
def sameKind (a b : Sect) : Bool := a.typ == b.typ && a.typ != 4 && (a.typ != 3 || a.die == b.die)

/-- Two sections share a byte. -/
def overlap (a b : Sect) : Bool :=
  decide (0 < a.len) && decide (0 < b.len) && decide (a.off < b.off + b.len) && decide (b.off < a.off + a.len)

/-- Entry `i` breaks R69. Of two entries that overlap or repeat a section, the later one fails (DEDUCED, log 85). -/
def sectBad (im : List Byte) (n i : Nat) : Bool :=
  let x := sectAt im i
  let before := (sects im).take i
  !x.zeros || x.typ == 0 || decide (6 < x.typ) || (if x.typ = 3 then decide (3 < x.die) else x.die != 255)
    || decide (n < x.off + x.len) || (x.typ == 6 && !(signed im)) || before.any (sameKind x) || before.any (overlap x)

/-- The first section of a type. -/
def ofType (im : List Byte) (t : Nat) : Option (Sect × Nat) := (sects im).zipIdx.find? fun p => p.1.typ == t

/-- A section that the table must hold is not there: its AUX is the entry after the last (DEDUCED, log 51). -/
def sectMissing (im : List Byte) : Bool :=
  (ofType im 1).isNone || (ofType im 2).isNone || (signed im && (ofType im 6).isNone)

/-- The stored bytes of a section. -/
def stored (im : List Byte) (x : Sect) : List Byte := fitBytes x.len (im.drop x.off)

/-! ### Declaration (R71, R72) -/

/-- A stream record (Table JOB-2). -/
structure StreamRec where
  index : Nat
  cls : Nat
  triggered : Bool
  safety : Bool
  dies : Nat
  banks : Nat
  rate : Nat
  dummyTricks : Nat
  wcetNs : Nat
  intervalUs : Nat
  zeros : Bool
  deriving DecidableEq, Repr

def streamRec (b : List Byte) : StreamRec :=
  let f := rdLE b 1 1
  { index := rdLE b 0 1, cls := bitsAt f 0 2, triggered := bitsAt f 2 1 == 1, safety := bitsAt f 3 1 == 1
    dies := bitsAt (rdLE b 2 1) 0 4, banks := bitsAt (rdLE b 3 1) 0 3, rate := rdLE b 4 2, dummyTricks := rdLE b 6 2
    wcetNs := rdLE b 8 4, intervalUs := rdLE b 12 4
    zeros := bitsAt f 4 4 == 0 && bitsAt (rdLE b 2 1) 4 4 == 0 && bitsAt (rdLE b 3 1) 3 5 == 0 }

/-- A guaranteed CONTROL stream. -/
def StreamRec.guaranteed (r : StreamRec) : Bool := r.cls == 0 && r.rate != 0

/-- Record `i` breaks Table JOB-2. -/
def streamBad (r : StreamRec) (i : Nat) : Bool :=
  let n := (List.range 4).countP fun d => bitsAt r.dies d 1 == 1
  r.index != i || !r.zeros || n == 0 || decide (6 < r.banks) || decide ((if r.cls = 0 then 4000 else 0) < r.rate)
    || (r.cls == 0 && n != 1)
    || (if r.safety then decide (r.dummyTricks < 1) || decide (64 < r.dummyTricks)
          || (r.intervalUs != 0 && (decide (r.intervalUs < 10000) || decide (1000000 < r.intervalUs)))
        else r.dummyTricks != 0)

/-- The declaration's bytes. It is never encrypted (R448). -/
def declBytes (im : List Byte) : List Byte := ((ofType im 1).map fun p => stored im p.1).getD []
def streamCount (im : List Byte) : Nat := rdLE (declBytes im) 0 2
def dieCount (im : List Byte) : Nat := rdLE (declBytes im) 2 1

def dieRecBytes (im : List Byte) (i : Nat) : List Byte := fitBytes 32 ((declBytes im).drop (4 + 32 * i))
def dieRecAt (im : List Byte) (i : Nat) : DieRec :=
  let b := dieRecBytes im i
  ⟨rdLE b 0 1, rdLE b 4 4, rdLE b 8 4, rdLE b 12 2, rdLE b 14 2, rdLE b 16 8, 0⟩
def dieRecs (im : List Byte) : List DieRec := (List.range (dieCount im)).map (dieRecAt im)

/-- Die record `i` breaks its layout. Bytes 1 to 3 and 24 to 31, which Table JOB-1 does not name, must be 0, and a second record for a die
fails (DESIGN CHOICE, log 85). -/
def dieBad (im : List Byte) (i : Nat) : Bool :=
  let r := dieRecAt im i
  let b := dieRecBytes im i
  decide (4 < r.die) || rdLE b 1 3 != 0 || rdLE b 24 8 != 0 || ((dieRecs im).take i).any (fun q => q.die == r.die)
    || (r.die == 4 && (r.t0Kib != 0 || r.seqWords != 0 || r.tokens != 0 || r.t1Bytes != 0))

def streamAt (im : List Byte) (i : Nat) : StreamRec := streamRec (fitBytes 16 ((declBytes im).drop (4 + 32 * dieCount im + 16 * i)))
def streams (im : List Byte) : List StreamRec := (List.range (streamCount im)).map (streamAt im)

/-- The declaration's checks (R504): a wrong length counts as a fault of the preamble (DEDUCED, log 51). -/
def declCheck (im : List Byte) : Option LoadErr :=
  let n := (declBytes im).length
  if n < 4 ∨ rdLE (declBytes im) 3 1 ≠ 0 ∨ n ≠ 4 + 32 * dieCount im + 16 * streamCount im then
    some (Status.refusedFormat, 0x0123, 0)
  else match (List.range (dieCount im)).find? (dieBad im) with
    | some i => some (Status.refusedFormat, 0x0123, 1 + i * 256)
    | none => ((List.range (streamCount im)).find? fun i => streamBad (streamAt im i) i).map fun i =>
        (Status.refusedFormat, 0x0123, 2 + i * 256)

/-! ### Sequence sections (R120) -/

/-- A section's plaintext length. -/
def plainLen (im : List Byte) (x : Sect) : Int := if encrypted im && x.typ != 1 then (x.len : Int) - 28 else x.len

/-- SEQ_WORDS of a die. -/
def seqWords (im : List Byte) (die : Nat) : Nat := (((dieRecs im).find? fun r => r.die == die).map fun r => r.seqWords).getD 0

/-- Bytes that the fetch descriptor table takes. -/
def fetchBytes (im : List Byte) (x : Sect) : Int := plainLen im x - 4 * streamCount im - 64 * seqWords im x.die

/-- The sequence section of a die. -/
def seqSect (im : List Byte) (die : Nat) : Option Sect := (sects im).find? fun x => x.typ == 3 && x.die == die

def layoutBad (im : List Byte) (die : Nat) : Bool :=
  match seqSect im die with
  | none => false
  | some x => decide (fetchBytes im x < 0) || fetchBytes im x % 32 != 0 || decide (32 * 4096 < fetchBytes im x)

/-- A sequence section read from its plaintext. -/
def readSeq (im : List Byte) (x : Sect) (b : List Byte) : SeqSection :=
  let sc := streamCount im
  let nf := (fetchBytes im x).toNat / 32
  let nw := seqWords im x.die
  { die := x.die
    entries := (List.range sc).map fun i => rdLE b (4 * i) 4
    fetch := (chunksOf 32 nf (b.drop (4 * sc))).map fun d => BitVec.ofNat 256 (leNat d)
    words := (chunksOf 64 nw (b.drop (4 * sc + 32 * nf))).map fun w => BitVec.ofNat 512 (leNat w)
    pages := [] }

/-! ### Step 1 after the binding list (Table JOB-5) -/

def layoutCheck (im : List Byte) (n : Nat) : Option LoadErr :=
  if !(headerOk im n) then some (Status.refusedFormat, 0x0122, 0xFFFFFFFF)
  else match (List.range (sectCount im)).find? (sectBad im n) with
    | some i => some (Status.refusedFormat, 0x0122, i)
    | none => firstRefusal
        [refuseIf (sectMissing im) Status.refusedFormat 0x0122 (sectCount im),
          refuseIf ((streams im).any (fun r => r.safety) && (ofType im 5).isNone) Status.refusedFormat 0x0122 (sectCount im),
          declCheck im,
          ((List.range 4).find? (layoutBad im)).map fun d => (Status.refusedFormat, 0x0124, d)]

/-! ### Steps 2 and 3 (R70, R443, R447, R448) -/

/-- K_img (R442). -/
def imageKey (im : List Byte) (s : State) : List Byte := (Config.hmac384 s.sec.ownerSecret (natLe 8 (imageId im))).take 32

/-- The plaintext of a section, where its tag holds. -/
def plain (im : List Byte) (x : Sect) (s : State) : Option (List Byte) :=
  let b := stored im x
  if !(encrypted im) || x.typ == 1 then some b
  else if x.len < 28 then none
  else Config.gcmOpen (imageKey im s) (b.take 12) x.entry ((b.drop 12).take (x.len - 28)) (b.drop (x.len - 16))

/-- The digest that a SIGNATURE section signs (R447). -/
def digest (im : List Byte) : List Byte :=
  Config.sha384 (fitBytes 128 im ++ fitBytes (32 * sectCount im) (im.drop (tableOff im))
    ++ (((sects im).filter fun x => x.typ != 6).map (stored im)).flatten)

/-- The owner slot whose unrevoked hash a public key matches. -/
def ownerKeyOk (slot : Nat) (pub : List Byte) (s : State) : Bool :=
  decide (slot < 4) && bitsAt s.sec.ownerRevoke slot 1 == 0 && mapGet s.sec.ownerHash slot == some (Config.sha384 pub)

/-- The signature's checks. -/
def signatureCheck (im : List Byte) (s : State) : Option LoadErr :=
  match ofType im 6 with
  | none => none
  | some (x, _) =>
    match plain im x s with
    | none => some (Status.refusedAuth, 0x0804, 0)
    | some b =>
      let pub := fitBytes 97 (b.drop 4)
      if !(ownerKeyOk (rdLE b 0 1) pub s) then some (Status.refusedAuth, 0x0802, 0)
      else refuseIf (!(Config.ecdsaOk pub (digest im) (fitBytes 96 (b.drop 104)))) Status.refusedAuth 0x0801 0

/-- Two encrypted sections share an IV. -/
def ivRepeats (im : List Byte) : Bool :=
  let ivs := ((sects im).filter fun x => x.typ != 1).map fun x => (stored im x).take 12
  decide (¬ ivs.Nodup)

/-- Version, lifecycle and authentication (steps 2 and 3 of R70). `firmware` is the running version. -/
def authCheck (im : List Byte) (firmware : Nat) (s : State) : Option LoadErr :=
  let life := s.sec.lifecycle
  firstRefusal
    [refuseIf (generation im != 4) Status.refusedVersion 0x0301 0,
      refuseIf (decide (firmware < minFirmware im)) Status.refusedVersion 0x0302 0,
      refuseIf (life == 3 || (life != 2 && (signed im || encrypted im))) Status.refusedAuth 0x0805 0,
      refuseIf (!(signed im) && bitsAt s.sec.ownerCfg 0 1 == 1) Status.refusedAuth 0x0803 0,
      signatureCheck im s,
      refuseIf (encrypted im && ((sects im).any (fun x => (plain im x s).isNone) || ivRepeats im)) Status.refusedAuth 0x0804 0]

/-! ### Tier objects (Table MEM-3) -/

/-- A tier object as its header gives it, with its initial contents, its section's index and its schedule. -/
structure ObjImage where
  obj : TierObj
  short : Bool
  schedOff : Nat
  bytes : List Byte
  deriving DecidableEq, Repr

def readObject (x : Sect) (i : Nat) (b : List Byte) : ObjImage :=
  let pol := bitsAt (rdLE b 8 1) 0 2
  let so := rdLE b 28 4
  let stop := if pol = 2 then min so b.length else b.length
  { obj :=
      { sect := i, offset := x.loadOff, size := rdLE b 0 8, policy := pol, homeDie := bitsAt (rdLE b 9 1) 0 2
        hostRead := bitsAt (rdLE b 10 1) 0 1 == 1, hostWrite := bitsAt (rdLE b 10 1) 1 1 == 1, weight := bitsAt (rdLE b 10 1) 2 1 == 1
        t2Backed := bitsAt (rdLE b 10 1) 3 1 == 1, minResident := rdLE b 12 4, windowPages := rdLE b 16 4
        coreFirst := bitsAt (rdLE b 20 1) 0 6, coreCount := bitsAt (rdLE b 21 1) 0 6, sliceLines := rdLE b 22 2, lineBase := rdLE b 24 4 }
    short := decide (b.length < 64), schedOff := so, bytes := (b.take stop).drop 64 }

/-- The tier objects of an image, in section order, with their plaintext. -/
def objects (im : List Byte) (s : State) : List (ObjImage × List Byte) :=
  ((sects im).zipIdx.filter fun p => p.1.typ == 4).map fun (x, i) =>
    let b := (plain im x s).getD []
    (readObject x i b, b)

/-! ### Window schedule (Table MEM-6) -/

/-- A schedule: reading stream, CYCLIC, VAR_TOKEN, VAR_WAIT_US, and its segments. -/
structure Sched where
  stream : Nat
  cyclic : Bool
  varToken : Nat
  varWaitUs : Nat
  /-- OBJ_OFF, PAGES, NEED_LAYER, READY_TOKEN, READY_DIE. -/
  segs : List (Nat × Nat × Nat × Nat × Nat)
  complete : Bool
  deriving DecidableEq, Repr

def readSched (o : ObjImage) (b : List Byte) : Sched :=
  let h := b.drop o.schedOff
  let n := rdLE h 0 2
  { stream := rdLE h 2 1, cyclic := bitsAt (rdLE h 3 1) 0 1 == 1, varToken := rdLE h 4 1, varWaitUs := rdLE h 8 4
    segs := (List.range n).map fun k =>
      let r := (h.drop (16 + 16 * k)).take 16
      (rdLE r 0 8, rdLE r 8 4, rdLE r 12 2, rdLE r 14 1, bitsAt (rdLE r 15 1) 0 2)
    complete := decide (64 ≤ o.schedOff) && decide (1 ≤ n) && decide (o.schedOff + 16 + 16 * n ≤ b.length) }

/-! ### Dummy records (Table SAF-3) -/

def dummyAt (b : List Byte) (i : Nat) : DummyRec :=
  let r := fitBytes 128 (b.drop (16 + 128 * i))
  { stream := rdLE r 0 1, tokenFirst := rdLE r 1 1, tokenCount := rdLE r 2 1
    entries := (List.range 4).map fun d => rdLE r (4 + 4 * d) 4
    lineFirst := rdLE r 20 4, lineCount := rdLE r 24 4, out := rdLE r 32 8 % 2 ^ 43, outLen := rdLE r 40 4
    gold := rdLE r 48 8 % 2 ^ 43, params := (r.drop 56).take 24 }

/-- The DUMMY_SET section's plaintext. -/
def dummyBytes (im : List Byte) (s : State) : List Byte :=
  match ofType im 5 with
  | some (x, _) => (plain im x s).getD []
  | none => []

end Img

end Sys2Proof.Machine
end

