-- ==== Sys2Proof/Machine/LoadCheck.lean ====
section
/-!
DEFINITION. The content checks of step 5 of a load: words, fetch descriptors, tier objects, gates, barriers, dummy set (R70, R75, R131,
R132, R155 to R158, R165, R166, R420).
-/
namespace Sys2Proof.Machine
open Sys2Proof

namespace Chk

/-! ### Paths through a section -/

/-- The words that may follow a word: the next, and the target of a select; none after CHUNK_END (R122, R130). -/
def succs (ws : List SeqWord) (i : Nat) : List Nat :=
  match ws[i]? with
  | none => []
  | some w => if SW.chunkEnd w then [] else if SW.selectEn w then [i + 1, SW.selectTarget w] else [i + 1]

/-- Words reachable from a worklist; each is taken once. -/
def reachFrom (ws : List SeqWord) : Nat → List Nat → List Nat → List Nat
  | 0, _, seen => seen
  | _, [], seen => seen
  | n + 1, i :: rest, seen =>
    if seen.contains i || decide (ws.length ≤ i) then reachFrom ws n rest seen
    else reachFrom ws n (succs ws i ++ rest) (seen ++ [i])

/-- Words reachable from some roots. -/
def reachable (ws : List SeqWord) (roots : List Nat) : List Nat := reachFrom ws (roots.length + 2 * ws.length + 1) roots []

/-- The most cycles from a word to the next boundary, on a path that repeats no word (R131, R132). -/
def runFrom (ws : List SeqWord) : Nat → List Nat → Nat → Nat
  | 0, _, _ => 0
  | n + 1, seen, i =>
    match ws[i]? with
    | none => 0
    | some w =>
      if seen.contains i then 0
      else SW.cycles w + if SW.trickEnd w || SW.chunkEnd w then 0
        else ((succs ws i).map fun j => runFrom ws n (i :: seen) j).foldl max 0

/-! ### Words (R132) -/

/-- A reserved field or code of a word is not 0. -/
def reservedBad (w : SeqWord) : Bool :=
  fld w 23 1 != 0 || fld w 79 1 != 0 || fld w 108 4 != 0 || fld w 113 3 != 0 || fld w 187 1 != 0 || fld w 235 1 != 0
    || fld w 407 1 != 0 || fld w 486 26 != 0 || SW.rspanCode w == 6 || decide (2 ≤ SW.accOp w) || SW.abyte w == 3
    || SW.postDest w == 3 || decide (18 < SW.vpuOp w) || decide (7 ≤ SW.stgFmt w) || SW.stgDstSel w == 3 || SW.dlOp w == 3
    || (SW.stgDstSel w == 2 && decide (47 < SW.stgCore w)) || (SW.stgOp w == 7 && decide (4 ≤ SW.stgCore w))
    || (if SW.vpuOp w = 18 then decide (6 ≤ SW.vpuCvt w) else SW.vpuCvt w != 0)

/-- Lines that a drain writes at most: 2 a row, 4 with OUT_Y. -/
def drainLines (w : SeqWord) : Nat := (SW.rep w + 1) * SW.postRows w * if SW.outY w then 4 else 2

/-- Lines that a vector post-unit operation reads or writes: first line, count (R113). -/
def vpuSpans (w : SeqWord) : List (Nat × Nat) :=
  let op := SW.vpuOp w
  let k := SW.vpuLen w
  if op = 0 then []
  else
    let a := if op = 18 ∧ (SW.vpuCvt w = 3 ∨ SW.vpuCvt w = 5) then ceilDiv k 2 else k
    let d :=
      if op = 18 ∧ (SW.vpuCvt w = 2 ∨ SW.vpuCvt w = 4) then ceilDiv k 2
      else if 14 ≤ op ∧ op ≤ 16 then ceilDiv k 16
      else if op = 17 then ceilDiv k 8 else k
    [(SW.vpuSrcA w, a), (SW.vpuDst w, d)] ++ if op ≤ 6 then [(SW.vpuSrcB w, k)] else []

/-- Lines that a staging move reads or writes. -/
def stgCount (w : SeqWord) : Nat := if SW.stgOp w = 7 then 9 else SW.stgLen w

/-- Lines outside a reservation of `res` lines, or outside scratch (R135, R503). -/
def outside (lim first n : Nat) : Bool := decide (lim < first + n)
def scratchLines : Nat := 8192

/-- Weight rows outside the reservation (R125). -/
def weightsOut (w : SeqWord) (res : Nat) : Bool :=
  let span := (SW.rep w : Int) * SW.waRepStride w
  let lo := (SW.waBase w : Int) + min 0 span
  let hi := (SW.waBase w : Int) + max 0 span + (11 * SW.waCoreStride w + SW.channels w * SW.planes w : Nat)
  decide (0 < SW.channels w) && (decide (lo < 0) || decide ((8 * res : Nat) < hi))

/-- A fold and a drain of one execution name the same bank (R126). -/
def bankClash (w : SeqWord) : Bool :=
  let alt (on : Bool) (b e : Nat) : Nat := if on then b ^^^ (e % 2) else b
  (SW.rspan w).isSome && SW.postEn w
    && (List.range (min 2 (SW.rep w + 1))).any fun e => alt (SW.accAlt w) (SW.accBank w) e == alt (SW.postAlt w) (SW.postBank w) e

/-- The activation load leaves the reservation or scratch (R89, R132). -/
def aloadOut (w : SeqWord) (res : Nat) : Bool :=
  let far := SW.aloadAddr w + 11 * SW.aloadCoreStride w
  match SW.aloadSrc w with
  | 1 => outside res far 64
  | 2 => outside res far 1
  | 3 => outside scratchLines far 64
  | _ => false

/-- The staging move breaks its ranges or lengths. -/
def stgBad (w : SeqWord) (res : Nat) : Bool :=
  SW.stgOp w != 0 && (outside scratchLines (SW.stgSrc w) (stgCount w)
    || (SW.stgOp w != 7 && (if SW.stgDstSel w = 0 then outside scratchLines (SW.stgDst w) (stgCount w)
        else outside res (SW.stgDst w) (stgCount w)))
    || (SW.stgOp w == 2 && SW.stgLen w % 64 != 0) || (SW.stgOp w == 3 && SW.stgLen w % 32 != 0))

/-- A word breaks a rule that needs no stream. -/
def wordBad (res nWords nFetch : Nat) (w : SeqWord) : Bool :=
  reservedBad w || aloadOut w res || weightsOut w res || outside res (SW.ldesc w) 1
    || (SW.postEn w && ((SW.postDest w == 0 && outside res (SW.postAddr w) (drainLines w))
        || (SW.postDest w == 1 && outside scratchLines (SW.postAddr w) (drainLines w))))
    || (vpuSpans w).any (fun p => outside res p.1 p.2) || stgBad w res
    || (SW.dlOp w != 0 && outside scratchLines (SW.dlSrc w) (SW.dlLen w))
    || (decide (0 < SW.channels w) && decide (32 < SW.accRow w + SW.channels w)) || bankClash w
    || (SW.selectEn w && decide (nWords ≤ SW.selectTarget w))
    || (SW.ftCount w != 0 && decide (nFetch < SW.ftFirst w + SW.ftCount w))

/-- The banks that a word folds into. -/
def foldBanks (w : SeqWord) : List Nat :=
  if (SW.rspan w).isNone then [] else if SW.accAlt w && SW.rep w != 0 then [SW.accBank w, SW.accBank w ^^^ 1] else [SW.accBank w]

/-- A word breaks a rule for a stream that reaches it: a bank not held, or TRICK_END without a barrier. -/
def wordBadFor (r : Img.StreamRec) (w : SeqWord) : Bool :=
  (foldBanks w).any (fun b => decide (2 + r.banks ≤ b))
    || (SW.trickEnd w && !(SW.barrierEn w) && decide (1 < (List.range 4).countP fun d => bitsAt r.dies d 1 == 1))

/-- The entries that lie in a section, with their streams. -/
def roots (q : SeqSection) (rs : List Img.StreamRec) (d : Nat) : List (Nat × Img.StreamRec) :=
  rs.filterMap fun r => if bitsAt r.dies d 1 = 1 then (q.entries[r.index]?).map fun e => (e, r) else none

/-- The words at which runs begin: entries, and what follows a TRICK_END. -/
def runStarts (ws : List SeqWord) (entries : List Nat) : List Nat :=
  entries ++ ((reachable ws entries).filter fun i => ((ws[i]?).map SW.trickEnd).getD false).flatMap (succs ws)

/-- Reachable word `i` cannot end its chunk, or runs past the section. -/
def strays (ws : List SeqWord) (i : Nat) : Bool :=
  !((reachable ws [i]).any fun k => ((ws[k]?).map SW.chunkEnd).getD false)
    || (!(((ws[i]?).map SW.chunkEnd).getD false) && decide (ws.length ≤ i + 1))

/-- The words of a section that break R132. A run that is too long counts against the word at which it begins (DEDUCED, log 51). -/
def badWords (q : SeqSection) (rs : List Img.StreamRec) (res d : Nat) : List Nat :=
  let ws := q.words
  let es := roots q rs d
  let reach := reachable ws (es.map fun e => e.1)
  let starts := runStarts ws (es.map fun e => e.1)
  (List.range ws.length).filter fun i =>
    (match ws[i]? with
      | none => false
      | some w => wordBad res ws.length q.fetch.length w
          || es.any fun e => wordBadFor e.2 w && (reachable ws [e.1]).contains i)
    || (starts.contains i && decide (32768 < runFrom ws (ws.length + 1) [] i))
    || (reach.contains i && strays ws i)

/-- A stream's entry on a die is wrong. -/
def entryBad (q : SeqSection) (d : Nat) (r : Img.StreamRec) : Bool :=
  let e := (q.entries[r.index]?).getD 0
  if bitsAt r.dies d 1 = 1 then decide (q.words.length ≤ e) else e != 0xFFFFFFFF

/-- R132 and R120 on a die. -/
def wordsCheck (seqs : List SeqSection) (rs : List Img.StreamRec) (res : Nat → Nat) (d : Nat) : Option LoadErr :=
  let refuse (i : Nat) : LoadErr := (Status.refusedFormat, 0x0109, d + i * 256)
  match seqs.find? fun q => q.die == d with
  | none => (rs.find? fun r => bitsAt r.dies d 1 == 1).map fun r => refuse r.index
  | some q =>
    match rs.find? (entryBad q d) with
    | some r => some (refuse r.index)
    | none => (badWords q rs (res d) d).head?.map refuse

/-! ### Fetch descriptors (R158) -/

/-- Offsets `a` to `b - 1` lie in objects. -/
def covered (objs : List TierObj) : Nat → Nat → Nat → Bool
  | 0, a, b => decide (b ≤ a)
  | n + 1, a, b =>
    if b ≤ a then true
    else match objs.find? fun o => decide (o.offset ≤ a) && decide (a < o.offset + extent o) with
      | some o => covered objs n (o.offset + extent o) b
      | none => false

def fetchBad (objs : List TierObj) (job : Nat) (f : FetchDesc) : Bool :=
  slotOf (FD.src f) != job || !(covered objs objs.length (offsetOf (FD.src f)) (offsetOf (FD.src f) + FD.span f))

def fetchCheck (q : SeqSection) (objs : List TierObj) (job : Nat) : Option LoadErr :=
  (q.fetch.findIdx? (fetchBad objs job)).map fun i => (Status.refusedFormat, 0x010B, q.die + i * 256)

/-! ### Tier objects (R151, R155, R157, R166) -/

/-- Whole pages of an object. -/
def pagesOf (o : TierObj) : Nat := ceilDiv o.size 65536

/-- A segment lies outside its object or is larger than the window. -/
def segBad (o : TierObj) (g : Nat × Nat × Nat × Nat × Nat) : Bool :=
  g.1 % 65536 != 0 || g.2.1 == 0 || decide (o.windowPages < g.2.1) || decide (roundPage o.size < g.1 + g.2.1 * 65536)

/-- A schedule that breaks Table MEM-6 or R166. -/
def schedBad (o : Img.ObjImage) (b : List Byte) (count : Nat) : Bool :=
  let h := Img.readSched o b
  !h.complete || decide (count ≤ h.stream) || h.segs.any (segBad o.obj)
    || (h.varToken != 255 && (h.varWaitUs == 0 || decide (1000000 < h.varWaitUs)))

/-- A placement that leaves the reservation. -/
def pinnedBad (o : TierObj) (res : Nat → Nat) : Bool :=
  o.coreCount == 0 || decide (48 < o.coreFirst + o.coreCount) || o.sliceLines == 0
    || decide (o.coreCount * 64 * o.sliceLines < o.size) || outside (res o.homeDie) o.lineBase o.sliceLines

/-- A header that breaks R157. -/
def objBad (o : Img.ObjImage) (b : List Byte) (before : List TierObj) (count : Nat) (res : Nat → Nat) (usb : Bool) : Bool :=
  let x := o.obj
  o.short || x.size == 0 || decide (2 ^ 43 < x.size) || x.offset % 65536 != 0 || decide (2 ^ 43 < x.offset + roundPage x.size)
    || decide (x.size < o.bytes.length) || before.any (fun y => decide (x.offset < y.offset + roundPage y.size)
        && decide (y.offset < x.offset + roundPage x.size))
    || (x.policy != 3 && x.minResident != 0) || (x.policy != 2 && (x.windowPages != 0 || o.schedOff != 0))
    || (match x.policy with
      | 0 => pinnedBad x res
      | 2 => x.windowPages == 0 || schedBad o b count
      | 3 => decide (pagesOf x < x.minResident)
      | _ => false)
    || (usb && (x.t2Backed || x.policy == 2))

/-- The T1 bytes that an object takes of its home die. -/
def t1Need (o : TierObj) : Nat :=
  match o.policy with
  | 1 => roundPage o.size
  | 2 => o.windowPages * 65536
  | 3 => o.minResident * 65536
  | _ => 0

/-- The T1 bytes that a die's record must declare. -/
def t1Sum (im : List Byte) (objs : List TierObj) (d : Nat) : Nat :=
  ((objs.filter fun o => o.homeDie == d).map t1Need).sum + ((Img.seqSect im d).map fun x => roundPage (Img.plainLen im x).toNat).getD 0

def declaredT1 (rs : List DieRec) (d : Nat) : Nat := ((rs.find? fun r => r.die == d).map fun r => r.t1Bytes).getD 0

def objectsCheck (im : List Byte) (objs : List (Img.ObjImage × List Byte)) (res : Nat → Nat) (usb : Bool) : Option LoadErr :=
  let bad (k : Nat) : Bool := match objs[k]? with
    | some (o, b) => objBad o b ((objs.take k).map fun p => p.1.obj) (Img.streamCount im) res usb
    | none => false
  let xs := objs.map fun p => p.1.obj
  match (List.range objs.length).find? bad with
  | some k => some (Status.refusedFormat, 0x010A, ((xs[k]?).map fun o => o.sect).getD 0 + 0xFF00)
  | none => ((List.range 4).find? fun d => declaredT1 (Img.dieRecs im) d != t1Sum im xs d).map fun d =>
      (Status.refusedFormat, 0x010A, ((Img.ofType im 1).map fun p => p.2).getD 0 + d * 256)

/-! ### Gates and barriers (R75) -/

/-- A gate that waits names a token that the job does not declare. -/
def gateBad (tokens : Nat) (w : SeqWord) : Bool :=
  (SW.gateAN w != 0 && decide (tokens ≤ SW.gateAToken w)) || (SW.gateBN w != 0 && decide (tokens ≤ SW.gateBToken w))

def tokensOf (rs : List DieRec) (d : Nat) : Nat := ((rs.find? fun r => r.die == d).map fun r => r.tokens).getD 0

def gateCheck (q : SeqSection) (rs : List DieRec) : Option LoadErr :=
  (q.words.findIdx? (gateBad (tokensOf rs q.die))).map fun i => (Status.refusedFormat, 0x0121, q.die + i * 256)

/-- The first stops reached from a worklist without passing another barrier: barrier identifiers, or 16 for the chunk's end. -/
def stopsFrom (ws : List SeqWord) : Nat → List Nat → List Nat → List Nat → List Nat
  | 0, _, _, out => out
  | _, [], _, out => out
  | n + 1, i :: rest, seen, out =>
    if seen.contains i then stopsFrom ws n rest seen out
    else match ws[i]? with
      | none => stopsFrom ws n rest seen out
      | some w =>
        let stop := if SW.barrierEn w then some (SW.barrierId w) else if SW.chunkEnd w then some 16 else none
        match stop with
        | some b => stopsFrom ws n rest (i :: seen) (if out.contains b then out else out ++ [b])
        | none => stopsFrom ws n (succs ws i ++ rest) (i :: seen) out

def stops (ws : List SeqWord) (from' : List Nat) : List Nat := stopsFrom ws (from'.length + 2 * ws.length + 1) from' [] []

/-- What follows barrier `b` on the paths from an entry: none where no path reaches it. -/
def afterBarrier (ws : List SeqWord) (entry b : Nat) : Option (List Nat) :=
  let at' := (reachable ws [entry]).filter fun i => match ws[i]? with
    | some w => SW.barrierEn w && SW.barrierId w == b
    | none => false
  if at'.isEmpty then none
  else
    let ends := at'.any fun i => ((ws[i]?).map SW.chunkEnd).getD false
    let next := stops ws (at'.flatMap (succs ws))
    some (if ends && !(next.contains 16) then next ++ [16] else next)

/-- The stops of a stream on a die: from the entry, and from each barrier. -/
def stopTable (ws : List SeqWord) (entry : Nat) : List (Option (List Nat)) :=
  some (stops ws [entry]) :: (List.range 16).map (afterBarrier ws entry)

/-- A stream breaks the barrier order on a die: a set with more than one stop, or another stop than on its first die. -/
def barrierBad (seqs : List SeqSection) (r : Img.StreamRec) (d : Nat) : Bool :=
  let table (k : Nat) : List (Option (List Nat)) := match seqs.find? fun q => q.die == k with
    | some q => stopTable q.words (q.entries.getD r.index 0)
    | none => []
  let first := ((List.range 4).find? fun k => bitsAt r.dies k 1 == 1).getD 0
  let wide (x : Option (List Nat)) : Bool := match x with
    | some l => l.length != 1
    | none => false
  (table d).any wide || table d != table first

def barrierCheck (seqs : List SeqSection) (rs : List Img.StreamRec) (d : Nat) : Option LoadErr :=
  refuseIf (rs.any fun r => bitsAt r.dies d 1 == 1 && decide (1 < (List.range 4).countP fun k => bitsAt r.dies k 1 == 1)
    && barrierBad seqs r d) Status.refusedFit 0x020C d

/-! ### The dummy set (R419, R420) -/

/-- The lines that a word uses as data, with what its kicks write, as far as the image tells. -/
def usedLines (q : SeqSection) (w : SeqWord) : List (Nat × Nat) :=
  (if SW.aloadSrc w = 1 then [(SW.aloadAddr w, 11 * SW.aloadCoreStride w + 64)]
    else if SW.aloadSrc w = 2 then [(SW.aloadAddr w, 11 * SW.aloadCoreStride w + 1)] else [])
  ++ (if SW.postEn w || (SW.rspan w).isSome then [(SW.ldesc w, 1)] else [])
  ++ (if SW.postEn w && SW.postDest w == 0 then [(SW.postAddr w, drainLines w)] else [])
  ++ vpuSpans w
  ++ (if SW.stgOp w ≠ 0 ∧ SW.stgOp w ≠ 7 ∧ (SW.stgDstSel w = 1 ∨ SW.stgDstSel w = 2) then [(SW.stgDst w, SW.stgLen w)] else [])
  ++ (((q.fetch.drop (SW.ftFirst w)).take (SW.ftCount w)).filter fun f => decide (FD.dstKind f ≤ 1)).map fun f =>
      (FD.dst f, (FD.rows f - 1) * FD.dstStride f + ceilDiv (FD.len f) 64)

/-- The tokens that a word and its kicks name. -/
def usedTokens (q : SeqSection) (w : SeqWord) : List Nat :=
  (if SW.gateAN w = 0 then [] else [SW.gateAToken w]) ++ (if SW.gateBN w = 0 then [] else [SW.gateBToken w])
  ++ (if SW.signalInc w = 0 then [] else [SW.signalToken w]) ++ (if SW.selectEn w then [SW.selectToken w] else [])
  ++ (if SW.dlOp w = 1 then [SW.dlToken w] else [])
  ++ ((q.fetch.drop (SW.ftFirst w)).take (SW.ftCount w)).flatMap fun f =>
      FD.doneToken f :: if FD.waitN f = 0 then [] else [FD.waitToken f]

/-- A word leaves a dummy's ranges, or folds into or drains a stream bank. -/
def dummyWordBad (q : SeqSection) (r : DummyRec) (w : SeqWord) : Bool :=
  (foldBanks w).any (fun b => decide (2 ≤ b)) || (SW.postEn w && decide (2 ≤ SW.postBank w))
    || (usedTokens q w).any (fun t => decide (t < r.tokenFirst) || decide (r.tokenFirst + r.tokenCount ≤ t))
    || (usedLines q w).any fun p => decide (p.1 < r.lineFirst) || decide (r.lineFirst + r.lineCount < p.1 + p.2)

/-- The object that holds `n` bytes from an offset. -/
def objOver (objs : List TierObj) (off n : Nat) : Option TierObj :=
  objs.find? fun o => decide (o.offset ≤ off) && decide (off + n ≤ o.offset + extent o)

/-- A record breaks a rule on a die of its stream. -/
def dummyDieBad (seqs : List SeqSection) (dies : List DieRec) (res : Nat → Nat) (r : DummyRec) (d : Nat) : Bool :=
  let e := r.entries.getD d 0
  match seqs.find? fun q => q.die == d with
  | none => true
  | some q => decide (tokensOf dies d < r.tokenFirst + r.tokenCount) || outside (res d) r.lineFirst r.lineCount
      || decide (q.words.length ≤ e)
      || (reachable q.words [e]).any fun i => ((q.words[i]?).map (dummyWordBad q r)).getD false

/-- Record `i` breaks R420. -/
def dummyBad (b : List Byte) (rs : List Img.StreamRec) (dies : List DieRec) (objs : List TierObj) (seqs : List SeqSection)
    (res : Nat → Nat) (i : Nat) : Bool :=
  let r := Img.dummyAt b i
  let weightOf (off : Nat) : Option Bool := (objOver objs off r.outLen).map fun o => o.weight
  decide (b.length < 16 + 128 * (i + 1)) || ((List.range i).any fun k => (Img.dummyAt b k).stream == r.stream)
    || r.outLen == 0 || decide (2 ^ 20 < r.outLen) || weightOf r.gold != some true || weightOf r.out != some false
    || (match rs[r.stream]? with
      | none => true
      | some x => !x.safety || (List.range 4).any fun d => bitsAt x.dies d 1 == 1 && dummyDieBad seqs dies res r d)

def dummyCheck (b : List Byte) (rs : List Img.StreamRec) (dies : List DieRec) (objs : List TierObj) (seqs : List SeqSection)
    (res : Nat → Nat) : Option LoadErr :=
  let n := rdLE b 0 2
  match (List.range n).find? (dummyBad b rs dies objs seqs res) with
  | some i => some (Status.refusedFormat, 0x011B, i)
  | none => (rs.find? fun r => r.safety && !((List.range n).any fun i => (Img.dummyAt b i).stream == r.index)).map fun r =>
      (Status.refusedFormat, 0x011B, 0xFFFF + r.index * 65536)

/-! ### Step 5 (R70) -/

def contentCheck (im : List Byte) (job : Nat) (s : State) : Option LoadErr :=
  let rs := Img.streams im
  let dies := Img.dieRecs im
  let res (d : Nat) : Nat := ((dies.find? fun r => r.die == d).map resLines).getD 0
  let objs := Img.objects im s
  let xs := objs.map fun p => p.1.obj
  let seqs := (List.range 4).filterMap fun d => (Img.seqSect im d).map fun x => Img.readSeq im x ((Img.plain im x s).getD [])
  firstRefusal
    [(List.range 4).findSome? (wordsCheck seqs rs res), seqs.findSome? fun q => fetchCheck q xs job,
      objectsCheck im objs res (usbAttached s), seqs.findSome? fun q => gateCheck q dies,
      (List.range 4).findSome? (barrierCheck seqs rs), dummyCheck (Img.dummyBytes im s) rs dies xs seqs res]

end Chk

end Sys2Proof.Machine
end

