-- ==== Sys2Proof/Machine/Slots.lean ====
section
/-!
DEFINITION. The firmware slots of the boot flash as other chapters read them: headers, versions, epochs (R456, R457).
-/
namespace Sys2Proof.Machine
open Sys2Proof

/-- The header stored in a slot (Table SEC-9). -/
def slotHeader (k : Nat) (s : State) : List Byte := rdMem s (flashAddr k 0) 512

/-- A slot's record. -/
def slotOfFlash (k : Nat) (s : State) : Slot := s.upd.slots.getD k { state := 0, factory := false }

/-- VERSION of a slot's image; a slot with no image has 0. -/
def slotVersion (k : Nat) (s : State) : Nat :=
  let x := slotOfFlash k s
  if x.factory then Config.factoryVersion.toNat else rdLE (slotHeader k s) 12 4

/-- EPOCH of a slot's image. -/
def slotEpoch (k : Nat) (s : State) : Nat :=
  let x := slotOfFlash k s
  if x.factory then Config.factoryEpoch.toNat else rdLE (slotHeader k s) 16 1

/-- VERSION of the running firmware; 0 in recovery (UPD_VERSION.RUNNING). -/
def runningVersion (s : State) : Nat := if s.upd.recovery then 0 else slotVersion s.upd.runningSlot s

end Sys2Proof.Machine
end

