-- ==== Sys2Proof/Machine/Fit.lean ====
section
/-!
DEFINITION. The fit check of a load: the limits of Table JOB-3 and the stage slots (R26, R73, R79 to R82, R157, R405, R406).
-/
namespace Sys2Proof.Machine
open Sys2Proof

/-! ### Declared resources (Table JOB-3) -/

/-- A figure of a die record, over all resident jobs and a new declaration. -/
def declared (f : DieRec → Nat) (new : List DieRec) (d : Nat) (s : State) : Nat :=
  let on (l : List DieRec) : Nat := ((l.filter fun r => r.die == d).map f).sum
  on new + (s.jobs.map fun p => on p.2.dieRecs).sum

/-- The first die on which a figure passes its limit. -/
def overLimit (f : DieRec → Nat) (limit : Nat) (new : List DieRec) (n : Nat) (s : State) : Option Nat :=
  (List.range n).find? fun d => decide ((if d = 4 then 448 else limit) < declared f new d s)

/-- Lines of every core store of a die. -/
def coreLines : Nat := 3072

/-- Reservations on a die: first line and lines. -/
def reservations (d : Nat) (s : State) : List (Nat × Nat) :=
  s.jobs.flatMap fun p => (p.2.dieRecs.filter fun r => r.die == d).map fun r => (r.base, resLines r)

/-- The lowest line from which `n` lines are free. -/
def reserveAt (d n : Nat) (s : State) : Option Nat :=
  let taken := reservations d s
  ((0 :: taken.map fun p => p.1 + p.2).mergeSort (fun a b => decide (a ≤ b))).find? fun b =>
    decide (b + n ≤ coreLines) && taken.all fun p => decide (b + n ≤ p.1) || decide (p.1 + p.2 ≤ b)

/-- Pages of the T2 pool that objects need (R157). -/
def t2Need (o : TierObj) : Nat :=
  (match o.policy with
    | 2 => Chk.pagesOf o
    | 3 => Chk.pagesOf o - o.minResident
    | _ => 0) + if o.t2Backed then Chk.pagesOf o else 0

/-- Stage slots that are free (R405). -/
def freeStages (s : State) : List Nat := (List.range 64).filter fun g => !(getB Fld.safeStageCfgEn g s)

/-- T1 space of Table JOB-3: 60 GiB, less 64 KiB for each retired frame (R175). -/
def t1Limit (s : State) : Nat := 60 * 2 ^ 30 - 65536 * s.tiers.retired.length

/-- The fit check's refusals in the order of Table JOB-3, then R406. `new` are the streams to be. A T0 size that fits as a sum, but for
which a die has no contiguous range of lines, is 0x0203 as well (DESIGN CHOICE, log 86). -/
def fitCheck (job base : Nat) (dies : List DieRec) (new : List Stream) (objs : List TierObj) (s : State) : Option LoadErr :=
  let no (detail : Nat) (d : Option Nat) : Option LoadErr := d.map fun d => (Status.refusedFit, detail, d)
  let all (c : Bool) : Option Nat := if c then some 0xFF else none
  let on (d : Nat) : List Stream := streamsOn d s ++ new.filter fun x => usesDie x d
  let die (p : Nat → Bool) : Option Nat := (List.range 4).find? p
  let count := new.length
  firstRefusal
    [no 0x0201 (all (jobOf job s).isSome),
      no 0x0202 (all (decide (64 < count) || decide (256 < base + count)
        || (List.range count).any fun i => (streamOf (base + i) s).isSome)),
      no 0x0203 (overLimit (fun r => r.t0Kib) 9216 dies 4 s),
      no 0x0203 (die fun d => dies.any fun r => r.die == d && (reserveAt d (resLines r) s).isNone),
      no 0x0204 (die fun d => decide (6 < ((on d).map fun x => x.banks).sum)),
      no 0x0205 (overLimit (fun r => r.seqWords) 1048576 dies 4 s),
      no 0x0206 (overLimit (fun r => r.fetchThreads) 1920 dies 5 s),
      no 0x0207 (overLimit (fun r => r.tokens) 240 dies 4 s),
      no 0x0208 (all (decide (t1Limit s < ((List.range 4).map fun d => declared (fun r => r.t1Bytes) dies d s).sum)
        || decide (freePool s < (objs.map t2Need).sum))),
      no 0x0209 (die fun d => decide ((3 : Rat) / 5 < trickBudget (floorOp d s) (on d))),
      no 0x020A (die fun d => ((on d).filter isGuaranteed).any fun x => !(latencyOk (floorOp d s) (on d) x)),
      no 0x020B (die fun d => !(guardOk (floorOp d s) (on d))),
      no 0x020D (all (decide ((freeStages s).length < new.countP fun x => x.safety)))]

/-- A load is short of T2 pages (MEM_ERR_STATUS.T2_SHORT, R157). -/
def t2Short (e : LoadErr) (objs : List TierObj) (s : State) : Bool := e.2.1 == 0x0208 && decide (freePool s < (objs.map t2Need).sum)

end Sys2Proof.Machine
end

