-- ==== Sys2Proof/Machine/Load.lean ====
section
/-!
DEFINITION. JOB_LOAD: the binding list, the order of the checks, placement, and the streams that a load creates (R68 to R73, R79, R83,
R120, R146, R155, R156, R165, R405, R419).
-/
namespace Sys2Proof.Machine
open Sys2Proof

/-- An opcode begun, with what follows it at once. -/
def beginSettled (id op : Nat) (f : Consumed → State → State) (s : State) : Host.Outcome State Fault Refusal :=
  match canBegin id op s with
  | none => .next s
  | some c =>
    match formatError c s with
    | some e => .next (refuseFenced (refuseFormat c e 0 s))
    | none => .next (settle (f c (markStarted id s)))

/-! ### Placement (R146, R156) -/

/-- The place of the first line of each die's reservation. -/
def placedRecs (dies : List DieRec) (s : State) : List DieRec :=
  dies.map fun r => if r.die < 4 then { r with base := (reserveAt r.die (resLines r) s).getD 0 } else r

/-- Pages of a sequence section stored in T1, by the placement order: `bytes` are what is left of the section (R120). -/
def placeSeq (home job : Nat) : Nat → List Byte → List Place → State → Option (List Place × State)
  | 0, _, ps, s => some (ps, s)
  | n + 1, bytes, ps, s => match placeT1Room home job s with
    | some (p, s) => placeSeq home job n (bytes.drop 65536) (ps ++ [p]) (store (placeAddr p) (fitBytes 65536 bytes) s)
    | none => none

/-- The sequence section of a die placed, and its pages recorded. -/
def placeSection (slot home : Nat) (bytes : List Byte) (s : State) : Option State :=
  (placeSeq home slot (ceilDiv bytes.length 65536) bytes [] s).map fun (ps, s) =>
    adjJob slot (fun j => { j with seqs := listUpdate j.seqs (fun q => q.die == home) fun q => { q with pages := ps } }) s

/-- The place of page `i` of an object by its policy: 1 PREFERRED_T1, 2 STREAMED, 3 SPILLABLE, whose first MIN_RESIDENT pages stand in
T1. -/
def placeOf (o : TierObj) (i job : Nat) (s : State) : Option (Place × State) :=
  let pool (s : State) : Option (Place × State) := (takePool job s).map fun (t, s) => (.t2 t, s)
  match o.policy with
  | 1 => placeT1Room o.homeDie job s
  | 2 => pool s
  | _ => if i < o.minResident then placeT1Room o.homeDie job s else (placeT1 o.homeDie job s).orElse fun _ => pool s

/-- A page placed with its contents, and its copy in the pool: the home of a STREAMED page, the backing of a T2_BACKED one. -/
def placePage (job : Nat) (o : TierObj) (bytes : List Byte) (i : Nat) (s : State) : Option State :=
  let page := (job * 2 ^ 43 + o.offset) / 65536 + i
  let data := fitBytes 65536 (bytes.drop (65536 * i))
  match placeOf o i job s with
  | none => none
  | some (p, s) =>
    let s := store (placeAddr p) data s
    let s := setTiers { s.tiers with pages := mapSet s.tiers.pages page p, unread := mapSet s.tiers.unread page 0 } s
    let s := match p with
      | .t2 t => if o.policy = 2 then setTiers { s.tiers with copies := mapSet s.tiers.copies page t } s else s
      | .t1 _ _ => s
      | .t0 _ _ _ => s
    if !(o.t2Backed) || o.policy = 2 then some s
    else (takePool job s).map fun (t, s) =>
      setTiers { s.tiers with copies := mapSet s.tiers.copies page t } (store (t2Addr t) data s)

/-- The pages of an object placed in order. -/
def placePages (job : Nat) (o : TierObj) (bytes : List Byte) : Nat → Nat → State → Option State
  | 0, _, s => some s
  | n + 1, i, s => match placePage job o bytes i s with
    | some s => placePages job o bytes n (i + 1) s
    | none => none

/-- Window frames on the home die. -/
def takeFrames (die job : Nat) : Nat → List Nat → State → Option (List Nat × State)
  | 0, fs, s => some (fs, s)
  | n + 1, fs, s => match takeFrameRoom die job s with
    | some (f, s) => takeFrames die job n (fs ++ [f]) s
    | none => none

/-- A window of a STREAMED object, at segment 0. -/
def makeWindow (job base k : Nat) (o : TierObj) (c : Img.Sched) (s : State) : Option State :=
  (takeFrames o.homeDie job o.windowPages [] s).map fun (fs, s) =>
    let w : Window :=
      { id := s.tiers.nextId, job := job, obj := k, stream := base + c.stream, cyclic := c.cyclic, varToken := c.varToken
        varWaitUs := c.varWaitUs, segs := c.segs, next := 0, copying := none, landed := [], fails := 0, lap := 0, frames := fs, pos := 0
        signalled := false, stopped := false, waitFrom := none }
    setTiers { s.tiers with windows := s.tiers.windows ++ [w], nextId := s.tiers.nextId + 1 } s

/-- A PINNED_T0 object's bytes, line by line. -/
def placePinned (j : Job) (o : TierObj) (bytes : List Byte) (s : State) : State :=
  forEach (List.range (ceilDiv o.size 64)) (fun i s =>
    store (pinnedAddr j o (64 * i)) (fitBytes (min 64 (o.size - 64 * i)) (bytes.drop (64 * i))) s) s

/-- An object placed. -/
def placeObject (job base : Nat) (j : Job) (k : Nat) (o : Img.ObjImage) (b : List Byte) (s : State) : Option State :=
  if o.obj.policy = 0 then some (placePinned j o.obj o.bytes s)
  else match placePages job o.obj o.bytes (Chk.pagesOf o.obj) 0 s with
    | none => none
    | some s => if o.obj.policy = 2 then makeWindow job base k o.obj (Img.readSched o b) s else some s

/-- A list of steps each of which may lack room. -/
def allPlaced {α : Type} (f : α → State → Option State) : List α → State → Option State
  | [], s => some s
  | x :: l, s => match f x s with
    | some s => allPlaced f l s
    | none => none

/-! ### Streams (R72, R79, R83, R122, R405) -/

/-- A stream as its record declares it, before it has banks, a context or a bound. -/
def newStream (job sq : Nat) (r : Img.StreamRec) (s : State) : Stream :=
  { job := job, index := r.index, cls := r.cls, triggered := r.triggered, safety := r.safety, dies := r.dies, banks := r.banks
    rate := r.rate, wcetNs := r.wcetNs, dummyTricks := r.dummyTricks, dummyUs := if r.intervalUs = 0 then 100000 else r.intervalUs
    sq := sq, boundUs := 0, checkedOp := 0, valid := true, phys := [], trigger := none, misses := 0, items := [], retiring := false
    ctx := [], dummy :=
      { lastStart := s.clock, point := 0, due := false, owed := false, started := false, ended := false, failed := false, pausedAt := none
        doneDies := [], ctx := [] }
    jumped := false, lastEnd := 0 }

/-- The lowest free banks of a die. -/
def freeBanks (d n : Nat) (s : State) : List Nat :=
  (([2, 3, 4, 5, 6, 7] : List Nat).filter fun b => !((streamsOn d s).any fun x => (physOf x d).contains b)).take n

/-- A stream created: its banks, its entries, and its stage. -/
def createStream (st : Nat) (x : Stream) (s : State) : State :=
  match jobOf x.job s with
  | none => s
  | some j =>
    let ready (c : Ctx) : Ctx := { c with waitFrom := s.clock }
    let y : Stream := { x with
      phys := (diesOf x).foldl (fun m d => mapSet m d (freeBanks d x.banks s)) []
      ctx := (diesOf x).foldl (fun m d => mapSet m d (ready (freshCtx (entryOf j x d)))) [] }
    setStream st y s

/-- A SAFETY stream bound to the lowest free stage slot (R405). -/
def bindStage (st : Nat) (s : State) : State :=
  match streamOf st s, (freeStages s).head? with
  | some x, some g =>
    if !x.safety then s
    else
      let s := setF Fld.safeStageCfgStream g st (setF Fld.safeStageCfgSource g 0 (setB Fld.safeStageCfgEn g true s))
      let s := setF Fld.safeStageCfgLateUs g (if isGuaranteed x then x.boundUs else 100000) (setF Fld.safeStageCfgEarlyUs g 0 s)
      setF Fld.safeStageStatusRing g 0 s
  | _, _ => s

/-! ### JOB_LOAD -/

/-- The job as its image gives it. IMAGE_ID is kept here: the spec names no DLR register that shows it (log 85). -/
def newJob (im : List Byte) (base : Nat) (dies : List DieRec) (s : State) : Job :=
  { imageId := Img.imageId im, dieRecs := dies, streamBase := base, streamCount := Img.streamCount im
    seqs := (List.range 4).filterMap fun d => (Img.seqSect im d).map fun x => Img.readSeq im x ((Img.plain im x s).getD [])
    objs := (Img.objects im s).map fun p => p.1.obj
    dummies := (List.range (rdLE (Img.dummyBytes im s) 0 2)).map (Img.dummyAt (Img.dummyBytes im s))
    phase := .resident, safeTimes := [] }

/-- The sequence sections: die and plaintext. -/
def seqPlains (im : List Byte) (s : State) : List (Nat × List Byte) :=
  (List.range 4).filterMap fun d => (Img.seqSect im d).map fun x => (d, (Img.plain im x s).getD [])

/-- A load that has passed: resources claimed, objects placed, the SPILLABLE ones last, so that they take what the others leave
(log 51). None where T1 lacks room after all. -/
def placeJob (slot base : Nat) (im : List Byte) (s : State) : Option State :=
  let j := newJob im base (placedRecs (Img.dieRecs im) s) s
  let objs := (Img.objects im s).zipIdx
  let place (l : List ((Img.ObjImage × List Byte) × Nat)) (s : State) : Option State :=
    allPlaced (fun p s => placeObject slot base j p.2 p.1.1 p.1.2 s) l s
  match allPlaced (fun p s => placeSection slot p.1 p.2 s) (seqPlains im s) (setJob slot j s) with
  | none => none
  | some s => (place (objs.filter fun p => p.1.1.obj.policy != 3) s).bind (place (objs.filter fun p => p.1.1.obj.policy == 3))

/-- The streams of a load created, with their bounds and stages. -/
def createStreams (base : Nat) (new : List Stream) (s : State) : State :=
  let ns := (List.range new.length).map (· + base)
  let s := recheck (forEach (ns.zip new) (fun p s => createStream p.1 p.2 s) s)
  startCopies (forEach ns bindStage s)

/-- The ring that each stream is bound to, or the refusal of the binding list (R71). -/
inductive Binding where
  | rings (l : List Nat)
  | refused (e : LoadErr)
  | failed (r : InputResult)

/-- BIND_ADDR. -/
def bindAddr (c : Consumed) : Nat := arg c.desc 44 8

/-- The memory meets the read of a valid binding list. -/
def metList (c : Consumed) (count : Nat) (rd : ReadData) (s : State) : State :=
  let a := bindAddr c
  if a = 0 ∨ !(addrValid c.desc a (2 * count) true s) then s else meetInput a (2 * count) rd s

/-- The binding list of a load. -/
def bindings (c : Consumed) (count : Nat) (rd : ReadData) (s : State) : Binding :=
  let a := bindAddr c
  if a = 0 then .rings (List.replicate count c.sq)
  else if !(addrValid c.desc a (2 * count) true s) then .refused (Status.refusedFormat, 0x0102, 0)
  else match inputAt c a (2 * count) rd s with
    | .ok b =>
      let l := (List.range count).map fun i => rdLE b (2 * i) 2
      match l.find? fun r => decide (4096 ≤ r) || ringState 0 r s != 1 with
      | some r => .refused (Status.refusedFormat, 0x0120, r)
      | none => .rings l
    | r => .failed r

/-- A load refused. -/
def refuseLoad (c : Consumed) (e : LoadErr) (s : State) : State := completeOrWait c (plainFacts e.1 e.2.1 e.2.2) s

/-- Steps 1 to 5 after the binding list, then the load itself (R70). -/
def loadImage (c : Consumed) (im : List Byte) (rings : List Nat) (s : State) : State :=
  let slot := fld c.desc 24 5
  let base := arg c.desc 40 2
  let new := (Img.streams im).zipIdx.map fun (r, i) => newStream slot (rings.getD i c.sq) r s
  let objs := (Img.objects im s).map fun p => p.1.obj
  match (layoutCheck' im c).orElse fun _ => Img.authCheck im (runningVersion s) s with
  | some e => refuseLoad c e s
  | none =>
    match fitCheck slot base (Img.dieRecs im) new objs s with
    | some e => refuseLoad c e (if t2Short e objs s then setB Fld.memErrStatusT2Short 0 true s else s)
    | none =>
      match Chk.contentCheck im slot s with
      | some e => refuseLoad c e s
      | none =>
        match placeJob slot base im s with
        | none => refuseLoad c (Status.refusedFit, 0x0208, 0xFF) s
        | some s => done c new.length (createStreams base new s)
where
  layoutCheck' (im : List Byte) (c : Consumed) : Option LoadErr := Img.layoutCheck im (inLen c.desc)

/-- JOB_LOAD's effect. The binding list is as long as the declaration's STREAM_COUNT says, before any check of the image (DEDUCED,
log 85). -/
def jobLoad (image binding : ReadData) (c : Consumed) (s : State) : State :=
  withInput c image (fun im s =>
    let s := metList c (Img.streamCount im) binding s
    match bindings c (Img.streamCount im) binding s with
    | .rings l => loadImage c im l s
    | .refused e => refuseLoad c e s
    | .failed r => inputFailed c r s) s

/-- JOB_LOAD (R70). -/
def execJobLoad (id : Nat) (image binding : ReadData) (s : State) : Host.Outcome State Fault Refusal :=
  beginSettled id Op.jobLoad (jobLoad image binding) s

end Sys2Proof.Machine
end

