-- ==== Sys2Proof/Machine/Jobs.lean ====
section
/-!
DEFINITION. The opcodes that queue, cancel, swap, retire, unload and restart (R48, R74, R76, R83 to R85, R428, R476; Table JOB-4).
-/
namespace Sys2Proof.Machine
open Sys2Proof

/-! ### Queueing (R74, R85) -/

def pushItem (st : Nat) (i : Item) (s : State) : State := adjStream st (fun x => { x with items := x.items ++ [i] }) s

/-- An opcode on a stream of a job in service; on a held job it completes at once, and after JOB_UNLOAD it is cancelled (R428). The
stream is the one that the format checks found. -/
def onStream (c : Consumed) (f : Nat → Stream → State → State) (s : State) : State :=
  let st := fld c.desc 16 8
  match streamOf st s with
  | none => s
  | some x =>
    let control := isQueueOp (fld c.desc 0 8) && x.cls == 0
    match phaseOf x.job s with
    | some .held => completeFor control c (turnedAway x c Status.abortedJobRestart) s
    | some (.unloading _) => completeFor control c (turnedAway x c Status.cancelled) s
    | _ => f st x s

/-- A chunk, swap or retire: refused once a retire has been consumed (Table JOB-4). -/
def onLive (c : Consumed) (f : Nat → Stream → State → State) (s : State) : State :=
  onStream c (fun st x s => if x.retiring then refuseFormat c 0x0104 0 s else f st x s) s

/-- CHUNK (R74). -/
def chunk (c : Consumed) (s : State) : State :=
  onLive c (fun st x s =>
    if x.triggered then refuseFormat c 0x0106 0 s else pushItem st (newItem c.id .chunk (.bytes [])) s) s

def execChunk (id : Nat) (s : State) : Host.Outcome State Fault Refusal := beginSettled id Op.chunk chunk s

/-- The items behind the last swap that a stream has queued: they start from its new state. -/
def afterSwaps (l : List Item) : List Item := (l.reverse.takeWhile fun i => i.kind != .swap && i.kind != .forced).reverse

/-- A swap is queued on the stream. -/
def swapQueued (x : Stream) : Bool := x.items.any fun i => i.kind == .swap || i.kind == .forced

/-- The trigger that a new pre-posted chunk has to name: the stream's, or, behind a queued swap, that of the first chunk posted behind
it (R76). -/
def triggerFor (x : Stream) (s : State) : Option Nat :=
  if swapQueued x then
    ((afterSwaps x.items).find? fun i => i.kind == .triggered).bind fun i => (consumedById i.id s).map fun c => arg c.desc 36 1
  else x.trigger

/-- CHUNK_TRIGGERED: the first one after the stream's creation or a swap fixes the stream's trigger (R74, R76, R248). -/
def chunkTriggered (c : Consumed) (s : State) : State :=
  onLive c (fun st x s =>
    let trig := arg c.desc 36 1
    if !x.triggered then refuseFormat c 0x0106 0 s
    else if 72 ≤ trig then refuseFormat c 0x010F 0 s
    else if ((triggerFor x s).getD trig) != trig then refuseFormat c 0x0107 0 s
    else pushItem st (newItem c.id .triggered (.bytes []))
      (if swapQueued x then s else adjStream st (fun x => { x with trigger := some trig }) s)) s

def execChunkTriggered (id : Nat) (s : State) : Host.Outcome State Fault Refusal := beginSettled id Op.chunkTriggered chunkTriggered s

/-! ### Items that complete without running -/

/-- The frame of a released chunk that will not run closes; the next released chunk's opens (R407). -/
def closeFrame (st id : Nat) (s : State) : State :=
  match streamOf st s, stageOf st s with
  | some x, some g =>
    let open' := x.items.find? fun i => isChunk i && (i.phase == .released || i.phase == .started)
    if (open'.map fun i => i.id) == some id then dropStage g s else s
  | _, _ => s

/-- The window of the chunk that is now the first released one. -/
def reopenFrame (st : Nat) (s : State) : State :=
  match streamOf st s, stageOf st s with
  | some x, some g =>
    if (stageRun g s).openAt.isSome then s
    else match x.items.find? fun i => isChunk i && (i.phase == .released || i.phase == .started) with
      | some i => openFrame st x i s
      | none => s
  | _, _ => s

/-- A queued item completes with a status and leaves its stream. -/
def endItem (st : Nat) (status : Nat) (i : Item) (s : State) : State :=
  match streamOf st s with
  | none => s
  | some x =>
    let s := dropItem st i.id (closeFrame st i.id s)
    let s := match consumedById i.id s with
      | some c => completeFor (x.cls == 0) c (chunkFacts x { i with facts := plainFacts status 0 0 }) s
      | none => s
    reopenFrame st s

/-- A chunk that has not started, or a swap that has not been executed. -/
def isIdleChunk (i : Item) : Bool := isChunk i && (i.phase == .waiting || i.phase == .released)
def isIdleSwap (i : Item) : Bool := (i.kind == .swap || i.kind == .forced) && i.phase == .waiting

/-- Items of a stream that meet a test complete with a status, in consumption order. -/
def endItems (st status : Nat) (p : Item → Bool) (s : State) : State :=
  forEach (((streamOf st s).map fun x => x.items.filter p).getD []) (endItem st status) s

/-- Consumed chunks of a stream that carry a tag and have not begun: they wait for a FENCE or for their turn (R48). -/
def unbegun (st tag : Nat) (s : State) : List Consumed :=
  s.host.consumed.filter fun c => (fld c.desc 0 8 == Op.chunk || fld c.desc 0 8 == Op.chunkTriggered) && fld c.desc 16 8 == st
    && fld c.desc 32 32 == tag && !c.started && !(s.host.decided.any fun p => p.1 == c.id) && (formatError c s).isNone

/-- CANCEL: chunks not yet released that carry the tag, whether they stand in the stream's queue or have not begun (R48). -/
def cancel (c : Consumed) (s : State) : State :=
  onStream c (fun st x s =>
    let tag := arg c.desc 40 4
    let hit (i : Item) : Bool := isChunk i && i.phase == .waiting
      && ((consumedById i.id s).map fun k => fld k.desc 32 32) == some tag
    let early := unbegun st tag s
    done c (x.items.countP hit + early.length)
      (forEach early (fun k s => completeFor (x.cls == 0) k (turnedAway x k Status.cancelled) s) (endItems st Status.cancelled hit s))) s

def execCancel (id : Nat) (s : State) : Host.Outcome State Fault Refusal := beginSettled id Op.cancel cancel s

/-! ### Swaps (R83, R84) -/

/-- Bytes of a stream's state: 480 KiB for each bank of each die. -/
def stateSize (x : Stream) : Nat := x.banks * 491520 * (diesOf x).length

/-- A swap queued, where its lengths fit. -/
def queueSwap (kind : ItemKind) (input : ReadData) (c : Consumed) (before : Nat → State → State) (s : State) : State :=
  onLive c (fun st x s =>
    let bad (n : Nat) : Bool := n != 0 && n != stateSize x
    if x.banks = 0 then refuseFormat c 0x0108 0 s
    else if bad (inLen c.desc) || bad (outLen c.desc) then refuseFormat c 0x0105 0 s
    else pushItem st { newItem c.id kind input with releasedAt := s.clock } (before st s)) s

/-- STREAM_SWAP (R84). -/
def execStreamSwap (id : Nat) (input : ReadData) (s : State) : Host.Outcome State Fault Refusal :=
  beginSettled id Op.streamSwap (fun c s => queueSwap .swap input c (fun _ s => s) s) s

/-- STREAM_SWAP_FORCED: what waits before it is evicted (Table JOB-4). -/
def execStreamSwapForced (id : Nat) (input : ReadData) (s : State) : Host.Outcome State Fault Refusal :=
  beginSettled id Op.streamSwapForced (fun c s =>
    queueSwap .forced input c (fun st s => endItems st Status.stateEvicted (fun i => isIdleChunk i || isIdleSwap i) s) s) s

/-- Keys of the words of a bank in the order in which a swap moves them: core, array, row, column (log 52). -/
def bankKeys (d b : Nat) : List Nat :=
  (List.range 48).flatMap fun c => (List.range 4).flatMap fun a => (List.range 32).flatMap fun r =>
    (List.range 16).map fun k => accKey d c a b r k

/-- The banks of a stream in the order in which a swap moves them: die, then stream bank. -/
def stateBanks (x : Stream) : List (Nat × Nat) := (diesOf x).flatMap fun d => (physOf x d).map fun b => (d, b)

/-- A stream's state as bytes: 5 bytes a word, little-endian. -/
def stateBytes (x : Stream) (s : State) : List Byte :=
  (stateBanks x).flatMap fun (d, b) => (bankKeys d b).flatMap fun k => natLe 5 (accWord k s).toNat

/-- Words loaded from bytes; zero words stay unlisted. -/
def loadWords (ks : List Nat) (bs : List Byte) (s : State) : State :=
  { s with acc := (ks.zip (chunksOf 5 ks.length bs)).foldl (fun m (k, w) =>
      if leNat w = 0 then m else mapSet m k (BitVec.ofNat 40 (leNat w))) s.acc }

/-- A stream's state replaced; no bytes are zeros. -/
def loadState (x : Stream) (bs : List Byte) (s : State) : State :=
  loadWords ((stateBanks x).flatMap fun (d, b) => bankKeys d b) bs (zeroStream x s)

/-- After a swap: counters at 0, and the trigger of the next triggered chunk that is queued, if any (R76, R84, R127). -/
def afterSwap (st : Nat) (s : State) : State :=
  adjStream st (fun x =>
    let next := ((beforeSwap x.items).find? fun i => i.kind == .triggered).bind fun i => (consumedById i.id s).map fun c => arg c.desc 36 1
    { x with
      trigger := if x.triggered then next else none
      ctx := x.ctx.map fun p => (p.1, { p.2 with tokens := [] }) }) s

/-- The transfer of a swap that has had its item on every die. A failed input leaves the state as it is (DEDUCED, log 52). -/
def doSwap (st : Nat) (i : Item) (s : State) : State :=
  match streamOf st s, consumedById i.id s with
  | some x, some c =>
    let s := openInput c i.input (dropItem st i.id s)
    match inputOf c i.input s with
    | .ok bs =>
      let (f, s) := makeOutput c (stateBytes x s) (plainFacts Status.done 0 0) s
      completeFor (x.cls == 0) c f (afterSwap st (loadState x bs s))
    | r => inputFailed c r s
  | _, _ => s

/-! ### Retire, unload, restart -/

/-- STREAM_RETIRE: VALID clears, and it takes effect at the head of its stream (R85). -/
def execStreamRetire (id : Nat) (s : State) : Host.Outcome State Fault Refusal :=
  beginSettled id Op.streamRetire (fun c s =>
    onLive c (fun st _ s => pushItem st (newItem c.id .retire (.bytes [])) (adjStream st (fun x => { x with retiring := true }) s)) s) s

/-- JOB_UNLOAD of an occupied slot: what has not started is cancelled, and a held job is released (R85, R428). -/
def unloadJob (j : Nat) (c : Consumed) (job : Job) (s : State) : State :=
  let s := forEach ((jobStreams j s).map fun p => p.1) (fun st s =>
    adjStream st (fun x => { x with valid := false })
      (endItems st Status.cancelled (fun i => isIdleChunk i || isIdleSwap i || i.kind == .retire) s)) s
  let go (ids : List Nat) (s : State) : State := adjJob j (fun x => { x with phase := .unloading ids }) s
  match job.phase with
  | .resident => go [c.id] s
  | .unloading ids => go (ids ++ [c.id]) s
  | .restarting ids =>
    let s := setJobBit Fld.safeStatusRestarting j false s
    let s := forEach ids (fun id s => completeId id (plainFacts Status.done 0 0) s) s
    showFault (go [c.id] s)
  | .held => showFault (go [c.id] (setJobBit Fld.safeHeldHeld j false s))

/-- JOB_UNLOAD (R85). -/
def execJobUnload (id : Nat) (s : State) : Host.Outcome State Fault Refusal :=
  beginSettled id Op.jobUnload (fun c s =>
    let j := fld c.desc 24 5
    match jobOf j s with
    | none => refuseFormat c 0x0103 0 s
    | some job => unloadJob j c job s) s

/-- JOB_RESTART of an occupied slot (R428, R476, Table RST-4). -/
def restartJob (j : Nat) (c : Consumed) (job : Job) (s : State) : State :=
  let go (s : State) : State := jobReset j [c.id] (if bitsAt (getF Fld.safeCfgHuskJobs 0 s) j 1 = 1 then enterHusk 1 s else s)
  match job.phase with
  | .restarting ids => adjJob j (fun x => { x with phase := .restarting (ids ++ [c.id]) }) s
  | .resident => go s
  | .unloading _ => go s
  | .held => go s

/-- JOB_RESTART (R476). -/
def execJobRestart (id : Nat) (s : State) : Host.Outcome State Fault Refusal :=
  beginSettled id Op.jobRestart (fun c s =>
    let j := fld c.desc 24 5
    match jobOf j s with
    | none => refuseFormat c 0x0103 0 s
    | some job => restartJob j c job s) s

end Sys2Proof.Machine
end

