-- ==== Sys2Proof/Machine/Dealer.lean ====
section
/-!
DEFINITION. The Dealer: what it chooses at a trick boundary, how a trick, a chunk and a dummy frame start, and a trick that is
abandoned (R27, R78, R81, R83, R85, R122, R135, R196, R372, R421, R424).
-/
namespace Sys2Proof.Machine
open Sys2Proof

/-! ### What streams ask of a die -/

/-- Work of the head item of a stream on a die: its kind. Nothing starts while a dummy frame must pass first (R424). -/
def headWork (x : Stream) (d : Nat) : Option (Item × TrickKind) :=
  match x.items with
  | [] => none
  | i :: _ =>
    if i.doneDies.contains d then none
    else match i.kind, i.phase with
      | .retire, _ => none
      | _, .ended => none
      | .swap, _ => some (i, .swap)
      | .forced, _ => some (i, .swap)
      | _, .waiting => none
      | _, .released => if x.dummy.owed then none else some (i, .chunk)
      | _, .started => some (i, .chunk)

/-- The dies of a stream run, with the memory of its job (R372); a job that stands still, or is being unloaded before the item has
started, gives it nothing. -/
def usable (x : Stream) (i : Item) (s : State) : Bool :=
  inService x s && (match phaseOf x.job s with
    | some .resident => true
    | some (.unloading _) => i.phase == .started
    | _ => false)

/-- The streams that use a die, with their numbers. -/
def diePairs (d : Nat) (s : State) : List (Nat × Stream) := s.streams.filter fun p => usesDie p.2 d

/-- The least of a list by a key; the first of those that tie. -/
def leastBy {α : Type} (key : α → Nat) : List α → Option α
  | [] => none
  | x :: xs => match leastBy key xs with
    | none => some x
    | some y => if key y < key x then some y else some x

/-- Usable work of the guaranteed CONTROL streams on a die: stream, item, kind. -/
def guaranteedWork (d : Nat) (s : State) : List (Nat × Item × TrickKind) :=
  ((diePairs d s).filter fun p => isGuaranteed p.2).filterMap fun (st, x) =>
    (headWork x d).bind fun (i, k) => if usable x i s then some (st, i, k) else none

/-- The started guaranteed CONTROL chunk on a die: nothing preempts it (R78). -/
def startedGuaranteed (d : Nat) (s : State) : Option (Nat × Item × TrickKind) :=
  (guaranteedWork d s).find? fun w => w.2.1.phase == .started && w.2.2 == .chunk

/-- The guaranteed CONTROL work that was released first; ties by lower stream number (R78). -/
def earliestGuaranteed (d : Nat) (s : State) : Option (Nat × Item × TrickKind) := leastBy (fun w => w.2.1.releasedAt) (guaranteedWork d s)

/-- The forced point of a stream's dummy frame on a die (R78, R81). -/
def forcedPoint (x : Stream) (d : Nat) (s : State) : Nat :=
  if x.dummy.started then x.dummy.point else x.dummy.lastStart + dummyNs x - dieGuard d s

/-- A dummy frame that may run on a die. -/
def dummyCan (x : Stream) (d : Nat) (s : State) : Bool :=
  x.safety && !(x.dummy.ended) && !(x.dummy.doneDies.contains d) && inService x s

/-- A due dummy frame: at its forced point, owed, or started (R78, R424). -/
def dummyDue (x : Stream) (d : Nat) (s : State) : Bool :=
  x.dummy.due || x.dummy.owed || x.dummy.started || decide (forcedPoint x d s ≤ s.clock)

/-- The due or started dummy frame with the earliest forced point on a die. -/
def dueDummy (d : Nat) (s : State) : Option (Nat × Stream) :=
  leastBy (fun p => forcedPoint p.2 d s) ((diePairs d s).filter fun p => dummyCan p.2 d s && dummyDue p.2 d s)

/-- A dummy frame at least half its interval after its last start (R78). -/
def idleDummy (d : Nat) (s : State) : Option (Nat × Stream) :=
  leastBy (fun p => forcedPoint p.2 d s)
    ((diePairs d s).filter fun p => dummyCan p.2 d s && decide (2 * p.2.dummy.lastStart + dummyNs p.2 ≤ 2 * s.clock))

/-- The dies on which the head item of a stream still has to run. -/
def openDies (x : Stream) : List Nat := (diesOf x).filter fun d => (headWork x d).isSome

/-- A stream is ready on a die, for the flexible classes: it has work, its dies run, none of them is held for another stream, and its
next completion has room where its class is not CONTROL (R78, R372). -/
def readyOn (d st : Nat) (x : Stream) (s : State) : Bool :=
  match headWork x d with
  | none => false
  | some (i, _) =>
    usable x i s && (x.cls == 0 || roomFor (boundCq x.sq s) s)
      && (openDies x).all fun k => ((dieOf k s).gang.map fun g => g == st).getD true

/-- Ready flexible streams on a die. -/
def flexible (d : Nat) (s : State) : List (Nat × Stream) :=
  (diePairs d s).filter fun p => !(isGuaranteed p.2) && readyOn d p.1 p.2 s

/-- A field that acts as 1 where it is 0. -/
def orOne (n : Nat) : Nat := if n = 0 then 1 else n

/-- The quantum of a class in tricks (DLR_CLASS_CFG). -/
def quantumOf (cls : Nat) (s : State) : Nat :=
  match cls with
  | 0 => 1
  | 1 => orOne (getF Fld.dlrClassCfgPercQuantum 0 s)
  | 2 => orOne (getF Fld.dlrClassCfgDelibQuantum 0 s)
  | _ => orOne (getF Fld.dlrClassCfgBackQuantum 0 s)

/-- The age limit of a class in ns: PERCEPTION and unguaranteed CONTROL have none. -/
def ageNs (cls : Nat) (s : State) : Option Nat :=
  match cls with
  | 2 => some (orOne (getF Fld.dlrClassCfgDelibAge 0 s) * 1000000)
  | 3 => some (orOne (getF Fld.dlrClassCfgBackAge 0 s) * 1000000)
  | _ => none

/-- A stream's wait on a die (R78). -/
def waitOn (x : Stream) (d : Nat) (s : State) : Nat := s.clock - (ctxOf x d).waitFrom

/-- A stream whose wait exceeds its class's age limit. -/
def aged (d : Nat) (x : Stream) (s : State) : Bool :=
  match ageNs x.cls s with
  | some n => decide (n < waitOn x d s)
  | none => false

/-- The next stream of a class in round-robin order after the last one served (R78). -/
def nextInClass (d cls : Nat) (l : List (Nat × Stream)) (s : State) : Option Nat :=
  let last := (dieOf d s).rr.getD cls 256
  let c := (l.filter fun p => p.2.cls == cls).map fun p => p.1
  (c.find? fun n => decide (last < n)).orElse fun _ => c.head?

/-- The last trick of a die was one of this stream, whose quantum is not spent. -/
def inQuantum (st : Nat) (x : Stream) (y : Die) (s : State) : Bool :=
  !y.lastDummy && y.lastStream == some st && decide (y.quantum < quantumOf x.cls s)

/-- pick_flexible (R78). -/
def pickFlexible (d : Nat) (s : State) : Option Nat :=
  let l := flexible d s
  let y := dieOf d s
  let old := l.filter fun p => aged d p.2 s
  let stay := l.find? fun p => inQuantum p.1 p.2 y s
    && old.isEmpty && l.all fun q => decide (p.2.cls ≤ q.2.cls)
  match stay with
  | some p => some p.1
  | none =>
    match leastBy (fun p => (ctxOf p.2 d).waitFrom) old with
    | some p => some p.1
    | none => ([0, 1, 2, 3] : List Nat).findSome? fun c => nextInClass d c l s

/-! ### Starting -/

/-- Scratch after a trick of another stream: free bytes (R135). -/
def freeScratch (d : Nat) (s : State) : State :=
  let n := s.freeCtr
  { s with
    freeCtr := n + 1
    mem := memRefill s.mem (stagingAddr d 0) 524288 fun i => Config.freeByte 25 n i }

/-- A trick begins on a die: working banks are open, and after a trick of another stream so is scratch, and the line buffers are
invalid (R83, R135, R196). A dummy frame counts as another stream (R421), and a swap as a trick of its stream. -/
def beginTrick (d st : Nat) (kind : TrickKind) (s : State) : State :=
  let y := dieOf d s
  let dummy := kind == .dummy
  let other := y.lastStream.isSome && !(y.lastStream == some st && y.lastDummy == dummy)
  let s := if other then invalidateHalves d (freeScratch d s) else s
  let s := if kind == .swap then s
    else
      let s := zeroBanks d [0, 1] s
      adjDie d (fun y => { y with draw := s.freeCtr }) { s with freeCtr := s.freeCtr + 1 }
  let cls := ((streamOf st s).map fun x => x.cls).getD 0
  let flex := !dummy && ((streamOf st s).map fun x => !(isGuaranteed x)).getD false
  let more := !dummy && ((streamOf st s).map fun x => inQuantum st x y s).getD false
  let walk := if kind == .swap then none else mapGet y.parked (2 * st + dummy.toNat)
  adjDie d (fun y => { y with
    running := some (st, kind), cycles := 0, exact := dummy, walker := walk
    parked := if kind == .swap then y.parked else mapErase y.parked (2 * st + dummy.toNat)
    quantum := if more then y.quantum + 1 else 1
    rr := if flex then y.rr.set cls st else y.rr }) s

/-- The parameters of a chunk in its stream's line, where the reservation is long enough (R122). -/
def writeParams (d st : Nat) (x : Stream) (id : Nat) (s : State) : State :=
  match (jobOf x.job s).bind fun j => dieRec j d, consumedById id s with
  | some r, some c =>
    if x.index < resLines r then
      store (lineAddr st d 0 x.index s) (natLe 24 (arg c.desc 40 24) ++ List.replicate 40 0) s
    else s
  | _, _ => s

/-- A chunk starts: every die of its stream is at the entry, with the parameters in place (R122). Counters keep their values. -/
def startChunk (st id : Nat) (s : State) : State :=
  match streamOf st s, jobOfStream st s with
  | some x, some j =>
    let s := adjItem st id (fun i => { i with phase := .started }) s
    let s := adjStream st (fun x => { x with
      jumped := false
      ctx := (diesOf x).foldl (fun m d =>
        let c := ctxOf x d
        let entry := entryOf j x d
        mapSet m d { freshCtx entry with tokens := c.tokens, waitFrom := c.waitFrom, layerClock := [s.clock] }) x.ctx }) s
    forEach (diesOf x) (fun d s =>
      adjDie d (fun y => { y with parked := mapErase y.parked (2 * st) }) (writeParams d st x id s)) s
  | _, _ => s

/-- The next trick of a stream's head item on a die, its first one included. -/
def runItem (d st : Nat) (i : Item) (kind : TrickKind) (s : State) : State :=
  let s := match kind, i.phase with
    | .chunk, .released => startChunk st i.id s
    | .swap, .waiting => adjStream st (fun x => { x with jumped := false }) (adjItem st i.id (fun i => { i with phase := .started }) s)
    | _, _ => s
  beginTrick d st kind s

/-- A dummy frame starts: its own tokens are 0, its parameters stand in its first line, and its issue pointers are at its entries
(R421). -/
def startDummy (d st : Nat) (x : Stream) (s : State) : State :=
  match dummyRec x s with
  | none => s
  | some r =>
    let point := forcedPoint x d s
    let s := adjStream st (fun x => { x with dummy := { x.dummy with
      started := true, due := true, point := point, lastStart := s.clock
      ctx := (diesOf x).foldl (fun m k => mapSet m k (freshCtx (r.entries.getD k 0))) [] } }) s
    forEach (diesOf x) (fun k s =>
      let s := forEach (List.range r.tokenCount) (fun t s => setToken st k (r.tokenFirst + t) 0 s) s
      let s := store (lineAddr st k 0 r.lineFirst s) (fitBytes 64 r.params) s
      adjDie k (fun y => { y with parked := mapErase y.parked (2 * st + 1) }) s) s

/-- The next trick of a dummy frame on a die. -/
def runDummy (d st : Nat) (x : Stream) (s : State) : State :=
  beginTrick d st .dummy (if x.dummy.started then s else startDummy d st x s)

/-- A released guaranteed chunk has let a dummy trick go ahead of it (R27). -/
def markJumped (c : Option (Nat × Item × TrickKind)) (s : State) : State :=
  match c with
  | some (st, _, _) => adjStream st (fun x => { x with jumped := true }) s
  | none => s

/-- A stream has let a dummy trick go ahead already. -/
def hasJumped (c : Option (Nat × Item × TrickKind)) (s : State) : Bool :=
  match c with
  | some (st, _, _) => ((streamOf st s).map fun x => x.jumped).getD false
  | none => false

/-! ### Gangs -/

/-- No die is held for a stream any more. -/
def clearGang (st : Nat) (s : State) : State :=
  forEach (List.range 4) (fun d s => adjDie d (fun y => { y with gang := y.gang.filter fun g => g != st }) s) s

/-- A held stream runs on every die it has work on, once all of them are free. -/
def tryGang (st : Nat) (s : State) : State :=
  match streamOf st s with
  | none => s
  | some x =>
    if (openDies x).any fun d => (dieOf d s).running.isSome then s
    else
      let todo := (openDies x).filterMap fun d => (headWork x d).map fun w => (d, w)
      forEach todo (fun (d, i, k) s =>
        let i := ((streamOf st s).bind fun y => itemOf y i.id).getD i
        runItem d st i k s) (clearGang st s)

/-- A flexible stream is served: at once on one die, and with a hold on every die it needs otherwise (R78). -/
def serve (d st : Nat) (s : State) : State :=
  match streamOf st s with
  | none => s
  | some x =>
    if (diesOf x).length ≤ 1 then
      match headWork x d with
      | some (i, k) => runItem d st i k s
      | none => s
    else tryGang st (forEach (openDies x) (fun k s => adjDie k (fun y => { y with gang := some st }) s) s)

/-! ### The boundary (R78) -/

/-- A swap that ran on a die has had its item there; at the last die the transfer is made (R84). -/
def endSwap (d : Nat) (s : State) : State :=
  match (dieOf d s).running with
  | some (st, .swap) =>
    let s := adjDie d (fun y => { y with running := none, lastStream := some st, lastDummy := false }) s
    let s := adjRun st d false (fun c => { c with waitFrom := s.clock }) s
    let s := adjStream st (fun x => { x with
      items := listUpdate x.items (fun i => (i.kind == .swap || i.kind == .forced) && i.phase == .started) fun i =>
        { i with doneDies := i.doneDies ++ [d] } }) s
    match streamOf st s with
    | some x =>
      match x.items.find? fun i => (i.kind == .swap || i.kind == .forced) && i.phase == .started with
      | some i => if (diesOf x).all fun k => i.doneDies.contains k then doSwap st i s else s
      | none => s
    | none => s
  | _ => s

/-- A forced swap that waits on a die (Table JOB-4). -/
def forcedSwap (d : Nat) (s : State) : Option (Nat × Item) :=
  (diePairs d s).findSome? fun (st, x) =>
    (headWork x d).bind fun (i, _) => if i.kind == .forced && usable x i s then some (st, i) else none

/-- What the flexible classes and opportunistic dummy frames do with a free die. -/
def chooseFlexible (d : Nat) (s : State) : State :=
  match pickFlexible d s with
  | some st => serve d st s
  | none =>
    match idleDummy d s with
    | some (st, x) => runDummy d st x s
    | none => s

/-- A held die waits for its stream, unless that is no longer ready. -/
def chooseHeld (d : Nat) (s : State) : State :=
  match (dieOf d s).gang with
  | none => chooseFlexible d s
  | some st =>
    if ((streamOf st s).map fun x => readyOn d st x s).getD false then tryGang st s
    else chooseFlexible d (clearGang st s)

/-- The Dealer's choice at a boundary of a free die. -/
def choose (d : Nat) (s : State) : State :=
  match startedGuaranteed d s with
  | some (st, i, k) => runItem d st i k s
  | none =>
    let c := earliestGuaranteed d s
    let f := dueDummy d s
    match f with
    | some (st, x) =>
      if hasJumped c s then
        match c with
        | some (st, i, k) => runItem d st i k s
        | none => s
      else
        let s := markJumped c s
        runDummy d st x s
    | none =>
      match forcedSwap d s with
      | some (st, i) => runItem d st i .swap s
      | none =>
        match c with
        | some (st, i, k) => runItem d st i k s
        | none => chooseHeld d s

/-- A trick boundary of a die: where a trick runs, its end is a matter of its words. -/
def trickBoundary (d : Nat) (s : State) : State :=
  let s := endSwap d s
  if (dieOf d s).running.isSome || !(dieReady d s) || dieLeaving d s || s.lim.noPoint.contains d then s else choose d s

/-- The input that a chunk reads from the object range: an error that it meets ends the chunk before it issues anything, and restarts no
job (R74, R118, R173). -/
def readChunkInput (i : Item) (ecc : ReadEcc) (st : Nat) (s : State) : State :=
  match consumedById i.id s with
  | none => s
  | some c =>
    if spaceOf (inAddr c.desc) ≠ 0 then s
    else
      let s := openInput c (.ecc ecc) s
      match inputOf c (.ecc ecc) s with
      | .memFault e => endChunk st Status.memoryFault (hostErr e).1 (hostErr e).2 (noteT0 e s)
      | .ok _ => s
      | .hostFault => s

/-- The inputs of the chunks that a step has started. -/
def readStarted (ecc : ReadEcc) (s0 s : State) : State :=
  forEach (s.streams.map fun p => p.1) (fun st s => match (streamOf st s).bind startedChunk with
    | some i => if ((streamOf st s0).bind startedChunk).isSome then s else readChunkInput i ecc st s
    | none => s) s

/-- TRICK_BOUNDARY (R78): `ecc` is what reading the input of a chunk that starts finds. -/
def execTrickBoundary (die : Fin 4) (ecc : ReadEcc) (s : State) : Host.Outcome State Fault Refusal :=
  settled (running s) (fun s => readStarted ecc s (trickBoundary die.val s)) s

/-- A trick at its 32,768th cycle: abandoned, counted, reported, and a cause of the safe state (R78, Table SAF-4). -/
def trickOverrun (d : Nat) (s : State) : State :=
  match (dieOf d s).running with
  | none => s
  | some (_, .swap) => s
  | some (st, k) =>
    match streamOf st s with
    | none => s
    | some x =>
      let s := adjDie d (fun y => { y with cycles := 32768 }) s
      let s := incF Fld.dlrStatsOverrun 0 (endTrick st d (k == .dummy) s)
      raiseCause x.job 4 (postEvent 2 0x0002 Status.done (d + st * 256) s)

/-- TRICK_OVERRUN (R78). -/
def execTrickOverrun (die : Fin 4) (s : State) : Host.Outcome State Fault Refusal := settled (running s) (trickOverrun die.val) s

/-- DUMMY_FORCED_POINT: the dummy frame of a stream becomes due (R81). -/
def dummyForced (st : Nat) (s : State) : State :=
  match streamOf st s with
  | none => s
  | some x =>
    if x.safety && (diesOf x).any (fun d => decide (forcedPoint x d s ≤ s.clock)) then
      adjStream st (fun x => { x with dummy := { x.dummy with due := true } }) s
    else s

def execDummyForcedPoint (stream : Fin 256) (s : State) : Host.Outcome State Fault Refusal :=
  settled (running s) (dummyForced stream.val) s

/-! ### What runs on a die -/

/-- SEQUENCE_WORD (R124). -/
def execSequenceWord (die : Fin 4) (error : FabError) (s : State) : Host.Outcome State Fault Refusal :=
  settled (running s) (seqStep die.val error) s

/-- BARRIER_PASS: of the stream's chunk, or of its dummy frame (R129). -/
def execBarrierPass (stream : Fin 256) (s : State) : Host.Outcome State Fault Refusal :=
  settled (running s) (fun s => barrierPass stream.val true (barrierPass stream.val false s)) s

/-- FETCH_THREAD_DONE (R133). -/
def execFetchThreadDone (die : Fin 4) (thread : Nat) (ecc : ReadEcc) (s : State) : Host.Outcome State Fault Refusal :=
  settled (running s) (fetchDone die.val thread ecc) s

/-- PENDING_ROW_LANDED (R163). -/
def execPendingRowLanded (die : Fin 4) (thread : Nat) (s : State) : Host.Outcome State Fault Refusal :=
  settled (running s) (rowLanded die.val thread) s

/-- CHEAP_PATH_CHOICE (R168). -/
def execCheapPathChoice (die : Fin 4) (s : State) : Host.Outcome State Fault Refusal := settled (running s) (cheapChoice die.val) s

/-- PAGE_STEP (R206, R208). -/
def execPageStep (die : Fin 4) (ecc : ReadEcc) (s : State) : Host.Outcome State Fault Refusal :=
  settled (running s) (pageStep die.val ecc) s

/-! ### Die links (R18, R20) -/

/-- Two ends of one link: link 0 of die `d` is link 1 of die `d + 1`; link 2 has one end on a die. -/
def otherEnd (d link : Nat) : List (Nat × Nat) :=
  if link = 0 then [((d + 1) % 4, 1)] else if link = 1 then [((d + 3) % 4, 0)] else []

/-- The destination of a word's send: a die, or 4 for the hub; none where it sends nothing. -/
def wordDest (w : SeqWord) : Option Nat :=
  if SW.dlOp w = 1 then some (SW.dlDie w) else if SW.dlOp w = 2 then some 4 else none

/-- The dies that hold pages of a job in T1 or T0, or a PINNED_T0 object of it: reads of them cross the links (R16). -/
def pageDies (j : Nat) (job : Job) (s : State) : List Nat :=
  (List.range 4).filter fun d => (s.tiers.frames.any fun p => p.1 / 2 ^ 18 == d && p.2 == j)
    || (s.tiers.pages.any fun e => slotOf (e.1 * 65536) == j && (match e.2 with
      | .t0 k _ _ => k == d
      | .t1 _ _ => false
      | .t2 _ => false))
    || job.objs.any fun o => o.policy == 0 && o.homeDie == d

/-- A link lies on the route from one die to another, either way (R18). -/
def onRoute (a b d link : Nat) : Bool := a != b && ((ringHops a b).contains (d, link) || (ringHops b a).contains (d, link))

/-- A job uses a link: the hub link of a die that a stream of it runs on or that holds pages of it; a ring link on a route between two dies
of a stream, between a die that holds pages of it and a die of a stream, or of a send of its words (R16, R18, R20; log 68). -/
def jobUses (j : Nat) (job : Job) (d link : Nat) (s : State) : Bool :=
  if link = 2 then (jobDies j s).contains d || (pageDies j job s).contains d
  else
    (jobStreams j s).any (fun p => (diesOf p.2).any fun a => (diesOf p.2 ++ pageDies j job s).any fun b => onRoute a b d link)
      || job.seqs.any fun q => q.words.any fun w => match wordDest w with
        | some dst => decide (dst < 4) && dst != q.die && (ringHops q.die dst).contains (d, link)
        | none => false

/-- LINK_FAILED: the link stays down; every job that uses it enters the safe state (R20, cause 8). -/
def linkFailed (d link : Nat) (inbound : Bool) (s : State) : State :=
  let ends := (d, link) :: otherEnd d link
  let s := forEach ends (fun (k, l) s =>
    adjDie k (fun y => { y with failedLinks := if y.failedLinks.contains l then y.failedLinks else y.failedLinks ++ [l] })
      (setB Fld.fabErrStatusLinkFail k true s)) s
  let s := postEvent 3 0x0004 Status.done (d + link * 256 + inbound.toNat * 1024) s
  forEach (s.jobs.filter fun p => jobUses p.1 p.2 d link s) (fun p s => raiseCause p.1 8 s) s

/-- LINK_FAILED (R20): a link that is down already carries nothing. -/
def execLinkFailed (die : Fin 4) (link : Fin 3) (inbound : Bool) (s : State) : Host.Outcome State Fault Refusal :=
  settled (running s && !((dieOf die.val s).failedLinks.contains link.val)) (linkFailed die.val link.val inbound) s

/-- DIE_LINK_REPLAY: a flit was replayed (R20, FAB_CE_COUNT). -/
def execDieLinkReplay (die : Fin 4) (link : Fin 3) (s : State) : Host.Outcome State Fault Refusal :=
  .next (onlyIf (running s && !((dieOf die.val s).failedLinks.contains link.val)) (fun s =>
    incF Fld.fabCeCountLinkReplay die.val (setB Fld.fabErrStatusLinkReplay die.val true s)) s)

end Sys2Proof.Machine
end

