-- ==== Sys2Proof/Machine/TableWrite.lean ====
section
/-!
DEFINITION. TABLE_WRITE in its three rows: versioned tables, the planner's TREE, and the CLE's SETPOINT entries (R265, R266, R295, R316,
R322).
-/
namespace Sys2Proof.Machine
open Sys2Proof

/-- ENGINE and KIND of a TABLE_WRITE (Table FUS-5). -/
def tableForm (c : Consumed) : Nat × Nat := (arg c.desc 40 1, arg c.desc 41 1)

/-- Reserved ARGS of a write to the CLE (R316). -/
def cleArgsOk (c : Consumed) : Bool := argsZero c.desc 42 2 && argsZero c.desc 48 16

/-- The table that a write carries is well formed (R265, R267, R268, R295, R316). -/
def tableOk (c : Consumed) (bs : List Byte) (s : State) : Bool :=
  match tableForm c with
  | (1, k) => fusTableOk k (arg c.desc 42 1 % 32) bs s
  | (2, k) => planTableOk k bs
  | (3, k) => cleArgsOk c && cleTableOk k bs s
  | _ => false

/-- The key of the table that a write names. -/
def tableKeyOf (c : Consumed) : Nat :=
  let (e, k) := tableForm c
  tableKey e k (if e = 1 then arg c.desc 42 1 % 32 else 0)

/-- A stored version begins what its engine does with it at once (R295, R316). -/
def startEngine (c : Consumed) (s : State) : State :=
  match tableForm c with
  | (2, _) => if planOn s then planActivate s else s
  | (3, _) => queueActivation s
  | _ => s

/-- A versioned table: stored as pending, or refused (R265). -/
def tableWrite (rd : ReadData) (c : Consumed) (s : State) : State :=
  let (e, _) := tableForm c
  if e = 0 ∨ 3 < e then refuseFormat c 0x0110 0 s
  else withInput c rd (fun bs s =>
    let v := arg c.desc 44 4
    if !(tableOk c bs s) then refuseFormat c 0x0110 0 s
    else if !(versionOk (tableKeyOf c) v s) then refuseFormat c 0x0111 0 s
    else if !(tableFits (tableKeyOf c) bs.length s) then refuseFormat c 0x0112 0 s
    else
      let held := e = 1 && arg c.desc 43 1 % 2 = 1
      startEngine c (offerTable
        { key := tableKeyOf c, version := v, data := bs, id := c.id, held := held, ready := false } s)) s

/-- A TREE write (R295). -/
def treeWriteOf (rd : ReadData) (c : Consumed) (s : State) : State := withInput c rd (treeWrite c) s

/-- The entries of a SETPOINT write: 16 to 1,024 bytes, reserved bytes 0 (R316, R322). -/
def setpointsOk (bs : List Byte) : Bool :=
  decide (16 ≤ bs.length) && decide (bs.length ≤ 1024) && bs.length % 16 == 0
    && (List.range (bs.length / 16)).all fun i => rdLE bs (16 * i + 1) 3 == 0 && rdLE bs (16 * i + 12) 4 == 0

/-- A SETPOINT write: its entries go into the inactive halves, and one host commit waits (R322). -/
def setpointWrite (rd : ReadData) (c : Consumed) (s : State) : State :=
  withInput c rd (fun bs s =>
    if !(cleArgsOk c) || !(setpointsOk bs) then refuseFormat c 0x0110 0 s
    else if arg c.desc 44 4 ≠ 0 then refuseFormat c 0x0111 0 s
    else queueCommit (.host c.id) (forEach (chunksOf 16 64 bs) hostEntry s)) s

/-- The descriptor of a number, where it is a TABLE_WRITE of a row: 1 TREE, 2 SETPOINT, 0 any other. -/
def tableRow (id : Nat) (s : State) : Nat :=
  match (consumedById id s).map tableForm with
  | some (2, 3) => 1
  | some (3, 4) => 2
  | _ => 0

/-- TABLE_WRITE (R265). -/
def execTableWrite (id : Nat) (data : ReadData) (s : State) : Host.Outcome State Fault Refusal :=
  if tableRow id s = 0 then beginSettled id Op.tableWrite (tableWrite data) s else .next s

/-- TREE_WRITE (R295). -/
def execTreeWrite (id : Nat) (data : ReadData) (s : State) : Host.Outcome State Fault Refusal :=
  if tableRow id s = 1 then beginSettled id Op.tableWrite (treeWriteOf data) s else .next s

/-- SETPOINT_WRITE (R322). -/
def execSetpointWrite (id : Nat) (data : ReadData) (s : State) : Host.Outcome State Fault Refusal :=
  if tableRow id s = 2 then beginSettled id Op.tableWrite (setpointWrite data) s else .next s

end Sys2Proof.Machine
end

