-- ==== Sys2Proof/Machine/Power.lean ====
section
/-!
DEFINITION. Domains coming on, POWER_STATE, wakes, and what the regulators and the clocks report (R253, R366 to R368, R370, R373 to
R379, R471).
-/
namespace Sys2Proof.Machine
open Sys2Proof

/-! ### Coming on -/

/-- The map fields of PLN_STATUS, which come back with the planner's banks (Table RST-2). -/
def keepMap (old : State) (s : State) : State :=
  let s := setF Fld.plnStatusVersion 0 (getF Fld.plnStatusVersion 0 old) s
  let s := setB Fld.plnStatusTreeValid 0 (getB Fld.plnStatusTreeValid 0 old) s
  let s := setF Fld.plnStatusBank 0 (getF Fld.plnStatusBank 0 old) s
  let s := setB Fld.plnStatusOccValid 0 (getB Fld.plnStatusOccValid 0 old) s
  setF Fld.plnStatusLayer 0 (getF Fld.plnStatusLayer 0 old) s

/-- SEC, SAFE, TIME and CLE keep their registers in retention (R362). -/
def keepsRegs (d : Nat) : Bool := decide (1 ≤ d) && decide (d ≤ 4)

/-- What a domain finds when it comes on, from the state it leaves (R253, R366, R400, R471). -/
def comeOn (d : Nat) (from' : DomState) (s : State) : State :=
  let old := s
  let s := if from' == .retention && keepsRegs d then s else resetBlock d s
  let s := { s with power := { s.power with reported := s.power.reported.filter fun x => x != d } }
  match domDie d with
  | some n =>
    if domPart d = 4 then
      let t := getF Fld.limStatusTripped 0 s
      setF Fld.limStatusTripped 0 (putBits t n 1 0) (restDie n s)
    else if domPart d = 10 && from' == .off then zeroMem (t1Addr n 0) (2 ^ 34) s
    else s
  | none =>
    match d with
    | 3 => afterStep s.timeN (timeReload s)
    | 4 => forEach (activeDrives s) toProbing s
    | 5 => setLim { Limiter.reset with dies := s.lim.dies, hubTj := s.lim.hubTj, hubHot := s.lim.hubHot, raising := s.lim.raising } s
    | 7 => showPlan (keepMap old s)
    | 8 => setB Fld.hltStatusReplanPending 0 (!s.prog.replanDue.isEmpty) (if s.prog.axes.isEmpty then restoreAxes s else s)
    | _ => s

/-- WAKE_N is driven low when a wake brings PCIE on while PERST_N is asserted (R376). -/
def driveWakeN (s : State) : State :=
  if s.power.perst && !s.power.wakeLow then emit (.pin 19 false) (setPower { s.power with wakeLow := true } s) else s

/-! ### POWER_STATE (R367, R368, R370) -/

namespace PS
def mask (c : Consumed) : Nat := arg c.desc 40 8
def target (c : Consumed) : Nat := arg c.desc 48 1
def retMask (c : Consumed) : Nat := arg c.desc 49 1
/-- Reserved fields are 0 and TARGET is a state (R367). -/
def ok (c : Consumed) : Bool := decide (target c < 3) && argsZero c.desc 50 14
end PS

/-- A state by its TARGET code. -/
def codeState (n : Nat) : DomState := if n = 0 then .off else if n = 1 then .retention else .on

/-- The domains that a command changes. -/
def changedBy (mask : Nat) (x : DomState) (s : State) : List Nat :=
  ((List.range 64).map (· + 1)).filter fun d => inMask mask d && domState d s != x

/-- The state that would result. -/
def resultState (mask : Nat) (x : DomState) (d : Nat) (s : State) : DomState := if inMask mask d then x else domState d s

/-- A resident job uses a die: by a stream, a reservation, or T1 pages (R368). -/
def jobOnDie (j : Nat) (job : Job) (n : Nat) (s : State) : Bool :=
  (jobDies j s).contains n || ((dieRec job n).map fun r => r.t0Kib != 0).getD false
    || s.tiers.frames.any fun p => p.1 / 2 ^ 18 == n && p.2 == j

/-- RET_MASK keeps every bank of a domain other than staging scratch (R368). -/
def keepsAll (d mask : Nat) : Bool :=
  if (domDie d).isNone then true
  else if domPart d < 4 then mask % 8 == 7 else if domPart d = 4 then mask % 2 == 1 else true

/-- The jobs that hold a die's domain on, in ascending order of their slots. -/
def holders (d : Nat) (x : DomState) (mask : Nat) (s : State) : List Nat :=
  match domDie d with
  | none => []
  | some n =>
    (s.jobs.filter fun p =>
      ((jobStreams p.1 s).any fun q => isGuaranteed q.2 && usesDie q.2 n)
        || (jobOnDie p.1 p.2 n s && (x == .off || !(keepsAll d mask)))).map fun p => p.1

/-- T_j of a die (4 the hub), in °C (LIM_TEMP). -/
def tempOf (n : Nat) (s : State) : Int := sext 8 (bitsAt (getF Fld.limTempTj 0 s) (8 * n) 8)

/-- A die that tripped and is still at 95 °C or above (R400). -/
def stillHot (n : Nat) (s : State) : Bool := bitsAt (getF Fld.limStatusTripped 0 s) n 1 == 1 && decide (95 ≤ tempOf n s)

/-- The first check that a command fails: DETAIL and AUX (R368). -/
def powerFault (mask : Nat) (x : DomState) (ret : Nat) (s : State) : Option (Nat × Nat) :=
  let all := (List.range 64).map (· + 1)
  let ch := changedBy mask x s
  let res (d : Nat) : DomState := resultState mask x d s
  match all.find? fun d => (parentsOf d).any fun p => !(allowedUnder (res d) (res p)) with
  | some d => some (0x0116, d)
  | none =>
    let held := (ch.filter fun d => domOn d s).findSome? fun d => (holders d x ret s).head?.map fun j => (d, j)
    match held with
    | some (d, j) => some (0x0117, d + j * 256)
    | none =>
      let out := ([Dom.mgmt, attachDomain s]).filter fun d => ch.contains d && domOn d s
      if out.length = 1 ∨ (out.length = 2 ∧ !(s.jobs.isEmpty)) then some (0x0118, 0)
      else
        match (if x == .on then ch.find? fun d => match domDie d with
            | some n => stillHot n s
            | none => false
          else none) with
        | some d => some (0x0119, d + (domDie d).getD 0 * 256)
        | none => none

/-- A restarting job uses a die that a command names: the command waits (Table RST-4). -/
def restartBlocks (mask : Nat) (s : State) : Bool :=
  s.jobs.any fun p => (match p.2.phase with
    | .restarting _ => true
    | .resident => false
    | .unloading _ => false
    | .held => false)
    && (List.range 4).any fun n => jobOnDie p.1 p.2 n s && (dieDomains n).any fun d => inMask mask d

/-- Goals taken up, by a command or a wake. -/
def startTransition (t : Transition) (s : State) : State := advance (setTrans (some t) s)

/-- A checked command (R369). One that takes the attachment away completes first (R370). -/
def runPowerState (c : Consumed) (s : State) : State :=
  let x := codeState (PS.target c)
  let mask := PS.mask c
  let ch := changedBy mask x s
  if ch.isEmpty then done c 0 s
  else match powerFault mask x (PS.retMask c) s with
    | some (det, aux) => refuseFormat c det aux s
    | none =>
      let early := ch.contains (attachDomain s) && x != .on && domOn (attachDomain s) s
      let s := if early then setPower { s.power with closing := true } (done c ch.length s) else s
      startTransition
        { id := if early then none else some c.id, wake := false, retMask := PS.retMask c, goals := ch.map fun d => (d, x)
          moving := [], temps := [], changed := 0, failed := none } s

/-- An earlier POWER_STATE has not begun. -/
def earlierPower (id : Nat) (s : State) : Bool :=
  s.host.consumed.any fun c => fld c.desc 0 8 == Op.powerState && !c.started && decide (c.id < id)

/-- POWER_STATE (R368): one at a time, in consumption order, after a latched wake (R375). -/
def execPowerState (id : Nat) (s : State) : Host.Outcome State Fault Refusal :=
  let mask := ((consumedById id s).map PS.mask).getD 0
  let wait := s.power.trans.isSome || earlierPower id s || getB Fld.pwrWakeStatusReplay 0 s || restartBlocks mask s
  if ((consumedById id s).map PS.ok).getD true && wait then .next s
  else beginSettled id Op.powerState (fun c s => if PS.ok c then runPowerState c s else refuseFormat c 0x0115 0 s) s

/-! ### Wakes (R373 to R376) -/

/-- The domains that a wake brings on, and those that it leaves off (R374). -/
def wakeDomains (s : State) : List Nat × List Nat :=
  let m := getF Fld.pwrWakeOnDomains 0 s
  let all := (List.range 64).map (· + 1)
  let want := all.filter fun d => all.any fun c => inMask m c && (withParents c).contains d
  let want := want.filter fun d => !(domOn d s)
  let hot := want.filter fun d => match domDie d with
    | some n => stillHot n s
    | none => false
  let out := want.filter fun d => hot.any fun h => dependsOn h d
  (want.filter fun d => !(out.contains d), out)

/-- A wake starts (R374). -/
def startWake (s : State) : State :=
  let s := pwrEvent 0x0001 (getF Fld.pwrWakeStatusSeen 0 s) s
  let (on, out) := wakeDomains s
  let s := forEach out (fun d s => pwrEvent 0x0004 d s) s
  startTransition
    { id := none, wake := true, retMask := 0, goals := on.map fun d => (d, .on), moving := [], temps := [], changed := 0, failed := none } s

/-- An enabled source fires: it is latched, and a wake starts, or is replayed after the running transition or start-up (R373, R375,
R473). -/
def fireWake (src : Nat) (s : State) : State :=
  if bitsAt (getF Fld.pwrWakeCfgSrc 0 s) src 1 = 0 then s
  else
    let s := setF Fld.pwrWakeStatusSeen 0 (putBits (getF Fld.pwrWakeStatusSeen 0 s) src 1 1) s
    if s.power.trans.isSome || !(running s) then setB Fld.pwrWakeStatusReplay 0 true s else startWake s

/-- Acorn is supplied, so it watches (R373). -/
def acornRuns (s : State) : Bool := s.phase != .unpowered

/-- ALARM is due: the count has reached COMPARE, and it has not fired for it (R373). -/
def alarmDue (s : State) : Bool := !s.power.alarmed && decide (getF Fld.pwrAlarmCompare 0 s ≤ acornTicks s)

/-- ALARM fires. -/
def fireAlarm (s : State) : State := fireWake 2 (setPower { s.power with alarmed := true } s)

/-- A write of PWR_ALARM: a value that the count has reached fires ALARM at the write (R373). -/
def alarmWrite (mask v : Nat) (s : State) : State :=
  let s := setR .pwrAlarm 0 (writtenVal .pwrAlarm (getR .pwrAlarm 0 s) mask v) s
  let s := setPower { s.power with alarmed := false } s
  if alarmDue s then fireAlarm s else s

/-- WAKE_SOURCE (R373). -/
def execWakeSource (source : Fin 11) (s : State) : Host.Outcome State Fault Refusal :=
  settled (acornRuns s && (source.val != 2 || alarmDue s)) (fun s => if source.val = 2 then fireAlarm s else fireWake source.val s) s

/-- ALARM (R373). -/
def execAlarm (s : State) : Host.Outcome State Fault Refusal := settled (acornRuns s && alarmDue s) fireAlarm s

/-- WAKE_REPLAY (R375). -/
def execWakeReplay (s : State) : Host.Outcome State Fault Refusal :=
  settled (running s && s.power.trans.isNone && getB Fld.pwrWakeStatusReplay 0 s)
    (fun s => startWake (setB Fld.pwrWakeStatusReplay 0 false s)) s

/-- PERST_N_DEASSERT (R376). -/
def perstHigh (s : State) : State :=
  let s := setPower { s.power with perst := false } s
  let s := if s.power.wakeLow then emit (.pin 19 true) (setPower { s.power with wakeLow := false } s) else s
  fireWake 0 s

def execPerstNDeassert (s : State) : Host.Outcome State Fault Refusal :=
  settled (acornRuns s && s.power.perst) perstHigh s

/-- CAPTURE_EDGE: a record and a firing while TIME is on (R250), and a wake source (R373). -/
def edgeIn (i : Nat) (rising : Bool) (s : State) : State :=
  let wake := if timeOn s then edgeSelected i rising s else rising
  let s := if running s then captureEdge i rising s else s
  if wake then fireWake (3 + i) s else s

def execCaptureEdge (input : Fin 8) (rising : Bool) (s : State) : Host.Outcome State Fault Refusal :=
  settled (acornRuns s) (edgeIn input.val rising) s

/-! ### Ends of moves -/

/-- The banks that a domain keeps in retention: all of MEM, SEC, SAFE, TIME and CLE, and otherwise those of RET_MASK (R362). -/
def keepBanks (d : Nat) (target : DomState) (ret : Nat) (b : Nat) : Bool :=
  target == .retention && (keepsRegs d || ((domDie d).isSome && domPart d == 10) || bitsAt ret b 1 == 1)

/-- A domain reached the state that it moved to. -/
def arriveDomain (d : Nat) (target former : DomState) (temp : Bool) (s : State) : State :=
  match s.power.trans with
  | none => s
  | some t =>
    let s := setDomain d target s
    let s := if temp then s
      else if target == .on then
        let s := comeOn d former s
        if t.wake && d = Dom.pcie then driveWakeN s else s
      else loseDomain d target (if former == .off then fun _ => false else keepBanks d target t.retMask) s
    adjTrans (fun t =>
      let hit := goalOf t d == some target && !temp
      { t with
        moving := t.moving.filter fun m => m.1 != d
        goals := if hit then t.goals.filter fun g => g.1 != d else t.goals
        changed := if hit then t.changed + 1 else t.changed
        temps := if temp && target != .on then t.temps.filter fun x => x.1 != d else t.temps }) s

/-- A channel of a die failed training or verification: the die's T1 is out of service (R177). Which channel it was is open. -/
def podsFailed (n : Nat) (s : State) : State :=
  let (f, s) := freeNat 26 s
  let s := forEach (List.range 4) (fun k s =>
    setB Fld.memPodStatusFailed (4 * n + k) true (setB Fld.memPodStatusTrained (4 * n + k) false s)) s
  let s := setB Fld.memErrStatusTrain 0 true s
  memEvent 0x0005 Status.done (4 * n + f % 4 + f / 4 % 16 * 256) s

/-- A moving domain did not reach its target. -/
def missDomain (d : Nat) (former : DomState) (temp : Bool) (s : State) : State :=
  if temp then failTemp d s
  else
    let s := match domDie d with
      | some n => if domPart d = 10 && former == .retention then podsFailed n s else s
      | none => s
    failDomain d former s

/-- DOMAIN_TRANSITION_DONE: a domain that is to be off always gets there. -/
def domainDone (d : Nat) (reached : Bool) (s : State) : State :=
  match s.power.trans.bind fun t => t.moving.find? fun m => m.1 == d with
  | none => s
  | some (_, target, former, temp) =>
    advance (if reached || target == .off then arriveDomain d target former temp s else missDomain d former temp s)

/-- DOMAIN_TRANSITION_DONE (R369). The operand counts domains from 0 as the masks do. -/
def execDomainTransitionDone (domain : Fin 64) (reached : Bool) (s : State) : Host.Outcome State Fault Refusal :=
  settled (running s) (domainDone (domain.val + 1) reached) s

/-! ### Rails -/

/-- A frequency rise that waited for a rail takes place (R384). -/
def riseDie (n : Nat) (s : State) : State :=
  let s := if wantedVolts n [] s ≤ (railOf n s).level then setLim { s.lim with raising := s.lim.raising.filter fun k => k != n } s else s
  match (dieLim n s).up with
  | some k => if railVolts n k s ≤ (railOf n s).level then adjDieLim n (fun x => { x with op := k, up := none }) s else s
  | none => s

/-- AVS_RESPONSE: the regulator acknowledges (R379). -/
def railAck (r : Nat) (s : State) : State :=
  match (railOf r s).request with
  | none => s
  | some (v, _, _) =>
    let s := setRail r ⟨v, none⟩ s
    let s := if r < 4 then riseDie r s else setLim { s.lim with raising := s.lim.raising.filter fun k => k != 4 } s
    settleRails (advance s)

def execAvsResponse (rail : Fin 5) (s : State) : Host.Outcome State Fault Refusal := settled (running s) (railAck rail.val) s

/-- The highest point that a failed rail's level carries, by R385: none where no point qualifies. -/
def railPoint (n : Nat) (s : State) : Option Nat :=
  ((List.range 8).map (· + 1)).foldl (fun b k => if railVolts n k s ≤ (railOf n s).level then some k else b) none

/-- A request has failed: reported, and the rail makes no further one (R379). -/
def failRail (r : Nat) (s : State) : State :=
  let s := setRail r { railOf r s with request := none } s
  let s := setF Fld.pwrAvsStatusFail 0 (putBits (getF Fld.pwrAvsStatusFail 0 s) r 1 1) s
  let s := pwrEvent 0x0003 r s
  if r < 4 then adjDieLim r (fun x => { x with up := none }) s else s

/-- AVS_TIMEOUT: 200 µs without status; the request is sent again 50 µs later, up to twice (R379). -/
def railTimeout (r : Nat) (s : State) : State :=
  match (railOf r s).request with
  | none => s
  | some (v, n, t) =>
    if s.clock < t + 200000 then s
    else if n < 3 then
      incF Fld.pwrAvsStatusResends 0
        (emit (.avsRequest r v) (setRail r { railOf r s with request := some (v, n + 1, s.clock + 50000) } s))
    else settleRails (advance (failRail r s))

def execAvsTimeout (rail : Fin 5) (s : State) : Host.Outcome State Fault Refusal := settled (running s) (railTimeout rail.val) s

/-- The domains that a PLL feeds: 0 TIME and CLE, 1 FUS and PLAN, 2 MGMT, 3 + n the fabric of die n, 7 + n its pods (Table PWR-4). -/
def pllFeeds (p : Nat) : List Nat :=
  if p = 0 then [3, 4] else if p = 1 then [6, 7] else if p = 2 then [5]
  else if p < 7 then (cdDomains (p - 3)).filter fun d => decide (domPart d < 5) || domPart d == 9
  else if p < 11 then podsOf (p - 7)
  else []

/-- PLL_LOCK_TIMEOUT: the domains that it feeds and that are coming on stay off (R377). -/
def pllFailed (p : Nat) (s : State) : State :=
  match s.power.trans with
  | none => s
  | some t =>
    advance (forEach (t.moving.filter fun m => m.2.1 == .on && (pllFeeds p).contains m.1) (fun m s => missDomain m.1 m.2.2.1 m.2.2.2 s) s)

def execPllLockTimeout (pll : Nat) (s : State) : Host.Outcome State Fault Refusal := settled (running s) (pllFailed pll) s

end Sys2Proof.Machine
end

