-- ==== Sys2Proof/Machine/Boot.lean ====
section
/-!
DEFINITION. Firmware headers, their checks, and the boot ROM's choice of a slot (R456 to R458, R462, R463).
-/
namespace Sys2Proof.Machine
open Sys2Proof

/-! ### Firmware headers (Table SEC-9) -/

namespace FW
def epoch (h : List Byte) : Nat := rdLE h 16 1
def keySlot (h : List Byte) : Nat := rdLE h 17 1
def encrypted (h : List Byte) : Bool := bitsAt (rdLE h 18 1) 0 1 == 1
def bodyLen (h : List Byte) : Nat := rdLE h 20 4
def bodyHash (h : List Byte) : List Byte := (h.drop 24).take 48
def iv (h : List Byte) : List Byte := (h.drop 72).take 12
def tag (h : List Byte) : List Byte := (h.drop 84).take 16
def pubKey (h : List Byte) : List Byte := (h.drop 128).take 97
def signature (h : List Byte) : List Byte := (h.drop 256).take 96

/-- Bytes `a` to `b` are 0. -/
def zeros (h : List Byte) (a b : Nat) : Bool := rdLE h a (b + 1 - a) == 0

/-- MAGIC, FORMAT, reserved fields and ranges; IV and TAG are 0 in an image that is not encrypted (step 1 of R458). -/
def wellFormed (h : List Byte) : Bool :=
  rdLE h 0 4 == 0x54465755 && rdLE h 4 2 == 1 && zeros h 6 7 && bitsAt (rdLE h 18 1) 1 7 == 0 && zeros h 19 19 && zeros h 100 127
    && zeros h 225 255 && zeros h 352 511 && decide (epoch h ≤ 64) && decide (keySlot h < 3) && decide (1 ≤ bodyLen h)
    && decide (bodyLen h ≤ 16777216) && (encrypted h || zeros h 72 99)

/-- The target is this product. -/
def forUs (h : List Byte) : Bool := rdLE h 8 4 == 0x00000A44
end FW

/-- PUBKEY matches the unrevoked vendor hash of KEY_SLOT (step 3 of R458). -/
def vendorKeyOk (h : List Byte) (s : State) : Bool :=
  bitsAt s.sec.vendorRevoke (FW.keySlot h) 1 == 0 && Config.sha384 (FW.pubKey h) == Config.vendorHash (FW.keySlot h)

/-- SIGNATURE verifies over bytes 0 to 255. -/
def vendorSigned (h : List Byte) : Bool := Config.ecdsaOk (FW.pubKey h) (Config.sha384 (h.take 256)) (FW.signature h)

/-- The body programmed in a slot. -/
def slotBody (k : Nat) (h : List Byte) (s : State) : List Byte := rdMem s (flashAddr k 4096) (FW.bodyLen h)

/-- BODY_HASH, and TAG where the body is encrypted (R460, R462). -/
def bodyOk (k : Nat) (h : List Byte) (s : State) : Bool :=
  let b := slotBody k h s
  Config.sha384 b == FW.bodyHash h
    && (!(FW.encrypted h) || (Config.gcmOpen Config.vendorEncKey (FW.iv h) (h.take 72) b (FW.tag h)).isSome)

/-! ### Slots -/

def setUpd (x : UpdUnit) (s : State) : State := { s with upd := x }

/-- A slot's state, by Table SEC-8's slots A (0) and B (1). -/
def slotState (k : Nat) (s : State) : Nat := (slotOfFlash k s).state
def setSlot (k : Nat) (x : Slot) (s : State) : State := setUpd { s.upd with slots := s.upd.slots.set k x } s
def setSlotState (k st : Nat) (s : State) : State := setSlot k { slotOfFlash k s with state := st } s

/-- The boot ROM's verify (R462). The vendor's own image passes unless its key is revoked or the rollback counter has passed it. -/
def verifySlot (k : Nat) (s : State) : Bool :=
  if (slotOfFlash k s).factory then
    (s.sec.vendorRevoke == 0 || bitsAt s.sec.vendorRevoke Config.factoryKey.val 1 == 0)
      && (s.sec.epoch == 0 || decide (s.sec.epoch ≤ Config.factoryEpoch.toNat))
  else
    let h := slotHeader k s
    FW.wellFormed h && vendorKeyOk h s && vendorSigned h && FW.forUs h && decide (s.sec.epoch ≤ FW.epoch h) && bodyOk k h s

/-- A boot record written: SEQ is one higher (R457). -/
def writeRecord (s : State) : State := setUpd { s.upd with seq := (s.upd.seq + 1) % 2 ^ 32 } s

/-- FW_EPOCH blown up to an epoch; every slot whose EPOCH lies below it becomes BAD (R463). -/
def raiseEpoch (e : Nat) (s : State) : State :=
  if e ≤ s.sec.epoch then s
  else
    let s := { s with sec := { s.sec with epoch := e } }
    forEach [0, 1] (fun k s =>
      if 2 ≤ slotState k s && decide (slotEpoch k s < e) then setSlotState k 5 s else s) s

/-- A PENDING_EPOCH completed (R462, R463). -/
def completeEpoch (s : State) : State :=
  match s.upd.pendingEpoch with
  | none => s
  | some e => writeRecord (setUpd { (raiseEpoch e s).upd with pendingEpoch := none } (raiseEpoch e s))

/-- The selection loop of R462: a slot and the reason so far, for a number of attempts. -/
def tryBoot : Nat → Nat → Option Nat → State → Option Nat × Option Nat × State
  | 0, _, r, s => (none, r, s)
  | n + 1, k, r, s =>
    if slotState k s = 2 ∨ slotState k s = 4 then
      if verifySlot k s then (some k, r, s) else tryBoot n (1 - k) (some 3) (setSlotState k 5 s)
    else tryBoot n (1 - k) r s

/-- A slot boots: READY becomes TRIAL and starts the health watchdog (R462). -/
def bootSlot (k : Nat) (s : State) : State :=
  let trial := slotState k s == 2
  let s := if trial then setSlotState k 3 s else s
  writeRecord (setUpd { s.upd with
    next := k, runningSlot := k, recovery := false, trialFrom := if trial then some s.clock else none, hostOk := false } s)

/-- An UPD event (R466). -/
def updEvent (detail aux : Nat) (s : State) : State := postEvent 15 detail Status.done aux s
/-- A SEC event (R466). -/
def secEvent (detail aux : Nat) (s : State) : State := postEvent 14 detail Status.done aux s

/-- UPD event 0x0003: the slot booted and the reason; R462 gives none where NEXT named a slot that never could boot. -/
def fallbackEvent (k : Nat) (reason : Option Nat) (s : State) : State :=
  match reason with
  | some r => updEvent 0x0003 (k + r * 256) s
  | none =>
    let (f, s) := freeNat 27 s
    updEvent 0x0003 (k + f % 256 * 256) s

/-- The boot ROM at a COLD or MODULE reset (R462). Where no slot verifies it enters recovery (R465). -/
def bootRom (s : State) : State :=
  let s := completeEpoch s
  let old := s.upd.next
  let lost := slotState old s == 3
  let s := if lost then setSlotState old 5 s else s
  let (k, reason, s) := tryBoot 2 (if lost then 1 - old else old) (if lost then some 1 else none) s
  match k with
  | some k => if k = old then bootSlot k s else fallbackEvent k reason (bootSlot k s)
  | none => updEvent 0x0004 0 (setUpd { s.upd with recovery := true, trialFrom := none, hostOk := false } s)

end Sys2Proof.Machine
end

