-- ==== Sys2Proof/Machine/Resets.lean ====
section
/-!
DEFINITION. COLD and MODULE resets, start-up, and the supply at J3 (R31, R401, R467, R468, R470 to R473, R477, R482 to R484).
-/
namespace Sys2Proof.Machine
open Sys2Proof

/-! ### What a reset keeps (Table RST-2) -/

/-- Cells of the boot flash. -/
def flashCells (m : List Host.Cell) : List Host.Cell := m.filter fun c => decide (2 ^ 50 ≤ c.1) && decide (c.1 < 2 ^ 51)

/-- Cells of the PSRAM arrays and the boot flash. -/
def keptCells (m : List Host.Cell) : List Host.Cell :=
  m.filter fun c => (decide (2 ^ 36 ≤ c.1) && decide (c.1 < 2 ^ 37)) || (decide (2 ^ 50 ≤ c.1) && decide (c.1 < 2 ^ 51))

/-- The prognostics unit with nothing but its last save. -/
def savedProg (s : State) : Prog :=
  { Prog.reset with
    saved := s.prog.saved, savedNs := s.prog.savedNs, onNs := s.prog.savedNs, lastHour := min s.prog.lastHour s.prog.savedNs
    lastSave := s.prog.savedNs, lastReplan := min s.prog.lastReplan s.prog.savedNs }

/-- Fuses outlive every reset; a running command, the session, the lockout and EXTEST do not (R450, R470). -/
def keptFuses (s : State) : SecUnit := { s.sec with nonce := none, session := none, extest := false, cmd := none, fails := 0, locked := false, result := [] }

/-- Boot records and slots outlive every reset; an update session does not, and the boot ROM makes its slot EMPTY (R461). -/
def keptSlots (s : State) : UpdUnit :=
  { s.upd with
    slots := s.upd.slots.map fun x => if x.state = 1 then { x with state := 0 } else x
    session := none, trialFrom := none, hostOk := false, resetDue := false, recovery := false }

/-- Without a supply the safety outputs fall low, and nothing holds FAULT_N (R483). -/
def coldPins (s : State) : State :=
  let s := if s.safe.armed then emit (.pin 17 false) (emit (.pin 16 false) s) else s
  if s.safe.faultLow then emit (.pin 18 true) s else s

/-- Safety outputs and FAULT_N driven low (R401, R468). -/
def lowPins (s : State) : State :=
  let s := if s.safe.armed then emit (.pin 17 false) (emit (.pin 16 false) s) else s
  if s.safe.faultLow then s else emit (.pin 18 false) s

/-- A running session ends with a reset: it is recorded in the event log only, as nothing is posted (R454, R468). -/
def logSessionEnd (s : State) : State :=
  if s.sec.session.isNone then s else logEvent (eventEntry 14 0x0004 Status.done 3 s) s

/-- Poisoned and retired frames of the PSRAM arrays. Every page is freed, and with it the frames that have held a poisoned granule are
retired (R175). -/
def keptTiers (s : State) : Tiers :=
  { Tiers.reset with
    poison := s.tiers.poison.filter fun g => decide (2 ^ 30 ≤ g) && decide (g < 2 ^ 31)
    retired := s.tiers.retired ++ s.tiers.tainted, lastSweep := s.clock }

/-- The module stopped: every switched domain off but MEM0 to MEM3, which are in retention; Acorn goes on (R467, R468, R470). -/
def halted (s : State) : State :=
  { State.reset with
    pending := s.pending, phase := .held, clock := s.clock, timeN := s.timeN, timeFrac := s.timeFrac, freeCtr := s.freeCtr
    regs := (resetRegs .module (fun _ => true) s).regs, mem := keptCells s.mem, tx := s.tx, log := s.log, tiers := keptTiers s
    domains := List.replicate 60 .off ++ List.replicate 4 .retention
    time := { TimeUnit.reset with loaded := s.time.loaded, stopped := some (s.time.stopped.getD s.clock) }
    safe := { SafeUnit.reset with faultLow := true, hubTrip := s.safe.hubTrip }
    prog := { savedProg s with lastPass := s.clock, lastFeed := s.clock }
    power := { PowerUnit.reset with
      alarmed := s.power.alarmed, perst := s.power.perst, wakeLow := s.power.wakeLow, mrstLow := s.power.mrstLow
      hostSel := s.power.hostSel }
    lim := { Limiter.reset with hubTj := s.lim.hubTj }
    sec := keptFuses s, upd := keptSlots s, elec := { s.elec with txOff := [] } }

/-- A MODULE reset stops the module (R468). PWR_RESET_CAUSE.LAST takes its code. -/
def stopModule (last : Nat) (s : State) : State :=
  let s := lowPins (endPulses (fun _ => true) (logSessionEnd s))
  forEach (List.range 4) showRetired (incF Fld.pwrResetCauseModuleCount 0 (setF Fld.pwrResetCauseLast 0 last (halted s)))

/-- The module starts (R473). -/
def release (s : State) : State := { s with phase := .starting, safe := { s.safe with hubTrip := false } }

/-- The level at the HOST_SEL input. -/
def pinHostSel (sel : Bool) (s : State) : State := setPower { s.power with hostSel := sel } s

/-- HOST_SEL sampled (R31). -/
def sampleHost (s : State) : State := setB Fld.hostCtrlAttach 0 s.power.hostSel s

/-- A MODULE reset that starts the module at once: 2 PWR_RESET, 3 health watchdog, 4 end of recovery, 5 RETURN (Table RST-1). It samples
HOST_SEL (R31). -/
def moduleReset (last : Nat) (s : State) : State := release (sampleHost (stopModule last s))

/-! ### MRST_N (R401, R467, Table RST-4) -/

/-- MRST_N has been low for 10 µs: the module stops, or a start-up that has not begun goes on waiting. -/
def mrstFalls (s : State) : State :=
  let s := setPower { s.power with mrstLow := true, release := false } s
  if s.phase == .held && !s.safe.hubTrip then s else stopModule 1 s

/-- Hub sensors hold off the start after a hub trip (R401). -/
def hubHot (s : State) : Bool := s.safe.hubTrip && decide (95 ≤ s.lim.hubTj)

/-- MRST_N rises. HOST_SEL is sampled at the release. -/
def mrstRises (sel : Bool) (s : State) : State :=
  let s := setPower { s.power with mrstLow := false, hostSel := sel } s
  if s.phase != .held then s
  else if hubHot s then setPower { s.power with release := true } s
  else release (sampleHost s)

/-- A start that waited for the hub to cool (R401). -/
def releaseCool (s : State) : State :=
  if s.power.release && !(hubHot s) then release (sampleHost (setPower { s.power with release := false } s)) else s

/-- MRST_N_RELEASE (R473). -/
def execMrstNRelease (hostSel : Bool) (s : State) : Host.Outcome State Fault Refusal :=
  .next (onlyIf (s.phase != .unpowered && s.power.mrstLow) (mrstRises hostSel) s)

/-- PWR_RESET: discarded unless KEY is 0x4D52. The prognostics save comes first (R468). -/
def execPwrReset (value : BitVec 32) (hostSel : Bool) (s : State) : Host.Outcome State Fault Refusal :=
  .next (onlyIf (running s && fld value 0 16 == 0x4D52 && flag value 16)
    (fun s => moduleReset 2 (if progOn s then saveNow (pinHostSel hostSel s) else pinHostSel hostSel s)) s)

/-! ### COLD reset and J3 (R467, R482 to R484) -/

/-- Everything that is not fused or in the boot flash is gone (R470). Pods are still to be trained (R177). -/
def coldState (phase : Phase) (s : State) : State :=
  let regs := (resetRegs .cold (fun _ => true) s).regs
  let t : State := { State.reset with
    pending := s.pending, phase := phase, freeCtr := s.freeCtr, regs := regs, mem := flashCells s.mem, tx := s.tx
    tiers := { Tiers.reset with retired := s.tiers.retired }, prog := savedProg s
    power := { PowerUnit.reset with perst := s.power.perst, hostSel := s.power.hostSel }
    sec := keptFuses s, upd := keptSlots s }
  forEach (List.range 16) (fun p t => setB Fld.memPodStatusFailed p false (setB Fld.memPodStatusTrained p false t)) t

/-- J3 has passed its start threshold; after an over-voltage shutdown it must also have fallen below 60.0 V. -/
def mayStart (mv : Nat) (s : State) : Bool := decide (19000 ≤ mv) && (!s.power.overVolt || decide (mv < 60000))

/-- A COLD reset: start-up waits at the Acorn step while MRST_N is low (R473, Table RST-4). -/
def coldStart (sel mrstLow : Bool) (s : State) : State :=
  let t := coldState (if mrstLow then .held else .starting) (coldPins s)
  sampleHost (setPower { t.power with mrstLow := mrstLow, hostSel := sel } t)

/-- COLD_RESET (R467). -/
def execColdReset (millivolts : Nat) (hostSel mrstLow : Bool) (s : State) : Host.Outcome State Fault Refusal :=
  .next (onlyIf (mayStart millivolts s) (coldStart hostSel mrstLow) s)

/-- The input switch opens (R483). -/
def dropSupply (over' : Bool) (s : State) : State :=
  let t := coldState .unpowered (coldPins s)
  setPower { t.power with overVolt := over' } t

/-- LOCKOUT: below 17.0 V (R483). -/
def execLockout (millivolts : Nat) (s : State) : Host.Outcome State Fault Refusal :=
  .next (onlyIf (s.phase != .unpowered && decide (millivolts < 17000)) (dropSupply false) s)

/-- OVERVOLTAGE_SHUTDOWN (R484). -/
def execOvervoltageShutdown (s : State) : Host.Outcome State Fault Refusal :=
  .next (onlyIf (s.phase != .unpowered) (dropSupply true) s)

/-- SURGE: the module runs on and reports the peak in 0.1 V; above 70.0 V the spec gives no effect (R484, Table ELE-4). -/
def execSurge (millivolts : Nat) (s : State) : Host.Outcome State Fault Refusal :=
  if 70000 < millivolts then .fault .absoluteMaximum
  else settled (s.phase != .unpowered && decide (62000 < millivolts)) (pwrEvent 0x0008 (millivolts / 100)) s

/-! ### Start-up (R473) -/

/-- Domains on after start-up: those of PWR_BOOT_ON with their parents; SEC, MGMT and the attachment regardless. In recovery only these
three (R465). -/
def bootDomains (s : State) : List Nat :=
  let all := (List.range 64).map (· + 1)
  let base := [Dom.sec, Dom.mgmt, attachDomain s]
  let named := if s.upd.recovery then [] else all.filter fun d => inMask (getF Fld.pwrBootOnDomains 0 s) d
  all.filter fun d => (base ++ named).any fun c => (withParents c).contains d

/-- Domains that fail their self-test and those that depend on them stay off. SEC, MGMT and the attachment have started before the
self-tests, and a MEM domain that fails is on with its T1 out of service (R177). -/
def failing (mask d : Nat) (s : State) : Bool :=
  ((withParents d).any fun p => inMask mask p && decide (p < 61) && !([Dom.sec, Dom.mgmt, attachDomain s].contains p))

/-- A domain comes on at start-up. -/
def startDomain (d : Nat) (s : State) : State :=
  let former := domState d s
  comeOn d former (setDomain d .on s)

/-- The pods of a die are trained or verified (R177). A die whose pods had failed before is in service again where they all verify: the
columns of FAILED and TRAINED say that each reset's training sets them, and no rule says it in words (DEDUCED, log 78). -/
def startPods (mask n : Nat) (s : State) : State :=
  if inMask mask (Dom.mem n) then podsFailed n s
  else forEach (List.range 4) (fun k s =>
    setB Fld.memPodStatusTrained (4 * n + k) true (setB Fld.memPodStatusFailed (4 * n + k) false s)) s

/-- MEM0 to MEM3, and then the domains of PWR_BOOT_ON. -/
def startDomains (mask : Nat) (s : State) : State :=
  let want := bootDomains s
  let s := if s.upd.recovery then s else forEach (List.range 4) (startPods mask) s
  let on := want.filter fun d => !(failing mask d s)
  let s := forEach (on.filter fun d => !(domOn d s)) startDomain s
  let s := forEach (want.filter fun d => failing mask d s) (fun d s => pwrEvent 0x0004 d s) s
  forEach ((List.range 4).map Dom.mem) (fun d s =>
    if on.contains d || domState d s == .off then s else loseDomain d .off (fun _ => false) (setDomain d .off s)) s

/-- A rail at the level that it has to carry, requested and acknowledged during start-up (R358, R378). -/
def startRail (r v : Nat) (s : State) : State :=
  if (railOf r s).level = v then s else emit (.avsRequest r v) (setRail r ⟨v, none⟩ s)
def startRails (s : State) : State :=
  startRail 4 (hubVolts s) (forEach (List.range 4) (fun n s => startRail n (wantedVolts n [] s) s) s)

/-- The end of start-up: the boot ROM's choice, domains, rails, FW_READY, PWR event 0x0006 (R473, R477). -/
def ready (mask : Nat) (s : State) : State :=
  let s := startRails (startDomains mask (bootRom s))
  let s := setB Fld.pwrResetCauseFwReady 0 true { s with phase := .running }
  showFault (pwrEvent 0x0006 (getF Fld.pwrResetCauseLast 0 s) s)

/-- FW_READY (R473). The operand names the domains that fail their self-test, as a domain mask. -/
def execFwReady (failed : BitVec 64) (s : State) : Host.Outcome State Fault Refusal :=
  settled (s.phase == .starting) (ready failed.toNat) s

/-- The attachment-domain step of start-up has passed: SEC and the attachment domain are on. -/
def startAttach (s : State) : State :=
  let on (d : Nat) (s : State) : State := if domOn d s then s else startDomain d s
  on (attachDomain s) (on Dom.sec s)

/-- The link trains: while the attachment domain is on and PERST_N does not hold it down (R33, R469, R473). -/
def linkUp (s : State) : State :=
  let s := if s.phase == .starting then startAttach s else s
  if domOn (attachDomain s) s && (usbAttached s || !s.power.perst) then setB Fld.hostCtrlLinkUp 0 true s else s

/-- HOST_LINK_UP (R33). -/
def execHostLinkUp (s : State) : Host.Outcome State Fault Refusal :=
  .next (onlyIf (running s || s.phase == .starting) linkUp s)

end Sys2Proof.Machine
end

