-- ==== Sys2Proof/Machine/Limiter.lean ====
section
/-!
DEFINITION. The limiter: power, battery, points, the cap loop, balance, droop, thermal rules and trips (R383 to R404).
-/
namespace Sys2Proof.Machine
open Sys2Proof

/-! ### A die's bounds (R389, R390) -/

/-- A compute die is on for the limiter: some domain of its logic is. -/
def dieOn (n : Nat) (s : State) : Bool := (cdDomains n).any fun d => domOn d s && (domPart d < 5 || domPart d == 9)

/-- The compute dies that are on. -/
def onDies (s : State) : List Nat := (List.range 4).filter fun n => dieOn n s

/-- A CONTROL stream is resident on a die (R389). -/
def hasControl (n : Nat) (s : State) : Bool := (streamsOn n s).any fun x => x.cls == 0

/-- lo(d). -/
def loOp (n : Nat) (s : State) : Nat := if hasControl n s then floorOp n s else 1

/-- A point that neither R357 nor R385 excludes. -/
def pointOk (n k : Nat) (s : State) : Bool :=
  !(withdrawn n k s) && (!(railFailed n s) || decide (railVolts n k s ≤ (railOf n s).level))

/-- The highest point that is left, where there is one. -/
def bestPoint (n : Nat) (s : State) : Option Nat :=
  ((List.range 8).map (· + 1)).foldl (fun b k => if pointOk n k s then some k else b) none

/-- hard(d): OP1 where no point is left. -/
def hardOp (n : Nat) (s : State) : Nat := min ((bestPoint n s).getD 1) (max 1 (dieLim n s).hard)

/-- MAX_OP of a die. -/
def maxOp (n : Nat) (s : State) : Nat := min 8 (max 1 (bitsAt (getF Fld.limPolicyMaxOp 0 s) (4 * n) 4))

/-- soft(d), and top(d). -/
def softOp (n : Nat) (s : State) : Nat := min (maxOp n s) (min (dieLim n s).thermal (dieLim n s).balance)
def topOp (n : Nat) (s : State) : Nat := min (max (min (dieLim n s).bid (softOp n s)) (loOp n s)) (hardOp n s)

/-- THROTTLE in force (R395, R359). -/
def throttleC (s : State) : Int := min 100 (getF Fld.limPolicyThrottle 0 s : Nat)

/-! ### Steps (R384, R394) -/

/-- A die falls to a point at once; its voltage follows (R384). -/
def fallTo (n k reason : Nat) (s : State) : State :=
  let s := adjDieLim n (fun x => { x with op := k, up := none, reason := reason }) (accrue n s)
  if s.power.trans.isSome then s else requestRail n (wantedVolts n [] s) s

/-- An issue slot removed. -/
def dropSlot (n reason : Nat) (s : State) : State :=
  setSlots n (slotsOf n s - 1) (adjDieLim n (fun x => { x with reason := reason }) (accrue n s))

/-- A die cannot rise: a raise waits, its guard band waits for its rail (R358), or no further point is open to it. -/
def mayRise (n : Nat) (s : State) : Bool :=
  let x := dieLim n s
  x.up.isNone && decide (x.op < 8) && !(s.lim.raising.contains n) && pointOk n (x.op + 1) s

/-- One point up: the voltage first (R378, R384). -/
def rise (n : Nat) (s : State) : State :=
  let k := opOf n s + 1
  let v := railVolts n k s
  if v ≤ (railOf n s).level then adjDieLim n (fun x => { x with op := k }) (accrue n s)
  else requestRail n v (adjDieLim n (fun x => { x with up := some k }) s)

/-- One slot restored. -/
def addSlot (n : Nat) (s : State) : State := setSlots n (slotsOf n s + 1) (accrue n s)

/-- A slot may be restored: no thermal rule removes any. -/
def mayAddSlot (n : Nat) (s : State) : Bool :=
  decide (slotsOf n s < 16) && !(dieLim n s).hardOn && decide (tempOf n s < throttleC s)

/-! ### Measurements and the effective cap (R386, R387) -/

/-- The mean of the last WINDOW_MS measurements, in 0.1 W. -/
def meanPower (s : State) : Rat :=
  let l := s.lim.samples.take (max 1 (getF Fld.limCapWindowMs 0 s))
  (l.sum : Nat) / (max 1 l.length : Nat)

/-- The effective cap in 0.1 W. -/
def effectiveCap (s : State) : Nat :=
  let c := getF Fld.limCapCap 0 s
  if getB Fld.limBattLow 0 s then min c (getF Fld.limBattBattCap 0 s) else c
def showCap (s : State) : State := setF Fld.limCapEffective 0 (effectiveCap s) s

/-- BATT_CAP sets the effective cap (R403). -/
def battSets (s : State) : Bool := getB Fld.limBattLow 0 s && decide (getF Fld.limBattBattCap 0 s < getF Fld.limCapCap 0 s)

/-- A measurement taken in (LIM_POWER). -/
def takeReading (r : PowerReading) (s : State) : State :=
  let s := setLim { s.lim with samples := (r.module :: s.lim.samples).take 1000 } s
  let s := setF Fld.limPowerLast 0 (min 65535 r.module) (setF Fld.limPowerMean 0 (meanPower s).floor.toNat s)
  setF Fld.limPowerSensor 0 (min 65535 r.sensors) (setF Fld.limPowerJ3Mv 0 (min 65535 (r.j3Mv / 10)) s)

/-! ### Bids (R388) -/

/-- A die's idle time in the millisecond that ends now, with the count starting again. -/
def takeIdle (n : Nat) (s : State) : Nat × State :=
  let x := dieLim n s
  let open' := match x.idleFrom with
    | some t => s.clock - t
    | none => 0
  (x.idleNs + open', setDieLim n { x with idleNs := 0, idleFrom := x.idleFrom.map fun _ => s.clock } s)

/-- A die's bid. -/
def takeBid (n : Nat) (s : State) : State :=
  let (idle, s) := takeIdle n (accrue n s)
  let op := opOf n s
  let b := if idle < 100000 then min 8 (op + 1) else if 500000 < idle then max 1 (op - 1) else op
  adjDieLim n (fun x => { x with bid := b }) s

/-! ### Thermal ceiling (R395) -/

def thermalCeiling (n : Nat) (s : State) : State :=
  let x := dieLim n s
  if throttleC s ≤ tempOf n s then
    let s := setDieLim n { x with thermal := max (loOp n s) (x.thermal - 1) } s
    if opOf n s = 1 ∧ !(hasControl n s) ∧ 1 < slotsOf n s then dropSlot n 1 s else s
  else match x.coolFrom with
    | some t => if t + 10000000 ≤ s.clock ∧ x.thermal < 8 then setDieLim n { x with thermal := x.thermal + 1, coolFrom := some (t + 10000000) } s else s
    | none => s

/-! ### Balance (R399) -/

/-- Barrier time and held time of a stream on a die in the millisecond that ends now. -/
def spanNs (totals from' : SMap Nat) (k clock : Nat) : Nat :=
  (mapGet totals k).getD 0 + (match mapGet from' k with
    | some t => clock - t
    | none => 0)
def waitNs (st d : Nat) (s : State) : Nat := spanNs s.lim.wait s.lim.arrived (4 * st + d) s.clock
def heldNs (st d : Nat) (s : State) : Nat := spanNs s.lim.held s.lim.heldFrom (4 * st + d) s.clock

/-- The streams that take part: their dies, and the wait of each; then the critical die. -/
structure Gang where
  waits : List (Nat × Nat)
  crit : Nat

/-- The die with the least wait, ties going to the lower number. -/
def leastWait (l : List (Nat × Nat)) : Nat :=
  (l.foldl (fun b p => match b with
    | none => some p
    | some q => if p.2 < q.2 then some p else b) (none : Option (Nat × Nat))).elim 0 fun p => p.1

def gangs (s : State) : List Gang :=
  ((gangStreams s).filter fun p => (diesOf p.2).all fun d => decide (500000 ≤ heldNs p.1 d s)).map fun p =>
    let w := (diesOf p.2).map fun d => (d, waitNs p.1 d s)
    { waits := w, crit := leastWait w }

/-- The running barrier times start again. -/
def clearWaits (s : State) : State :=
  setLim { s.lim with
    wait := [], held := [], arrived := s.lim.arrived.map fun p => (p.1, s.clock), heldFrom := s.lim.heldFrom.map fun p => (p.1, s.clock) } s

def isCritical (g : List Gang) (n : Nat) : Bool := g.any fun x => x.crit == n

/-- SKEW_PCT of the millisecond, in ns. -/
def skewNs (s : State) : Nat := getF Fld.limPolicySkewPct 0 s * 10000

/-- Balance ceilings that rise, and those of critical dies. -/
def raiseBalance (g : List Gang) (n : Nat) (s : State) : State :=
  if skewNs s = 0 || isCritical g n then adjDieLim n (fun x => { x with balance := 8 }) s
  else if g.all fun x => x.waits.all fun p => p.1 != n || decide (4 * p.2 < skewNs s) then
    adjDieLim n (fun x => { x with balance := min 8 (x.balance + 1) }) s
  else s

/-- Balance ceilings that fall, given which dies rise at this decision. -/
def lowerBalance (g : List Gang) (rising : Nat → Bool) (n : Nat) (s : State) : State :=
  if skewNs s ≠ 0 && !(isCritical g n)
      && g.any (fun x => x.waits.any (fun p => p.1 == n && decide (skewNs s < p.2)) && !(rising x.crit)) then
    adjDieLim n (fun x => { x with balance := max (loOp n s) (x.balance - 1) }) s
  else s

/-! ### Steps down to top(d) (R390, R393, R397, R403) -/

/-- A die's stretching in the millisecond that ends now, with the count starting again. -/
def takeStretch (n : Nat) (s : State) : Nat × State :=
  let x := dieLim n s
  let open' := match x.stretchFrom with
    | some t => s.clock - t
    | none => 0
  (x.stretchNs + open', setDieLim n { x with stretchNs := 0, stretchFrom := x.stretchFrom.map fun _ => s.clock } s)

/-- The reason of a step down, in the order of R403: none where only the die's own bid asks for it. -/
def stepReason (n : Nat) (droop limit : Bool) (s : State) : Option Nat :=
  let x := dieLim n s
  let lo := loOp n s
  let binds (b : Nat) : Bool := decide (max b lo < x.op)
  if binds x.thermal || decide (x.hard < x.op) then some 1
  else if droop then some 2
  else if limit || (railFailed n s && decide ((bestPoint n s).getD 1 < x.op)) then some 3
  else if (highestPoint n s).getD 1 < x.op then some 4
  else if binds x.balance then some 6
  else if binds (maxOp n s) then some 5
  else none

/-- One die: from a point that is no longer open to it at once, and otherwise one point towards top(d), or down for droop or the
regulator's limit. -/
def stepDown (n : Nat) (droop limit : Bool) (s : State) : State :=
  let op := opOf n s
  let best := (bestPoint n s).getD 1
  let extra (b : Bool) : Bool := b && decide (loOp n s < op)
  let d := extra droop
  let l := extra limit
  let reason := (stepReason n d l s).getD (dieLim n s).reason
  if best < op then fallTo n best reason s
  else if topOp n s < op ∨ d ∨ l then fallTo n (op - 1) reason s
  else s

/-- R385 where no point is left: event, causes, and no further trick. -/
def checkPoints (n : Nat) (s : State) : State :=
  let none' := (bestPoint n s).isNone
  if none' && !(s.lim.noPoint.contains n) then
    let s := limEvent 0x0007 n (setLim { s.lim with noPoint := s.lim.noPoint ++ [n] } s)
    forEach (s.jobs.filter fun p => jobOnDie p.1 p.2 n s) (fun p s => raiseCause p.1 11 s) s
  else if !none' then setLim { s.lim with noPoint := s.lim.noPoint.filter fun k => k != n } s
  else s

/-- Droop, the regulator's limit, and the step of a die (R393, R397). -/
def boundDie (r : PowerReading) (n : Nat) (s : State) : State :=
  let s := checkPoints n s
  let (ns, s) := takeStretch n s
  let s := if 50000 < ns ∧ opOf n s ≤ loOp n s then limEvent 0x0006 n s else s
  stepDown n (decide (20000 < ns)) (r.currentLimit.getD n false) s

/-! ### The cap loop (R391, R392) -/

/-- Output power of a rail in 0.1 W. -/
def diePower (r : PowerReading) (n : Nat) : Rat := (r.dies.getD n 0 : Nat)

/-- f × V² of a point. -/
def fv2 (n k : Nat) (s : State) : Rat := (opMhz k * railVolts n k s * railVolts n k s : Nat)

/-- est(d) of a point step and of an issue step. -/
def estPoint (r : PowerReading) (n k : Nat) (s : State) : Rat :=
  let x := 1 - fv2 n k s / fv2 n (opOf n s) s
  diePower r n * (if x < 0 then -x else x)
def estSlot (r : PowerReading) (n : Nat) (s : State) : Rat := diePower r n / (slotsOf n s : Nat)

/-- A die can shed a step. -/
def canShed (n : Nat) (s : State) : Bool :=
  decide (loOp n s < opOf n s) || (decide (opOf n s = 1) && !(hasControl n s) && decide (1 < slotsOf n s))

/-- One step of a die shed, with what it is estimated to save. -/
def shed (r : PowerReading) (reason n : Nat) (s : State) : Rat × State :=
  if loOp n s < opOf n s then (estPoint r n (opOf n s - 1) s, fallTo n (opOf n s - 1) reason s)
  else (estSlot r n s, dropSlot n reason s)

/-- Dies in a strict order. -/
def insertDie (before : Nat → Nat → Bool) (x : Nat) : List Nat → List Nat
  | [] => [x]
  | y :: ys => if before x y then x :: y :: ys else y :: insertDie before x ys
def orderDies (before : Nat → Nat → Bool) (l : List Nat) : List Nat := l.foldl (fun acc x => insertDie before x acc) []

/-- The shed order: highest point first, ties going to the higher number. -/
def shedOrder (g : List Gang) (s : State) : List Nat :=
  let l := orderDies (fun a b => decide (opOf b s < opOf a s) || (opOf a s == opOf b s && decide (b < a))) (onDies s)
  (l.filter fun n => !(hasControl n s) && !(isCritical g n)) ++ (l.filter fun n => !(hasControl n s) && isCritical g n)
    ++ l.filter fun n => hasControl n s

/-- The raise order: lowest point first, ties going to the lower number. -/
def raiseOrder (g : List Gang) (s : State) : List Nat :=
  let l := orderDies (fun a b => decide (opOf a s < opOf b s) || (opOf a s == opOf b s && decide (a < b))) (onDies s)
  (l.filter fun n => isCritical g n) ++ (l.filter fun n => !(isCritical g n) && hasControl n s)
    ++ l.filter fun n => !(isCritical g n) && !(hasControl n s)

/-- Shedding: what is still needed, and how many dies shed. -/
def shedAll (r : PowerReading) (reason : Nat) : List Nat → Rat × Nat × State → Rat × Nat × State
  | [], x => x
  | n :: ns, (need, k, s) =>
    if 0 < need ∧ canShed n s then
      let (e, s) := shed r reason n s
      shedAll r reason ns (need - e, k + 1, s)
    else shedAll r reason ns (need, k, s)

/-- Raising: slots before points (R391). -/
def raiseAll (r : PowerReading) : List Nat → Rat × State → Rat × State
  | [], x => x
  | n :: ns, (spare, s) =>
    if mayAddSlot n s && decide (estSlot r n s ≤ spare) then raiseAll r ns (spare - estSlot r n s, addSlot n s)
    else if slotsOf n s = 16 && decide (opOf n s < topOp n s) && mayRise n s && decide (estPoint r n (opOf n s + 1) s ≤ spare) then
      raiseAll r ns (spare - estPoint r n (opOf n s + 1) s, rise n s)
    else raiseAll r ns (spare, s)

/-- M exceeds the effective cap, or the last measurement exceeds 1.25 times it. -/
def overCap (last : Nat) (s : State) : Bool :=
  decide (((effectiveCap s : Nat) : Rat) < meanPower s) || decide (5 * effectiveCap s < 4 * last)

/-- CAP_UNREACHABLE clears once M no longer exceeds the effective cap (R396). -/
def capReached (s : State) : State :=
  if getB Fld.limStatusCapUnreachable 0 s && decide (meanPower s ≤ ((effectiveCap s : Nat) : Rat)) then
    limEvent 0x0002 (meanPower s).floor.toNat (setB Fld.limStatusCapUnreachable 0 false s)
  else s

/-- The cap loop. -/
def capLoop (r : PowerReading) (g : List Gang) (s : State) : State :=
  let m := meanPower s
  let ce : Rat := (effectiveCap s : Nat)
  let instant := decide (5 * effectiveCap s < 4 * r.module)
  let s := capReached s
  if overCap r.module s then
    let need := if instant then max (m - ce) ((r.module : Nat) - ce) else m - ce
    let (_, k, s) := shedAll r (if battSets s then 7 else 0) (shedOrder g s) (need, 0, s)
    if k = 0 ∧ ce < m ∧ !(getB Fld.limStatusCapUnreachable 0 s) then
      limEvent 0x0001 m.floor.toNat (setB Fld.limStatusCapUnreachable 0 true s)
    else s
  else (raiseAll r (raiseOrder g s) (ce - m - 5, s)).2

/-! ### The control floor (R389, R398) -/

/-- A die that holds a CONTROL stream regains its slots, and rises towards its floor whatever the cap leaves. -/
def serveFloor (n : Nat) (s : State) : State :=
  if !(hasControl n s) then s
  else
    let s := if slotsOf n s < 16 && !(dieLim n s).hardOn then setSlots n 16 (accrue n s) else s
    if slotsOf n s = 16 && decide (opOf n s < min (loOp n s) (hardOp n s)) && mayRise n s then rise n s else s

/-- FLOOR_BROKEN: below lo(d) under the hard thermal rule or by R385. -/
def showFloor (n : Nat) (s : State) : State :=
  let x := dieLim n s
  let b := getF Fld.limStatusFloorBroken 0 s
  let low := decide (x.op < loOp n s)
  let was := bitsAt b n 1 == 1
  if low && !was && (x.hardOn || (railFailed n s && decide ((bestPoint n s).getD 1 < loOp n s))) then
    limEvent 0x0003 (n + x.op * 256 + x.reason * 65536) (setF Fld.limStatusFloorBroken 0 (putBits b n 1 1) s)
  else if was && !low then setF Fld.limStatusFloorBroken 0 (putBits b n 1 0) s
  else s

/-! ### LIMITER_DECISION -/

/-- Everything after the ceilings: falls, floors, the cap loop. -/
def decide' (r : PowerReading) (g : List Gang) (s : State) : State :=
  let s := forEach (onDies s) (boundDie r) s
  let s := forEach (onDies s) serveFloor s
  capLoop r g s

/-- A decision (R383 to R399). Whether a critical die rises at it is found by making it once without any balance ceiling lowered. -/
def decision (r : PowerReading) (s : State) : State :=
  let s := showCap (takeReading r (account s))
  let s := forEach (List.range 4) takeBid s
  let s := forEach (onDies s) thermalCeiling s
  let g := gangs s
  let s := forEach (List.range 4) (raiseBalance g) s
  let t := decide' r g s
  let rising (n : Nat) : Bool := decide (opOf n s < opOf n t) || ((dieLim n t).up.isSome && (dieLim n s).up.isNone)
  let s := forEach (onDies s) (lowerBalance g rising) s
  let s := decide' r g (clearWaits s)
  forEach (onDies s) showFloor s

/-- LIMITER_DECISION: every millisecond, while the management cores run (R365, R383). -/
def execLimiterDecision (reading : PowerReading) (s : State) : Host.Outcome State Fault Refusal :=
  settled (running s && domOn Dom.mgmt s && !s.upd.recovery) (decision reading) s

/-! ### Droop (R397) -/

/-- A droop detector fires: the clock runs at half its frequency. -/
def droopDie (n : Nat) (s : State) : State :=
  if (dieLim n s).stretchFrom.isSome then s else adjDieLim n (fun x => { x with stretchFrom := some s.clock }) (accrue n s)

/-- DROOP. -/
def execDroop (die : Fin 4) (s : State) : Host.Outcome State Fault Refusal :=
  settled (running s && dieOn die.val s) (droopDie die.val) s

/-- At least 64 cycles of the halved clock have passed. -/
def stretchDone (n : Nat) (s : State) : Bool :=
  match (dieLim n s).stretchFrom with
  | some t => decide (128000 ≤ (s.clock - t) * opMhz (opOf n s))
  | none => false

/-- The clock returns. -/
def endDroop (n : Nat) (s : State) : State :=
  adjDieLim n (fun x => { x with
    stretchFrom := none, stretchNs := x.stretchNs + (s.clock - x.stretchFrom.getD s.clock) }) (accrue n s)

/-- SUPPLY_RECOVERED. -/
def execSupplyRecovered (die : Fin 4) (s : State) : Host.Outcome State Fault Refusal :=
  settled (running s && stretchDone die.val s) (endDroop die.val) s

/-! ### The battery (R387) -/

/-- BATTERY_LOW: J3 has stayed below BATT_LOW for 10 ms, or has recovered for 100 ms. -/
def batteryIs (low : Bool) (s : State) : State :=
  if getB Fld.limBattLow 0 s = low then s
  else limEvent 0x0005 (if low then 1 else 0) (showCap (setB Fld.limBattLow 0 low s))

def execBatteryLow (below : Bool) (s : State) : Host.Outcome State Fault Refusal :=
  settled (running s && domOn Dom.mgmt s && !s.upd.recovery) (batteryIs below) s

/-! ### Thermal samples and trips (R395, R400, R401) -/

/-- Goals of the running transition on domains that a trip has switched: reached where they stand there, and missed otherwise. -/
def tripGoals (ds : List Nat) (s : State) : State :=
  match s.power.trans with
  | none => s
  | some t =>
    let s := adjTrans (fun t => { t with
      moving := t.moving.filter fun m => !(ds.contains m.1), temps := t.temps.filter fun x => !(ds.contains x.1) }) s
    forEach (t.goals.filter fun g => ds.contains g.1) (fun g s =>
      let s := adjTrans (fun t => { t with goals := t.goals.filter fun h => h.1 != g.1 }) s
      if domState g.1 s == g.2 then adjTrans (fun t => { t with changed := t.changed + 1 }) s
      else pwrEvent 0x0004 g.1 (adjTrans (fun t => { t with failed := some (t.failed.getD g.1) }) s)) s

/-- A domain switched off at once. -/
def cutDomain (d : Nat) (s : State) : State :=
  match domState d s with
  | .off => s
  | .on => setDomain d .off (loseDomain d .off (fun _ => false) (leaveOn d s))
  | .retention => setDomain d .off (loseDomain d .off (fun _ => false) s)
  | .changing => setDomain d .off (loseDomain d .off (fun _ => false) s)

/-- MEMn goes from on to retention; one that is changing ends where it was going, or where it came from. -/
def parkMem (n : Nat) (s : State) : State :=
  let d := Dom.mem n
  match domState d s with
  | .on => setDomain d .retention s
  | .changing =>
    match s.power.trans.bind fun t => t.moving.find? fun m => m.1 == d with
    | some m => setDomain d (if m.2.1 == .on then m.2.2.1 else m.2.1) s
    | none => s
  | .off => s
  | .retention => s

/-- The trip of a compute die (R400). -/
def tripDie (n : Nat) (s : State) : State :=
  let jobs := s.jobs.filter fun p => jobOnDie p.1 p.2 n s
  let logic := (cdDomains n).filter fun d => domPart d < 5 || domPart d == 9
  let s := forEach logic cutDomain s
  let s := parkMem n s
  let s := forEach (podsOf n) cutDomain s
  let s := tripGoals (dieDomains n) s
  let s := setF Fld.limStatusTripped 0 (putBits (getF Fld.limStatusTripped 0 s) n 1 1) s
  let s := limEvent 0x0004 n s
  forEach jobs (fun p s => raiseCause p.1 10 s) s

/-- A die has something to switch off. -/
def dieSupplied (n : Nat) (s : State) : Bool := (cdDomains n).any fun d => domState d s != .off

/-- The hard thermal ceiling: one step down at this sample (R395). -/
def hardStep (n : Nat) (s : State) : State :=
  let op := opOf n s
  let s := adjDieLim n (fun x => { x with hardOn := true }) s
  let s := if 1 < op then adjDieLim n (fun x => { x with hard := op - 1 }) (fallTo n (op - 1) 1 s)
    else if 1 < slotsOf n s then adjDieLim n (fun x => { x with hard := 1 }) (dropSlot n 1 s)
    else adjDieLim n (fun x => { x with hard := 1 }) s
  showFloor n s

/-- A die's sample. -/
def sampleDie (n : Nat) (t : Int) (s : State) : State :=
  let x := dieLim n s
  let hot := if 112 ≤ t then x.hot + 1 else 0
  let cool := decide (t < throttleC s - 3)
  let s := setDieLim n { x with
    hot := hot, coolFrom := if cool then some (x.coolFrom.getD s.clock) else none
    hardOn := x.hardOn && !cool, hard := if cool then 8 else x.hard } s
  if 2 ≤ hot && dieSupplied n s then tripDie n s
  else if decide (105 ≤ t) && dieOn n s && domOn Dom.mgmt s then hardStep n s
  else s

/-- The trip of the hub: everything off, and the module held (R401). -/
def tripHub (s : State) : State :=
  let s := if s.sec.session.isNone then s else logEvent (eventEntry 14 0x0004 Status.done 2 s) s
  let s := logEvent (eventEntry 12 0x0004 Status.done 4 s) s
  let s := lowPins (endPulses (fun _ => true) s)
  let t := halted s
  let t : State := { t with
    domains := List.replicate 64 .off, mem := flashCells t.mem, tiers := { t.tiers with poison := [] }, safe := { t.safe with hubTrip := true } }
  setF Fld.safeStatusDropCause 0 6 (setF Fld.limStatusTripped 0 (putBits (getF Fld.limStatusTripped 0 t) 4 1 1) t)

/-- The hub's sample. -/
def sampleHub (t : Int) (s : State) : State :=
  let was := s.lim.hubTj
  let hot := if 112 ≤ t then s.lim.hubHot + 1 else 0
  let s := setLim { s.lim with hubHot := hot, hubTj := t } s
  let s := if 105 ≤ t ∧ was < 105 then limEvent 0x0004 (4 + 256) s else s
  if decide (2 ≤ hot) && !s.safe.hubTrip && (running s || s.phase == .starting) then tripHub s else s

/-- LIM_TEMP: signed °C, 8 bits a die. -/
def showTemps (temps : List Int) (s : State) : State :=
  setF Fld.limTempTj 0 ((List.range 5).foldl (fun v n => putBits v (8 * n) 8 (toField 8 (clampInt (-128) 127 (temps.getD n 0)))) 0) s

/-- THERMAL_SAMPLE: every 100 µs, whatever the state of MGMT (R395). The operand holds T_j of CD0 to CD3 and of the hub. -/
def thermalSample (temps : List Int) (s : State) : State :=
  let s := showTemps temps s
  let s := if running s then forEach (List.range 4) (fun n s => sampleDie n (temps.getD n 0) s) s else s
  releaseCool (sampleHub (temps.getD 4 0) s)

def execThermalSample (temps : List Int) (s : State) : Host.Outcome State Fault Refusal :=
  settled (acornRuns s) (thermalSample temps) s

/-! ### POWER_POLICY (R402) -/

namespace PP
def cap (d : Desc) : Nat := arg d 40 2
def sets (d : Desc) (i : Nat) : Bool := bitsAt (arg d 42 1) i 1 == 1
def maxOps (d : Desc) : Nat := arg d 44 2
def floors (d : Desc) : Nat := arg d 46 2
def throttle (d : Desc) : Nat := arg d 48 1
def skew (d : Desc) : Nat := arg d 49 1
def battLow (d : Desc) : Nat := arg d 50 2
def battCap (d : Desc) : Nat := arg d 52 2
def window (d : Desc) : Nat := arg d 54 2

/-- Every point of a per-die field is 1 to 8. -/
def points (v : Nat) : Bool := (List.range 4).all fun n => decide (1 ≤ bitsAt v (4 * n) 4) && decide (bitsAt v (4 * n) 4 ≤ 8)
def within (lo x hi : Nat) : Bool := decide (lo ≤ x) && decide (x ≤ hi)

/-- Reserved fields are 0, and every field that applies lies in its range; THROTTLE has no upper limit here. -/
def ok (d : Desc) : Bool :=
  bitsAt (arg d 42 1) 6 2 == 0 && argsZero d 43 1 && argsZero d 56 8
    && (!(sets d 0) || (within 120 (cap d) 850 && within 1 (window d) 1000)) && (!(sets d 1) || points (maxOps d))
    && (!(sets d 2) || points (floors d)) && (!(sets d 3) || decide (80 ≤ throttle d)) && (!(sets d 4) || decide (skew d ≤ 50))
    && (!(sets d 5) || (within 200 (battLow d) 400 && within 120 (battCap d) 850))
end PP

/-- The values stored. -/
def storePolicy (d : Desc) (s : State) : State :=
  let s := if PP.sets d 0 then setF Fld.limCapWindowMs 0 (PP.window d) (setF Fld.limCapCap 0 (PP.cap d) s) else s
  let s := if PP.sets d 1 then setF Fld.limPolicyMaxOp 0 (PP.maxOps d) s else s
  let s := if PP.sets d 2 then setF Fld.limPolicyFloor 0 (PP.floors d) s else s
  let s := if PP.sets d 3 then setF Fld.limPolicyThrottle 0 (PP.throttle d) s else s
  let s := if PP.sets d 4 then setF Fld.limPolicySkewPct 0 (PP.skew d) s else s
  let s := if PP.sets d 5 then setF Fld.limBattBattCap 0 (PP.battCap d) (setF Fld.limBattBattLow 0 (PP.battLow d) s) else s
  showCap s

/-- A floor request crosses the point at which a resident guaranteed CONTROL stream was checked (R359, R389). -/
def floorClamped (d : Desc) (s : State) : Bool :=
  PP.sets d 2 && (List.range 4).any fun n => decide (bitsAt (PP.floors d) (4 * n) 4 < checkedFloor n s)

/-- A checked policy. -/
def runPolicy (c : Consumed) (s : State) : State :=
  let d := c.desc
  let hot := PP.sets d 3 && decide (100 < PP.throttle d)
  let low := floorClamped d s
  let s := storePolicy d s
  let s := if hot then clampReport 1 12 s else s
  let s := if low then clampReport 2 12 s else s
  let det := if hot then 0x0402 else if low then 0x0403 else 0
  completeOrWait c (plainFacts Status.done det (effectiveCap s)) s

/-- POWER_POLICY. -/
def execPowerPolicy (id : Nat) (s : State) : Host.Outcome State Fault Refusal :=
  beginSettled id Op.powerPolicy (fun c s => if PP.ok c.desc then runPolicy c s else refuseFormat c 0x011A 0 s) s

end Sys2Proof.Machine
end

