-- ==== Sys2Proof/Machine/Margins.lean ====
section
/-!
DEFINITION. Sentinels, guard bands and withdrawn points, and writes of HLT_CTRL (R350, R355 to R358).
-/
namespace Sys2Proof.Machine
open Sys2Proof

/-! ### Sentinels (R355) -/

/-- Pairs of a die (4 the hub). -/
def pairCount (n : Nat) : Nat := if n = 4 then 32 else 96

/-- Integers in rising order. -/
def insertInt (x : Int) : List Int → List Int
  | [] => [x]
  | y :: ys => if x ≤ y then x :: y :: ys else y :: insertInt x ys
def sortInts (l : List Int) : List Int := l.foldl (fun acc x => insertInt x acc) []

/-- The median reading of every pair, in ppm, at a draw. -/
def readPairs (n draw : Nat) : List Int := (List.range (pairCount n)).map fun p => Config.sentinel n p draw

/-- The reading of the die's median pair: of an even number of pairs, the upper middle one (log 63). -/
def middle (l : List Int) : Int := (sortInts l).getD (l.length / 2) 0

/-- Pairs whose median lies more than 20,000 ppm from the median pair. -/
def outliers (l : List Int) : List Nat :=
  let m := middle l
  (List.range l.length).filter fun p => decide (20000 < (l.getD p 0 - m).natAbs)

/-- The degradation of a die: the largest over the pairs that are not excluded. -/
def degradation (l : List Int) (out : List Nat) : Int :=
  ((List.range l.length).filter fun p => !(out.contains p)).foldl (fun b p => max b (l.getD p 0)) (middle l)

/-! ### The re-plan (R356 to R358) -/

/-- N_k. -/
def neededSteps (n k : Nat) (delta : Int) : Nat := ((Config.guardBase n k + Config.sensitivity n k * delta / 1000) / (5 / 2)).ceil.toNat

/-- Points of a die; the hub has one. -/
def pointsOf (n : Nat) : List Nat := if n = 4 then [1] else (List.range 8).map (· + 1)

/-- N of each point: 24 steps for all where more than 8 pairs are excluded. -/
def newSteps (n k : Nat) (delta : Int) (out : List Nat) : Nat := if 8 < out.length then 24 else neededSteps n k delta

/-- A guard band raised to a number of steps, never lowered. -/
def setGuard (n k v : Nat) (s : State) : State :=
  setR .hltMargin n (putBits (getR .hltMargin n s) (5 * (k - 1)) 5 (max (guardBand n k s) v)) s

/-- A point withdrawn, with its event. -/
def withdraw (n k : Nat) (s : State) : State :=
  if withdrawn n k s then s
  else hltEvent 0x0005 (n + k * 256) (setF Fld.hltMarginWithdrawn n (putBits (getF Fld.hltMarginWithdrawn n s) (k - 1) 1 1) s)

/-- The withdrawal of a point and every higher one (R357). -/
def withdrawFrom (n k0 : Nat) (s : State) : State :=
  let old := floorOp n s
  let held := (streamsOn n s).any isGuaranteed
  let s := forEach ((pointsOf n).filter fun k => decide (k0 ≤ k)) (withdraw n) s
  let s := if n < 4 && held && decide (k0 ≤ old) then hltEvent 0x0007 (n + (highestPoint n s).getD 0 * 256) s else s
  if n < 4 && (withdrawn n (opOf n s) s) then fallTo n ((bestPoint n s).getD 1) 4 s else s

/-- The rail of a die is asked for what its guard band now needs (R358). -/
def followGuard (n : Nat) (s : State) : State :=
  let v := if n = 4 then hubVolts s else wantedVolts n [] s
  if v ≤ (railOf n s).level then s
  else requestRail n v (setLim { s.lim with raising := (s.lim.raising.filter fun k => k != n) ++ [n] } s)

/-- The re-plan of one die. -/
def replanDie (n : Nat) (s : State) : State :=
  let l := readPairs n s.freeCtr
  let s := { s with freeCtr := s.freeCtr + 1 }
  let out := outliers l
  let delta := degradation l out
  let s := forEach out (fun p s => hltEvent 0x0006 (n + p * 256) s) s
  let left := (pointsOf n).filter fun k => !(withdrawn n k s)
  let bad := left.filter fun k => decide (24 < newSteps n k delta out)
  let good := left.filter fun k => bad.all fun b => decide (k < b)
  let before := (good.map fun k => guardBand n k s).sum
  let s := forEach good (fun k s => setGuard n k (newSteps n k delta out) s) s
  let raised := (good.map fun k => guardBand n k s).sum - before
  let s := match bad.head? with
    | some k => withdrawFrom n k s
    | none => s
  let s := followGuard n s
  hltEvent 0x0004 (n + raised * 256 + min 65535 (delta / 100).toNat * 65536) s

/-- A die can be read: a compute die needs its SEQ domain (R356). -/
def canRead (n : Nat) (s : State) : Bool := n == 4 || domOn (Dom.seq n) s

/-- Dies that await their re-plan. -/
def setDue (l : List Nat) (s : State) : State :=
  setB Fld.hltStatusReplanPending 0 (!l.isEmpty) (setProg { s.prog with replanDue := l } s)

/-- Dies re-planned where they can be read; the others wait. -/
def replanAll (l : List Nat) (s : State) : State :=
  let can := l.filter fun n => canRead n s
  let s := setDue (l.filter fun n => !(canRead n s)) s
  forEach can replanDie s

/-- A re-plan (R356). -/
def replan (s : State) : State := replanAll (List.range 5) (setProg { s.prog with lastReplan := s.prog.onNs } s)

/-- A re-plan is due: 24 on-hours have passed. -/
def replanTime (s : State) : Bool := decide (s.prog.lastReplan + 24 * hourNs ≤ s.prog.onNs)

/-- REPLAN_PERIOD: every 24 on-hours, and for a waiting die as soon as it can be read (R356). -/
def execReplanPeriod (s : State) : Host.Outcome State Fault Refusal :=
  settled (running s && progOn s && domOn Dom.mgmt s) (fun s =>
    if replanTime s then replan s else if s.prog.replanDue.any fun n => canRead n s then replanAll s.prog.replanDue s else s) s

/-! ### HLT_CTRL -/

/-- A write of HLT_CTRL: its fields are stored, and REPLAN, AXIS_RESET and AXIS_KEEP act. -/
def hltCtrlWrite (mask v : Nat) (s : State) : State :=
  let s := setR .hltCtrl 0 (writtenVal .hltCtrl (getR .hltCtrl 0 s) mask v) s
  let act (i : Nat) : Bool := bitsAt (v &&& mask) i 1 == 1
  let a := getF Fld.hltCtrlAxisSel 0 s
  let s := if act 2 then resetAxis a s else s
  let s := if act 3 then keepAxis a s else s
  if act 1 && domOn Dom.mgmt s then replan s else s

/-- REPLAN (R356). -/
def execReplan (value : BitVec 32) (s : State) : Host.Outcome State Fault Refusal :=
  settled (running s && progOn s && flag value 1) (hltCtrlWrite 0xFFFFFFFF value.toNat) s

/-- AXIS_RESET (R350). -/
def execAxisReset (value : BitVec 32) (s : State) : Host.Outcome State Fault Refusal :=
  settled (running s && progOn s && flag value 2) (hltCtrlWrite 0xFFFFFFFF value.toNat) s

/-- AXIS_KEEP (R350). -/
def execAxisKeep (value : BitVec 32) (s : State) : Host.Outcome State Fault Refusal :=
  settled (running s && progOn s && flag value 3) (hltCtrlWrite 0xFFFFFFFF value.toNat) s

end Sys2Proof.Machine
end

