-- ==== Sys2Proof/Machine/Security.lean ====
section
/-!
DEFINITION. Owner commands and debug sessions (R441 to R446, R450, R454). Writing SEC_CMD.GO starts a command; its row ends it.
-/
namespace Sys2Proof.Machine
open Sys2Proof

def setSec (x : SecUnit) (s : State) : State := { s with sec := x }

/-! ### The mailbox and the results (R444) -/

/-- Fields of the request, from byte `i`, `n` of them. -/
def request (i n : Nat) (s : State) : List Byte := rdMem s (mailboxBase + i) n

/-- The response. -/
def respond (bs : List Byte) (s : State) : State := wrMem (mailboxBase + 0x200) bs s

namespace Res
def ok : Nat := 0
def state : Nat := 1
def auth : Nat := 2
def format : Nat := 3
def lockout : Nat := 4
def fuse : Nat := 5
end Res

/-- A command ends with its result. -/
def endCmd (r : Nat) (s : State) : State := setF Fld.secCmdResult 0 r (setSec { s.sec with cmd := none } s)

/-- GO: an unlisted code ends with FORMAT; a GO while a command runs is discarded (R444). -/
def startCmd (code : Nat) (s : State) : State :=
  if s.sec.cmd.isSome then s
  else if [0x01, 0x02, 0x03, 0x04, 0x05, 0x06, 0x10, 0x11, 0x12].contains code then setSec { s.sec with cmd := some code } s
  else setF Fld.secCmdResult 0 Res.format s

/-- SEC runs a command of a code. -/
def runs (code : Nat) (s : State) : Bool := running s && domOn Dom.sec s && s.sec.cmd == some code

/-- SERIAL as 8 bytes. -/
def serialBytes : List Byte := natLe 8 Config.serial.toNat

/-! ### The signed trailer (R445) -/

namespace TR
def slot (t : List Byte) : Nat := rdLE t 0 1
def pub (t : List Byte) : List Byte := (t.drop 4).take 97
def sig (t : List Byte) : List Byte := (t.drop 104).take 96
/-- Reserved bytes are 0. -/
def ok (t : List Byte) : Bool := rdLE t 1 3 == 0 && rdLE t 101 3 == 0
end TR

/-- The digest that a command signs. -/
def cmdDigest (code : Nat) (fields : List Byte) : List Byte := Config.sha384 (serialBytes ++ [BitVec.ofNat 8 code] ++ fields)

/-- A signature of an owner slot. -/
def ownerSigned (code : Nat) (fields t : List Byte) (s : State) : Bool :=
  Img.ownerKeyOk (TR.slot t) (TR.pub t) s && Config.ecdsaOk (TR.pub t) (cmdDigest code fields) (TR.sig t)

/-- A draw of whether fuses program (R444). -/
def fusesProgram (s : State) : Bool × State := (Config.fuseOk s.freeCtr, { s with freeCtr := s.freeCtr + 1 })

/-- The outcome of a command in the order STATE, FORMAT, AUTH, FUSE (log 64); one that is OK has its effect. -/
def outcome (state format auth : Bool) (effect : State → State) (s : State) : State :=
  if !state then endCmd Res.state s
  else if !format then endCmd Res.format s
  else if !auth then endCmd Res.auth s
  else
    let (ok, s) := fusesProgram s
    if ok then endCmd Res.ok (effect s) else endCmd Res.fuse s

/-! ### Owner commands (Table SEC-3) -/

/-- GET_IDENTITY. -/
def getIdentity (s : State) : State := endCmd Res.ok (respond (serialBytes ++ fitBytes 97 Config.identityKey) s)
def execGetIdentity (s : State) : Host.Outcome State Fault Refusal := settled (runs 0x01 s) getIdentity s

/-- The secret that CLAIM carries, where its tag holds. -/
def claimSecret (e wrapped tag : List Byte) : Option (List Byte) :=
  Config.gcmOpen ((Config.sha384 (Config.ecdhX e ++ serialBytes)).take 32) (List.replicate 12 0) [] wrapped tag

/-- CLAIM. -/
def claim (s : State) : State :=
  let pub := request 0 97 s
  let t := request 242 200 s
  let secret := claimSecret (request 97 97 s) (request 194 32 s) (request 226 16 s)
  outcome (s.sec.lifecycle == 1) (TR.ok t && TR.slot t == 0)
    (TR.pub t == pub && Config.ecdsaOk pub (cmdDigest 0x02 (request 0 242 s)) (TR.sig t) && secret.isSome)
    (fun s =>
      let s := setSec { s.sec with
        ownerHash := mapSet s.sec.ownerHash 0 (Config.sha384 pub), ownerSecret := fitBytes 32 (secret.getD []), lifecycle := 2 } s
      secEvent 0x0001 2 (secEvent 0x0002 0 s)) s
def execClaim (s : State) : Host.Outcome State Fault Refusal := settled (runs 0x02 s) claim s

/-- ADD_OWNER_KEY. -/
def addOwnerKey (s : State) : State :=
  let slot := rdLE (request 0 1 s) 0 1
  let pub := request 1 97 s
  let t := request 98 200 s
  outcome (s.sec.lifecycle == 2 && (mapGet s.sec.ownerHash slot).isNone) (decide (1 ≤ slot) && decide (slot ≤ 3) && TR.ok t)
    (ownerSigned 0x03 (request 0 98 s) t s)
    (fun s => secEvent 0x0002 slot (setSec { s.sec with ownerHash := mapSet s.sec.ownerHash slot (Config.sha384 pub) } s)) s
def execAddOwnerKey (s : State) : Host.Outcome State Fault Refusal := settled (runs 0x03 s) addOwnerKey s

/-- A slot is the last unrevoked one. -/
def lastSlot (slot : Nat) (s : State) : Bool :=
  (s.sec.ownerHash.filter fun p => bitsAt s.sec.ownerRevoke p.1 1 == 0).all fun p => p.1 == slot

/-- REVOKE_OWNER_KEY: a replay finds the bit blown and changes nothing. -/
def revokeOwnerKey (s : State) : State :=
  let slot := rdLE (request 0 1 s) 0 1
  let t := request 1 200 s
  outcome (s.sec.lifecycle == 2 && !(lastSlot slot s)) (decide (slot ≤ 3) && TR.ok t)
    (TR.slot t != slot && ownerSigned 0x04 (request 0 1 s) t s)
    (fun s =>
      if bitsAt s.sec.ownerRevoke slot 1 = 1 then s
      else secEvent 0x0002 (slot + 256) (setSec { s.sec with ownerRevoke := putBits s.sec.ownerRevoke slot 1 1 } s)) s
def execRevokeOwnerKey (s : State) : Host.Outcome State Fault Refusal := settled (runs 0x04 s) revokeOwnerKey s

/-- SET_OWNER_CFG. -/
def setOwnerCfg (s : State) : State :=
  let v := rdLE (request 0 1 s) 0 1
  let t := request 1 200 s
  outcome (s.sec.lifecycle == 2) (decide (v < 4) && TR.ok t) (ownerSigned 0x05 (request 0 1 s) t s)
    (fun s => setSec { s.sec with ownerCfg := s.sec.ownerCfg ||| v } s) s
def execSetOwnerCfg (s : State) : Host.Outcome State Fault Refusal := settled (runs 0x05 s) setOwnerCfg s

/-- An update session ends, and its slot is EMPTY (R460, R461). -/
def endUpdate (s : State) : State :=
  match s.upd.session with
  | none => s
  | some u =>
    let s := setSlotState u.slot 0 s
    writeRecord (setUpd { s.upd with session := none } s)

/-- The effect of RETURN up to its reset (R446). -/
def returnEffect (s : State) : State :=
  let s := endUpdate (endSession 4 s)
  let s := setSec { s.sec with ownerSecret := List.replicate 32 0xFF, ownerRevoke := 15 } s
  let s := forEach (List.range 4) (fun n s => zeroMem (coreAddr n 0 0) 0xD00000 (zeroMem (t1Addr n 0) (2 ^ 34) s)) s
  let s := setTiers { s.tiers with poison := [] } s
  let s := setProg { s.prog with saved := [], savedNs := 0 } s
  secEvent 0x0001 3 (setSec { s.sec with lifecycle := 3 } s)

/-- RETURN: the MODULE reset follows once RESULT is OK. -/
def returnCmd (s : State) : State :=
  let t := request 0 200 s
  let r := outcome (s.sec.lifecycle == 2 && s.jobs.isEmpty) (TR.ok t) (ownerSigned 0x06 [] t s) returnEffect s
  if r.sec.lifecycle = 3 ∧ s.sec.lifecycle = 2 then moduleReset 5 r else r
def execReturnLifecycle (hostSel : Bool) (s : State) : Host.Outcome State Fault Refusal :=
  settled (runs 0x06 s) (fun s => returnCmd (pinHostSel hostSel s)) s

/-! ### Debug sessions (R450, R454) -/

/-- DEBUG_CHALLENGE: a nonce, unless debug is locked out. -/
def debugChallenge (s : State) : State :=
  if s.sec.lifecycle ≠ 2 ∧ s.sec.lifecycle ≠ 3 then endCmd Res.state s
  else if s.sec.locked then endCmd Res.lockout s
  else
    let (n, s) := freeBytes 28 16 s
    endCmd Res.ok (respond n (setSec { s.sec with nonce := some (n, s.clock) } s))
def execDebugChallenge (s : State) : Host.Outcome State Fault Refusal := settled (runs 0x10 s) debugChallenge s

/-- A level that the lifecycle permits (Table SEC-2). -/
def levelPermitted (level : Nat) (s : State) : Bool :=
  (level == 1 && s.sec.lifecycle == 2 && bitsAt s.sec.ownerCfg 1 1 == 0) || (level == 2 && s.sec.lifecycle == 3)

/-- DK (R442). -/
def debugKey (s : State) : List Byte := (Config.hmac384 s.sec.ownerSecret (serialBytes ++ [0x44])).take 32

/-- The message that a response answers. -/
def debugMsg (nonce : List Byte) (s : State) : List Byte := nonce ++ serialBytes ++ request 0 4 s

/-- A response proves its right: TOKEN, or a trailer of an unrevoked vendor slot. -/
def responseOk (level : Nat) (s : State) : Bool :=
  match s.sec.nonce with
  | none => false
  | some (n, at') =>
    decide (s.clock ≤ at' + 60000000000)
      && (if level = 1 then request 4 16 s == (Config.hmac384 (debugKey s) (debugMsg n s)).take 16
        else
          let t := request 4 200 s
          decide (TR.slot t < 3) && bitsAt s.sec.vendorRevoke (TR.slot t) 1 == 0
            && Config.sha384 (TR.pub t) == Config.vendorHash (TR.slot t)
            && Config.ecdsaOk (TR.pub t) (Config.sha384 (debugMsg n s)) (TR.sig t))

/-- A failed response: three in a row lock debug out. -/
def responseFails (s : State) : State :=
  let n := min 3 (s.sec.fails + 1)
  let s := secEvent 0x0005 n (setSec { s.sec with fails := n } s)
  let s := if n = 3 ∧ !s.sec.locked then secEvent 0x0006 0 (setSec { s.sec with locked := true } s) else s
  endCmd Res.auth s

/-- DEBUG_RESPONSE. -/
def debugResponse (s : State) : State :=
  let f := request 0 4 s
  let level := rdLE f 0 1
  let scope := rdLE f 1 1
  let mins := rdLE f 2 2
  if level = 0 ∨ 2 < level ∨ 32 ≤ scope ∨ mins = 0 ∨ 1440 < mins then endCmd Res.format s
  else if !(levelPermitted level s) || s.sec.session.isSome || !(domOn Dom.dbg s) then endCmd Res.state s
  else if level = 2 ∧ !(TR.ok (request 4 200 s)) then endCmd Res.format s
  else
    let good := responseOk level s
    let s := setSec { s.sec with nonce := none } s
    if !good then responseFails s
    else
      let s := setSec { s.sec with
        fails := 0, session := some { level := level, scope := scope, expiry := s.clock + mins * 60000000000 } } s
      endCmd Res.ok (secEvent 0x0003 (level + scope * 256) s)
def execDebugResponse (s : State) : Host.Outcome State Fault Refusal := settled (runs 0x11 s) debugResponse s

/-- DEBUG_CLOSE. -/
def execDebugClose (s : State) : Host.Outcome State Fault Refusal :=
  settled (runs 0x12 s) (fun s => endCmd Res.ok (endSession 0 s)) s

/-- DBG_CTRL.CLOSE. -/
def execDebugCtrlClose (s : State) : Host.Outcome State Fault Refusal := settled (running s && domOn Dom.dbg s) (endSession 0) s

/-- The session's time has run out, on the Acorn crystal. -/
def sessionOver (s : State) : Bool :=
  match s.sec.session with
  | some x => decide (x.expiry ≤ s.clock)
  | none => false

/-- DEBUG_EXPIRY. -/
def execDebugExpiry (s : State) : Host.Outcome State Fault Refusal := settled (running s && sessionOver s) (endSession 1) s

end Sys2Proof.Machine
end

