-- ==== Sys2Proof/Machine/Update.lean ====
section
/-!
DEFINITION. Firmware updates, their confirmation and the health watchdog; MODULE resets by their triggers (R458 to R465, R468).
-/
namespace Sys2Proof.Machine
open Sys2Proof

/-! ### UPDATE_HEADER (R458) -/

/-- The slot that an update goes into: the one that does not run, and slot A in recovery. -/
def targetSlot (s : State) : Nat := if s.upd.recovery then 0 else 1 - s.upd.runningSlot

/-- The running slot is TRIAL, or RETURN is under way. -/
def updateBlocked (s : State) : Bool := (!s.upd.recovery && slotState s.upd.runningSlot s == 3) || s.sec.cmd == some 0x06

/-- The first check that a header fails: status and DETAIL. -/
def headerRefusal (len : Nat) (h : List Byte) (s : State) : Option (Nat × Nat) :=
  if len ≠ 512 ∨ !(FW.wellFormed h) then some (Status.refusedFormat, 0x011C)
  else if updateBlocked s then some (Status.refusedFormat, 0x011D)
  else if !(vendorKeyOk h s) then some (Status.refusedAuth, 0x0802)
  else if !(vendorSigned h) then some (Status.refusedAuth, 0x0801)
  else if !(FW.forUs h) then some (Status.refusedVersion, 0x0303)
  else if FW.epoch h < s.sec.epoch then some (Status.refusedVersion, 0x0304)
  else if rdLE h 12 4 < runningVersion s then some (Status.refusedVersion, 0x0305)
  else none

/-- A session opens on the target slot, which becomes WRITING and holds no header. -/
def openUpdate (h : List Byte) (s : State) : State :=
  let k := targetSlot s
  let s := writeRecord (zeroMem (flashAddr k 0) 512 (setSlot k { state := 1, factory := false } s))
  setUpd { s.upd with session := some { slot := k, header := h, received := 0 } } s

/-- UPDATE_HEADER with its header. -/
def updateHeader (rd : ReadData) (c : Consumed) (s : State) : State :=
  withInput c rd (fun h s =>
    match headerRefusal (inLen c.desc) h s with
    | some (st, det) => completeOrWait c (plainFacts st det 0) s
    | none => done c (targetSlot s) (openUpdate h s)) s

/-- An earlier update descriptor has not completed: they run one at a time in consumption order (R461). -/
def earlierUpdate (id : Nat) (s : State) : Bool :=
  s.host.consumed.any fun c =>
    [Op.updateHeader, Op.updateBody, Op.updateCommit].contains (fld c.desc 0 8) && decide (c.id < id)
      && !(s.host.decided.any fun p => p.1 == c.id)

def execUpdateHeader (id : Nat) (data : ReadData) (s : State) : Host.Outcome State Fault Refusal :=
  if earlierUpdate id s then .next s else beginSettled id Op.updateHeader (updateHeader data) s

/-! ### UPDATE_BODY (R459) -/

/-- Bytes of the body programmed. -/
def programBody (u : UpdateSession) (bs : List Byte) (s : State) : State :=
  let s := wrMem (flashAddr u.slot (4096 + u.received)) bs s
  setUpd { s.upd with session := some { u with received := u.received + bs.length } } s

/-- UPDATE_BODY with its data. -/
def updateBody (rd : ReadData) (c : Consumed) (s : State) : State :=
  match s.upd.session with
  | none => refuseFormat c 0x011F 0 s
  | some u =>
    let n := inLen c.desc
    if arg c.desc 40 4 ≠ u.received ∨ FW.bodyLen u.header < u.received + n ∨ n = 0 ∨ 2 ^ 20 < n then refuseFormat c 0x011E 0 s
    else withInput c rd (fun bs s => done c (u.received + bs.length) (programBody u bs s)) s

def execUpdateBody (id : Nat) (data : ReadData) (s : State) : Host.Outcome State Fault Refusal :=
  if earlierUpdate id s then .next s else beginSettled id Op.updateBody (updateBody data) s

/-! ### UPDATE_COMMIT (R460) -/

/-- The header goes into the slot, which is READY and the next to boot. -/
def commitSlot (u : UpdateSession) (s : State) : State :=
  let s := setSlotState u.slot 2 (wrMem (flashAddr u.slot 0) u.header s)
  let s := writeRecord (setUpd { s.upd with session := none, next := u.slot, resetDue := s.upd.recovery } s)
  updEvent 0x0001 u.slot s

/-- UPDATE_COMMIT. -/
def updateCommit (c : Consumed) (s : State) : State :=
  match s.upd.session with
  | none => refuseFormat c 0x011F 0 s
  | some u =>
    if bitsAt (arg c.desc 40 1) 0 1 = 1 then done c 0 (endUpdate s)
    else if u.received < FW.bodyLen u.header then refuseFormat c 0x011F 0 s
    else if bodyOk u.slot u.header s then done c 0 (commitSlot u s)
    else completeOrWait c (plainFacts Status.refusedAuth 0x0806 0) (endUpdate s)

def execUpdateCommit (id : Nat) (s : State) : Host.Outcome State Fault Refusal :=
  if earlierUpdate id s then .next s else beginSettled id Op.updateCommit updateCommit s

/-! ### Confirmation and the health watchdog (R463, R464) -/

/-- UPD_CTRL.HOST_OK. -/
def hostConsents (s : State) : State := setUpd { s.upd with hostOk := true } s
def execHostOk (s : State) : Host.Outcome State Fault Refusal := .next (onlyIf (running s && domOn Dom.mgmt s) hostConsents s)

/-- The running slot is on trial, and its 120 s have not passed. -/
def onTrial (s : State) : Bool := slotState s.upd.runningSlot s == 3 && s.upd.trialFrom.isSome
def trialOver (s : State) : Bool :=
  match s.upd.trialFrom with
  | some t => onTrial s && decide (t + 120000000000 ≤ s.clock)
  | none => false

/-- The conditions of R463. Domains of PWR_BOOT_ON that are on have passed their self-tests. -/
def mayConfirm (s : State) : Bool :=
  onTrial s && !(trialOver s) && (bootDomains s).all (fun d => domOn d s) && ringState 1 0 s == 1
    && (!(getB Fld.updCfgHostConfirm 0 s) || s.upd.hostOk)

/-- A confirmed image: GOOD, FW_EPOCH up to its epoch, revocations that it names. -/
def confirmSlot (s : State) : State :=
  let k := s.upd.runningSlot
  let old := s.sec.epoch
  let e := slotEpoch k s
  let revoke := if (slotOfFlash k s).factory then 0 else (Config.namedRevocation (slotHeader k s)).toNat
  let s := writeRecord (setSlotState k 4 (setUpd { s.upd with trialFrom := none, pendingEpoch := some e } s))
  let s := completeEpoch (setSec { s.sec with vendorRevoke := s.sec.vendorRevoke ||| revoke } s)
  let s := updEvent 0x0002 k s
  if old < s.sec.epoch then updEvent 0x0005 s.sec.epoch s else s

/-- CONFIRM. -/
def execConfirm (s : State) : Host.Outcome State Fault Refusal := settled (running s && mayConfirm s) confirmSlot s

/-- The health watchdog: the slot is BAD and the other is next; WD_RESET makes a MODULE reset. -/
def watchdog (s : State) : State :=
  let k := s.upd.runningSlot
  let s := setSlotState k 5 s
  let s := writeRecord (setUpd { s.upd with trialFrom := none, next := 1 - k } s)
  let s := updEvent 0x0003 (1 - k + 2 * 256) s
  if getB Fld.updCfgWdReset 0 s then moduleReset 3 s else s

/-- HEALTH_WATCHDOG. -/
def execHealthWatchdog (hostSel : Bool) (s : State) : Host.Outcome State Fault Refusal :=
  settled (running s && trialOver s) (fun s => watchdog (pinHostSel hostSel s)) s

/-! ### MODULE_RESET (R467, R468) -/

/-- The trigger of a MODULE reset holds. -/
def triggerHolds (t : ModuleTrigger) (s : State) : Bool :=
  match t with
  | .mrst => s.phase != .unpowered
  | .watchdog => running s && trialOver s && getB Fld.updCfgWdReset 0 s
  | .recoveryEnd => running s && s.upd.resetDue
  | .ownerReturn => runs 0x06 s

/-- What a trigger does. -/
def trigger (t : ModuleTrigger) (s : State) : State :=
  match t with
  | .mrst => mrstFalls s
  | .watchdog => watchdog s
  | .recoveryEnd => moduleReset 4 s
  | .ownerReturn => returnCmd s

/-- MODULE_RESET, with the level at HOST_SEL. -/
def execModuleReset (t : ModuleTrigger) (hostSel : Bool) (s : State) : Host.Outcome State Fault Refusal :=
  settled (triggerHolds t s) (fun s => trigger t (pinHostSel hostSel s)) s

end Sys2Proof.Machine
end

