-- ==== Sys2Proof/Machine/Electric.lean ====
section
/-!
DEFINITION. Joint-port lines, Ethernet links and sensor power outputs (R489, R490, R492 to R494).
-/
namespace Sys2Proof.Machine
open Sys2Proof

/-! ### Joint-port lines (R490) -/

/-- A drive on the port is in RUN. -/
def portRuns (p : Nat) (s : State) : Bool :=
  (List.range 64).any fun d => DE.kind (driveEntry d s) == 1 && DE.port (driveEntry d s) == p && driveState d s == 3

/-- Flags of JP_LINE, bits 4:0. -/
def lineFlags (p : Nat) (s : State) : Nat := bitsAt (getR .jpLine p s) 0 5

/-- A flag rises: counted and reported. A transmitter that is short switches off. -/
def raiseLine (p i : Nat) (s : State) : State :=
  let s := setR .jpLine p (putBits (getR .jpLine p s) i 1 1) s
  let s := if i = 4 then { s with elec := { s.elec with txOff := mapSet s.elec.txOff p s.clock } } else s
  jpEvent 0x0006 (p + lineFlags p s * 256) (incF Fld.jpLineFaultCount p s)

/-- A classification. RX_OPEN holds only while the drive is not in RUN, and TX_SHORT is left to the retest. -/
def classify (p flags : Nat) (s : State) : State :=
  let now := if portRuns p s then putBits flags 0 1 0 else flags
  forEach (List.range 5) (fun i s =>
    let was := bitsAt (lineFlags p s) i 1
    let is' := bitsAt now i 1
    if was = 0 ∧ is' = 1 then raiseLine p i s
    else if was = 1 ∧ is' = 0 ∧ i < 4 then setR .jpLine p (putBits (getR .jpLine p s) i 1 0) s
    else s) s

/-- LINE_CLASSIFY: every 1 ms while the port has a rate. The operand holds what the port measures of JP_LINE bits 4:0. -/
def execLineClassify (port : Fin 24) (flags : BitVec 5) (s : State) : Host.Outcome State Fault Refusal :=
  settled (running s && domOn Dom.jport s && getF Fld.jpPortRate port.val s != 0) (classify port.val flags.toNat) s

/-- A transmitter that switched off may retest. -/
def retestDue (p : Nat) (s : State) : Bool :=
  match mapGet s.elec.txOff p with
  | some t => decide (t + 10000000 ≤ s.clock)
  | none => false

/-- The retest of a transmitter. -/
def retest (p : Nat) (shorted : Bool) (s : State) : State :=
  if shorted then { s with elec := { s.elec with txOff := mapSet s.elec.txOff p s.clock } }
  else setB Fld.jpLineTxShort p false { s with elec := { s.elec with txOff := mapErase s.elec.txOff p } }

/-- TX_SHORT_RETEST. -/
def execTxShortRetest (port : Fin 24) (shorted : Bool) (s : State) : Host.Outcome State Fault Refusal :=
  .next (onlyIf (running s && domOn Dom.jport s && retestDue port.val s) (retest port.val shorted) s)

/-! ### Ethernet links (Table ELE-8) -/

/-- MODE of a MAC; 3 acts as 0. -/
def macMode (m : Nat) (s : State) : Nat := bitsAt (getR .jpEthCfg 0 s) (8 * m) 2 % 3

/-- ETHERNET_LINK_CHANGE. -/
def execEthernetLinkChange (mac : Fin 4) (up : Bool) (s : State) : Host.Outcome State Fault Refusal :=
  .next (onlyIf (running s && domOn Dom.eth s && macMode mac.val s != 0)
    (fun s => setR .jpEthCfg 0 (putBits (getR .jpEthCfg 0 s) (8 * mac.val + 4) 1 (if up then 1 else 0)) s) s)

/-! ### Sensor outputs (R492, R493) -/

namespace SP
def en (m : Nat) (s : State) : Bool := bitsAt (getF Fld.pwrSpwrCfgEn 0 s) m 1 == 1
def ilimAsked (m : Nat) (s : State) : Nat := bitsAt (getR .pwrSpwrCfg 0 s) (16 + 4 * m) 4
def flag' (f : Field) (m : Nat) (s : State) : Bool := bitsAt (getF f 0 s) m 1 == 1
def put (f : Field) (m : Nat) (b : Bool) (s : State) : State := setF f 0 (putBits (getF f 0 s) m 1 (if b then 1 else 0)) s
def on (m : Nat) (s : State) : Bool := flag' Fld.pwrSpwrStatusOn m s
end SP

def spwrOut (m : Nat) (s : State) : SpwrOut := (mapGet s.elec.outs m).getD ⟨0, none, none, 0⟩
def setSpwr (m : Nat) (x : SpwrOut) (s : State) : State := { s with elec := { s.elec with outs := mapSet s.elec.outs m x } }
def adjSpwr (m : Nat) (f : SpwrOut → SpwrOut) (s : State) : State := setSpwr m (f (spwrOut m s)) s

/-- The sum of ILIM over the outputs that are on, but for one of them, in 0.1 A. -/
def ilimOthers (m : Nat) (s : State) : Nat :=
  (((List.range 8).filter fun k => k != m && SP.on k s).map fun k => (spwrOut k s).ilim).sum

/-- An output's current fits the 6.0 A of all (R493). -/
def ilimFits (m i : Nat) (s : State) : Bool := decide (ilimOthers m s + i ≤ 60)

/-- An output is switched on, or stays off with REFUSED set. -/
def switchOn (m : Nat) (s : State) : State :=
  let i := SP.ilimAsked m s
  if ilimFits m i s then SP.put Fld.pwrSpwrStatusOn m true (adjSpwr m (fun x => { x with ilim := i, offFrom := none }) s)
  else SP.put Fld.pwrSpwrStatusRefused m true (adjSpwr m (fun x => { x with offFrom := none }) s)

/-- An output is switched off. -/
def switchOff (m : Nat) (s : State) : State :=
  SP.put Fld.pwrSpwrStatusOpen m false (SP.put Fld.pwrSpwrStatusOn m false s)

/-- PWR event 0x0007: 0 short, 1 latched, 2 backfeed. -/
def spwrEvent (m kind : Nat) (s : State) : State := pwrEvent 0x0007 (m + kind * 256) s

/-- An output that has tripped waits to retry, or latches off after RETRIES consecutive ones. A trip that opens a series is reported, and
so is the latch; a back-feed always is. -/
def afterTrip (m : Nat) (backfeed : Bool) (s : State) : State :=
  let x := spwrOut m s
  let again := match x.retried with
    | some t => decide (s.clock ≤ t + 1000000000)
    | none => false
  let n := if again then x.consecutive + 1 else 0
  let s := switchOff m s
  let s := if backfeed then spwrEvent m 2 (SP.put Fld.pwrSpwrStatusBackfeed m true s)
    else
      let s := SP.put Fld.pwrSpwrStatusShort m true s
      if again then s else spwrEvent m 0 s
  if getF Fld.pwrSpwrCfgRetries 0 s ≤ n then
    spwrEvent m 1 (SP.put Fld.pwrSpwrStatusLatched m true (adjSpwr m (fun x => { x with offFrom := none, consecutive := n }) s))
  else adjSpwr m (fun x => { x with offFrom := some s.clock, consecutive := n }) s

/-- SENSOR_OUTPUT_TRIP: at any time that Acorn runs (R488). -/
def execSensorOutputTrip (output : Fin 8) (s : State) : Host.Outcome State Fault Refusal :=
  settled (acornRuns s && SP.on output.val s) (afterTrip output.val false) s

/-- BACKFEED. -/
def execBackfeed (output : Fin 8) (s : State) : Host.Outcome State Fault Refusal :=
  settled (acornRuns s && SP.on output.val s) (afterTrip output.val true) s

/-- 100 ms have passed since an output tripped. -/
def retryDue (m : Nat) (s : State) : Bool :=
  match (spwrOut m s).offFrom with
  | some t => decide (t + 100000000 ≤ s.clock)
  | none => false

/-- SENSOR_OUTPUT_RETRY. -/
def execSensorOutputRetry (output : Fin 8) (s : State) : Host.Outcome State Fault Refusal :=
  .next (onlyIf (acornRuns s && retryDue output.val s)
    (fun s => switchOn output.val (adjSpwr output.val (fun x => { x with retried := some s.clock }) s)) s)

/-- SENSOR_OUTPUT_OPEN: the output stays on (Table ELE-8). -/
def execSensorOutputOpen (output : Fin 8) (s : State) : Host.Outcome State Fault Refusal :=
  .next (onlyIf (acornRuns s && SP.on output.val s) (SP.put Fld.pwrSpwrStatusOpen output.val true) s)

/-- One output after a write of PWR_SPWR_CFG: `old` is its ILIM before (R493). -/
def applySpwr (old : Nat → Nat) (m : Nat) (s : State) : State :=
  let i := SP.ilimAsked m s
  if !(SP.en m s) then
    SP.put Fld.pwrSpwrStatusLatched m false
      (adjSpwr m (fun x => { x with offFrom := none, retried := none, consecutive := 0 }) (switchOff m s))
  else if i = 0 then adjSpwr m (fun x => { x with offFrom := none }) (switchOff m s)
  else if SP.on m s then
    if (spwrOut m s).ilim = i then s
    else if ilimFits m i s then adjSpwr m (fun x => { x with ilim := i }) s
    else SP.put Fld.pwrSpwrStatusRefused m true (setR .pwrSpwrCfg 0 (putBits (getR .pwrSpwrCfg 0 s) (16 + 4 * m) 4 (old m)) s)
  else if SP.flag' Fld.pwrSpwrStatusLatched m s || (spwrOut m s).offFrom.isSome then s
  else switchOn m s

/-- A write of PWR_SPWR_CFG, applied output by output in ascending order. -/
def spwrCfgWrite (mask v : Nat) (s : State) : State :=
  let before := s
  let s := setR .pwrSpwrCfg 0 (writtenVal .pwrSpwrCfg (getR .pwrSpwrCfg 0 s) mask v) s
  forEach (List.range 8) (applySpwr fun m => SP.ilimAsked m before) s

/-- PWR_SPWR_CFG_WRITE. -/
def execPwrSpwrCfgWrite (value : BitVec 64) (s : State) : Host.Outcome State Fault Refusal :=
  .next (onlyIf (running s) (spwrCfgWrite (2 ^ 64 - 1) value.toNat) s)

end Sys2Proof.Machine
end

