-- ==== Sys2Proof/Machine/HostPort.lean ====
section
/-!
DEFINITION. What the host sends over the attachment in use: ring set-up, doorbells, USB push messages, and the completion messages
that answer them; and accesses to host memory that fail (R32, R39 to R43, R60 to R65).
-/
namespace Sys2Proof.Machine
open Sys2Proof

/-- The attachment in use is there to carry what the host sends (R32). -/
def hostOn (s : State) : Bool := running s && domOn (attachDomain s) s
def pcieOn (s : State) : Bool := hostOn s && !(usbAttached s)
def usbOn (s : State) : Bool := hostOn s && usbAttached s

/-! ### Ring set-up and doorbells -/

/-- RING_ENABLE: an 8-byte write of HOST_RING_CFG with ENABLE = 1 (R39). -/
def execRingEnable (v : BitVec 64) (s : State) : Host.Outcome State Fault Refusal :=
  .next (onlyIf (hostOn s && flag v 0) (ringCfgWrite (2 ^ 64 - 1) v.toNat) s)

/-- RING_DISABLE: an 8-byte write of HOST_RING_CFG with ENABLE = 0 (R39). -/
def execRingDisable (v : BitVec 64) (s : State) : Host.Outcome State Fault Refusal :=
  .next (onlyIf (hostOn s && !(flag v 0)) (ringCfgWrite (2 ^ 64 - 1) v.toNat) s)

/-- SUBMISSION_TAIL_WRITE (R42). BAR2 is not reachable over USB (R35). -/
def execSubmissionTailWrite (sq : Fin 4096) (tail : BitVec 32) (s : State) : Host.Outcome State Fault Refusal :=
  .next (onlyIf (pcieOn s) (setTail sq.val tail) s)

/-- COMPLETION_HEAD_WRITE (R43). -/
def execCompletionHeadWrite (cq : Fin 256) (head : BitVec 32) (s : State) : Host.Outcome State Fault Refusal :=
  .next (onlyIf (pcieOn s) (setHead cq.val head) s)

/-- DOORBELL_INVALID_WRITE: a BAR2 write at another place or size is discarded and flagged (R40). -/
def execDoorbellInvalidWrite (off : BitVec 16) (len : Nat) (s : State) : Host.Outcome State Fault Refusal :=
  .next (onlyIf (pcieOn s && !(doorbellAccepted off.toNat len)) (doorbellError (doorbellAux off.toNat)) s)

/-! ### Push messages (Table HST-7) -/

namespace PM
def magic (m : List Byte) : Nat := rdLE m 0 2
def version (m : List Byte) : Nat := rdLE m 2 1
def typ (m : List Byte) : Nat := rdLE m 3 1
def total (m : List Byte) : Nat := rdLE m 4 4
def seq (m : List Byte) : Nat := rdLE m 8 4
def ring (m : List Byte) : Nat := rdLE m 12 2 % 4096
def count (m : List Byte) : Nat := rdLE m 14 2
def newValue (m : List Byte) : BitVec 32 := BitVec.ofNat 32 (rdLE m 16 4)
def dataLen (m : List Byte) : Nat := rdLE m 20 4
def dataAddr (m : List Byte) : Nat := rdLE m 24 8
/-- The descriptors, and the data area, of a body. -/
def descs (m : List Byte) : List Desc :=
  (List.range (count m)).map fun i => BitVec.ofNat 512 (rdLE m (32 + 64 * i) 64)
def data (m : List Byte) : List Byte := (m.drop (32 + 64 * count m)).take (dataLen m)
/-- MAGIC, VERSION, TOTAL_LEN, which is also the transfer's length, and SEQ (R62). -/
def headerOk (m : List Byte) (s : State) : Bool :=
  magic m == 0xA7C3 && version m == 1 && total m == 32 + 64 * count m + dataLen m && total m == m.length
    && seq m == s.host.seq.toNat && decide (dataLen m ≤ 2 ^ 20)
end PM

/-- Every byte of a range lies in an object that the host may write (R62). -/
def hostWritable : Nat → Nat → Nat → State → Bool
  | 0, _, n, _ => n == 0
  | k + 1, a, n, s =>
    n == 0 || (match objectOf a s with
      | none => false
      | some o =>
        let left := o.offset + extent o - offsetOf a
        o.hostWrite && decide (0 < left) && (decide (n ≤ left) || hostWritable k (a + left) (n - left) s))

/-- The rules of a RING_PUSH, a DATA_PUSH and a CQ_HEAD (R62). -/
def ringPushOk (m : List Byte) (s : State) : Bool :=
  PM.headerOk m s && decide (1 ≤ PM.count m) && decide (PM.count m ≤ 256)
    && tailValid (PM.ring m) (PM.newValue m) s
    && PM.newValue m == (sqOf (PM.ring m) s).tail + BitVec.ofNat 32 (PM.count m)
def dataPushOk (m : List Byte) (s : State) : Bool :=
  PM.headerOk m s && PM.count m == 0 && decide (PM.dataAddr m < 2 ^ 48)
    && hostWritable (PM.dataLen m + 1) (PM.dataAddr m) (PM.dataLen m) s
def cqHeadOk (m : List Byte) (s : State) : Bool :=
  PM.headerOk m s && PM.count m == 0 && PM.dataLen m == 0 && decide (PM.ring m < 256) && headValid (PM.ring m) (PM.newValue m) s

/-- The next expected SEQ, whether or not a message is accepted (R62). -/
def passSeq (s : State) : State := { s with host := { s.host with seq := s.host.seq + 1 } }

/-- A message discarded whole: HOST_ERR_STATUS.PUSH with its event (R62, R502). -/
def discardPush (m : List Byte) (s : State) : State :=
  hostError Fld.hostErrStatusPush 0x0005 Status.hostFault (PM.ring m + PM.typ m * 65536) s

/-- Bytes that the push buffer holds: descriptors not yet consumed, and data not yet released (R63). -/
def pushUsed (s : State) : Nat := (s.host.push.map fun m => 64 * m.unread + (m.data.length - m.freed)).sum

/-- There is room for a message's body. -/
def pushFits (m : List Byte) (s : State) : Bool := decide (pushUsed s + 64 * PM.count m + PM.dataLen m ≤ 2 ^ 21)

/-- The descriptors and the data of a RING_PUSH enter the push buffer, and the tail moves on. -/
def takePush (m : List Byte) (s : State) : State :=
  let r := sqOf (PM.ring m) s
  let msg : PushMsg :=
    { id := s.host.nextMsg, sq := PM.ring m, first := r.tail, descs := PM.descs m, data := PM.data m,
      unread := PM.count m, unsent := PM.count m, freed := 0 }
  let s := { s with host := { s.host with push := s.host.push ++ [msg], nextMsg := s.host.nextMsg + 1 } }
  setSq (PM.ring m) { r with tail := PM.newValue m } s

/-- A RING_PUSH, or a message of no known TYPE; an ACTIVE ring stops when its RING_PUSH is discarded (R62). -/
def ringPush (m : List Byte) (s : State) : State :=
  if PM.typ m ≠ 1 then discardPush m (passSeq s)
  else if ringPushOk m s then (if pushFits m s then takePush m (passSeq s) else s)
  else
    let active := ringState 0 (PM.ring m) s == 1
    let s := discardPush m (passSeq s)
    if active then stopRing (PM.ring m) 0x0005 s else s

/-- RING_PUSH: further packets are held with NRDY while there is no room (R62, R63). -/
def execRingPush (m : List Byte) (s : State) : Host.Outcome State Fault Refusal :=
  .next (onlyIf (usbOn s && !([2, 3].contains (PM.typ m))) (ringPush m) s)

/-- A DATA_PUSH. -/
def dataPush (m : List Byte) (s : State) : State :=
  if dataPushOk m s then hostWriteObj (PM.dataAddr m) (PM.data m) (passSeq s) else discardPush m (passSeq s)

/-- DATA_PUSH (R62, R64). -/
def execDataPush (m : List Byte) (s : State) : Host.Outcome State Fault Refusal :=
  .next (onlyIf (usbOn s && PM.typ m == 2) (dataPush m) s)

/-- A CQ_HEAD. -/
def cqHead (m : List Byte) (s : State) : State :=
  if cqHeadOk m s then moveHead (PM.ring m) (PM.newValue m) (passSeq s) else discardPush m (passSeq s)

/-- CQ_HEAD (R62). -/
def execCqHead (m : List Byte) (s : State) : Host.Outcome State Fault Refusal :=
  .next (onlyIf (usbOn s && PM.typ m == 3) (cqHead m) s)

/-! ### Completion messages (R65) -/

/-- The data block of an entry whose output returns: TAG, length, and the output padded to a multiple of 4 bytes. -/
def dataBlock (p : Posting) : List Byte :=
  match p.data with
  | none => []
  | some bs => natLe 4 p.entry.tag.toNat ++ natLe 4 bs.length ++ fitBytes (4 * ceilDiv bs.length 4) bs

/-- A completion message of some entries of a ring. -/
def completionBytes (cq : Nat) (l : List (List Byte × Posting)) : List Byte :=
  let entries := l.flatMap fun e => e.1
  let blocks := l.flatMap fun e => dataBlock e.2
  natLe 2 0xA7C3 ++ [1, 0x81] ++ natLe 4 (16 + entries.length + blocks.length) ++ natLe 2 cq ++ natLe 2 l.length
    ++ natLe 4 blocks.length ++ entries ++ blocks

/-- Up to 64 unsent entries of a ring leave; the space of their input data is released (R63). -/
def sendCompletions (cq : Nat) (s : State) : State :=
  let q := cqOf cq s
  let l := q.unsent.take 64
  let s := emit (.usbMessage (completionBytes cq l)) (setCq cq { q with unsent := q.unsent.drop 64 } s)
  forEach l (fun e s => freePush e.2.msg s) s

/-- COMPLETION_MESSAGE: an IN request is pending, and an unsent entry exists. -/
def execCompletionMessage (cq : Fin 256) (s : State) : Host.Outcome State Fault Refusal :=
  .next (onlyIf (usbOn s && !((cqOf cq.val s).unsent.isEmpty)) (sendCompletions cq.val) s)

/-! ### Host memory accesses that fail (R60) -/

/-- The descriptor names a host bus address for its input, or for its output. -/
def usesHost (c : Consumed) (write : Bool) : Bool :=
  if write then spaceOf (outAddr c.desc) == 1 && outLen c.desc != 0
  else spaceOf (inAddr c.desc) == 1 && inLen c.desc != 0

/-- DETAIL of a failed input read or output write. -/
def hostDetail (write : Bool) : Nat := if write then 0x0002 else 0x0001

/-- The stream and the item of a queued descriptor. -/
def itemHome (id : Nat) (s : State) : Option (Nat × Item) :=
  s.streams.findSome? fun p => (p.2.items.find? fun i => i.id == id).map fun i => (p.1, i)

/-- A queued item whose host access fails: a chunk that has started ends at its next trick boundary, or keeps the status for its completion;
any other item completes at once, but a chunk that waits, whose input is not read before its release (R74), and an output that nothing has
made yet. -/
def itemHostFault (st : Nat) (i : Item) (c : Consumed) (write : Bool) (s : State) : State :=
  if isChunk i && (i.phase == .waiting || (write && i.phase == .released)) then s
  else
  let s := dmaError c s
  let mark := fun (x : Item) => { x with facts := addStatus x.facts Status.hostFault (hostDetail write) 0 }
  if isChunk i && (i.phase == .started || i.phase == .ended) then
    adjItem st i.id (fun x => { mark x with leaving := x.leaving || !write }) s
  else
    let control := ((streamOf st s).map fun x => x.cls == 0).getD false
    let s := dropItem st i.id (closeFrame st i.id s)
    reopenFrame st (completeFor control c
      (((streamOf st s).map fun x => chunkFacts x { i with facts := plainFacts Status.hostFault (hostDetail write) 0 }).getD
        (plainFacts Status.hostFault (hostDetail write) 0)) s)

/-- Opcodes outside the streams that read their input from the address of their descriptor. -/
def readsInput : List Nat :=
  [Op.jobLoad, Op.tableWrite, Op.planRequest, Op.updateHeader, Op.updateBody]

/-- A descriptor outside the streams: an input read precedes its effect, and a planning request writes its output last. -/
def otherHostFault (c : Consumed) (write : Bool) (s : State) : State :=
  let op := fld c.desc 0 8
  let reads := !write && !c.started && readsInput.contains op && (canBegin c.id op s).isSome && (formatError c s).isNone
  let writes := write && c.started && op == Op.planRequest
  if reads || writes then completeOrWait c (plainFacts Status.hostFault (hostDetail write) 0) (dmaError c s) else s

/-- A host memory access of a consumed descriptor fails. -/
def hostAccessFailed (id : Nat) (write : Bool) (s : State) : State :=
  match consumedById id s with
  | none => s
  | some c =>
    if !(usesHost c write) || s.host.decided.any (fun p => p.1 == id) then s
    else match itemHome id s with
      | some (st, i) => if i.kind == .retire then s else itemHostFault st i c write s
      | none => otherHostFault c write s

/-- HOST_MEMORY_ACCESS_FAILED (R60). -/
def execHostMemoryAccessFailed (id : Nat) (write : Bool) (s : State) : Host.Outcome State Fault Refusal :=
  settled (running s && !(usbAttached s)) (hostAccessFailed id write) s

end Sys2Proof.Machine
end

