-- ==== Sys2Proof/Machine/Bar.lean ====
section
/-!
DEFINITION. BAR0: blocks and their domains, the values that registers and windows show, what writes do, and the accesses that break
the rules (R9, R10, R35, R473, R495 to R501; the register tables of every chapter).
-/
namespace Sys2Proof.Machine
open Sys2Proof

/-! ### What an offset names (R495, R496, Tables REG-1 to REG-3) -/

/-- The windows of Table REG-3. -/
inductive Win where
  | msix | pba | gates | axes | health | log | plaus | mailbox
  deriving DecidableEq, Repr

/-- First offset and length of a window. -/
def winBase : Win → Nat
  | .msix => 0x18000
  | .pba => 0x19000
  | .gates => 0x58000
  | .axes => 0xA8000
  | .health => 0xAC000
  | .log => 0xB8000
  | .plaus => 0xD8000
  | .mailbox => 0xE8000
def winLen : Win → Nat
  | .msix => 0x400
  | .pba => 8
  | .gates => 0x2000
  | .axes => 0x1000
  | .health => 0x1000
  | .log => 0x2000
  | .plaus => 0x800
  | .mailbox => 0x400

def allWins : List Win := [.msix, .pba, .gates, .axes, .health, .log, .plaus, .mailbox]

/-- The window that holds an offset. -/
def winAt (off : Nat) : Option Win := allWins.find? fun w => decide (winBase w ≤ off) && decide (off < winBase w + winLen w)

/-- The register whose 8-byte slot holds an offset. -/
def regAt (off : Nat) : Option Reg := allRegs.find? fun r => regOffset r == off - off % 8

/-- An offset lies among registers; the UPD registers stand in the upper half of block 15. -/
def isRegPlace (off : Nat) : Bool := decide (off % 0x10000 < 0x8000) || decide (0xF8000 ≤ off)

/-- What an access meets. -/
inductive BarTarget where
  | badSize | unassigned
  | reg (r : Reg)
  | win (w : Win)
  deriving DecidableEq, Repr

/-- The lengths and alignments of R496. -/
def regAccessOk (off len : Nat) : Bool := (len == 4 || len == 8) && off % len == 0
def winAccessOk (off len : Nat) : Bool :=
  decide (4 ≤ len) && decide (len ≤ 64) && len % 4 == 0 && off % 4 == 0 && decide (off % 64 + len ≤ 64)

def locate (off len : Nat) : BarTarget :=
  if isRegPlace off then
    if !(regAccessOk off len) then .badSize
    else match regAt off with
      | some r => .reg r
      | none => .unassigned
  else if !(winAccessOk off len) then .badSize
  else match winAt off with
    | some w => .win w
    | none => .unassigned

/-- The domain of a register (Table REG-1); 0 is Acorn. -/
def regDomain (r : Reg) (s : State) : Nat :=
  if r = .jpEthCfg ∨ r = .timeQbvCtrl then Dom.eth
  else if r = .updCfg then 0
  else if r = .dbgStatus ∨ r = .dbgCtrl then Dom.dbg
  else match regBlock r with
    | 0 => 0
    | 1 => attachDomain s
    | 5 => Dom.time
    | 6 => Dom.fus
    | 7 => Dom.plan
    | 8 => Dom.cle
    | 9 => Dom.jport
    | 10 => Dom.prog
    | 11 => 0
    | 13 => Dom.safe
    | 14 => Dom.sec
    | _ => Dom.mgmt

/-- The domain of a window. -/
def winDomain (w : Win) (s : State) : Nat :=
  match w with
  | .msix => attachDomain s
  | .pba => attachDomain s
  | .gates => Dom.eth
  | .axes => Dom.prog
  | .health => Dom.prog
  | .log => 0
  | .plaus => Dom.safe
  | .mailbox => Dom.sec

/-- The domain of a target. -/
def targetDomain (t : BarTarget) (s : State) : Nat :=
  match t with
  | .reg r => regDomain r s
  | .win w => winDomain w s
  | .badSize => 0
  | .unassigned => 0

/-! ### Instances -/

/-- The instance of a register that its selecting field shows; none where the field selects nothing. -/
def regIx (r : Reg) (s : State) : Option Nat :=
  match r with
  | .hostRingBase => (selectedRing s).map fun p => ringIx p.1 p.2
  | .hostRingCfg => (selectedRing s).map fun p => ringIx p.1 p.2
  | .fabErrStatus => some (getF Fld.fabDieSelDie 0 s)
  | .fabCeCount => some (getF Fld.fabDieSelDie 0 s)
  | .fabSeqStatus => some (getF Fld.fabDieSelDie 0 s)
  | .fabEpochCount => some (getF Fld.fabDieSelDie 0 s)
  | .fabCnvStatus => some (getF Fld.fabDieSelDie 0 s)
  | .fabAttStatus => some (getF Fld.fabDieSelDie 0 s)
  | .fabRecStatus => some (getF Fld.fabDieSelDie 0 s)
  | .memPodStatus => some (getF Fld.memPodSelPod 0 s)
  | .timePtpLat => some (getF Fld.timeCtrlPortSel 0 s)
  | .timeGenStart => some (getF Fld.timeCtrlGenSel 0 s)
  | .timeGenCfg => some (getF Fld.timeCtrlGenSel 0 s)
  | .cleSnapCfg => some (getF Fld.cleCtrlSnapSel 0 s)
  | .cleChStatus => some (getF Fld.cleCtrlChSel 0 s)
  | .jpPort => if getF Fld.jpCtrlPort 0 s ≤ 23 then some (getF Fld.jpCtrlPort 0 s) else none
  | .jpLine => if getF Fld.jpCtrlPort 0 s ≤ 23 then some (getF Fld.jpCtrlPort 0 s) else none
  | .jpDriveStatus => some (getF Fld.jpCtrlDrive 0 s)
  | .hltMargin => if getF Fld.hltMarginSelDie 0 s ≤ 4 then some (getF Fld.hltMarginSelDie 0 s) else none
  | .safeStageCfg => some (getF Fld.safeCtrlStageSel 0 s)
  | .safeStageStatus => some (getF Fld.safeCtrlStageSel 0 s)
  | _ => some 0

/-! ### Values that are computed -/

/-- A value built from fields. -/
def fields (l : List (Field × Nat)) (base : Nat) : Nat := l.foldl (fun v p => putBits v p.1.lo p.1.len p.2) base

/-- DLR_STREAM_INFO of the selected stream. -/
def streamInfo (s : State) : Nat :=
  match streamOf (getF Fld.dlrStreamSelStream 0 s) s with
  | none => 0
  | some x =>
    let shown := x.valid && !x.retiring && (match phaseOf x.job s with
      | some (.unloading _) => false
      | some .held => false
      | some .resident => true
      | some (.restarting _) => true
      | none => false)
    fields [(Fld.dlrStreamInfoValid, shown.toNat), (Fld.dlrStreamInfoJob, x.job), (Fld.dlrStreamInfoClass, x.cls),
      (Fld.dlrStreamInfoDies, x.dies), (Fld.dlrStreamInfoSq, x.sq), (Fld.dlrStreamInfoBoundUs, if isGuaranteed x then x.boundUs else 0)] 0

/-- FAB_DIE_STATUS of a die. -/
def dieStatus (d : Nat) (s : State) : Nat :=
  let y := dieOf d s
  fields [(Fld.fabDieStatusOp, if dieReady d s then opOf d s else 0), (Fld.fabDieStatusReady, (dieReady d s).toNat),
    (Fld.fabDieStatusEpochOpen, (!y.epochs.isEmpty).toNat), (Fld.fabDieStatusExact, (y.running.isSome && y.exact).toNat),
    (Fld.fabDieStatusStream, match y.running with
      | some (st, _) => st
      | none => y.lastStream.getD 0)] 0

/-- A link of a die is up: neither end has failed, and both ends are on (R20). -/
def linkUpOf (d link : Nat) (s : State) : Bool :=
  let there := if link = 0 then Dom.link ((d + 1) % 4) else if link = 1 then Dom.link ((d + 3) % 4) else Dom.dlink
  !((dieOf d s).failedLinks.contains link) && domOn (Dom.link d) s && domOn there s

/-- PWR_STATE codes of 32 domains. -/
def domCode : DomState → Nat
  | .off => 0
  | .retention => 1
  | .on => 2
  | .changing => 3
def stateWord (first : Nat) (s : State) : Nat :=
  (List.range 32).foldl (fun v i => putBits v (2 * i) 2 (domCode (domState (first + i) s))) 0

/-- MEM_USAGE. -/
def memUsage (s : State) : Nat :=
  fields [(Fld.memUsageT1Free, ((List.range 4).map fun n => freeFrames n s).sum), (Fld.memUsageT2Free, freePool s)] 0

/-- A pod is in self-refresh while its MEM domain is in retention (R364). -/
def inSelfRefresh (pod : Nat) (s : State) : Bool := domState (Dom.mem (pod / 4)) s == .retention

/-- LIM_THR_US of a die and a reason, in whole µs up to now (R403). -/
def throttledUs (n reason : Nat) (s : State) : Nat :=
  let now := match throttledNs n s with
    | some (r, ns) => if r = reason then ns else 0
    | none => 0
  ((mapGet s.lim.thr (8 * n + reason)).getD 0 + now) / 1000

/-- SEC_STATE, from the fuses. -/
def secState (s : State) : Nat :=
  fields [(Fld.secStateLifecycle, s.sec.lifecycle),
    (Fld.secStateOwnerValid, (s.sec.ownerHash.map fun p => 2 ^ p.1).sum), (Fld.secStateOwnerRevoked, s.sec.ownerRevoke),
    (Fld.secStateVendorRevoked, s.sec.vendorRevoke), (Fld.secStateRequireSigned, bitsAt s.sec.ownerCfg 0 1),
    (Fld.secStateDebugDisable, bitsAt s.sec.ownerCfg 1 1), (Fld.secStateFwEpoch, s.sec.epoch)] 0

/-- DBG_STATUS: the session's fields, the lockout, and the stored flags. -/
def dbgStatus (s : State) : Nat :=
  let x := s.sec.session.getD ⟨0, 0, s.clock⟩
  fields [(Fld.dbgStatusLevel, x.level), (Fld.dbgStatusScope, x.scope), (Fld.dbgStatusLockout, s.sec.locked.toNat),
    (Fld.dbgStatusFails, s.sec.fails), (Fld.dbgStatusRemainMin, ceilDiv (x.expiry - s.clock) 60000000000)] (getR .dbgStatus 0 s)

/-- Seconds that a TRIAL slot has left to confirm (R464). -/
def trialLeft (s : State) : Nat :=
  match s.upd.trialFrom with
  | some t => if slotState s.upd.runningSlot s = 3 then 120 - (s.clock - t) / 1000000000 else 0
  | none => 0

/-- UPD_STATUS. -/
def updStatus (s : State) : Nat :=
  fields [(Fld.updStatusRunning, s.upd.runningSlot), (Fld.updStatusRecovery, s.upd.recovery.toNat),
    (Fld.updStatusSession, s.upd.session.isSome.toNat), (Fld.updStatusStateA, slotState 0 s), (Fld.updStatusStateB, slotState 1 s),
    (Fld.updStatusTrialS, trialLeft s), (Fld.updStatusReceived, (s.upd.session.map fun u => u.received).getD 0)] 0

/-- VERSION of the slot that does not run; 0 where it holds no valid header. -/
def otherVersion (s : State) : Nat :=
  let k := 1 - s.upd.runningSlot
  if (slotOfFlash k s).factory || (slotState k s != 0 && FW.wellFormed (slotHeader k s)) then slotVersion k s else 0

/-- TIME_NOW (R238). -/
def timeWord (s : State) : Nat := s.timeN % secNs + s.timeN / secNs % 2 ^ 32 * 2 ^ 32

/-- The value that a register shows, all 64 bits, without side effects. WO fields are never stored and read 0. -/
def regValue (r : Reg) (s : State) : Nat :=
  let stored := ((regIx r s).map fun i => getR r i s).getD 0
  match r with
  | .idProduct => fields [(Fld.idProductGrade, Config.grade.toNat), (Fld.idProductStepping, Config.stepping.toNat)] stored
  | .idPci => fields [(Fld.idPciSubsystem, if Config.grade then 2 else 1)] stored
  | .idIdcode => fields [(Fld.idIdcodeManufacturer, Config.manufacturer.toNat), (Fld.idIdcodeVersion, Config.stepping.toNat)] stored
  | .dlrStreamInfo => streamInfo s
  | .fabDieStatus => dieStatus (getF Fld.fabDieSelDie 0 s) s
  | .fabLinkStatus =>
    let d := getF Fld.fabDieSelDie 0 s
    fields [(Fld.fabLinkStatusNextUp, (linkUpOf d 0 s).toNat), (Fld.fabLinkStatusPrevUp, (linkUpOf d 1 s).toNat),
      (Fld.fabLinkStatusHubUp, (linkUpOf d 2 s).toNat)] 0
  | .memT2Base => if usbAttached s then 0 else stored
  | .memT2Size => if usbAttached s then 0 else stored
  | .memUsage => memUsage s
  | .memPodStatus => fields [(Fld.memPodStatusSref, (inSelfRefresh (getF Fld.memPodSelPod 0 s) s).toNat)] stored
  | .timeStatus => fields [(Fld.timeStatusSecHi, s.timeN / secNs / 2 ^ 32)] stored
  | .timeNow => timeWord s
  | .timeCapData => (readCap s).1
  | .hltStatus => fields [(Fld.hltStatusOnHours, min (s.prog.onNs / hourNs) (2 ^ 32 - 1))] stored
  | .hltMargin => match regIx .hltMargin s with
    | some _ => fields [(Fld.hltMarginExtra, getF Fld.hltMarginExtra 0 s)] stored
    | none => 0
  | .pwrStateLo => stateWord 1 s
  | .pwrStateHi => stateWord 33 s
  | .pwrAcornCount => acornTicks s
  | .limThrUs => throttledUs (getF Fld.limThrSelDie 0 s) (getF Fld.limThrSelReason 0 s) s
  | .secState => secState s
  | .secSerial => Config.serial.toNat
  | .secCmd => fields [(Fld.secCmdBusy, s.sec.cmd.isSome.toNat)] stored
  | .dbgStatus => dbgStatus s
  | .updStatus => updStatus s
  | .updVersion => fields [(Fld.updVersionRunning, runningVersion s), (Fld.updVersionOther, otherVersion s)] 0
  | _ => stored

/-- A read of a register: the value sampled, with the side effect of TIME_CAP_DATA (R250, R498). -/
def readReg (r : Reg) (s : State) : Nat × State := if r = .timeCapData then readCap s else (regValue r s, s)

/-! ### Windows, read (R33, R254, R343, R351, R381, R414, R444) -/

/-- One byte of a window. -/
def winByte (w : Win) (off : Nat) (s : State) : Byte :=
  let i := off - winBase w
  match w with
  | .msix => if usbAttached s then 0 else BitVec.ofNat 8 (fld ((mapGet s.host.msixTable (i / 16)).getD (1#128 <<< 96)) (8 * (i % 16)) 8)
  | .pba => if usbAttached s then 0 else BitVec.ofNat 8 (fld s.host.pba (8 * i) 8)
  | .log => byteAt ((mapGet s.log (i / 32)).getD []) (i % 32)
  | .mailbox => memByte s.mem (mailboxBase + i)
  | .gates => memByte s.mem (winAddr off)
  | .axes => memByte s.mem (winAddr off)
  | .health => memByte s.mem (winAddr off)
  | .plaus => memByte s.mem (winAddr off)

/-! ### Windows, written -/

/-- The bits of a byte of a gate control list, an axis parameter entry and a plausibility entry that are not reserved (R9). -/
def gateMask (i : Nat) : Byte :=
  if i = 7 then 0x3F else if i < 14 then 0xFF else if i < 16 then 0 else if (i - 16) % 8 < 4 then 0xFF else 0
def axisMask (i : Nat) : Byte := if i = 0 then 1 else if i = 1 then 0x0F else if i < 48 then 0xFF else 0
def plausMask (i : Nat) : Byte :=
  if i = 20 then 3 else if i = 21 then 7 else if i = 28 then 0x0F else if i < 20 ∨ (24 ≤ i ∧ i < 28) then 0xFF else 0

/-- Bytes with their reserved bits cleared; the first lies at place `at'` of an entry of `n` bytes. -/
def masked (f : Nat → Byte) (n at' : Nat) (bs : List Byte) : List Byte := bs.zipIdx.map fun (b, i) => b &&& f ((at' + i) % n)

/-- A write of MSI-X table bytes, entry by entry (R33, R57). -/
def msixWrite (off : Nat) (bs : List Byte) (s : State) : State :=
  forEach (List.range 64) (fun v s =>
    let part := bs.zipIdx.filter fun (_, i) => (off + i) / 16 == v
    if part.isEmpty then s
    else
      let old := ((mapGet s.host.msixTable v).getD (1#128 <<< 96)).toNat
      let new := part.foldl (fun e (b, i) => putBits e (8 * ((off + i) % 16)) 8 b.toNat) old
      msixEntryWrite v (BitVec.ofNat 128 (putBits (putBits new 0 2 0) 97 31 0)) s) s

/-- A field of a plausibility entry: its place, its length, whether it is signed, and whether only a raised (true) or a lowered (false)
value tightens it; K0 to K2 and MODEL_FB have no tightening (R416). -/
structure PlausField where
  place : Nat
  len : Nat
  signed : Bool
  raises : Option Bool
  deriving DecidableEq, Repr

def plausFields : List PlausField :=
  [⟨0, 4, true, some true⟩, ⟨4, 4, true, some false⟩, ⟨8, 4, false, some false⟩, ⟨12, 4, true, none⟩, ⟨16, 2, true, none⟩,
    ⟨18, 2, true, none⟩, ⟨20, 1, false, none⟩, ⟨24, 4, false, some false⟩, ⟨28, 1, false, some false⟩]

/-- A field tightens, or does not change. -/
def tightens (f : PlausField) (old new : List Byte) : Bool :=
  let v (bs : List Byte) : Int := if f.signed then sext (8 * f.len) (rdLE bs f.place f.len) else (rdLE bs f.place f.len : Nat)
  v old == v new || (match f.raises with
    | some true => decide (v old < v new)
    | some false => decide (v new < v old)
    | none => false)

/-- What a write leaves in an entry while a job with a SAFETY stream is resident, and whether something was clamped (R416). -/
def tightened (old new : List Byte) : List Byte × Bool :=
  let bad := plausFields.filter fun f => !(tightens f old new)
  let kept := bad.foldl (fun bs f => bs.take f.place ++ (old.drop f.place).take f.len ++ bs.drop (f.place + f.len)) new
  let en := byteAt old 21 ||| byteAt new 21
  (kept.take 21 ++ [en] ++ kept.drop 22, !bad.isEmpty || en != byteAt new 21)

/-- A job with a SAFETY stream is resident. -/
def safetyResident (s : State) : Bool := s.streams.any fun p => p.2.safety

/-- A write of the plausibility window (R414, R416). -/
def plausWrite (off : Nat) (bs : List Byte) (s : State) : State :=
  let first := (off - 0xD8000) / 32
  let count := (off - 0xD8000 + bs.length - 1) / 32 - first + 1
  let base := winAddr (0xD8000 + 32 * first)
  let old := rdMem s base (32 * count)
  let at' := off - 0xD8000 - 32 * first
  let new := old.take at' ++ masked plausMask 32 at' bs ++ old.drop (at' + bs.length)
  if !(safetyResident s) then wrMem base new s
  else
    let l := (List.range count).map fun k => tightened ((old.drop (32 * k)).take 32) ((new.drop (32 * k)).take 32)
    let s := wrMem base (l.flatMap fun p => p.1) s
    if l.any fun p => p.2 then clampReport 3 13 s else s

/-- A write of the gate control lists: the oper list does not change (R254). -/
def gateWrite (off : Nat) (bs : List Byte) (s : State) : State :=
  let mac := (off - 0x58000) / 0x800
  let list := (off - 0x58000) / 0x400 % 2
  if qbvOper mac s = list then s else wrMem (winAddr off) (masked gateMask 0x400 (off % 0x400) bs) s

/-- A write of a window. -/
def winWrite (w : Win) (off : Nat) (bs : List Byte) (s : State) : State :=
  match w with
  | .msix => if usbAttached s then s else msixWrite (off - 0x18000) bs s
  | .gates => gateWrite off bs s
  | .axes => axisParamWrite (off - 0xA8000) (masked axisMask 64 (off % 64) bs) s
  | .plaus => plausWrite off bs s
  | .mailbox => wrMem (mailboxBase + (off - 0xE8000)) bs s
  | .pba => s
  | .health => s
  | .log => s

/-! ### Registers, written -/

/-- A write that only stores. -/
def storeReg (r : Reg) (mask v : Nat) (s : State) : State :=
  match regIx r s with
  | some i => setR r i (writtenVal r (getR r i s) mask v) s
  | none => s

/-- A bit written as 1. -/
def ones (mask v i : Nat) : Bool := bitsAt (v &&& mask) i 1 == 1

/-- TIME_CTRL: ACCEPT acts (R245). -/
def timeCtrlWrite (mask v : Nat) (s : State) : State :=
  let s := storeReg .timeCtrl mask v s
  if ones mask v 0 then afterStep s.timeN (acceptStep s) else s

/-- TIME_QBV_CTRL: CHANGE acts, where the time base runs (R254). -/
def qbvCtrlWrite (mask v : Nat) (s : State) : State :=
  forEach ((List.range 4).filter fun m => ones mask v m && timeOn s) qbvRequest (storeReg .timeQbvCtrl mask v s)

/-- CLE_CTRL: HUSK_ENTER and HUSK_EXIT act (R336, R337). -/
def cleCtrlWrite (mask v : Nat) (s : State) : State :=
  let s := storeReg .cleCtrl mask v s
  let s := if ones mask v 1 then enterHusk 1 s else s
  if ones mask v 2 then huskExit s else s

/-- JP_CTRL: REENABLE acts (Table CLE-6). -/
def jpCtrlWrite (mask v : Nat) (s : State) : State :=
  let s := storeReg .jpCtrl mask v s
  if ones mask v 16 && domOn Dom.cle s then reenableDrive (getF Fld.jpCtrlDrive 0 s) s else s

/-- JP_ETH_CFG: a MODE that changes retrains the link. -/
def ethCfgWrite (mask v : Nat) (s : State) : State :=
  let old := getR .jpEthCfg 0 s
  let new := writtenVal .jpEthCfg old mask v
  setR .jpEthCfg 0 ((List.range 4).foldl (fun x m => if bitsAt old (8 * m) 2 = bitsAt new (8 * m) 2 then x else putBits x (8 * m + 4) 1 0) new) s

/-- HLT_MARGIN: EXTRA is one field for all dies, and every rail follows (R358). -/
def marginWrite (mask v : Nat) (s : State) : State :=
  forEach (List.range 5) followGuard (setR .hltMargin 0 (writtenVal .hltMargin (getR .hltMargin 0 s) mask v) s)

/-- HLT_FEED_CFG and HLT_FEED_ADDR: a feed that has stopped starts again with the new settings (log 82). -/
def feedWrite (r : Reg) (mask v : Nat) (s : State) : State :=
  storeReg r mask v (setProg { s.prog with feedStopped := false } s)

/-- SAFE_CTRL: ARM and DROP act; with both written, the outputs end low. -/
def safeCtrlWrite (mask v : Nat) (s : State) : State :=
  let s := storeReg .safeCtrl mask v s
  let s := if ones mask v 0 then armOutputs s else s
  if ones mask v 1 then dropOutputs 3 s else s

/-- A stage slot bound to the SAFETY stream of a resident job (R409). -/
def stageHeld (g : Nat) (s : State) : Bool :=
  getB Fld.safeStageCfgEn g s && getF Fld.safeStageCfgSource g s == 0
    && ((streamOf (getF Fld.safeStageCfgStream g s) s).map fun x => x.safety).getD false
    && stageOf (getF Fld.safeStageCfgStream g s) s == some g

/-- SAFE_STAGE_CFG: a held slot keeps EN, SOURCE and STREAM; windows beyond their limits are stored and act clamped (R359, R409). -/
def stageCfgWrite (mask v : Nat) (s : State) : State :=
  let g := getF Fld.safeCtrlStageSel 0 s
  let old := getR .safeStageCfg g s
  let asked := writtenVal .safeStageCfg old mask v
  let new := if stageHeld g s then putBits (putBits asked 0 3 (bitsAt old 0 3)) 8 8 (bitsAt old 8 8) else asked
  let s := setR .safeStageCfg g new s
  let late := newF Fld.safeStageCfgLateUs new
  let over' := decide (lateLimit g s < late) || decide (lateUs g s < newF Fld.safeStageCfgEarlyUs new)
  if asked ≠ new ∨ (over' ∧ bitsAt (accMask .rw .safeStageCfg &&& mask) 16 40 ≠ 0) then clampReport 3 13 s else s

/-- SEC_CMD: GO starts CODE (R444). -/
def secCmdWrite (mask v : Nat) (s : State) : State :=
  let s := storeReg .secCmd mask v s
  if ones mask v 8 then startCmd (getF Fld.secCmdCode 0 s) s else s

/-- The T2 pool: no change over USB, or while a job is resident (R154). -/
def poolWrite (r : Reg) (mask v : Nat) (s : State) : State :=
  if usbAttached s then s else if !s.jobs.isEmpty then setB Fld.memErrStatusCfg 0 true s else storeReg r mask v s

/-- PWR_RESET (R468). -/
def pwrResetWrite (mask v : Nat) (s : State) : State :=
  if bitsAt (v &&& mask) 0 16 = 0x4D52 ∧ ones mask v 16 then moduleReset 2 (if progOn s then saveNow s else s) else s

/-- A write of a register under a bit mask. -/
def regWrite (r : Reg) (mask v : Nat) (s : State) : State :=
  match r with
  | .hostRingBase => ringBaseWrite mask v s
  | .hostRingCfg => ringCfgWrite mask v s
  | .memT2Base => poolWrite r mask v s
  | .memT2Size => poolWrite r mask v s
  | .timeCtrl => timeCtrlWrite mask v s
  | .timeGenStart => genStartWrite mask v s
  | .timeGenCfg => genCfgWrite mask v s
  | .timeQbvCtrl => qbvCtrlWrite mask v s
  | .fusCtrl => fusCtrlWrite mask v s
  | .fusStart => if getB Fld.fusCtrlEnable 0 s then s else storeReg r mask v s
  | .plnWriter => plnWriterWrite mask v s
  | .cleCtrl => cleCtrlWrite mask v s
  | .jpCtrl => jpCtrlWrite mask v s
  | .jpEthCfg => ethCfgWrite mask v s
  | .hltCtrl => hltCtrlWrite mask v s
  | .hltMargin => marginWrite mask v s
  | .hltFeedCfg => feedWrite r mask v s
  | .hltFeedAddr => feedWrite r mask v s
  | .pwrAlarm => alarmWrite mask v s
  | .pwrReset => pwrResetWrite mask v s
  | .pwrSpwrCfg => spwrCfgWrite mask v s
  | .safeCtrl => safeCtrlWrite mask v s
  | .safeStageCfg => stageCfgWrite mask v s
  | .secCmd => secCmdWrite mask v s
  | .dbgCtrl => if ones mask v 0 then endSession 0 s else s
  | .updCtrl => if ones mask v 0 then hostConsents s else s
  | _ => storeReg r mask v s

/-- A write of bytes at an offset inside a target. -/
def targetWrite (t : BarTarget) (off : Nat) (bs : List Byte) (s : State) : State :=
  match t with
  | .reg r => regWrite r ((2 ^ (8 * bs.length) - 1) * 2 ^ (8 * (off % 8))) (leNat bs * 2 ^ (8 * (off % 8))) s
  | .win w => winWrite w off bs s
  | .badSize => s
  | .unassigned => s

/-! ### The host's accesses (R473, R496, R498, R499) -/

/-- ID_ACCESS takes note of an access that breaks a rule. -/
def noteAccess (f : Field) (off : Nat) (s : State) : State :=
  incF Fld.idAccessCount 0
    (setF Fld.idAccessOffset 0 (off % 65536) (setF Fld.idAccessBlock 0 (off / 65536) (setB f 0 true s)))

/-- BAR0 is reachable over the attachment in use. -/
def barOn (s : State) : Bool := (running s || s.phase == .starting) && domOn (attachDomain s) s

/-- Before FW_READY, BAR0 serves the ID block and PWR_RESET_CAUSE. -/
def served (off : Nat) (s : State) : Bool := running s || decide (off < 0x10000) || off - off % 8 == 0xB0058

/-- A write by the host. -/
def barWrite (off : Nat) (bs : List Byte) (s : State) : State :=
  if !(served off s) then s
  else match locate off bs.length with
    | .badSize => noteAccess Fld.idAccessSize off s
    | .unassigned => noteAccess Fld.idAccessUnassigned off s
    | .reg r => if domOn (regDomain r s) s then targetWrite (.reg r) off bs s else noteAccess Fld.idAccessOffWrite off s
    | .win w => if domOn (winDomain w s) s then targetWrite (.win w) off bs s else noteAccess Fld.idAccessOffWrite off s

/-- The high word sampled last over a path, if any. -/
def setSample (path : Nat) (x : Option (Nat × Nat)) (s : State) : State :=
  { s with host := { s.host with sampled := match x with
      | some p => mapSet s.host.sampled path p
      | none => mapErase s.host.sampled path } }

/-- Four bytes of a register: a low half samples the whole register; the next read over the path, of its high half, returns that
sample (R498). -/
def readHalf (path : Nat) (r : Reg) (off : Nat) (s : State) : List Byte × State :=
  let base := off - off % 8
  if off % 8 = 0 then
    let (v, s) := readReg r s
    (natLe 4 v, setSample path (if regWidth r = 64 then some (base, v / 2 ^ 32) else none) s)
  else
    let hi := match mapGet s.host.sampled path with
      | some (b, h) => if b = base then h else regValue r s / 2 ^ 32
      | none => regValue r s / 2 ^ 32
    (natLe 4 (if regWidth r = 64 then hi else 0), setSample path none s)

/-- A read of four bytes inside a target. -/
def targetRead (path : Nat) (t : BarTarget) (off : Nat) (s : State) : List Byte × State :=
  match t with
  | .reg r => readHalf path r off s
  | .win w => ((List.range 4).map fun i => winByte w (off + i) s, setSample path none s)
  | .badSize => (natLe 4 0, setSample path none s)
  | .unassigned => (natLe 4 0, setSample path none s)

/-- A read of four bytes by the host. -/
def barRead (off : Nat) (s : State) : List Byte × State :=
  let no (s : State) : List Byte × State := (natLe 4 0, setSample 0 none s)
  if !(served off s) then no s
  else
    let t := locate off 4
    match t with
    | .badSize => no (noteAccess Fld.idAccessSize off s)
    | .unassigned => no (noteAccess Fld.idAccessUnassigned off s)
    | .reg r => if domOn (regDomain r s) s then targetRead 0 t off s else no (noteAccess Fld.idAccessOffRead off s)
    | .win w => if domOn (winDomain w s) s then targetRead 0 t off s else no (noteAccess Fld.idAccessOffRead off s)

/-- REGISTER_WRITE: a memory write of BAR0 over PCI Express (R496). -/
def execRegisterWrite (off : Nat) (bytes : List Byte) (s : State) : Host.Outcome State Fault Refusal :=
  settled (barOn s && !(usbAttached s) && decide (off + bytes.length ≤ 2 ^ 20)) (barWrite off bytes) s

/-! ### USB vendor requests (R35) -/

/-- The offset of a request. -/
def usbOffset (wValue wIndex : BitVec 16) : Nat := wIndex.toNat * 65536 + wValue.toNat

/-- The rules of a request; wIndex carries offset bits 19:16 only. -/
def usbRequestOk (wValue wIndex wLength : BitVec 16) : Bool :=
  decide (wIndex.toNat < 16) && wValue.toNat % 4 == 0 && wLength.toNat % 4 == 0 && decide (4 ≤ wLength.toNat)
    && decide (wLength.toNat ≤ 256)

/-- Words read at consecutive offsets. A word past the end of the 1 MiB map counts as unassigned (DEDUCED, log 87). -/
def readWords : Nat → Nat → List Byte → State → List Byte × State
  | 0, _, acc, s => (acc, s)
  | k + 1, off, acc, s =>
    let (bs, s) := barRead off s
    readWords k (off + 4) (acc ++ bs) s

/-- Words written at consecutive offsets, each as a 4-byte write. -/
def writeWords : Nat → Nat → List Byte → State → State
  | 0, _, _, s => s
  | k + 1, off, bs, s => writeWords k (off + 4) (bs.drop 4) (barWrite off (bs.take 4) s)

/-- REG_READ. -/
def regReadRequest (wValue wIndex wLength : BitVec 16) (s : State) : State :=
  if usbRequestOk wValue wIndex wLength then
    let (bs, s) := readWords (wLength.toNat / 4) (usbOffset wValue wIndex) [] s
    emit (.usbData bs) s
  else emit .usbStall s

def execRegRead (wValue wIndex wLength : BitVec 16) (s : State) : Host.Outcome State Fault Refusal :=
  .next (onlyIf (barOn s && usbAttached s) (regReadRequest wValue wIndex wLength) s)

/-- REG_WRITE. -/
def regWriteRequest (wValue wIndex wLength : BitVec 16) (bytes : List Byte) (s : State) : State :=
  if usbRequestOk wValue wIndex wLength && bytes.length == wLength.toNat then
    writeWords (wLength.toNat / 4) (usbOffset wValue wIndex) bytes s
  else emit .usbStall s

def execRegWrite (wValue wIndex wLength : BitVec 16) (bytes : List Byte) (s : State) : Host.Outcome State Fault Refusal :=
  settled (barOn s && usbAttached s) (regWriteRequest wValue wIndex wLength bytes) s

end Sys2Proof.Machine
end

