-- ==== Sys2Proof/Machine/Debug.lean ====
section
/-!
DEFINITION. The debug ports: TAP instructions, boundary scan, and transaction requests over the TAP and over USB (R448 to R455,
Tables SEC-5 to SEC-7).
-/
namespace Sys2Proof.Machine
open Sys2Proof

/-- Acorn has its supply: IDCODE, DOMAINS and BYPASS work (R452, Table SEC-7). -/
def acornOn (s : State) : Bool := s.phase != .unpowered

/-- SEC and DBG are on, which every other instruction needs (R452). -/
def debugOn (s : State) : Bool := running s && domOn Dom.sec s && domOn Dom.dbg s

/-- Any instruction but EXTEST takes it out of the instruction register. -/
def deselect (s : State) : State := setSec { s.sec with extest := false } s

/-- LEVEL of the session: 0 CLOSED, 1 OWNER_OPEN, 2 VENDOR_OPEN; and a SCOPE bit, which VENDOR_OPEN always has (Table SEC-5). -/
def debugLevel (s : State) : Nat := (s.sec.session.map fun x => x.level).getD 0
def hasScope (bit : Nat) (s : State) : Bool :=
  match s.sec.session with
  | none => false
  | some x => x.level == 2 || bitsAt x.scope bit 1 == 1

/-! ### Results (R453, R455) -/

namespace St
def ok : Nat := 0
def notOn : Nat := 1
def denied : Nat := 2
end St

/-- NOT_ON and DENIED leave their bit in DBG_STATUS while DBG is on. -/
def noteStatus (st : Nat) (s : State) : State :=
  if !(domOn Dom.dbg s) then s
  else if st = St.notOn then setB Fld.dbgStatusNotOn 0 true s
  else if st = St.denied then setB Fld.dbgStatusDenied 0 true s
  else s

/-- The 96 bits of a result. -/
def answerBytes (st tag data : Nat) : List Byte := natLe 12 (st % 4 + tag % 16 * 2 ^ 60 + data % 2 ^ 32 * 2 ^ 64)

/-! ### Requests (R453) -/

namespace XR
def op (r : Nat) : Nat := bitsAt r 0 2
def object (r : Nat) : Bool := bitsAt r 2 1 == 1
def addr (r : Nat) : Nat := bitsAt r 3 48
def tag (r : Nat) : Nat := bitsAt r 60 4
def data (r : Nat) : Nat := bitsAt r 64 32
end XR

/-- The way that a request came: 1 TAP, 2 USB, which are also the paths of R498. -/
abbrev Port := Nat

/-- SEC_CMD and the mailbox (R444). -/
def isMailboxPlace (off : Nat) : Bool := off - off % 8 == 0xE0010 || (decide (0xE8000 ≤ off) && decide (off < 0xE8400))

/-- The blocks that the scope of OWNER_OPEN names: FABRIC the Dealer and the fabric, MEM_READ and MEM_WRITE the memory tiers, HUB the
engines (log 66). -/
def blockInScope (b : Nat) (s : State) : Bool :=
  if b = 2 ∨ b = 3 then hasScope 0 s
  else if b = 4 then hasScope 1 s || hasScope 2 s
  else if [5, 6, 7, 8, 10].contains b then hasScope 3 s
  else debugLevel s == 2

/-- STATUS of an access to BAR0 (Table SEC-7); `mailbox` says that the way of the request reaches the mailbox at every level. -/
def barStatus (mailbox only : Bool) (off : Nat) (s : State) : Nat :=
  let t := locate off 4
  if !(domOn (targetDomain t s) s) then St.notOn
  else if mailbox && isMailboxPlace off then St.ok
  else if only then St.denied
  else if blockInScope (off / 65536) s then St.ok
  else St.denied

/-- A request to BAR0: STATUS, the data read, and the state after it. -/
def barRequest (port : Port) (mailbox only : Bool) (r : Nat) (s : State) : Nat × Nat × State :=
  let off := XR.addr r
  let st := barStatus mailbox only off s
  let write := XR.op r == 2
  if st ≠ St.ok then (st, 0, s)
  else if write then
    let (n, s) := freeNat 29 s
    (st, n, targetWrite (locate off 4) off (natLe 4 (XR.data r)) s)
  else
    let (bs, s) := targetRead port (locate off 4) off s
    (st, leNat bs, s)

/-- STATUS of an access to an object-range word (Tables SEC-5, SEC-7): the pool in host memory lies outside OWNER_OPEN's scope. -/
def objStatus (write : Bool) (m : Nat) (s : State) : Nat :=
  if (offDomain m s).isSome then St.notOn
  else if hasScope (if write then 2 else 1) s && (debugLevel s == 2 || isT0 m || isT1 m) then St.ok
  else St.denied

/-- A request to a mapped word of the object range. What a read returns from a granule that cannot be corrected is open. -/
def objRequest (r m : Nat) (ecc : ReadEcc) (s : State) : Nat × Nat × State :=
  let write := XR.op r == 2
  let st := objStatus write m s
  if st ≠ St.ok then (st, 0, s)
  else if write then
    let (n, s) := freeNat 29 s
    (st, n, hostWriteObj (XR.addr r) (natLe 4 (XR.data r)) s)
  else
    let s := touchPages (XR.addr r) 4 (senseObj (XR.addr r) 4 ecc s)
    match firstErr 4 (XR.addr r) 4 s with
    | some e =>
      let (n, s) := freeNat 29 (noteT0 e s)
      (st, n, s)
    | none => (st, leNat (readObj (XR.addr r) 4 s), s)

/-- A request that no rule covers: a misaligned address, one outside BAR0, or one that no object holds. It has no effect, and its
result is open. -/
def openRequest (s : State) : Nat × Nat × State :=
  let (st, s) := freeNat 29 s
  let (n, s) := freeNat 29 s
  (st % 4, if st % 4 = St.ok then n else 0, s)

/-- One request taken. -/
def takeRequest (port : Port) (mailbox only : Bool) (r : Nat) (ecc : ReadEcc) (s : State) : Nat × Nat × State :=
  if XR.op r = 0 ∨ XR.op r = 3 then (St.ok, 0, s)
  else if XR.addr r % 4 ≠ 0 then openRequest s
  else if !(XR.object r) then if XR.addr r < 2 ^ 20 then barRequest port mailbox only r s else openRequest s
  else if only then (St.denied, 0, s)
  else match resolve (XR.addr r) s with
    | some m => objRequest r m ecc s
    | none => if debugLevel s = 0 then (St.denied, 0, s) else openRequest s

/-- A request and its result record; while SEC or DBG is not on it ends NOT_ON. -/
def answer (port : Port) (mailbox only : Bool) (bytes : List Byte) (ecc : ReadEcc) (s : State) : List Byte × State :=
  let r := rdLE bytes 0 12
  if !(debugOn s) then (answerBytes St.notOn (XR.tag r) 0, noteStatus St.notOn s)
  else
    let (st, data, s) := takeRequest port mailbox only r ecc s
    (answerBytes st (XR.tag r) data, noteStatus st s)

/-- A scan of the TAP's data register: the previous result leaves, and the request that came in is taken at Update-DR. -/
def scanRequest (mailbox only : Bool) (bytes : List Byte) (ecc : ReadEcc) (s : State) : State :=
  let out := fitBytes 12 s.sec.result
  let (res, s) := answer 1 mailbox only bytes ecc (emit (.debugData out) (deselect s))
  setSec { s.sec with result := res } s

/-- The records of an EP2 OUT transfer, answered with as many: what the reads found is counted over the words of the transfer, four
bytes a record. -/
def answerAll : List (List Byte) → List Byte → ReadEcc → State → List Byte × State
  | [], acc, _, s => (acc, s)
  | b :: bs, acc, ecc, s =>
    let (res, s) := answer 2 true false b ecc s
    answerAll bs (acc ++ fitBytes 16 res) (eccAfter 4 ecc) s

/-- The records of a transfer, answered. -/
def usbRecords (bytes : List Byte) (ecc : ReadEcc) (s : State) : State :=
  let (out, s) := answerAll (chunksOf 16 64 bytes) [] ecc s
  emit (.debugData out) s

/-- A transfer of 1 to 64 records of 16 bytes. -/
def isTransfer (bytes : List Byte) : Bool := decide (16 ≤ bytes.length) && decide (bytes.length ≤ 1024) && bytes.length % 16 == 0

/-- XACT (R453): 12 bytes are a scan of the TAP, whole records a transfer on EP2 OUT, whose interface needs USB and DBG on. -/
def execXact (request : List Byte) (ecc : ReadEcc) (s : State) : Host.Outcome State Fault Refusal :=
  if request.length = 12 then settled (acornOn s) (scanRequest false false request ecc) s
  else settled (debugOn s && domOn Dom.usb s && isTransfer request) (usbRecords request ecc) s

/-- MAILBOX: requests that reach SEC_CMD and the mailbox only, at every level (R444, Table SEC-6). -/
def execTapMailbox (request : List Byte) (s : State) : Host.Outcome State Fault Refusal :=
  settled (acornOn s && request.length == 12) (scanRequest true true request .clean) s

/-! ### IDCODE, DOMAINS and BYPASS -/

/-- IDCODE. -/
def execTapIdcode (s : State) : Host.Outcome State Fault Refusal :=
  .next (onlyIf (acornOn s) (fun s => emit (.debugData (natLe 4 (regValue .idIdcode s))) (deselect s)) s)

/-- DOMAINS: PWR_STATE_LO, then PWR_STATE_HI. -/
def execTapDomains (s : State) : Host.Outcome State Fault Refusal :=
  .next (onlyIf (acornOn s) (fun s => emit (.debugData (natLe 8 (stateWord 1 s) ++ natLe 8 (stateWord 33 s))) (deselect s)) s)

/-- BYPASS: the bit that was shifted in comes out. -/
def execTapBypass (bit : Bool) (s : State) : Host.Outcome State Fault Refusal :=
  .next (onlyIf (acornOn s) (fun s => emit (.debugData [if bit then 1 else 0]) (deselect s)) s)

/-! ### Boundary scan (R451) -/

/-- SAMPLE and EXTEST need OWNER_OPEN with BSCAN, or VENDOR_OPEN. -/
def scanAllowed (s : State) : Bool := hasScope 4 s

/-- STATUS of a boundary-scan instruction. -/
def scanStatus (s : State) : Nat := if !(debugOn s) then St.notOn else if scanAllowed s then St.ok else St.denied

/-- SAMPLE: the levels of the pins are captured and shifted out. -/
def sample (pins : List Byte) (s : State) : State :=
  let s := deselect s
  if scanStatus s = St.ok then emit (.debugData pins) s else noteStatus (scanStatus s) s
def execTapSample (pins : List Byte) (s : State) : Host.Outcome State Fault Refusal := .next (onlyIf (acornOn s) (sample pins) s)

/-- EXTEST: refused while a job is resident. While it is selected the CLE sends nothing and the safety outputs are low, dropped by the
host. Which pin each bit of the scan drives is not in the spec (log 67). -/
def extest (_pins : List Byte) (s : State) : State :=
  if scanStatus s ≠ St.ok then noteStatus (scanStatus s) s
  else if !s.jobs.isEmpty then s
  else if s.sec.extest then s
  else dropOutputs 3 (setSec { s.sec with extest := true } s)
def execTapExtest (pins : List Byte) (s : State) : Host.Outcome State Fault Refusal := .next (onlyIf (acornOn s) (extest pins) s)

end Sys2Proof.Machine
end

