-- ==== Sys2Proof/Machine/Dispatch.lean ====
section
/-!
DEFINITION. The command dispatch: one arm per row of the spec's table.
-/
namespace Sys2Proof.Machine
open Sys2Proof

def exec (i : Instr) (s : State) : Host.Outcome State Fault Refusal :=
  match i with
  | .registerWrite off bytes => Sys2Proof.Machine.execRegisterWrite off bytes s
  | .regRead wValue wIndex wLength => Sys2Proof.Machine.execRegRead wValue wIndex wLength s
  | .regWrite wValue wIndex wLength bytes => Sys2Proof.Machine.execRegWrite wValue wIndex wLength bytes s
  | .ringEnable value => Sys2Proof.Machine.execRingEnable value s
  | .ringDisable value => Sys2Proof.Machine.execRingDisable value s
  | .submissionTailWrite sq tail => Sys2Proof.Machine.execSubmissionTailWrite sq tail s
  | .completionHeadWrite cq head => Sys2Proof.Machine.execCompletionHeadWrite cq head s
  | .doorbellInvalidWrite off len => Sys2Proof.Machine.execDoorbellInvalidWrite off len s
  | .descriptorRead sq data => Sys2Proof.Machine.execDescriptorRead sq data s
  | .nop id => Sys2Proof.Machine.execNop id s
  | .chunk id => Sys2Proof.Machine.execChunk id s
  | .chunkTriggered id => Sys2Proof.Machine.execChunkTriggered id s
  | .jobLoad id image binding => Sys2Proof.Machine.execJobLoad id image binding s
  | .jobUnload id => Sys2Proof.Machine.execJobUnload id s
  | .streamRetire id => Sys2Proof.Machine.execStreamRetire id s
  | .streamSwap id input => Sys2Proof.Machine.execStreamSwap id input s
  | .streamSwapForced id input => Sys2Proof.Machine.execStreamSwapForced id input s
  | .cancel id => Sys2Proof.Machine.execCancel id s
  | .jobRestart id => Sys2Proof.Machine.execJobRestart id s
  | .tableWrite id data => Sys2Proof.Machine.execTableWrite id data s
  | .treeWrite id data => Sys2Proof.Machine.execTreeWrite id data s
  | .setpointWrite id data => Sys2Proof.Machine.execSetpointWrite id data s
  | .planRequest id => Sys2Proof.Machine.execPlanRequest id s
  | .powerState id => Sys2Proof.Machine.execPowerState id s
  | .powerPolicy id => Sys2Proof.Machine.execPowerPolicy id s
  | .updateHeader id data => Sys2Proof.Machine.execUpdateHeader id data s
  | .updateBody id data => Sys2Proof.Machine.execUpdateBody id data s
  | .updateCommit id => Sys2Proof.Machine.execUpdateCommit id s
  | .holdingQueueDrain cq => Sys2Proof.Machine.execHoldingQueueDrain cq s
  | .cqStall cq => Sys2Proof.Machine.execCqStall cq s
  | .coalTime cq => Sys2Proof.Machine.execCoalTime cq s
  | .msixUnmask vector => Sys2Proof.Machine.execMsixUnmask vector s
  | .ringPush message => Sys2Proof.Machine.execRingPush message s
  | .dataPush message => Sys2Proof.Machine.execDataPush message s
  | .cqHead message => Sys2Proof.Machine.execCqHead message s
  | .completionMessage cq => Sys2Proof.Machine.execCompletionMessage cq s
  | .linkReset cause => Sys2Proof.Machine.execLinkReset cause s
  | .perstNDeassert => Sys2Proof.Machine.execPerstNDeassert s
  | .trickBoundary die ecc => Sys2Proof.Machine.execTrickBoundary die ecc s
  | .trickOverrun die => Sys2Proof.Machine.execTrickOverrun die s
  | .sequenceWord die error => Sys2Proof.Machine.execSequenceWord die error s
  | .barrierPass stream => Sys2Proof.Machine.execBarrierPass stream s
  | .fetchThreadDone die thread ecc => Sys2Proof.Machine.execFetchThreadDone die thread ecc s
  | .cheapPathChoice die => Sys2Proof.Machine.execCheapPathChoice die s
  | .dieLinkArrival transfer => Sys2Proof.Machine.execDieLinkArrival transfer s
  | .linkFailed die link inbound => Sys2Proof.Machine.execLinkFailed die link inbound s
  | .pageStep die ecc => Sys2Proof.Machine.execPageStep die ecc s
  | .dummyCompare stream ecc => Sys2Proof.Machine.execDummyCompare stream ecc s
  | .dummyOverdue stream => Sys2Proof.Machine.execDummyOverdue stream s
  | .moveRequest die stream index line => Sys2Proof.Machine.execMoveRequest die stream index line s
  | .pageMoveDone move ecc => Sys2Proof.Machine.execPageMoveDone move ecc s
  | .migrationSweep => Sys2Proof.Machine.execMigrationSweep s
  | .segmentLanded window => Sys2Proof.Machine.execSegmentLanded window s
  | .segmentReadFailed window => Sys2Proof.Machine.execSegmentReadFailed window s
  | .variantSignal window => Sys2Proof.Machine.execVariantSignal window s
  | .patrolScrub die granule ecc => Sys2Proof.Machine.execPatrolScrub die granule ecc s
  | .recalibration pod => Sys2Proof.Machine.execRecalibration pod s
  | .syncMessage sync => Sys2Proof.Machine.execSyncMessage sync s
  | .syncTimeout => Sys2Proof.Machine.execSyncTimeout s
  | .timeAccept => Sys2Proof.Machine.execTimeAccept s
  | .generatorFiring generator => Sys2Proof.Machine.execGeneratorFiring generator s
  | .generatorEnable value => Sys2Proof.Machine.execGeneratorEnable value s
  | .generatorDisable value => Sys2Proof.Machine.execGeneratorDisable value s
  | .captureEdge input rising => Sys2Proof.Machine.execCaptureEdge input rising s
  | .timeCapDataRead => Sys2Proof.Machine.execTimeCapDataRead s
  | .qbvChange mac => Sys2Proof.Machine.execQbvChange mac s
  | .qbvListSwitch mac => Sys2Proof.Machine.execQbvListSwitch mac s
  | .sensorSample entry age errors lines => Sys2Proof.Machine.execSensorSample entry age errors lines s
  | .spiAssertion entry bytes => Sys2Proof.Machine.execSpiAssertion entry bytes s
  | .sensorSilent entry => Sys2Proof.Machine.execSensorSilent entry s
  | .post die stream index line => Sys2Proof.Machine.execPost die stream index line s
  | .fusionClose ecc => Sys2Proof.Machine.execFusionClose ecc s
  | .fusionResult => Sys2Proof.Machine.execFusionResult s
  | .tableActivation => Sys2Proof.Machine.execTableActivation s
  | .fusionEnable value => Sys2Proof.Machine.execFusionEnable value s
  | .planCycleStart record ecc => Sys2Proof.Machine.execPlanCycleStart record ecc s
  | .planBudget => Sys2Proof.Machine.execPlanBudget s
  | .planResult => Sys2Proof.Machine.execPlanResult s
  | .mapCommit die stream index line => Sys2Proof.Machine.execMapCommit die stream index line s
  | .occIntake => Sys2Proof.Machine.execOccIntake s
  | .feedback drive frame => Sys2Proof.Machine.execFeedback drive frame s
  | .deadlineMiss channel => Sys2Proof.Machine.execDeadlineMiss channel s
  | .ident drive frame => Sys2Proof.Machine.execIdent drive frame s
  | .reenable value => Sys2Proof.Machine.execReenable value s
  | .setpointEntry die stream channel entry => Sys2Proof.Machine.execSetpointEntry die stream channel entry s
  | .setpointCommit commit => Sys2Proof.Machine.execSetpointCommit commit s
  | .snapshot target => Sys2Proof.Machine.execSnapshot target s
  | .huskEnter => Sys2Proof.Machine.execHuskEnter s
  | .huskExit => Sys2Proof.Machine.execHuskExit s
  | .cleFault cause => Sys2Proof.Machine.execCleFault cause s
  | .lineClassify port flags => Sys2Proof.Machine.execLineClassify port flags s
  | .txShortRetest port shorted => Sys2Proof.Machine.execTxShortRetest port shorted s
  | .healthPass ecc => Sys2Proof.Machine.execHealthPass ecc s
  | .hourlyHistory => Sys2Proof.Machine.execHourlyHistory s
  | .prognosticsSave ok => Sys2Proof.Machine.execPrognosticsSave ok s
  | .feedBatch => Sys2Proof.Machine.execFeedBatch s
  | .axisReset value => Sys2Proof.Machine.execAxisReset value s
  | .axisKeep value => Sys2Proof.Machine.execAxisKeep value s
  | .replan value => Sys2Proof.Machine.execReplan value s
  | .replanPeriod => Sys2Proof.Machine.execReplanPeriod s
  | .wakeSource source => Sys2Proof.Machine.execWakeSource source s
  | .alarm => Sys2Proof.Machine.execAlarm s
  | .wakeReplay => Sys2Proof.Machine.execWakeReplay s
  | .domainTransitionDone domain reached => Sys2Proof.Machine.execDomainTransitionDone domain reached s
  | .avsResponse rail => Sys2Proof.Machine.execAvsResponse rail s
  | .avsTimeout rail => Sys2Proof.Machine.execAvsTimeout rail s
  | .pllLockTimeout pll => Sys2Proof.Machine.execPllLockTimeout pll s
  | .limiterDecision reading => Sys2Proof.Machine.execLimiterDecision reading s
  | .thermalSample temps => Sys2Proof.Machine.execThermalSample temps s
  | .droop die => Sys2Proof.Machine.execDroop die s
  | .batteryLow below => Sys2Proof.Machine.execBatteryLow below s
  | .stageLate stage => Sys2Proof.Machine.execStageLate stage s
  | .stageMiss stage => Sys2Proof.Machine.execStageMiss stage s
  | .restartComplete job => Sys2Proof.Machine.execRestartComplete job s
  | .arm => Sys2Proof.Machine.execArm s
  | .drop => Sys2Proof.Machine.execDrop s
  | .discrepancy channelB => Sys2Proof.Machine.execDiscrepancy channelB s
  | .testPulse readA readB => Sys2Proof.Machine.execTestPulse readA readB s
  | .getIdentity => Sys2Proof.Machine.execGetIdentity s
  | .claim => Sys2Proof.Machine.execClaim s
  | .addOwnerKey => Sys2Proof.Machine.execAddOwnerKey s
  | .revokeOwnerKey => Sys2Proof.Machine.execRevokeOwnerKey s
  | .setOwnerCfg => Sys2Proof.Machine.execSetOwnerCfg s
  | .returnLifecycle hostSel => Sys2Proof.Machine.execReturnLifecycle hostSel s
  | .debugChallenge => Sys2Proof.Machine.execDebugChallenge s
  | .debugResponse => Sys2Proof.Machine.execDebugResponse s
  | .debugClose => Sys2Proof.Machine.execDebugClose s
  | .debugCtrlClose => Sys2Proof.Machine.execDebugCtrlClose s
  | .debugExpiry => Sys2Proof.Machine.execDebugExpiry s
  | .tapIdcode => Sys2Proof.Machine.execTapIdcode s
  | .tapDomains => Sys2Proof.Machine.execTapDomains s
  | .tapMailbox request => Sys2Proof.Machine.execTapMailbox request s
  | .tapSample pins => Sys2Proof.Machine.execTapSample pins s
  | .tapExtest pins => Sys2Proof.Machine.execTapExtest pins s
  | .tapBypass bit => Sys2Proof.Machine.execTapBypass bit s
  | .xact request ecc => Sys2Proof.Machine.execXact request ecc s
  | .hostOk => Sys2Proof.Machine.execHostOk s
  | .confirm => Sys2Proof.Machine.execConfirm s
  | .healthWatchdog hostSel => Sys2Proof.Machine.execHealthWatchdog hostSel s
  | .coldReset millivolts hostSel mrstLow => Sys2Proof.Machine.execColdReset millivolts hostSel mrstLow s
  | .moduleReset trigger hostSel => Sys2Proof.Machine.execModuleReset trigger hostSel s
  | .pwrReset value hostSel => Sys2Proof.Machine.execPwrReset value hostSel s
  | .mrstNRelease hostSel => Sys2Proof.Machine.execMrstNRelease hostSel s
  | .fwReady failed => Sys2Proof.Machine.execFwReady failed s
  | .lockout millivolts => Sys2Proof.Machine.execLockout millivolts s
  | .surge millivolts => Sys2Proof.Machine.execSurge millivolts s
  | .overvoltageShutdown => Sys2Proof.Machine.execOvervoltageShutdown s
  | .sensorOutputTrip output => Sys2Proof.Machine.execSensorOutputTrip output s
  | .sensorOutputRetry output => Sys2Proof.Machine.execSensorOutputRetry output s
  | .backfeed output => Sys2Proof.Machine.execBackfeed output s
  | .pwrSpwrCfgWrite value => Sys2Proof.Machine.execPwrSpwrCfgWrite value s
  | .hostMemoryAccessFailed id write => Sys2Proof.Machine.execHostMemoryAccessFailed id write s
  | .dieLinkReplay die link => Sys2Proof.Machine.execDieLinkReplay die link s
  | .pendingRowLanded die thread => Sys2Proof.Machine.execPendingRowLanded die thread s
  | .dummyForcedPoint stream => Sys2Proof.Machine.execDummyForcedPoint stream s
  | .supplyRecovered die => Sys2Proof.Machine.execSupplyRecovered die s
  | .polarityCorrected port => Sys2Proof.Machine.execPolarityCorrected port s
  | .hostLinkUp => Sys2Proof.Machine.execHostLinkUp s
  | .ethernetLinkChange mac up => Sys2Proof.Machine.execEthernetLinkChange mac up s
  | .sensorOutputOpen output => Sys2Proof.Machine.execSensorOutputOpen output s

end Sys2Proof.Machine
end

