-- ==== Sys2Proof/Machine/Ticks.lean ====
section
/-!
DEFINITION. What passes while no command waits: one tick of the 2 ns clock (R240, R349; log 2).
-/
namespace Sys2Proof.Machine
open Sys2Proof

/-- On-time counts while MGMT is on (R349). -/
def tickOnTime (s : State) : State :=
  if running s && domOn Dom.mgmt s then setProg { s.prog with onNs := s.prog.onNs + 2 } s else s

/-- A step on an empty queue: without supply nothing passes; otherwise 2 ns of Acorn's time do. -/
def idle (s : State) : State := if s.phase = .unpowered then s else tickOnTime (tick s)

end Sys2Proof.Machine
end

