-- ==== Sys2Proof/Safety.lean ====
section
/-!
DEFINITION. What the claims about the whole block speak of: the canonical form of its plain data, fuses that only blow, states from which
nothing follows at once, and descriptors that can begin.
-/
namespace Sys2Proof.Machine
open Sys2Proof

/-- The canonical form of the state's plain data: memory lists rising addresses and no zero byte (R146), and registers, jobs and streams
rising keys, so that equal contents are equal data and no job or stream number is in use twice (R69, R72); there are 64 domains (R361)
and four compute dies. -/
structure Canonical (s : State) : Prop where
  mem : Memory.wf s.mem = true
  regs : mapWf s.regs = true
  jobs : mapWf s.jobs = true
  streams : mapWf s.streams = true
  domains : s.domains.length = 64
  dies : s.dies.length = 4

/-- Fuse bits go from 0 to 1 only (R441): the lifecycle and the firmware epoch, which count blown bits, never fall, a lifecycle of Table
SEC-2 stays one of them, and no revoke or OWNER_CFG bit clears. -/
structure FusesKept (s t : State) : Prop where
  lifecycle : s.sec.lifecycle ≤ t.sec.lifecycle
  legal : s.sec.lifecycle ≤ 3 → t.sec.lifecycle ≤ 3
  epoch : s.sec.epoch ≤ t.sec.epoch
  vendorRevoke : ∀ i, s.sec.vendorRevoke.testBit i = true → t.sec.vendorRevoke.testBit i = true
  ownerCfg : ∀ i, s.sec.ownerCfg.testBit i = true → t.sec.ownerCfg.testBit i = true
  ownerRevoke : ∀ i, i < 4 → s.sec.ownerRevoke.testBit i = true → t.sec.ownerRevoke.testBit i = true

/-- The invariant of the block: canonical data, and a lifecycle of Table SEC-2. -/
def Inv (s : State) : Prop := Canonical s ∧ s.sec.lifecycle ≤ 3

/-- Nothing is left to follow from the state at once: no cause of the safe state, no job, no stream and no transition, no descriptor of
an opcode that is refused, no frame behind a gate, and each die's idle time is being counted exactly while its Dealer is idle. -/
structure Quiet (s : State) : Prop where
  causes : s.causes = []
  streams : s.streams = []
  jobs : s.jobs = []
  trans : s.power.trans = none
  ops : ∀ c ∈ s.host.consumed, badOp c s = none
  gated : s.time.gated = []
  idle : ∀ n, n < 4 → (dieOf n s).running.isSome = (dieLim n s).idleFrom.isNone

/-- Only releases can follow from the state at once: no cause of the safe state and no transition, no job that is being unloaded, and no
stream with a retire, or with a chunk that has run on all its dies, no descriptor of an opcode that is refused, and no frame behind a
gate. -/
structure Steady (s : State) : Prop where
  causes : s.causes = []
  trans : s.power.trans = none
  unloads : ∀ j ids, phaseOf j s ≠ some (.unloading ids)
  streams : ∀ st x, streamOf st s = some x →
    (∀ i ∈ x.items, i.kind ≠ .retire) ∧ x.items.find? (chunkDone x) = none ∧ ∀ i ∈ x.items, i.phase ≠ .ended
  ops : ∀ c ∈ s.host.consumed, badOp c s = none
  gated : s.time.gated = []

/-- A consumed descriptor can begin its opcode now and breaks none of the rules common to all opcodes (R45 to R47, R53, R58, R60). -/
def Accepted (id op : Nat) (c : Consumed) (s : State) : Prop := canBegin id op s = some c ∧ formatError c s = none

/-- Every field of the state but the registers, the outputs, the Acorn log and the host interface is as before. -/
def SameButHost (s t : State) : Prop :=
  t = { s with regs := t.regs, tx := t.tx, log := t.log, host := t.host }

/-- Every field of the state but the streams, the safety monitor and the limiter is as before. -/
def SameButReleases (s t : State) : Prop :=
  t = { s with streams := t.streams, safe := t.safe, lim := t.lim }

/-- Registers whose writes only set their fields: every register but those with an action, a lock or a check of their own. -/
def plainReg (r : Reg) : Bool :=
  !([Reg.hostRingBase, .hostRingCfg, .memT2Base, .memT2Size, .timeCtrl, .timeGenStart, .timeGenCfg, .timeQbvCtrl, .fusCtrl, .fusStart, .plnWriter,
      .cleCtrl, .jpCtrl, .jpEthCfg, .hltCtrl, .hltMargin, .hltFeedCfg, .hltFeedAddr, .pwrAlarm, .pwrReset, .pwrSpwrCfg, .safeCtrl, .safeStageCfg, .secCmd, .dbgCtrl,
      .updCtrl].contains r)

/-- The commands of the host interface that touch nothing else: rings, doorbells, consumption, NOP, completions, interrupts and the USB
messages that carry them. -/
def hostCommand (c : Instr) : Bool :=
  match c with
  | .ringEnable _ | .ringDisable _ | .submissionTailWrite _ _ | .completionHeadWrite _ _ | .doorbellInvalidWrite _ _ | .descriptorRead _ _
  | .nop _ | .holdingQueueDrain _ | .cqStall _ | .coalTime _ | .msixUnmask _ | .ringPush _ | .cqHead _ | .completionMessage _ => true
  | _ => false

end Sys2Proof.Machine
end

