-- ==== Sys2Proof/Certificates/Slice0/Obligations.lean ====
section
/-!
DEFINITION. The statements about the block: its step, its invariant, the fuses, every family of commands, and every kind of state.
-/
open Sys2Proof Sys2Proof.Machine

/-- For every command c, every queue and every state whose queue is c followed by rest: one step is exec c on the state with the queue's
rest. The queue itself is the model's own (log 1). -/
def Obligations.StepRunsFrontCommand : Prop :=
  ∀ (c : Instr) (rest : List Instr) (s : State), s.pending = c :: rest → step s = exec c { s with pending := rest }

/-- For every state with an empty queue a step answers a next state. Without supply nothing changes. Otherwise the Acorn clock is 2 ns
later, the queue stays empty, all that is sent is pins going low (pulses of generators that end) and frames that waited for a gate of
their MAC, and jobs, streams, dies, tiers, domains, registers, memory, fuses and the safety outputs are as before. That an empty queue
stands for one tick of the 2 ns clock is the model's choice (log 2). -/
def Obligations.EmptyQueueLetsTimePass : Prop :=
  ∀ s : State, s.pending = [] →
    (s.phase = .unpowered → step s = .next s)
    ∧ (s.phase ≠ .unpowered → ∃ t, step s = .next t ∧ t.clock = s.clock + 2 ∧ t.pending = [] ∧ t.jobs = s.jobs
        ∧ t.streams = s.streams ∧ t.dies = s.dies ∧ t.tiers = s.tiers ∧ t.domains = s.domains ∧ t.regs = s.regs ∧ t.mem = s.mem
        ∧ t.sec = s.sec ∧ t.safe = s.safe
        ∧ ∃ new, t.tx = s.tx ++ new ∧ ∀ x ∈ new, (∃ n, x = .pin n false) ∨ ∃ g ∈ s.time.gated, x = .ethFrame g.1 g.2)

/-- For every command and every state, exec answers a next state, unless the command is SURGE with more than 70,000 mV, on which it faults:
no command is refused, and no data, mode or reset state stops a run. That the block stops there, where the spec gives no effect, is the
model's choice (log 7). -/
def Obligations.OnlySurgeStops : Prop :=
  ∀ (c : Instr) (s : State), (∃ t, exec c s = .next t) ∨ (∃ mv, c = .surge mv ∧ 70000 < mv ∧ exec c s = .fault .absoluteMaximum)

/-- At State.reset memory, registers, jobs and streams have their canonical form, there are 64 domains and four compute dies, and the
lifecycle is one of the four of Table SEC-2. The lifecycle as shipped is the model's choice (log 14). -/
def Obligations.ResetMeetsInvariant : Prop := Inv State.reset

/-- For every state s that meets the invariant (canonical memory, registers, jobs and streams; 64 domains and four compute dies; a lifecycle
of Table SEC-2), whatever waits in its queue: if a step answers next s', then s' meets it. So no job or stream number is ever in use
twice, equal memories are equal data, and the lifecycle never leaves Table SEC-2. The canonical form is the model's own. -/
def Obligations.InvariantKept : Prop := ∀ s t : State, Inv s → step s = .next t → Inv t

/-- For every state and every command or tick that answers a next state: the lifecycle and the firmware epoch, which count blown bits, do
not fall, and no bit of VENDOR_REVOKE, OWNER_REVOKE (slots 0 to 3) or OWNER_CFG goes from 1 to 0. This holds across every reset, loss of
supply and security command. -/
def Obligations.FusesOnlyBlow : Prop :=
  ∀ s t : State, step s = .next t →
    s.sec.lifecycle ≤ t.sec.lifecycle ∧ s.sec.epoch ≤ t.sec.epoch
      ∧ (∀ i, s.sec.vendorRevoke.testBit i = true → t.sec.vendorRevoke.testBit i = true)
      ∧ (∀ i, i < 4 → s.sec.ownerRevoke.testBit i = true → t.sec.ownerRevoke.testBit i = true)
      ∧ (∀ i, s.sec.ownerCfg.testBit i = true → t.sec.ownerCfg.testBit i = true)

/-- For every command and every state: if exec answers a next state, the queue is as it was, and everything sent outside before stands, in
order, before anything the command sends. The record of what has been sent is the model's own. -/
def Obligations.OutputsAreHistory : Prop :=
  ∀ (c : Instr) (s t : State), exec c s = .next t → t.pending = s.pending ∧ ∃ new, t.tx = s.tx ++ new

/-- While the module has no supply, every command but COLD_RESET, the assertion of PERST_N (whose pin level is noted) and a SURGE beyond the
absolute maximum answers the state as it is: no register, memory, safety output, fuse or message changes until J3 passes the start
threshold again. -/
def Obligations.UnpoweredIsInert : Prop :=
  ∀ (c : Instr) (s : State), s.phase = .unpowered →
    (∀ mv sel low, c ≠ .coldReset mv sel low) → c ≠ .linkReset .perstAsserted → (∀ mv, c = .surge mv → mv ≤ 70000) →
      exec c s = .next s

/-- Right after COLD reset every register instance holds the COLD value of its fields, every switched domain is off, no job or stream
exists, every ring has zero counts and no holding-queue entry stands, no entry stands in the Acorn log, no generator is armed, no CLE
channel or drive is known, SAFE_A_N and SAFE_B_N are not armed, nothing has been sent, and the module is starting at Acorn time 0. A
field whose COLD entry names a source outside the table counts as 0 here, as the model chooses (log 15). -/
def Obligations.ResetLeaves : Prop :=
  (∀ r i, getR r i State.reset = coldVal r) ∧ (∀ d, 1 ≤ d → d ≤ 64 → domState d State.reset = .off)
    ∧ State.reset.jobs = [] ∧ State.reset.streams = [] ∧ (∀ q, sqOf q State.reset = ⟨0, 0⟩)
    ∧ (∀ q, (cqOf q State.reset).head = 0 ∧ (cqOf q State.reset).tail = 0) ∧ State.reset.host.hold = []
    ∧ State.reset.log = [] ∧ (∀ g, (genOf g State.reset).next = none) ∧ State.reset.cle.channels = [] ∧ State.reset.cle.drives = []
    ∧ State.reset.safe.armed = false ∧ State.reset.tx = [] ∧ State.reset.phase = .starting ∧ State.reset.clock = 0

/-- For every state with no cause of the safe state, no transition, no job that is being unloaded, no stream with a retire or with a chunk
that has run on all its dies, no consumed descriptor of a refused opcode, and no frame behind a gate: what follows at once changes
nothing but the streams (chunks released, dummy intervals), the safety monitor's stage windows and the limiter's running times. This is
the frame of every statement below that ends with what follows. -/
def Obligations.SettlingOnlyReleases : Prop := ∀ s : State, Steady s → SameButReleases s (settle s)

/-- For every die-local data address D from 0 to 15 x 2^30 - 1: with g = D / 256, cd = g mod 64 and h = g / 64, the pod within the die is cd
/ 16, the channel cd mod 16, the data slot 16 (h / 15) + h mod 15, the byte within the channel 256 slot + D mod 256, the code slot 16 (h
/ 15) + 15 and its bytes start at 16 (h mod 15). The data slot is never a code slot, and two addresses of a die with the same pod,
channel and byte are the same address. -/
def Obligations.DataGranulesAndTheirCodes : Prop :=
  ∀ (die D : Nat), D < 15 * 2 ^ 30 →
    let g := D / 256
    let cd := g % 64
    let h := g / 64
    let p := dataPlace die D
    p.pod = 4 * die + cd / 16 ∧ p.channel = cd % 16 ∧ p.slot = 16 * (h / 15) + h % 15 ∧ p.byte = 256 * p.slot + D % 256
      ∧ p.codeSlot = 16 * (h / 15) + 15 ∧ p.codeByte = 16 * (h % 15) ∧ p.slot % 16 < 15
      ∧ ∀ E, E < 15 * 2 ^ 30 → (dataPlace die E).pod = p.pod → (dataPlace die E).channel = p.channel → (dataPlace die E).byte = p.byte → E = D

/-- REGISTER_WRITE completes over PCI Express, past FW_READY, with the attachment and the register's own domain on, for every register whose
writes only set fields and that its selector, if any, selects: an aligned 8-byte write answers what follows at once (settle) from the
state in which that register instance alone has changed. Each of its 64 bits takes the written bit where Table SCO-6 makes it RW, clears
where it is W1C and written as 1, keeps its value where it is W1C and written as 0, and is kept where it is RO, WO or reserved. -/
def Obligations.RegisterWriteByAccessCode : Prop :=
  ∀ (r : Reg) (i : Nat) (bytes : List Byte) (s : State), running s = true → usbAttached s = false → domOn (attachDomain s) s = true →
    bytes.length = 8 → plainReg r = true → regIx r s = some i → domOn (regDomain r s) s = true →
    ∃ v : Nat, v < 2 ^ 64
      ∧ exec (.registerWrite (regOffset r) bytes) s = .next (settle { s with regs := mapSet s.regs (keyOf r i) (BitVec.ofNat 64 v) })
      ∧ ∀ k, k < 64 → v.testBit k =
          if (accMask .rw r).testBit k then (leNat bytes).testBit k
          else if (accMask .w1c r).testBit k then (getR r i s).testBit k && !((leNat bytes).testBit k)
          else (getR r i s).testBit k

/-- Over PCI Express, past FW_READY, with the attachment on: a REGISTER_WRITE inside BAR0 whose length or alignment breaks the rules, one to
an offset that names nothing, and one to a register or window whose domain is not on each answer what follows at once (settle) from the
state in which only ID_ACCESS has changed: the flag of the case (SIZE, UNASSIGNED, OFF_WRITE) is set, BLOCK and OFFSET are the access's,
and COUNT is one higher, up to its maximum. DOORBELL_INVALID_WRITE completes there for a BAR2 write that is neither 4 nor 8 bytes long,
or is not at byte 0 of a slot or at byte 8 of slots 0 to 255: where HOST_ERR_STATUS.DOORBELL is clear it is set, and HOST event 0x0001
is posted with STATUS HOST_FAULT and AUX the slot at byte 0 of a slot, 65536 + the slot at byte 8, and 0xFFFF_FFFF at any other place.
Where it is set, nothing changes. -/
def Obligations.BadAccessesAreNoted : Prop :=
  (∀ (off : Nat) (bytes : List Byte) (s : State), running s = true → usbAttached s = false → domOn (attachDomain s) s = true →
      off + bytes.length ≤ 2 ^ 20 →
      let noted (f : Field) : State := incF Fld.idAccessCount 0
        (setF Fld.idAccessOffset 0 (off % 65536) (setF Fld.idAccessBlock 0 (off / 65536) (setB f 0 true s)))
      (locate off bytes.length = .badSize → exec (.registerWrite off bytes) s = .next (settle (noted Fld.idAccessSize)))
      ∧ (locate off bytes.length = .unassigned → exec (.registerWrite off bytes) s = .next (settle (noted Fld.idAccessUnassigned)))
      ∧ (∀ r, locate off bytes.length = .reg r → domOn (regDomain r s) s = false →
          exec (.registerWrite off bytes) s = .next (settle (noted Fld.idAccessOffWrite)))
      ∧ (∀ w, locate off bytes.length = .win w → domOn (winDomain w s) s = false →
          exec (.registerWrite off bytes) s = .next (settle (noted Fld.idAccessOffWrite))))
  ∧ (∀ (off : BitVec 16) (len : Nat) (s : State), pcieOn s = true →
      ((len ≠ 4 ∧ len ≠ 8) ∨ (off.toNat % 16 ≠ 0 ∧ ¬ (off.toNat % 16 = 8 ∧ off.toNat / 16 < 256))) →
      let aux := if off.toNat % 16 = 0 then off.toNat / 16 else if off.toNat % 16 = 8 then off.toNat / 16 + 65536 else 0xFFFFFFFF
      (getB Fld.hostErrStatusDoorbell 0 s = true → exec (.doorbellInvalidWrite off len) s = .next s)
      ∧ (getB Fld.hostErrStatusDoorbell 0 s = false → exec (.doorbellInvalidWrite off len) s =
          .next (postEvent 1 0x0001 Status.hostFault aux (setB Fld.hostErrStatusDoorbell 0 true s))))

/-- Over USB, past FW_READY, with the attachment on. A request is good with wIndex below 16, an offset wIndex x 65536 + wValue and a length
that are multiples of 4, and a length of 4 to 256. REG_READ completes: a good one sends the words read one after another from that
offset, and a bad one sends STALL and changes nothing else. REG_WRITE completes: a good one of as many bytes as its length says answers
what follows at once (settle) from its words written one after another from that offset, each as a 4-byte write; a bad one answers what
follows at once from a STALL sent. -/
def Obligations.UsbRegisterRequests : Prop :=
  ∀ (wValue wIndex wLength : BitVec 16) (bytes : List Byte) (s : State),
    running s = true → usbAttached s = true → domOn (attachDomain s) s = true →
    let ok := wIndex.toNat < 16 ∧ wValue.toNat % 4 = 0 ∧ wLength.toNat % 4 = 0 ∧ 4 ≤ wLength.toNat ∧ wLength.toNat ≤ 256
    let off := wIndex.toNat * 65536 + wValue.toNat
    let read := readWords (wLength.toNat / 4) off [] s
    (ok → exec (.regRead wValue wIndex wLength) s = .next { read.2 with tx := read.2.tx ++ [.usbData read.1] })
    ∧ (¬ ok → exec (.regRead wValue wIndex wLength) s = .next { s with tx := s.tx ++ [.usbStall] })
    ∧ (ok → bytes.length = wLength.toNat →
        exec (.regWrite wValue wIndex wLength bytes) s = .next (settle (writeWords (wLength.toNat / 4) off bytes s)))
    ∧ (¬ ok → exec (.regWrite wValue wIndex wLength bytes) s = .next (settle { s with tx := s.tx ++ [.usbStall] }))

/-- With the attachment on, for a selected ring. RING_ENABLE completes on a DISABLED ring with DEPTH_LOG2 from 4 to 16, for a submission
ring with an ACTIVE bound completion ring, and for CQ0 where no reset event waits for it: it answers a state in which the ring is ACTIVE
with that depth and zero counts, and nothing outside registers, outputs, log and host interface has changed. On a DISABLED ring with
another depth the write is discarded with HOST_ERR_STATUS.CFG (and, where that bit was clear, its event), and the ring stays DISABLED.
RING_DISABLE completes on a ring that is not DISABLED and whose present DEPTH_LOG2 and CQ it carries, and which, if it is a completion
ring, no enabled submission ring is bound to: ENABLE and STATE become 0, the other fields are those written, a submission ring's
unconsumed descriptors leave the push buffer, and a completion ring's held entries are dropped. With another depth or binding, or for a
completion ring that is bound, it is discarded with HOST_ERR_STATUS.CFG. -/
def Obligations.RingsEnableAndDisable : Prop :=
  ∀ (v : BitVec 64) (kind i : Nat) (s : State), hostOn s = true → selectedRing s = some (kind, i) →
    let old := getR .hostRingCfg (ringIx kind i) s
    let m := ringCfgMask kind i &&& (2 ^ 64 - 1)
    let new := (old &&& ((2 ^ 64 - 1) ^^^ m)) ||| (v.toNat &&& m)
    let off := setR .hostRingCfg (ringIx kind i) (putBits new 1 2 0) s
    let bad := hostError Fld.hostErrStatusCfg 0x0004 Status.done (i + kind * 65536) s
    (ringState kind i s = 0 → flag v 0 = true →
      (4 ≤ bitsAt v.toNat 8 5 → bitsAt v.toNat 8 5 ≤ 16 → (kind = 0 → ringState 1 (bitsAt v.toNat 16 8) s = 1) →
        (kind = 1 → i = 0 → s.host.owed = []) →
        ∃ t, exec (.ringEnable v) s = .next t ∧ ringState kind i t = 1 ∧ ringDepth kind i t = 2 ^ bitsAt v.toNat 8 5
          ∧ (kind = 0 → sqOf i t = ⟨0, 0⟩) ∧ (kind = 1 → (cqOf i t).head = 0 ∧ (cqOf i t).tail = 0) ∧ SameButHost s t)
      ∧ ((bitsAt v.toNat 8 5 < 4 ∨ 16 < bitsAt v.toNat 8 5) → exec (.ringEnable v) s = .next bad ∧ ringState kind i bad = 0))
    ∧ (ringState kind i s ≠ 0 → flag v 0 = false →
      ((bitsAt new 8 5 ≠ bitsAt old 8 5 ∨ bitsAt new 16 8 ≠ bitsAt old 16 8) → exec (.ringDisable v) s = .next bad)
      ∧ (bitsAt new 8 5 = bitsAt old 8 5 → bitsAt new 16 8 = bitsAt old 16 8 → bitsAt new 0 1 = 0 →
          (kind = 0 → exec (.ringDisable v) s = .next (dropUnread i off))
          ∧ (kind = 1 → cqInUse i s = false → exec (.ringDisable v) s = .next (dropHeld i off))
          ∧ (kind = 1 → cqInUse i s = true → exec (.ringDisable v) s = .next bad)))

/-- SUBMISSION_TAIL_WRITE completes over PCI Express with the attachment on. Where the ring is ACTIVE and the new tail lies between the
previous tail and head + depth, both inclusive and counted modulo 2^32, it sets the tail and changes nothing else; the previous tail is
such a value, and writing it leaves every ring's counts as they were. On an ACTIVE ring any other tail is invalid: the counts stay,
HOST_ERR_STATUS.DOORBELL is set (with its event, where it was clear), and the ring is STOPPED, with DETAIL 0x0003. On a ring that is not
ACTIVE every tail is invalid: HOST_ERR_STATUS.DOORBELL is set in the same way, and the ring keeps its counts and its state. -/
def Obligations.SubmissionTailRule : Prop :=
  ∀ (sq : Fin 4096) (tail : BitVec 32) (s : State), pcieOn s = true →
    let r := sqOf sq.val s
    let inRange := (tail - r.tail).toNat ≤ (r.head + BitVec.ofNat 32 (ringDepth 0 sq.val s) - r.tail).toNat
    let flagged := hostError Fld.hostErrStatusDoorbell 0x0001 Status.hostFault sq.val s
    (ringState 0 sq.val s = 1 → inRange →
      exec (.submissionTailWrite sq tail) s =
        .next { s with host := { s.host with sqs := mapSet s.host.sqs sq.val { r with tail := tail } } })
    ∧ (ringState 0 sq.val s = 1 → tail = r.tail → inRange
        ∧ ∀ t, exec (.submissionTailWrite sq tail) s = .next t → ∀ q, sqOf q t = sqOf q s)
    ∧ (ringState 0 sq.val s ≠ 1 → ∃ t, exec (.submissionTailWrite sq tail) s = .next t
        ∧ t = flagged ∧ getB Fld.hostErrStatusDoorbell 0 t = true ∧ sqOf sq.val t = r ∧ ringState 0 sq.val t = ringState 0 sq.val s)
    ∧ (ringState 0 sq.val s = 1 → ¬ inRange → ∃ t, exec (.submissionTailWrite sq tail) s = .next t
        ∧ t = stopRing sq.val 0x0003 flagged ∧ getB Fld.hostErrStatusDoorbell 0 t = true ∧ sqOf sq.val t = r ∧ ringState 0 sq.val t = 2)

/-- COMPLETION_HEAD_WRITE completes over PCI Express with the attachment on. Where the new head lies between the previous head and the
completion tail, both inclusive and counted modulo 2^32, it moves the head; unless the ring is still full, an episode of fullness ends
with it; nothing else changes. Any other head is discarded: HOST_ERR_STATUS.DOORBELL is set (with its event, where it was clear), and
the ring keeps its head and its state. -/
def Obligations.CompletionHeadRule : Prop :=
  ∀ (cq : Fin 256) (head : BitVec 32) (s : State), pcieOn s = true →
    let q := cqOf cq.val s
    let valid := (head - q.head).toNat ≤ (q.tail - q.head).toNat
    let still := (q.tail - head).toNat = ringDepth 1 cq.val s
    (valid → still → exec (.completionHeadWrite cq head) s =
        .next { s with host := { s.host with cqs := mapSet s.host.cqs cq.val { q with head := head } } })
    ∧ (valid → ¬ still → exec (.completionHeadWrite cq head) s =
        .next { s with host := { s.host with cqs := mapSet s.host.cqs cq.val { q with head := head, fullSince := none, stalled := false } } })
    ∧ (¬ valid → ∃ t, exec (.completionHeadWrite cq head) s = .next t
        ∧ t = hostError Fld.hostErrStatusDoorbell 0x0001 Status.hostFault (cq.val + 65536) s ∧ getB Fld.hostErrStatusDoorbell 0 t = true
        ∧ (cqOf cq.val t).head = q.head ∧ ringState 1 cq.val t = ringState 1 cq.val s)

/-- DESCRIPTOR_READ completes over PCI Express, past FW_READY and outside recovery, for an ACTIVE submission ring with unconsumed
descriptors that intake may serve, while at most 256 rings are pending or the ring is the one whose turn it is. A descriptor of a known
opcode advances the head by one and stands behind the consumed ones under the next consumption number; the turn counts one more
descriptor of the ring, or starts at one after another ring's turn or after eight; nothing else changes. A read that fails sets
HOST_ERR_STATUS.DESC_FETCH (with its event, where it was clear) and stops the ring with DETAIL 0x0004. -/
def Obligations.ConsumptionInRingOrder : Prop :=
  ∀ (sq : Fin 4096) (d : Desc) (s : State), running s = true → usbAttached s = false → s.upd.recovery = false → hasWork sq.val s = true →
    servedNow sq.val s = true →
    let turn := (sq.val, if s.host.turn.1 = sq.val ∧ s.host.turn.2 < 8 then s.host.turn.2 + 1 else 1)
    (knownOps.contains (fld d 0 8) = true →
      exec (.descriptorRead sq (some d)) s =
        .next { s with host := { s.host with
          turn := turn
          sqs := mapSet s.host.sqs sq.val { sqOf sq.val s with head := (sqOf sq.val s).head + 1 }
          consumed := s.host.consumed ++ [{ id := s.host.nextId, sq := sq.val, desc := d, msg := none, started := false, orphan := false }]
          nextId := s.host.nextId + 1 } })
    ∧ ((pendingRings s).length ≤ 256 → servedNow sq.val s = true)
    ∧ exec (.descriptorRead sq none) s = .next (stopRing sq.val 0x0004
        (hostError Fld.hostErrStatusDescFetch 0x0002 Status.hostFault sq.val { s with host := { s.host with turn := turn } }))

/-- NOP completes for a consumed NOP that can begin, whose completion ring is ACTIVE with room, without SUPPRESS or a deadline, with no
moving page holding back its output, over PCI Express, while no consumed descriptor has an opcode that is refused: the completion ring's
tail goes up by one and its head stays, the descriptor is no longer consumed, and the outputs grow by the entry (Table HST-5, STATUS
DONE) at the slot of the old tail, then the tail shadow at base + depth x 32, then at most one MSI-X message. Registers, log and
submission rings, and all outside the host interface and the outputs, are as before. -/
def Obligations.NopCompletesAsDone : Prop :=
  ∀ (id : Nat) (c : Consumed) (s : State), Accepted id 0 c s → usbAttached s = false → roomAt (boundCq c.sq s) s = .post →
    (∀ k ∈ s.host.consumed, badOp k s = none) → outputHeld c.desc s = false →
    flag c.desc 10 = false → flag c.desc 11 = false → c.orphan = false → c.sq < 4096 →
    let q := boundCq c.sq s
    let tail := (cqOf q s).tail
    ∃ t msgs, exec (.nop id) s = .next t ∧ SameButHost s t ∧ t.regs = s.regs ∧ t.log = s.log
      ∧ (cqOf q t).tail = tail + 1 ∧ (cqOf q t).head = (cqOf q s).head ∧ t.host.sqs = s.host.sqs
      ∧ t.host.consumed = (markStarted id s).host.consumed.filter (fun k => k.id != c.id)
      ∧ (msgs = [] ∨ ∃ v, msgs = [Tx.msix v])
      ∧ t.tx = s.tx ++ [
          .hostWrite (ringBase 1 q s + tail.toNat % ringDepth 1 q s * 32)
            (encodeEntry (descEntry c (plainFacts Status.done 0 0) s) (phaseAt q tail s) (sqOf c.sq s).head),
          .hostWrite (ringBase 1 q s + ringDepth 1 q s * 32) (natLe 4 (tail + 1).toNat)] ++ msgs

/-- For RING_ENABLE, RING_DISABLE, SUBMISSION_TAIL_WRITE, COMPLETION_HEAD_WRITE, DOORBELL_INVALID_WRITE, DESCRIPTOR_READ, NOP,
HOLDING_QUEUE_DRAIN, CQ_STALL, COAL_TIME, MSIX_UNMASK, RING_PUSH, CQ_HEAD and COMPLETION_MESSAGE, in every state in which exec answers a
next state: memory, jobs, streams, dies, tiers, domains, time, fusion, planner, CLE, safety, prognostics, power, limiter, security,
update and electrical state are as before; only registers, outputs, the Acorn log and the host interface may differ. -/
def Obligations.HostCommandsTouchOnlyTheHost : Prop :=
  ∀ (c : Instr) (s t : State), hostCommand c = true → exec c s = .next t → SameButHost s t

/-- Past FW_READY. HOLDING_QUEUE_DRAIN completes with at most 1,024 entries held: on a ring that is ACTIVE and not full, whose entry is the
only one held, it posts that entry, and then completes what waited for room; with no entry held for the ring the held entries stay as
they are. CQ_STALL completes where the ring has been full for CQ_TIMEOUT in an episode not yet reported: it marks the episode, sets
HOST_ERR_STATUS.CQ_STALL and posts HOST event 0x0003 with AUX the ring, whether or not the bit was set; elsewhere it changes nothing.
COAL_TIME completes over PCI Express where an entry of the ring has waited COAL_TIME µs, that is not 0, and the ring has a vector: the
count and wait of the ring start again, and the vector is signalled; elsewhere it changes nothing. MSIX_UNMASK completes over PCI
Express: the vector's mask bit clears; where its PBA bit is set, that bit clears and one message follows. -/
def Obligations.CompletionRingService : Prop :=
  ∀ (cq : Fin 256) (v : Fin 64) (s : State), running s = true →
    (∀ p, s.host.hold = [p] → p.cq = cq.val → ringState 1 cq.val s = 1 → cqFull cq.val s = false →
      exec (.holdingQueueDrain cq) s = .next (drainDecided (postNow p { s with host := { s.host with hold := [] } })))
    ∧ ((∀ p ∈ s.host.hold, p.cq ≠ cq.val) → exec (.holdingQueueDrain cq) s = .next (drainDecided s))
    ∧ (stallDue cq.val s = true → exec (.cqStall cq) s =
        .next (postEvent 1 0x0003 Status.done cq.val
          (setB Fld.hostErrStatusCqStall 0 true (setCq cq.val { cqOf cq.val s with stalled := true } s))))
    ∧ (stallDue cq.val s = false → exec (.cqStall cq) s = .next s)
    ∧ (coalDue cq.val s = false → exec (.coalTime cq) s = .next s)
    ∧ (usbAttached s = false →
        let e := (mapGet s.host.msixTable v.val).getD (1#128 <<< 96) &&& ~~~(1#128 <<< 96)
        (∀ k, coalDue cq.val s = true → vectorOf cq.val s = some k → exec (.coalTime cq) s =
            .next (signalVector k (setCq cq.val { cqOf cq.val s with sinceMsg := 0, oldest := none } s)))
        ∧ (flag s.host.pba v.val = true → exec (.msixUnmask v) s = .next { s with
            host := { s.host with msixTable := mapSet s.host.msixTable v.val e, pba := s.host.pba &&& ~~~(1#64 <<< v.val) }
            tx := s.tx ++ [.msix v.val] })
        ∧ (flag s.host.pba v.val = false → exec (.msixUnmask v) s =
            .next { s with host := { s.host with msixTable := mapSet s.host.msixTable v.val e } }))

/-- Over USB, past FW_READY, with the attachment on. RING_PUSH completes for a message that passes the checks and fits: its descriptors and
data enter the push buffer, and the ring's tail becomes NEW_VALUE; one that does not fit yet leaves the state as it is (NRDY). DATA_PUSH
completes for a message that passes the checks: its data is stored at DATA_ADDR. CQ_HEAD completes for a message that passes the checks:
the completion head becomes NEW_VALUE, and the tail stays. A message that fails the checks is discarded whole: HOST_ERR_STATUS.PUSH is
set, with HOST event 0x0005 where it was clear; such a RING_PUSH also stops an ACTIVE ring, with DETAIL 0x0005. With each message that
is accepted or discarded the next expected SEQ goes up by one. COMPLETION_MESSAGE completes with an unsent entry on the ring: it sends
one message of the ring's oldest unsent entries, at most 64; those entries are no longer unsent, and nothing outside the push buffer,
that ring and the outputs changes. -/
def Obligations.UsbMessages : Prop :=
  (∀ (m : List Byte) (s : State), usbOn s = true →
      let u : State := { s with host := { s.host with seq := s.host.seq + 1 } }
      let bad := hostError Fld.hostErrStatusPush 0x0005 Status.hostFault (PM.ring m + PM.typ m * 65536) u
      let r := sqOf (PM.ring m) s
      let msg : PushMsg := {
        id := s.host.nextMsg, sq := PM.ring m, first := r.tail, descs := PM.descs m, data := PM.data m
        unread := PM.count m, unsent := PM.count m, freed := 0 }
      (PM.typ m = 1 → ringPushOk m s = true → pushFits m s = true → exec (.ringPush m) s = .next { s with host := { s.host with
          seq := s.host.seq + 1
          push := s.host.push ++ [msg]
          nextMsg := s.host.nextMsg + 1
          sqs := mapSet s.host.sqs (PM.ring m) { r with tail := PM.newValue m } } })
      ∧ (PM.typ m = 1 → ringPushOk m s = true → pushFits m s = false → exec (.ringPush m) s = .next s)
      ∧ (PM.typ m = 1 → ringPushOk m s = false →
          (ringState 0 (PM.ring m) s = 1 → exec (.ringPush m) s = .next (stopRing (PM.ring m) 0x0005 bad))
          ∧ (ringState 0 (PM.ring m) s ≠ 1 → exec (.ringPush m) s = .next bad))
      ∧ (PM.typ m = 2 → dataPushOk m s = true → exec (.dataPush m) s = .next (hostWriteObj (PM.dataAddr m) (PM.data m) u))
      ∧ (PM.typ m = 2 → dataPushOk m s = false → exec (.dataPush m) s = .next bad)
      ∧ (PM.typ m = 3 → cqHeadOk m s = true → ∃ t, exec (.cqHead m) s = .next t ∧ t.host.seq = s.host.seq + 1
          ∧ (cqOf (PM.ring m) t).head = PM.newValue m ∧ (cqOf (PM.ring m) t).tail = (cqOf (PM.ring m) s).tail ∧ t.regs = s.regs ∧ t.tx = s.tx)
      ∧ (PM.typ m = 3 → cqHeadOk m s = false → exec (.cqHead m) s = .next bad))
  ∧ (∀ (cq : Fin 256) (s : State), usbOn s = true → (cqOf cq.val s).unsent ≠ [] →
      let q := cqOf cq.val s
      ∃ t, exec (.completionMessage cq) s = .next t ∧ cqOf cq.val t = { q with unsent := q.unsent.drop 64 }
        ∧ t.tx = s.tx ++ [.usbMessage (completionBytes cq.val (q.unsent.take 64))]
        ∧ t.host = { s.host with push := t.host.push, cqs := mapSet s.host.cqs cq.val { q with unsent := q.unsent.drop 64 } }
        ∧ t = { s with tx := t.tx, host := t.host })

/-- LINK_RESET completes past FW_READY for a cause that belongs to the attachment in use: it answers what follows at once (settle) from a
state in which the submission rings have no counts, the MSI-X table is at its reset state, the next expected SEQ is 0, and
HOST_CTRL.LINK_UP is clear. A cause of the other attachment answers the state with the level of PERST_N noted, if the cause is its
assertion. PERST_N_DEASSERT completes past FW_READY where PERST_N is asserted: PERST_N is high, a WAKE_N that was driven low is driven
high, and then wake source 0 fires. HOST_LINK_UP completes past FW_READY with the attachment domain on and, over PCI Express, PERST_N
high: HOST_CTRL.LINK_UP is set, and nothing else changes. -/
def Obligations.LinkEvents : Prop :=
  ∀ (cause : LinkCause) (s : State), running s = true →
    let high : State := { s with power := { s.power with perst := false } }
    (causeApplies cause s = true → ∃ t, exec (.linkReset cause) s = .next (settle t) ∧ t.host.sqs = [] ∧ t.host.msixTable = []
        ∧ t.host.seq = 0 ∧ getB Fld.hostCtrlLinkUp 0 t = false)
    ∧ (causeApplies cause s = false → exec (.linkReset cause) s =
        .next (if cause = .perstAsserted then { s with power := { s.power with perst := true } } else s))
    ∧ (s.power.perst = true →
        (s.power.wakeLow = false → exec .perstNDeassert s = .next (settle (fireWake 0 high)))
        ∧ (s.power.wakeLow = true → exec .perstNDeassert s = .next (settle (fireWake 0
            { s with power := { s.power with perst := false, wakeLow := false }, tx := s.tx ++ [.pin 19 true] }))))
    ∧ (domOn (attachDomain s) s = true → (usbAttached s = true ∨ s.power.perst = false) →
        exec .hostLinkUp s = .next (setB Fld.hostCtrlLinkUp 0 true s))

/-- Over PCI Express, past FW_READY. HOST_MEMORY_ACCESS_FAILED completes on a consumed descriptor that has not been decided. Outside the
streams, a failed input read of an opcode that reads its input and can begin now sets HOST_ERR_STATUS.DMA (with its event) and completes
the descriptor as HOST_FAULT with DETAIL 0x0001. A chunk that has started sets DMA, keeps HOST_FAULT with DETAIL 0x0001 or 0x0002 for
its completion, and leaves its stream at the next trick boundary where it was its input. A waiting chunk, and one that names no host
memory that way, is not touched. All of it answers what follows at once (settle). -/
def Obligations.HostMemoryFaults : Prop :=
  ∀ (id : Nat) (write : Bool) (c : Consumed) (s : State), running s = true → usbAttached s = false → consumedById id s = some c →
    s.host.decided.any (fun p => p.1 == id) = false →
    let dma := hostError Fld.hostErrStatusDma 0x0007 Status.hostFault c.sq s
    (usesHost c write = false → exec (.hostMemoryAccessFailed id write) s = .next (settle s))
    ∧ (∀ st i, usesHost c write = true → itemHome id s = some (st, i) → isChunk i = true →
        (i.phase = .waiting → exec (.hostMemoryAccessFailed id write) s = .next (settle s))
        ∧ (i.phase = .started → exec (.hostMemoryAccessFailed id write) s = .next (settle (adjItem st i.id (fun x => { x with
            facts := addStatus x.facts Status.hostFault (if write then 0x0002 else 0x0001) 0, leaving := x.leaving || !write }) dma))))
    ∧ (usesHost c false = true → write = false → itemHome id s = none → readsInput.contains (fld c.desc 0 8) = true → c.id = id →
        Accepted id (fld c.desc 0 8) c s →
        exec (.hostMemoryAccessFailed id write) s = .next (settle (completeOrWait c (plainFacts Status.hostFault 0x0001 0) dma)))

/-- For NOP, CHUNK, CHUNK_TRIGGERED, JOB_LOAD, JOB_UNLOAD, STREAM_RETIRE, STREAM_SWAP, STREAM_SWAP_FORCED, CANCEL, JOB_RESTART and
POWER_POLICY: where the consumed descriptor of that opcode can begin and breaks a rule common to all opcodes (recovery, address space,
JOB and STREAM mismatch, stream not bound to the ring), and no other consumed descriptor has an opcode that is refused, the command
answers the completion as REFUSED_FORMAT with that rule's DETAIL, and only registers, outputs, log and host interface may have changed.
Which DETAIL applies where several rules are broken is the model's choice (log 70). -/
def Obligations.MalformedDescriptorsAreRefused : Prop :=
  ∀ (id e op : Nat) (cmd : Instr) (a b : ReadData) (c : Consumed) (s : State), canBegin id op s = some c → formatError c s = some e →
    (∀ k ∈ s.host.consumed, badOp k s = none) →
    ((op, cmd) ∈ [(0x00, .nop id), (0x01, .chunk id), (0x02, .chunkTriggered id), (0x10, .jobLoad id a b), (0x11, .jobUnload id),
      (0x12, .streamRetire id), (0x13, .streamSwap id a), (0x14, .streamSwapForced id a), (0x15, .cancel id), (0x16, .jobRestart id),
      (0x31, .powerPolicy id)] : Prop) →
    exec cmd s = .next (refuseFormat c e 0 s) ∧ SameButHost s (refuseFormat c e 0 s)

/-- For an accepted descriptor on a stream of a job in service with no retire consumed; all of it answers what follows at once (settle).
CHUNK completes on a stream that is not TRIGGERED: one waiting chunk more stands at the end of the stream's queue. CHUNK_TRIGGERED
completes on a TRIGGERED stream with no swap queued, with RELEASE below 72, where the stream's trigger is not fixed or is RELEASE: it is
fixed to RELEASE, and one waiting triggered chunk more stands at the end; where it is fixed to another, the descriptor completes as
REFUSED_FORMAT 0x0107. On the other kind of stream each completes as REFUSED_FORMAT 0x0106. STREAM_SWAP and STREAM_SWAP_FORCED complete
with BANKS not 0 and lengths that are each 0 or the state size: one swap item more stands at the end of the queue, with the clock; a
forced one first ends, as STATE_EVICTED, the chunks that have not started and the swaps that wait. With BANKS 0 they complete as
REFUSED_FORMAT 0x0108, else with another length as 0x0105. -/
def Obligations.StreamWorkQueues : Prop :=
  ∀ (id : Nat) (input : ReadData) (c : Consumed) (x : Machine.Stream) (s : State),
    let st := fld c.desc 16 8
    let trig := arg c.desc 36 1
    let u := markStarted id s
    let add (i : Item) (s : State) : State := { s with streams := mapAdjust s.streams st (fun y => { y with items := y.items ++ [i] }) }
    let fix (s : State) : State := { s with streams := mapAdjust s.streams st (fun y => { y with trigger := some trig }) }
    let evict (s : State) : State := endItems st Status.stateEvicted (fun i => isIdleChunk i || isIdleSwap i) s
    let ok (n : Nat) : Prop := n = 0 ∨ n = stateSize x
    streamOf st s = some x → phaseOf x.job s = some .resident → x.retiring = false →
    (Accepted id 0x01 c s → x.triggered = false → exec (.chunk id) s = .next (settle (add (newItem c.id .chunk (.bytes [])) u)))
    ∧ (Accepted id 0x01 c s → x.triggered = true → exec (.chunk id) s = .next (settle (refuseFormat c 0x0106 0 u)))
    ∧ (Accepted id 0x02 c s → x.triggered = true → swapQueued x = false → trig < 72 →
        (x.trigger = none ∨ x.trigger = some trig →
          exec (.chunkTriggered id) s = .next (settle (add (newItem c.id .triggered (.bytes [])) (fix u))))
        ∧ (∀ k, x.trigger = some k → k ≠ trig → exec (.chunkTriggered id) s = .next (settle (refuseFormat c 0x0107 0 u))))
    ∧ (Accepted id 0x02 c s → x.triggered = false → exec (.chunkTriggered id) s = .next (settle (refuseFormat c 0x0106 0 u)))
    ∧ (Accepted id 0x13 c s →
        (x.banks = 0 → exec (.streamSwap id input) s = .next (settle (refuseFormat c 0x0108 0 u)))
        ∧ (x.banks ≠ 0 → ¬ (ok (inLen c.desc) ∧ ok (outLen c.desc)) →
            exec (.streamSwap id input) s = .next (settle (refuseFormat c 0x0105 0 u)))
        ∧ (x.banks ≠ 0 → ok (inLen c.desc) → ok (outLen c.desc) →
            exec (.streamSwap id input) s = .next (settle (add { newItem c.id .swap input with releasedAt := s.clock } u))))
    ∧ (Accepted id 0x14 c s →
        (x.banks = 0 → exec (.streamSwapForced id input) s = .next (settle (refuseFormat c 0x0108 0 u)))
        ∧ (x.banks ≠ 0 → ¬ (ok (inLen c.desc) ∧ ok (outLen c.desc)) →
            exec (.streamSwapForced id input) s = .next (settle (refuseFormat c 0x0105 0 u)))
        ∧ (x.banks ≠ 0 → ok (inLen c.desc) → ok (outLen c.desc) → exec (.streamSwapForced id input) s =
            .next (settle (add { newItem c.id .forced input with releasedAt := s.clock } (evict u)))))

/-- For an accepted descriptor; all of it answers what follows at once (settle). CANCEL completes on a stream of a job in service, where no
consumed chunk of the stream that carries the target tag (ARGS bytes 40 to 43) has yet to begin: every queued chunk of the stream that
waits and carries it completes as CANCELLED, and CANCEL as DONE with AUX their number. STREAM_RETIRE completes on a stream of a job in
service with no retire consumed: the stream is retiring, and one retire item more stands at the end of its queue. JOB_UNLOAD completes
on an occupied slot in service: the job is unloading for this descriptor, and no stream of it is in service. JOB_RESTART completes on an
occupied slot in service: the job is reset for this descriptor, in Husk where its bit of HUSK_JOBS is set, and SAFE_STATUS.RESTARTING
shows it. JOB_UNLOAD and JOB_RESTART of an empty slot complete as REFUSED_FORMAT with DETAIL 0x0103. -/
def Obligations.WorkIsTakenBack : Prop :=
  ∀ (id : Nat) (c : Consumed) (x : Machine.Stream) (job : Job) (s : State),
    let st := fld c.desc 16 8
    let j := fld c.desc 24 5
    let u := markStarted id s
    let hit (i : Item) : Bool := isChunk i && i.phase == .waiting && ((consumedById i.id u).map fun k => fld k.desc 32 32) == some (arg c.desc 40 4)
    let add (i : Item) (s : State) : State := { s with streams := mapAdjust s.streams st (fun y => { y with items := y.items ++ [i] }) }
    (Accepted id 0x15 c s → streamOf st s = some x → phaseOf x.job s = some .resident → unbegun st (arg c.desc 40 4) u = [] →
      exec (.cancel id) s = .next (settle (done c (x.items.countP hit) (endItems st Status.cancelled hit u))))
    ∧ (Accepted id 0x12 c s → streamOf st s = some x → phaseOf x.job s = some .resident → x.retiring = false →
      exec (.streamRetire id) s = .next (settle (add (newItem c.id .retire (.bytes []))
        { u with streams := mapAdjust u.streams st (fun y => { y with retiring := true }) })))
    ∧ (Accepted id 0x11 c s →
      (jobOf j s = some job → job.phase = .resident → ∃ t, exec (.jobUnload id) s = .next (settle t)
        ∧ phaseOf j t = some (.unloading [c.id]) ∧ ∀ n y, streamOf n t = some y → y.job = j → y.valid = false)
      ∧ (jobOf j s = none → exec (.jobUnload id) s = .next (settle (refuseFormat c 0x0103 0 u))))
    ∧ (Accepted id 0x16 c s →
      (jobOf j s = some job → job.phase = .resident → ∃ t, exec (.jobRestart id) s = .next (settle t)
        ∧ t = jobReset j [c.id] (if bitsAt (getF Fld.safeCfgHuskJobs 0 u) j 1 = 1 then enterHusk 1 u else u)
        ∧ bitsAt (getF Fld.safeStatusRestarting 0 t) j 1 = 1)
      ∧ (jobOf j s = none → exec (.jobRestart id) s = .next (settle (refuseFormat c 0x0103 0 u))))

/-- For an accepted JOB_LOAD whose image can be read, with what its reads met taken note of (openInput, metList); all of it answers what
follows at once (settle). A binding list that is refused refuses the load. Otherwise the first of these that finds an error refuses the
load with it, and no job is created: layout, then signature and version, then fit (one that fails for want of T2 space sets
MEM_ERR_STATUS.T2_SHORT), then content, then the placement of its pages in T1 (0x0208). JOB_LOAD completes where all of them pass: the
job is placed, its streams are created, and the load completes as DONE with AUX the number of streams. -/
def Obligations.LoadChecksInOrder : Prop :=
  ∀ (id : Nat) (image binding : ReadData) (im : List Byte) (rings : List Nat) (c : Consumed) (s : State),
    let v := openInput c image (markStarted id s)
    let u := metList c (Img.streamCount im) binding v
    let slot := fld c.desc 24 5
    let base := arg c.desc 40 2
    let new := (Img.streams im).zipIdx.map fun (r, i) => newStream slot (rings.getD i c.sq) r u
    let objs := (Img.objects im u).map fun p => p.1.obj
    let ends (e : LoadErr) (w : State) : State := settle (completeOrWait c (plainFacts e.1 e.2.1 e.2.2) w)
    Accepted id 0x10 c s → inputOf c image v = .ok im →
    (∀ e, bindings c (Img.streamCount im) binding u = .refused e → exec (.jobLoad id image binding) s = .next (ends e u))
    ∧ (bindings c (Img.streamCount im) binding u = .rings rings →
      (∀ e, Img.layoutCheck im (inLen c.desc) = some e → exec (.jobLoad id image binding) s = .next (ends e u))
      ∧ (Img.layoutCheck im (inLen c.desc) = none →
        (∀ e, Img.authCheck im (runningVersion u) u = some e → exec (.jobLoad id image binding) s = .next (ends e u))
        ∧ (∀ e, Img.authCheck im (runningVersion u) u = none → fitCheck slot base (Img.dieRecs im) new objs u = some e →
            exec (.jobLoad id image binding) s = .next (ends e (if t2Short e objs u then setB Fld.memErrStatusT2Short 0 true u else u)))
        ∧ (Img.authCheck im (runningVersion u) u = none → fitCheck slot base (Img.dieRecs im) new objs u = none →
          (∀ e, Chk.contentCheck im slot u = some e → exec (.jobLoad id image binding) s = .next (ends e u))
          ∧ (Chk.contentCheck im slot u = none → placeJob slot base im u = none →
            exec (.jobLoad id image binding) s = .next (ends (Status.refusedFit, 0x0208, 0xFF) u))
          ∧ (∀ t, Chk.contentCheck im slot u = none → placeJob slot base im u = some t →
            exec (.jobLoad id image binding) s = .next (settle (done c new.length (createStreams base new t)))))))

/-- For an accepted descriptor of opcode 0x20 whose table can be read, with what its read met taken note of (openInput); all of it answers
what follows at once (settle). TABLE_WRITE is the row of every table but TREE and SETPOINT. With ENGINE 1 to 3 a malformed table is
refused with 0x0110, else a wrong version with 0x0111, else one too large with 0x0112; else it completes: the table stands as pending,
or waits behind a pending version of it, and its engine begins with it. TREE_WRITE completes, with WRITER_EN 0, for a tree of the right
length without a fault and of a version that follows: it stands last among the planner's trees, and is taken in where a bank is free.
SETPOINT_WRITE completes for setpoints and arguments of good form and version 0: its entries go into the inactive halves of channels
whose source is the host, and one host commit is queued. -/
def Obligations.TableWrites : Prop :=
  ∀ (id : Nat) (data : ReadData) (bs : List Byte) (c : Consumed) (s : State),
    let u := openInput c data (markStarted id s)
    let key := tableKeyOf c
    let v := arg c.desc 44 4
    let pend : PendTable := ⟨key, v, bs, c.id, (tableForm c).1 = 1 && arg c.desc 43 1 % 2 = 1, false⟩
    Accepted id 0x20 c s → inputOf c data u = .ok bs →
    (tableRow id s = 0 → 1 ≤ (tableForm c).1 → (tableForm c).1 ≤ 3 →
      (tableOk c bs u = false → exec (.tableWrite id data) s = .next (settle (refuseFormat c 0x0110 0 u)))
      ∧ (tableOk c bs u = true → versionOk key v u = false → exec (.tableWrite id data) s = .next (settle (refuseFormat c 0x0111 0 u)))
      ∧ (tableOk c bs u = true → versionOk key v u = true → tableFits key bs.length u = false →
          exec (.tableWrite id data) s = .next (settle (refuseFormat c 0x0112 0 u)))
      ∧ (tableOk c bs u = true → versionOk key v u = true → tableFits key bs.length u = true →
          exec (.tableWrite id data) s = .next (settle (startEngine c (offerTable pend u)))))
    ∧ (tableRow id s = 1 → getB Fld.plnWriterEn 0 u = false → bs.length = 64 + 8 * treeCount bs → treeFault bs = none →
        treeVersionOk v u = true → exec (.treeWrite id data) s =
          .next (settle (showPlan (admitTree { u with plan := { u.plan with trees := u.plan.trees ++ [(c.id, bs)] } }))))
    ∧ (tableRow id s = 2 → cleArgsOk c = true → setpointsOk bs = true → v = 0 → ∃ t, exec (.setpointWrite id data) s = .next (settle t)
        ∧ t = queueCommit (.host c.id) (forEach (chunksOf 16 64 bs) hostEntry u)
        ∧ ∃ n, t.cle.commits = u.cle.commits ++ [⟨n, .host c.id⟩])

/-- For an accepted PLAN_REQUEST, while no consumed descriptor has an opcode that is refused. PLAN_REQUEST completes with PLAN on and fewer
than 64 requests waiting: the request stands last in the planner's queue, and PLN_STATUS shows the queue. With PLAN on and 64 waiting it
stays in descriptor intake, and nothing changes. With PLAN not on its descriptor completes as NO_PATH with DETAIL 0xFFFE, the model's
choice for a case that the spec leaves open (log 60). -/
def Obligations.PlanRequestsQueue : Prop :=
  ∀ (id : Nat) (c : Consumed) (s : State), Accepted id 0x21 c s → (∀ k ∈ s.host.consumed, badOp k s = none) →
    let u := markStarted id s
    (planOn s = true → s.plan.queue.length < 64 → ∃ t, exec (.planRequest id) s = .next t
        ∧ t = showPlan { u with plan := { u.plan with queue := u.plan.queue ++ [c.id] } }
        ∧ getF Fld.plnStatusQueued 0 t = s.plan.queue.length + 1)
    ∧ (planOn s = true → 64 ≤ s.plan.queue.length → exec (.planRequest id) s = .next s)
    ∧ (planOn s = false → ∃ t, exec (.planRequest id) s = .next t ∧ t = completeOrWait c (plainFacts Status.noPath 0xFFFE 0) u)

/-- For an accepted, well-formed POWER_STATE with no transition running, no earlier POWER_STATE waiting, no latched wake and no restart on
its dies; all of it answers what follows at once (settle). Where every named domain is in its TARGET the command completes as DONE with
AUX 0. Where a check of the named domains fails it completes as REFUSED_FORMAT with that check's DETAIL and AUX, and every domain is as
before. Otherwise POWER_STATE completes with a transition to TARGET, started at once, of the domains that change; where one of them is
the attachment's, the descriptor completes as DONE with AUX their number before the transition starts, and intake closes; else the
transition completes it. While a transition runs the command waits, and nothing changes. -/
def Obligations.PowerStateRuns : Prop :=
  ∀ (id : Nat) (c : Consumed) (s : State), Accepted id 0x30 c s → PS.ok c = true →
    let u := markStarted id s
    let x := codeState (PS.target c)
    let ch := changedBy (PS.mask c) x u
    let early := ch.contains (attachDomain u) && x != .on && domOn (attachDomain u) u
    let tr (k : Option Nat) : Transition :=
      ⟨k, false, PS.retMask c, ch.map fun d => (d, x), [], [], 0, none⟩
    (s.power.trans.isSome = true → exec (.powerState id) s = .next s)
    ∧ (s.power.trans = none → earlierPower id s = false → getB Fld.pwrWakeStatusReplay 0 s = false → restartBlocks (PS.mask c) s = false →
      (ch = [] → exec (.powerState id) s = .next (settle (done c 0 u)))
      ∧ (∀ det aux, ch ≠ [] → powerFault (PS.mask c) x (PS.retMask c) u = some (det, aux) →
          exec (.powerState id) s = .next (settle (refuseFormat c det aux u)) ∧ (refuseFormat c det aux u).domains = s.domains)
      ∧ (ch ≠ [] → powerFault (PS.mask c) x (PS.retMask c) u = none →
          (early = false → exec (.powerState id) s = .next (settle (startTransition (tr (some c.id)) u)))
          ∧ (early = true → exec (.powerState id) s =
              .next (settle (startTransition (tr none) (setPower { u.power with closing := true } (done c ch.length u)))))))

/-- For an accepted POWER_POLICY; all of it answers what follows at once (settle). One whose fields break their ranges completes as
REFUSED_FORMAT with DETAIL 0x011A. Otherwise POWER_POLICY completes: the named fields are stored, and it ends as DONE with AUX the cap
in effect and DETAIL 0x0402 where it names a THROTTLE above 100, else 0x0403 where a floor is below what its streams were checked at,
else 0. Before that a THROTTLE above 100 posts POLICY_CLAMPED of class 1, and a floor clamped one of class 2, in that order. -/
def Obligations.PowerPolicyStores : Prop :=
  ∀ (id : Nat) (c : Consumed) (s : State), Accepted id 0x31 c s →
    let u := markStarted id s
    let p := storePolicy c.desc u
    let hot := PP.sets c.desc 3 = true ∧ 100 < PP.throttle c.desc
    let ends (det : Nat) (t : State) : State := settle (completeOrWait c (plainFacts Status.done det (effectiveCap t)) t)
    (PP.ok c.desc = false → exec (.powerPolicy id) s = .next (settle (refuseFormat c 0x011A 0 u)))
    ∧ (PP.ok c.desc = true →
        (¬ hot → floorClamped c.desc u = false → exec (.powerPolicy id) s = .next (ends 0 p))
        ∧ (hot → floorClamped c.desc u = false → exec (.powerPolicy id) s = .next (ends 0x0402 (clampReport 1 12 p)))
        ∧ (hot → floorClamped c.desc u = true → exec (.powerPolicy id) s = .next (ends 0x0402 (clampReport 2 12 (clampReport 1 12 p))))
        ∧ (¬ hot → floorClamped c.desc u = true → exec (.powerPolicy id) s = .next (ends 0x0403 (clampReport 2 12 p))))

/-- Past FW_READY. With no earlier update descriptor undecided, and the input read (openInput): an accepted UPDATE_HEADER completes, where
its header passes, by opening a session on the other slot, as DONE with AUX that slot; one that fails ends with its status and DETAIL.
UPDATE_BODY with no session is refused with 0x011F; with a session, at another offset than the bytes received, past the body's end, or
of 0 or more than 2^20 bytes, with 0x011E; else it completes: its bytes are programmed, DONE with AUX the bytes received. UPDATE_COMMIT
completes for a complete, authentic body by committing the slot, as DONE; an incomplete one is refused with 0x011F; a false one ends the
session as REFUSED_AUTH 0x0806; ABORT ends it as DONE. HOST_OK completes with MGMT on: it records the host's consent, and changes
nothing else. CONFIRM completes where mayConfirm holds by confirming the running slot, and changes nothing elsewhere. HEALTH_WATCHDOG
completes 120 s after the trial began: the running slot is BAD, the other one is next, no trial runs, and with WD_RESET the module is
reset; before that, or with no trial, it changes nothing. What completes or ends answers what follows at once (settle), but for HOST_OK.
Whether signatures and digests hold are opaque functions of the model (log 19). -/
def Obligations.UpdateSessionsAndTrials : Prop :=
  (∀ (id : Nat) (data : ReadData) (bs : List Byte) (sess : Machine.UpdateSession) (c : Consumed) (s : State), earlierUpdate id s = false →
      let m := markStarted id s
      let u := openInput c data m
      (Accepted id 0x40 c s → inputOf c data u = .ok bs →
        exec (.updateHeader id data) s = .next (settle (match headerRefusal (inLen c.desc) bs u with
          | some (st, det) => completeOrWait c (plainFacts st det 0) u
          | none => done c (targetSlot u) (openUpdate bs u))))
      ∧ (Accepted id 0x41 c s → s.upd.session = none → exec (.updateBody id data) s = .next (settle (refuseFormat c 0x011F 0 m)))
      ∧ (Accepted id 0x41 c s → s.upd.session = some sess →
        let n := inLen c.desc
        let bad := arg c.desc 40 4 ≠ sess.received ∨ FW.bodyLen sess.header < sess.received + n ∨ n = 0 ∨ 2 ^ 20 < n
        (bad → exec (.updateBody id data) s = .next (settle (refuseFormat c 0x011E 0 m)))
        ∧ (¬ bad → inputOf c data u = .ok bs →
            exec (.updateBody id data) s = .next (settle (done c (sess.received + bs.length) (programBody sess bs u)))))
      ∧ (Accepted id 0x42 c s → s.upd.session = some sess →
        (bitsAt (arg c.desc 40 1) 0 1 = 1 → exec (.updateCommit id) s = .next (settle (done c 0 (endUpdate m))))
        ∧ (bitsAt (arg c.desc 40 1) 0 1 = 0 → sess.received < FW.bodyLen sess.header →
            exec (.updateCommit id) s = .next (settle (refuseFormat c 0x011F 0 m)))
        ∧ (bitsAt (arg c.desc 40 1) 0 1 = 0 → FW.bodyLen sess.header ≤ sess.received →
            exec (.updateCommit id) s = .next (settle (if bodyOk sess.slot sess.header m then done c 0 (commitSlot sess m)
              else completeOrWait c (plainFacts Status.refusedAuth 0x0806 0) (endUpdate m))))))
  ∧ (∀ (sel : Bool) (s : State), running s = true →
      let k := s.upd.runningSlot
      (domOn Dom.mgmt s = true → exec .hostOk s = .next { s with upd := { s.upd with hostOk := true } })
      ∧ (domOn Dom.mgmt s = false → exec .hostOk s = .next s)
      ∧ (mayConfirm s = true → exec .confirm s = .next (settle (confirmSlot s)))
      ∧ (mayConfirm s = false → exec .confirm s = .next s)
      ∧ (trialOver s = true →
          (getB Fld.updCfgWdReset 0 s = true → ∃ t, exec (.healthWatchdog sel) s = .next (settle (moduleReset 3 t)))
          ∧ (getB Fld.updCfgWdReset 0 s = false → k < s.upd.slots.length → ∃ t, exec (.healthWatchdog sel) s = .next (settle t)
              ∧ t.upd.next = 1 - k ∧ t.upd.trialFrom = none ∧ slotState k t = 5))
      ∧ (trialOver s = false → exec (.healthWatchdog sel) s = .next s))

/-- TRICK_BOUNDARY, past FW_READY; all of it answers what follows at once (settle). On a die with a running trick that is no swap it changes
nothing. On a die with no running trick that is ready, not leaving and has a usable operating point it completes by beginning a trick,
and the input of a chunk that this starts is then read (readStarted): a guaranteed chunk that has started there goes first; with none, a
due dummy frame goes next, and the guaranteed chunk released earliest is marked as passed once; where that mark stands, that chunk goes
before the frame; with no due dummy, a waiting forced swap goes, then the guaranteed chunk released earliest, then, with no gang hold on
the die, the flexible stream that is picked, and with none picked the dummy frame that may run on an idle die. -/
def Obligations.DealerChoosesAtBoundaries : Prop :=
  ∀ (die : Fin 4) (ecc : ReadEcc) (s : State), running s = true →
    let d := die.val
    let ends (u : State) : Prop := exec (.trickBoundary die ecc) s = .next (settle (readStarted ecc s u))
    (∀ st k, (dieOf d s).running = some (st, k) → k ≠ .swap → exec (.trickBoundary die ecc) s = .next (settle s))
    ∧ ((dieOf d s).running = none → dieReady d s = true → dieLeaving d s = false → s.lim.noPoint.contains d = false →
      (∀ st i k, startedGuaranteed d s = some (st, i, k) → ends (runItem d st i k s))
      ∧ (startedGuaranteed d s = none →
        (∀ st x, dueDummy d s = some (st, x) → hasJumped (earliestGuaranteed d s) s = false →
            ends (runDummy d st x (markJumped (earliestGuaranteed d s) s)))
        ∧ (∀ st x st' i k, dueDummy d s = some (st, x) → earliestGuaranteed d s = some (st', i, k) →
            hasJumped (earliestGuaranteed d s) s = true → ends (runItem d st' i k s))
        ∧ (dueDummy d s = none →
          (∀ st i, forcedSwap d s = some (st, i) → ends (runItem d st i .swap s))
          ∧ (∀ st i k, forcedSwap d s = none → earliestGuaranteed d s = some (st, i, k) → ends (runItem d st i k s))
          ∧ (forcedSwap d s = none → earliestGuaranteed d s = none → (dieOf d s).gang = none →
            (∀ st, pickFlexible d s = some st → ends (serve d st s))
            ∧ (∀ st x, pickFlexible d s = none → idleDummy d s = some (st, x) → ends (runDummy d st x s))))))

/-- On a state of four dies, beginning a trick of a chunk or a dummy frame on a die leaves no nonzero row and no saturation mark in working
banks 0 and 1 of that die, every other row of every die as it was, and the die running that trick at cycle 0; the number of the model's
own free draw (log 3) moves on. Past FW_READY, on a die that runs a trick of a chunk or a dummy frame, SEQUENCE_WORD completes by
running the word at that context's issue pointer (runWord), and FAB_SEQ_STATUS then shows the issue pointer and the threads in use. With
no such trick it changes nothing. TRICK_OVERRUN of a running trick of a stream that is no swap completes: with the cycle count at 32,768
the trick is ended, DLR_STATS.OVERRUN counts, DLR event 0x0002 with AUX die and stream is posted, and cause 4 of the stream's job is
raised; and in that state no trick runs on the die before what follows. Both answer what follows at once (settle). -/
def Obligations.TricksRunWordsOnOpenBanks : Prop :=
  ∀ (die : Fin 4) (st : Nat) (kind : TrickKind) (err : FabError) (s : State), s.dies.length = 4 →
    let d := die.val
    let t := beginTrick d st kind s
    (kind ≠ .swap → (dieOf d t).running = some (st, kind) ∧ (dieOf d t).cycles = 0
      ∧ (∀ p ∈ t.acc, keyIn d [0, 1] p.1 = false) ∧ (∀ k ∈ t.accSat, keyIn d [0, 1] (k * 16) = false)
      ∧ (∀ p, p ∈ t.acc ↔ (p ∈ s.acc ∧ keyIn d [0, 1] p.1 = false)))
    ∧ (running s = true →
      (∀ dummy, runningOn d s = some (st, dummy) → ∃ t, exec (.sequenceWord die err) s = .next (settle t)
        ∧ t = showSeq st d dummy (runWord st d dummy err s)
        ∧ getF Fld.fabSeqStatusThreadsBusy d t = (dieOf d (runWord st d dummy err s)).threads.length % 4096)
      ∧ (runningOn d s = none → exec (.sequenceWord die err) s = .next (settle s))
      ∧ (∀ x, (dieOf d s).running = some (st, kind) → kind ≠ .swap → streamOf st s = some x →
          ∃ t, exec (.trickOverrun die) s = .next (settle t) ∧ (dieOf d t).running = none ∧ t.causes = s.causes ++ [(x.job, 4)]
            ∧ t = raiseCause x.job 4 (postEvent 2 0x0002 Status.done (d + st * 256)
                (incF Fld.dlrStatsOverrun 0 (endTrick st d (kind == .dummy) (adjDie d (fun y => { y with cycles := 32768 }) s))))))

/-- Past FW_READY, for a thread of a die that has not landed all its data; all of it answers what follows at once (settle). While it may not
write, or a die link or hub link on its way is closed, FETCH_THREAD_DONE changes nothing. Where it may and they are open, a dropped
thread is gone without a token, landed where its data is readable. Of another one the read errors met are reported and its read bits
set. Then, with no read error, FETCH_THREAD_DONE of a demanded thread completes: it takes its wait, lands all its rows, increments
DONE_TOKEN of its stream and die, and is gone; and that of a speculative thread completes, where the slots suffice: its rows are landed
in its epoch, which holds the increment, and it counts as done. With an error a demanded thread is gone and the error is dealt with as
the chunk's; a speculative one is done and its epoch holds the error. PENDING_ROW_LANDED completes for a demanded thread of plane rows
not all landed that may write over open ways to readable data: it takes its wait and lands its next row. -/
def Obligations.FetchThreadsLand : Prop :=
  ∀ (die : Fin 4) (id : Nat) (ecc : ReadEcc) (t : Thread) (s : State), running s = true → threadOf die.val id s = some t → t.done = false →
    let d := die.val
    let rs := threadRanges t.desc
    let u := touchRanges rs (senseRanges rs ecc s)
    let v := landThread d t (takeWait d t u)
    let ends (w : State) : Prop := exec (.fetchThreadDone die id ecc) s = .next (settle w)
    ((mayWrite d t s = false ∨ threadPath d t.desc s = false) → ends s)
    ∧ (mayWrite d t s = true → threadPath d t.desc s = true →
      (t.dropped = true → ends (dropThread d id (if (threadErr d t.desc s).isNone then landThread d t s else s)))
      ∧ (t.dropped = false →
        (threadErr d t.desc u = none → t.spec = none → ends (dropThread d t.id (tokenAdd t.stream d (FD.doneToken t.desc) 1 v)))
        ∧ (∀ k, threadErr d t.desc u = none → t.spec = some k → slotsShort d v = false →
            ends (adjThread d t.id (fun t => { t with done := true })
              (adjEpoch d 1 (fun e => { e with tokens := e.tokens ++ [(FD.doneToken t.desc, 1)] }) v)))
        ∧ (∀ e, threadErr d t.desc u = some e → t.spec = none → ends (readFault t.stream t.dummy e (dropThread d id u)))
        ∧ (∀ e k, threadErr d t.desc u = some e → t.spec = some k →
            ends (adjThread d t.id (fun t => { t with done := true }) (adjEpoch d 1 (fun x => { x with faults := x.faults ++ [e] }) u)))
        ∧ (∀ t', FD.planeRow t.desc = true → t.landed < planeRows8 t.desc → threadErr d t.desc s = none →
            threadOf d id (takeWait d t s) = some t' → t'.spec = none →
            exec (.pendingRowLanded die id) s = .next (settle (landPlaneRow d t' (takeWait d t s))))))

/-- Past FW_READY; all of it answers what follows at once (settle). BARRIER_PASS completes on a stream of a job for its chunk and its dummy
frame alike: where every die of the stream stands at the same barrier, each passes it and its BARRIER_STALL clears; where a die stands
at none, nothing changes. PAGE_STEP on a die with no walker, or one that is not ready, changes nothing. Of a ready walker it completes:
at a row outside the table an empty step is delivered; at a row whose length entry fails its check the chunk fails with cause 2; else,
where the step names no page, or a page entry that passes its check, what is read is reported and its read bits set, and with no read
error the step is delivered; a page entry that fails its check is cause 3. CHEAP_PATH_CHOICE changes nothing on a die that runs no
chunk, and nothing on one in exact mode. It completes where the running word has entered its execution: where a channel of it waits for
a late plane and the choice is allowed there (mayChoose), a CHEAP epoch opens at the start of the bank fill, the context takes the
planes that are there from that channel on, and the late cycles count towards the trick; else nothing changes. Which layers are
degradable is an opaque decoding of the model's (log 20). -/
def Obligations.BarriersWalkersAndCheapPaths : Prop :=
  ∀ (stream : Fin 256) (die : Fin 4) (ecc : ReadEcc) (s : State), running s = true →
    let st := stream.val
    let d := die.val
    let page (u : State) : Prop := exec (.pageStep die ecc) s = .next (settle u)
    exec (.barrierPass stream) s = .next (settle (barrierPass st true (barrierPass st false s)))
    ∧ (∀ dummy x j b, streamOf st s = some x → jobOfStream st s = some j → diesOf x ≠ [] →
        ((∀ k ∈ diesOf x, barrierOf j (runCtx x k dummy) k = some b) →
          barrierPass st dummy s = forEach (diesOf x) (fun k s => setB Fld.fabSeqStatusBarrierStall k false
            (adjRun st k dummy (fun c => { c with atBarrier := false, barrierPassed := true }) s)) s)
        ∧ ((∃ k ∈ diesOf x, barrierOf j (runCtx x k dummy) k = none) → barrierPass st dummy s = s))
    ∧ ((dieOf d s).walker = none → page s)
    ∧ (∀ w, (dieOf d s).walker = some w →
        let row := walkerRow w s
        let steps := rowSteps w.desc row s
        let j := ((streamOf w.stream s).map fun x => x.job).getD 0
        (walkerReady w steps = false → page s)
        ∧ (walkerReady w steps = true →
          (row = none → page (deliverStep w.stream d w row steps s))
          ∧ (∀ r, row = some r →
            let e := lenEntry w.desc r.seq s
            let n := steps.getD w.step none
            let rs := stepReads w.desc w r e n s
            let u := touchRanges rs (senseRanges rs ecc s)
            (lenCheck w.desc e s = false → page (attFail w.stream d w.dummy 2 r.seq s))
            ∧ (lenCheck w.desc e s = true →
              (∀ i, n = some i → pageCheck j (pageEntryAt w.desc e r.head i) (pageEntry w.desc e r.head i s) s = false →
                page (attFail w.stream d w.dummy 3 r.seq s))
              ∧ ((n = none ∨ ∃ i, n = some i ∧ pageCheck j (pageEntryAt w.desc e r.head i) (pageEntry w.desc e r.head i s) s = true) →
                rangesErr d rs u = none → page (deliverStep w.stream d w row steps u))))))
    ∧ ((∀ n, runningOn d s ≠ some (n, false)) → exec (.cheapPathChoice die) s = .next (settle s))
    ∧ ((dieOf d s).exact = true → exec (.cheapPathChoice die) s = .next (settle s))
    ∧ (∀ x j w, runningOn d s = some (st, false) → streamOf st s = some x → jobOfStream st s = some j →
        let c := ctxOf x d
        let ex := execAt st d c.issue false j x w s
        let u := openEpoch d 3 st false c.fillStart c.fillExec c.fillSave none (c.fillCount + 1) s
        wordAt j d c.issue = some w → c.entered = true → exec (.cheapPathChoice die) s = .next (settle (match (foldAll ex s).late with
          | some (ch, b) => if mayChoose ex ch b c s then
              adjDie d (fun y => { y with cycles := y.cycles + lateCycles x.cls u })
                (adjCtx st d (fun c => { c with cheap := some b, cheapCh := ch, stallFrom := none }) u)
            else s
          | none => s)))

/-- Past FW_READY; all of it but a replay answers what follows at once (settle). DIE_LINK_ARRIVAL of an unknown transfer, of one behind an
older send of the same route, or over a link of its way that is not open changes nothing. It completes for a transfer to a die, first on
its route with its way open: the transfer is gone and its lines land there, with its token; a dropped one to the hub is gone; another
one to the hub hands over its lines from the front as far as the hub takes them, is gone where it takes all, and keeps the rest.
LINK_FAILED of a link that has not failed completes: LINK_FAIL and the failed mark stand on both ends, FAB event 0x0004 is posted, and
cause 8 is raised for every job that uses it. DIE_LINK_REPLAY of such a link completes: LINK_REPLAY is set and counts one. Of a failed
link neither changes anything. -/
def Obligations.SendsArriveInOrder : Prop :=
  ∀ (id : Nat) (die : Fin 4) (link : Fin 3) (inbound : Bool) (s : State), running s = true →
    let d := die.val
    let l := link.val
    (s.sends.find? (fun x => x.id == id) = none → exec (.dieLinkArrival id) s = .next (settle s))
    ∧ (∀ x, s.sends.find? (fun x => x.id == id) = some x →
        let gone (s : State) : State := { s with sends := s.sends.filter fun y => y.id != id }
        ((firstOnRoute x s = false ∨ pathOpen x.srcDie x.dst s = false) → exec (.dieLinkArrival id) s = .next (settle s))
        ∧ (firstOnRoute x s = true → pathOpen x.srcDie x.dst s = true →
          (x.dst < 4 → exec (.dieLinkArrival id) s = .next (settle (landOnDie x (gone s))))
          ∧ (4 ≤ x.dst → x.dropped = true → exec (.dieLinkArrival id) s = .next (settle (gone s)))
          ∧ (∀ t n, 4 ≤ x.dst → x.dropped = false → takeHubLines x.srcDie x.stream x.addr x.lines s = (t, n) →
              let u := reportLost x.srcDie x.stream ((List.range n).any fun i => isLostLine (x.addr + 64 * i)) t
              (x.lines.length ≤ n → exec (.dieLinkArrival id) s = .next (settle (gone u)))
              ∧ (n < x.lines.length → exec (.dieLinkArrival id) s = .next (settle { u with
                  sends := listUpdate u.sends (fun y => y.id == id) fun y => { y with addr := y.addr + 64 * n, lines := y.lines.drop n } })))))
    ∧ ((dieOf d s).failedLinks.contains l = false → s.dies.length = 4 →
        (∃ t, exec (.linkFailed die link inbound) s = .next (settle t)
          ∧ (∀ e ∈ (d, l) :: otherEnd d l, (dieOf e.1 t).failedLinks.contains e.2 = true ∧ getB Fld.fabErrStatusLinkFail e.1 t = true)
          ∧ ∃ js : List Nat, t.causes = s.causes ++ js.map (fun j => (j, 8)) ∧ t = linkFailed d l inbound s)
        ∧ exec (.dieLinkReplay die link) s = .next (incF Fld.fabCeCountLinkReplay d (setB Fld.fabErrStatusLinkReplay d true s)))
    ∧ ((dieOf d s).failedLinks.contains l = true → exec (.linkFailed die link inbound) s = .next s
        ∧ exec (.dieLinkReplay die link) s = .next s)

/-- Past FW_READY, for a stream; all of it answers what follows at once (settle). DUMMY_FORCED_POINT completes on a SAFETY stream once the
forced point of one of its dies has come: its frame is due; on a stream of no SAFETY it changes nothing. DUMMY_OVERDUE completes for a
SAFETY stream in service, no restart of its job running, where no frame has started within the interval: it raises cause 3 of its job;
before the interval has passed it changes nothing. DUMMY_COMPARE of a frame that has not ended changes nothing. Of an ended frame it
completes: the errors met in reading output and golden bytes are reported and the read bits set; then, where neither has an error, a
frame that has not failed and whose output equals its golden bytes counts the pass of its stage, if it has one, and its run is over with
none owed; where they differ the frame fails (dummyFail: DUMMY_FAIL counts, SAFE event 0x0005 is posted, cause 2 of its job is raised),
and its run is over. -/
def Obligations.DummyFramesAreJudged : Prop :=
  ∀ (stream : Fin 256) (ecc : ReadEcc) (x : Machine.Stream) (s : State), running s = true → streamOf stream.val s = some x →
    let st := stream.val
    (x.safety = true → (∃ d ∈ diesOf x, forcedPoint x d s ≤ s.clock) →
      exec (.dummyForcedPoint stream) s = .next (settle (adjStream st (fun y => { y with dummy := { y.dummy with due := true } }) s)))
    ∧ (x.safety = false → exec (.dummyForcedPoint stream) s = .next (settle s))
    ∧ (x.safety = true → inService x s = true → restartingJob x s = false → x.dummy.started = false → x.dummy.lastStart + dummyNs x < s.clock →
        exec (.dummyOverdue stream) s = .next (settle { s with causes := s.causes ++ [(x.job, 3)] }))
    ∧ (s.clock ≤ x.dummy.lastStart + dummyNs x → exec (.dummyOverdue stream) s = .next (settle s))
    ∧ (x.dummy.ended = false → exec (.dummyCompare stream ecc) s = .next (settle s))
    ∧ (∀ r, x.dummy.ended = true → x.dummy.failed = false → dummyRec x s = some r →
        let a := x.job * 2 ^ 43 + r.out
        let b := x.job * 2 ^ 43 + r.gold
        let rs := [(a, r.outLen), (b, r.outLen)]
        let u := touchRanges rs (senseRanges rs ecc s)
        rangesErr 4 rs u = none →
        (readObj a r.outLen u = readObj b r.outLen u →
          exec (.dummyCompare stream ecc) s = .next (settle (clearDummy st false (match stageOf st u with
            | some g => incF Fld.safeStageStatusDummyPass g u
            | none => u))))
        ∧ (readObj a r.outLen u ≠ readObj b r.outLen u →
          exec (.dummyCompare stream ecc) s = .next (settle (clearDummy st (restartingJob x (dummyFail st u)) (dummyFail st u)))))

/-- Past FW_READY. MOVE_REQUEST completes by sending its line into the move window of its die and stream. PAGE_MOVE_DONE of an unknown move
changes nothing; of a page no longer placed, it drops the move; with a place out of reach, or no open way between the two, it changes
nothing; otherwise it completes: the errors met in reading the page are reported, its bytes are moved, the page map names the new place,
the move is gone and the old place is released (shown where nothing was written to the page meanwhile and no request waits). These
answer what follows at once (settle). MIGRATION_SWEEP with MGMT on and 10 ms since the last completes: it notes its time and runs the
sweep; sooner it changes nothing. RECALIBRATION completes and changes nothing that software can see. With SCRUB_HOURS not 0, for a
granule of a die's T1 in a pod that can be reached, PATROL_SCRUB completes: finding nothing it changes nothing; a corrected error is
reported as a T1 correctable error of that granule; an uncorrectable one as an uncorrectable error. With SCRUB_HOURS 0, or a granule
outside T1 or out of reach, nothing changes. Memory, jobs and streams are as before in every case of the scrub. -/
def Obligations.TiersMoveSweepAndScrub : Prop :=
  (∀ (die : Fin 4) (stream : Fin 256) (index : Fin 1024) (line : BitVec 512) (m : Nat) (pod : Fin 16) (ecc : ReadEcc) (s : State),
      running s = true →
      exec (.moveRequest die stream index line) s =
          .next (settle (sendLine die.val stream.val (moveWindow + 64 * index.val) (lineBytes line) s))
      ∧ (s.tiers.moves.find? (fun x => x.id == m) = none → exec (.pageMoveDone m ecc) s = .next (settle s))
      ∧ (∀ x, s.tiers.moves.find? (fun x => x.id == m) = some x →
          let left := s.tiers.moves.filter fun y => y.id != m
          (mapGet s.tiers.pages x.page = none → exec (.pageMoveDone m ecc) s = .next (settle { s with tiers := { s.tiers with moves := left } }))
          ∧ (∀ src, mapGet s.tiers.pages x.page = some src →
            let ways := placeReachable src s && placeReachable x.dest s && pathOpen (memHome (placeAddr src)) (memHome (placeAddr x.dest)) s
            let v := movePages (placeAddr src) (placeAddr x.dest) (senseObj (x.page * 65536) 65536 ecc s)
            (ways = false → exec (.pageMoveDone m ecc) s = .next (settle s))
            ∧ (ways = true → x.held = [] → x.request = none → s.tiers.waiting = [] → ∃ t,
              exec (.pageMoveDone m ecc) s = .next (settle (drainDecided (releasePlace x.page src t)))
                ∧ t.tiers.pages = mapSet s.tiers.pages x.page x.dest ∧ t.tiers.moves = left ∧ t.mem = v.mem ∧ t.streams = s.streams)))
      ∧ (domOn Dom.mgmt s = true → s.tiers.lastSweep + 10000000 ≤ s.clock →
          ∃ t, exec .migrationSweep s = .next t ∧ t.tiers.lastSweep = s.clock ∧ t = sweep s)
      ∧ (s.clock < s.tiers.lastSweep + 10000000 → exec .migrationSweep s = .next s)
      ∧ exec (.recalibration pod) s = .next s)
  ∧ (∀ (die : Fin 4) (g n : Nat) (ecc : ReadEcc) (s : State), running s = true →
      let a := t1Addr die.val (g * 256)
      (scrubRuns die.val (g * 256) s = true →
        exec (.patrolScrub die g .clean) s = .next s
        ∧ exec (.patrolScrub die g (.corrected n)) s = .next (reportCe a s)
        ∧ exec (.patrolScrub die g (.uncorrectable n)) s = .next (reportUe a 0x0003 s))
      ∧ (scrubRuns die.val (g * 256) s = false → exec (.patrolScrub die g ecc) s = .next s)
      ∧ (∀ t, exec (.patrolScrub die g ecc) s = .next t → t.mem = s.mem ∧ t.streams = s.streams ∧ t.jobs = s.jobs ∧ t.causes = s.causes))

/-- Past FW_READY, for a window; all of it answers what follows at once (settle). With no segment in flight SEGMENT_LANDED and
SEGMENT_READ_FAILED change nothing. SEGMENT_LANDED of a segment in flight, of a window whose object is known, completes: no segment is
in flight, that one counts as landed, its token is added on its die by its increment, the window's waits are watched, and the copies
that can start do. SEGMENT_READ_FAILED completes: the first and second failure of the segment in flight are counted only; the third acts
as a failed segment (segmentFailed), and the copies that can start do. VARIANT_SIGNAL, where due, completes: the window is marked as
signalled, and VAR_TOKEN is 1 higher on every die of the stream; where not due it changes nothing. -/
def Obligations.WindowsFollowTheirSchedule : Prop :=
  ∀ (id : Nat) (w : Window) (s : State), running s = true → s.tiers.windows.find? (fun w => w.id == id) = some w →
    (w.copying = none → exec (.segmentReadFailed id) s = .next (settle s) ∧ exec (.segmentLanded id) s = .next (settle s))
    ∧ (∀ i, w.copying = some i →
        (w.fails < 2 → exec (.segmentReadFailed id) s = .next (settle (adjWindow id (fun v => { v with fails := v.fails + 1 }) s)))
        ∧ (2 ≤ w.fails → exec (.segmentReadFailed id) s = .next (settle (startCopies (segmentFailed w i s))))
        ∧ (∀ o, winObj w s = some o → ∃ t v, exec (.segmentLanded id) s = .next (settle (startCopies (watchWindows w.stream
            (tokenAdd w.stream (winSeg w i).2.2.2.2 (winSeg w i).2.2.2.1 1 t))))
            ∧ t.tiers.windows.find? (fun w => w.id == id) = some v ∧ v.copying = none ∧ v.landed = w.landed ++ [i] ∧ v.fails = 0
            ∧ t.tx = s.tx ∧ t.regs = s.regs ∧ t.streams = s.streams))
    ∧ (variantDue w s = true → exec (.variantSignal id) s = .next (settle (forEach (((streamOf w.stream s).map diesOf).getD [])
        (fun d s => tokenAdd w.stream d w.varToken 1 s) (adjWindow w.id (fun v => { v with signalled := true }) s))))
    ∧ (variantDue w s = false → exec (.variantSignal id) s = .next (settle s))

/-- With the synchronisation running (SYNC_EN, MGMT, TIME and ETH on, a port chosen) SYNC_MESSAGE completes: the offset is measured
(syncMeasured), and then what a step of the time base sets off follows (afterStep), then what follows at once (settle). The measurement
leaves the offset noted, and, where the time base plus the offset is not negative: in FREE, and in HOLDOVER within TIME_JUMP, the state
is LOCKED and the time base moved by exactly the offset; in HOLDOVER beyond it, state and time base are as before and REFUSED is set; in
LOCKED, an offset of at most 200 ns of the same master moves no time base; a new master, or the third wide offset in a row, steps as in
FREE within TIME_JUMP, and beyond it enters HOLDOVER with REFUSED set and the time base as before. SYNC_TIMEOUT with TIME on takes
LOCKED to HOLDOVER and posts TIME event 0x0006, and changes nothing in another state. TIME_ACCEPT with REFUSED set in HOLDOVER
completes: with MGMT on the state is LOCKED and the time base moved by the last offset. With REFUSED clear it changes nothing. -/
def Obligations.TimeBaseStates : Prop :=
  ∀ (m : Sync) (s : State), running s = true →
    (syncRuns s = true → (0 : Int) ≤ (s.timeN : Int) + m.offset →
      let r := syncMeasured m s
      let t := r.1
      let steps : Prop := syncState t = 1 ∧ (t.timeN : Int) = s.timeN + m.offset
      let refuses : Prop := syncState t = 2 ∧ t.timeN = s.timeN ∧ getB Fld.timeStatusRefused 0 t = true
      let asks : Prop := m.newMaster = true ∨ (2 ≤ s.time.wide ∧ 200 < m.offset.natAbs)
      exec (.syncMessage m) s = .next (settle (afterStep s.timeN r))
        ∧ t.time.offset = m.offset
        ∧ (syncState s = 0 → steps)
        ∧ (syncState s = 2 → (withinJump m.offset s = true → steps) ∧ (withinJump m.offset s = false → refuses))
        ∧ (syncState s = 1 →
          (m.newMaster = false → m.offset.natAbs ≤ 200 → syncState t = 1 ∧ t.timeN = s.timeN)
          ∧ (asks → (withinJump m.offset s = true → steps) ∧ (withinJump m.offset s = false → refuses))))
    ∧ (timeOn s = true →
      (syncState s = 1 → exec .syncTimeout s = .next (postEvent 5 0x0006 Status.done 0 (setF Fld.timeStatusState 0 2 s)))
      ∧ (syncState s ≠ 1 → exec .syncTimeout s = .next s)
      ∧ (getB Fld.timeStatusRefused 0 s = false → exec .timeAccept s = .next (settle s))
      ∧ (getB Fld.timeStatusRefused 0 s = true → syncState s = 2 → domOn Dom.mgmt s = true → (0 : Int) ≤ (s.timeN : Int) + s.time.offset →
          let r := acceptStep s
          exec .timeAccept s = .next (settle (afterStep s.timeN r)) ∧ syncState r.1 = 1 ∧ (r.1.timeN : Int) = s.timeN + s.time.offset))

/-- Past FW_READY with TIME on. GENERATOR_FIRING of a generator whose time has come completes: its next time is PER later, or none with
period 0, that time is its last, its pins are driven, and its trigger fires; what follows at once (settle) is answered. GENERATOR_ENABLE
of a disabled generator completes: the write is stored, and the first S + k x PER not earlier than the time base scheduled, or event
0x0004 posted for a one-shot that has passed (genEnable). On an enabled generator that stays enabled it stores a write with its present
PERIOD, and one that changes PERIOD with the old PERIOD and CFG_ERR set. GENERATOR_DISABLE of an enabled generator completes: the write
is stored, it has no next time, and its pulses in progress end. TIME_CAP_DATA_READ of an input with records answers the oldest as the
register's word and removes it, and of an empty queue answers 0 and changes nothing else. CAPTURE_EDGE of a selected edge completes: it
is recorded, fires its trigger and its wake source, and what follows at once is answered; an edge not selected changes nothing but what
follows at once. With ETH on QBV_CHANGE completes: the MAC's other list is pending from its BASE on; QBV_LIST_SWITCH of a pending list
completes once that time has come: it is the oper list, and none is pending; sooner nothing changes. -/
def Obligations.GeneratorsCapturesAndGateLists : Prop :=
  (∀ (g : Fin 64) (v : BitVec 64) (s : State), running s = true → timeOn s = true →
      let k := getF Fld.timeCtrlGenSel 0 s
      let old := getR .timeGenCfg k s
      let new := writtenVal .timeGenCfg old (2 ^ 64 - 1) v.toNat
      (∀ t, (genOf g.val s).next = some t → t ≤ s.timeN →
        exec (.generatorFiring g) s = .next (settle (fireTrigger g.val t
          (firePins g.val (setGen g.val ⟨if genPeriod g.val s = 0 then none else some (t + genPeriod g.val s), some t⟩ s)))))
      ∧ (flag v 0 = true → newF Fld.timeGenCfgEnable old ≠ 1 → newF Fld.timeGenCfgEnable new = 1 →
          exec (.generatorEnable v) s = .next (genEnable k (setR .timeGenCfg k new s)))
      ∧ (flag v 0 = true → newF Fld.timeGenCfgEnable old = 1 → newF Fld.timeGenCfgEnable new = 1 →
          (newF Fld.timeGenCfgPeriod new = newF Fld.timeGenCfgPeriod old → exec (.generatorEnable v) s = .next (setR .timeGenCfg k new s))
          ∧ (newF Fld.timeGenCfgPeriod new ≠ newF Fld.timeGenCfgPeriod old → exec (.generatorEnable v) s =
              .next (setB Fld.timeStatusCfgErr 0 true
                (setR .timeGenCfg k (putBits new 32 32 (newF Fld.timeGenCfgPeriod old)) s))))
      ∧ (flag v 0 = false → newF Fld.timeGenCfgEnable old = 1 → newF Fld.timeGenCfgEnable new = 0 →
          exec (.generatorDisable v) s = .next (endPulses (fun p => p.1 == k) (setGen k ⟨none, none⟩ (setR .timeGenCfg k new s)))))
  ∧ (∀ (mac : Fin 4) (input : Fin 8) (rising : Bool) (s : State), running s = true → timeOn s = true →
      let i := getF Fld.timeCtrlCapSel 0 s
      let m := mac.val
      (∀ n r rest, capsOf i s = (n, r) :: rest → exec .timeCapDataRead s = .next
          { s with time := { s.time with caps := mapSet s.time.caps i rest }, tx := s.tx ++ [.barData (natLe 8 (capWord n r))] })
      ∧ (capsOf i s = [] → exec .timeCapDataRead s = .next { s with tx := s.tx ++ [.barData (natLe 8 0)] })
      ∧ (edgeSelected input.val rising s = false → exec (.captureEdge input rising) s = .next (settle s))
      ∧ (edgeSelected input.val rising s = true → exec (.captureEdge input rising) s =
          .next (settle (fireWake (3 + input.val) (fireTrigger (64 + input.val) s.timeN (recordEdge input.val rising s)))))
      ∧ (domOn Dom.eth s = true →
        exec (.qbvChange mac) s =
          .next { s with time := { s.time with qbv := mapSet s.time.qbv m (1 - qbvOper m s, qbvBase m (1 - qbvOper m s) s) } }
        ∧ (∀ l t, mapGet s.time.qbv m = some (l, t) →
          (t ≤ s.timeN → ∃ u, exec (.qbvListSwitch mac) s = .next u ∧ u.time.qbv = mapErase s.time.qbv m
            ∧ u.regs = (setF Fld.timeQbvCtrlOper 0 (putBits (getF Fld.timeQbvCtrlOper 0 s) m 1 l) s).regs)
          ∧ (s.timeN < t → exec (.qbvListSwitch mac) s = .next s))))

/-- Past FW_READY. SENSOR_SAMPLE completes for an entry whose intake runs and that takes the sample's lines (a CSI frame within the frame
limits, or a frame that matches a kind 3 entry): it lands (landSample) with the entry's time for the point its age names, and with the
error flags of CRC, header and time; the entry has then counted one sample, at this clock, and is not silent. SPI_ASSERTION completes
for an entry of kind 4 whose intake runs, once it is due: with no transfer running it lands the bytes taken, at PARAM1's length, with
the time of the assertion, and the next assertion is PARAM0 us later; during a transfer it counts an intake error only. These answer
what follows at once (settle). Where the intake does not run neither changes anything. SENSOR_SILENT completes where the entry has been
silent for SILENT_MS and that is not yet reported: it is marked and FUS event 0x0007 is posted; else nothing changes. -/
def Obligations.SamplesReachTheirBuffers : Prop :=
  ∀ (entry : Fin 32) (age : Nat) (errors : BitVec 3) (lines : List (List Byte)) (bytes : List Byte) (s : State), running s = true →
    let i := entry.val
    let e := sensorEntry i s
    let x := sensorOf i s
    let st := sampleTime e (samplePoint e age s) lines.flatten s
    let next (s : State) : State := adjSensor i (fun x => { x with spiNext := x.spiNext + SE.param0 e * 1000 }) s
    (intakeOn i s = true → sampleTaken e lines = true → ∃ t, exec (.sensorSample entry age errors lines) s = .next (settle t)
      ∧ t = landSample i e st.1 ((errors.toNat &&& 5) + st.2.toNat * 8) lines s
      ∧ (sensorOf i t).count = x.count + 1 ∧ (sensorOf i t).last = s.clock ∧ (sensorOf i t).silent = false)
    ∧ (intakeOn i s = true → SE.kind e = 4 → spiDue i s = true →
        (s.clock < x.spiEnd → exec (.spiAssertion entry bytes) s = .next (settle (incF Fld.fusStats2IntakeErr 0 (next s))))
        ∧ (x.spiEnd ≤ s.clock → ∃ t n, exec (.spiAssertion entry bytes) s = .next (settle t)
          ∧ t = landSample i e (sampleTime e s.timeN [] (next s)).1 0 [fitBytes (SE.param1 e / 256) bytes]
            (adjSensor i (fun x => { x with spiEnd := s.clock + n }) (next s))
          ∧ (sensorOf i t).count = x.count + 1))
    ∧ (intakeOn i s = false → exec (.sensorSample entry age errors lines) s = .next s ∧ exec (.spiAssertion entry bytes) s = .next s)
    ∧ (silentDue i s = true → exec (.sensorSilent entry) s =
        .next (postEvent 6 0x0007 Status.done i (adjSensor i (fun x => { x with silent := true }) s)))
    ∧ (silentDue i s = false → exec (.sensorSilent entry) s = .next s)

/-- Past FW_READY with FUS on. FUSION_CLOSE with no instant ahead, or before its close time, changes nothing; at that time, with a result
still to issue, it sets BEHIND; otherwise it completes by closing that instant (closeInstant): the next instant is the one after it, and
a result is there to issue. FUSION_RESULT with one to issue completes: nothing is left to issue, the result is written (writeResult) and
FUS_STATUS.INSTANT is its instant, the stage of the fusion result ends, and an instant that has been passed is skipped; with none it
changes nothing. POST completes by sending its line into the post window of its die and stream. All these answer what follows at once
(settle). TABLE_ACTIVATION with ENABLE clear completes by making the ready tables active with AUX 0xFFFF_FFFF, and with ENABLE set
changes nothing. FUSION_ENABLE completes: the write is stored, and where it sets ENABLE the instants start at FUS_START, and where it
clears ENABLE they stop. -/
def Obligations.FusionInstants : Prop :=
  ∀ (die : Fin 4) (stream : Fin 256) (index : Fin 1024) (line : BitVec 512) (ecc : ReadEcc) (v : BitVec 32) (s : State),
    running s = true → fusOn s = true →
    (s.fus.next = none → exec (.fusionClose ecc) s = .next (settle s))
    ∧ (∀ k, s.fus.next = some k →
        (s.timeN < closeTime k s → exec (.fusionClose ecc) s = .next (settle s))
        ∧ (closeTime k s ≤ s.timeN → s.fus.issue.isSome = true →
            exec (.fusionClose ecc) s = .next (settle (setB Fld.fusStatusBehind 0 true s)))
        ∧ (closeTime k s ≤ s.timeN → s.fus.issue = none → ∃ t, exec (.fusionClose ecc) s = .next (settle t)
            ∧ t = closeInstant k ecc s ∧ t.fus.next = some (k + 1) ∧ t.fus.issue.isSome = true))
    ∧ (s.fus.issue = none → exec .fusionResult s = .next (settle s))
    ∧ (∀ r, s.fus.issue = some r → exec .fusionResult s = .next (settle (skipBehind r.instant (endSource 1
        (setF Fld.fusStatusInstant 0 r.instant (writeResult r { s with fus := { s.fus with issue := none } }))))))
    ∧ (getB Fld.fusCtrlEnable 0 s = false → exec .tableActivation s = .next (fusActivate 0xFFFFFFFF s))
    ∧ (getB Fld.fusCtrlEnable 0 s = true → exec .tableActivation s = .next s)
    ∧ (let old := getR .fusCtrl 0 s
      let new := writtenVal .fusCtrl old (2 ^ 32 - 1) v.toNat
      let u := setR .fusCtrl 0 new s
      (new % 2 = 1 → old % 2 = 0 → exec (.fusionEnable v) s = .next (startInstants u))
      ∧ (new % 2 = 0 → old % 2 = 1 → exec (.fusionEnable v) s = .next { u with fus := { u.fus with next := none } })
      ∧ (new % 2 = old % 2 → exec (.fusionEnable v) s = .next u))
    ∧ exec (.post die stream index line) s =
        .next (settle (sendLine die.val stream.val (0x590000 + 64 * index.val) (lineBytes line) s))

/-- Past FW_READY with PLAN on; all of it answers what follows at once (settle). PLAN_CYCLE_START with no request waiting, with a cycle in
progress, or with planner tables waiting changes nothing. Otherwise the oldest request leaves the queue, and PLAN_CYCLE_START completes
for one whose record can be read, with lengths as R300 has them, good fields and a table and map that serve it: its cycle begins
(beginCycle), with its map version fixed and its primitives read. PLAN_BUDGET completes once the running cycle has used its budget: that
is marked and BUDGET_OUT counts, once; else nothing changes. PLAN_RESULT of a running cycle completes (planResult): no cycle is then
running; with none it changes nothing, as OCC_INTAKE with no layer waiting does. OCC_INTAKE of a waiting layer completes: with OCC_EN
clear it is dropped; with no free layer it is counted as skipped and PLN event 0x0004 is posted; with layer 0 free its bytes go there
between OCC_CFG's heights, and a new map version names layer 0. MAP_COMMIT completes by sending its line into the map window of its die
and stream. -/
def Obligations.PlannerServesOneCycle : Prop :=
  ∀ (record : ReadData) (ecc : ReadEcc) (die : Fin 4) (stream : Fin 256) (index : Fin 1024) (line : BitVec 512) (s : State),
    running s = true → planOn s = true →
    ((s.plan.queue = [] ∨ s.plan.cycle.isSome = true ∨ planHeld s = true) → exec (.planCycleStart record ecc) s = .next (settle s))
    ∧ (∀ id rest c q, s.plan.queue = id :: rest → s.plan.cycle = none → planHeld s = false → consumedById id s = some c →
        let u := openInput c record { s with plan := { s.plan with queue := rest } }
        inputOf c record u = .ok q → inLen c.desc = 64 + 2 * rdLE q 18 2 → 576 ≤ outLen c.desc → requestFields c.desc q = true →
        requestServes c.desc q u = true →
        exec (.planCycleStart record ecc) s =
          .next (settle (showPlan (beginCycle c q ((classTable u).getD []) ((postureTable u).getD []) ecc u))))
    ∧ (s.plan.cycle = none → exec .planBudget s = .next (settle s) ∧ exec .planResult s = .next (settle s))
    ∧ (∀ y, s.plan.cycle = some y →
        (y.budgetOut = false → y.start + y.budget ≤ s.clock → exec .planBudget s =
          .next (settle (incF Fld.plnStats2BudgetOut 0 { s with plan := { s.plan with cycle := some { y with budgetOut := true } } })))
        ∧ ((y.budgetOut = true ∨ s.clock < y.start + y.budget) → exec .planBudget s = .next (settle s))
        ∧ (∃ t, exec .planResult s = .next (settle t) ∧ t = planResult s ∧ t.plan.cycle = none))
    ∧ (s.plan.intake = none → exec .occIntake s = .next (settle s))
    ∧ (∀ m, s.plan.intake = some m →
        let u := { s with plan := { s.plan with intake := none } }
        (getB Fld.plnCfgOccEn 0 s = false → exec .occIntake s = .next (settle u))
        ∧ (getB Fld.plnCfgOccEn 0 s = true → layerFree 0 u = false → layerFree 1 u = false →
            exec .occIntake s = .next (settle (postEvent 7 0x0004 Status.done 0 (incF Fld.plnStats2OccSkip 0 u))))
        ∧ (getB Fld.plnCfgOccEn 0 s = true → layerFree 0 u = true →
            let lo := sext 16 (getF Fld.plnOccCfgZLo 0 s)
            let l := { m with zLo := lo, zHi := max lo (sext 16 (getF Fld.plnOccCfgZHi 0 s)) }
            let v := store (layerAddr 0) (rdMem s (planAddr 95 0) (m.w * m.h)) u
            exec .occIntake s = .next (settle (newVersion none (some 0)
              { v with plan := { v.plan with layers := mapSet v.plan.layers 0 l } }))))
    ∧ exec (.mapCommit die stream index line) s =
        .next (settle (sendLine die.val stream.val (mapWindow + 64 * index.val) (lineBytes line) s))

/-- Past FW_READY with CLE on; all of it answers what follows at once (settle). SETPOINT_ENTRY completes for a valid entry of the stream
that the channel's source names: SETPOINT and FF stand in that channel's inactive half, marked as written, and its active half is as
before; any other is counted and reported with CLE event 0x0002. SETPOINT_COMMIT completes for the commit that is next, which leaves the
queue: a planner's or a table's commit, and a stream's that has no fault, exchange the halves (exchangeHalves); a host's does and its
descriptor completes as DONE with AUX the new SP_VERSION; a stream's with a fault is refused with its code and detail (refusePolicy). Of
any other commit it changes nothing. SNAPSHOT of a target with one latched completes by writing the oldest (landSnapshot), which is then
no longer due; with none it changes nothing. -/
def Obligations.SetpointsExchangeByCommits : Prop :=
  ∀ (die : Fin 4) (stream : Fin 256) (channel : Fin 64) (entry : BitVec 128) (id : Nat) (target : Fin 4) (s : State),
    running s = true → domOn Dom.cle s = true →
    let c := channel.val
    let st := stream.val
    let e := chanEntry c s
    let ok := CH.src e = 0 ∧ CH.stream e = st ∧ fld entry 64 8 % 2 = 1
    (ok → ∃ t, exec (.setpointEntry die stream channel entry) s = .next (settle t)
        ∧ t = adjChan c (fun ch => { ch with spNew := sext 32 (fld entry 0 32), ffNew := sext 32 (fld entry 32 32), written := true }) s
        ∧ (chanOf c t).sp = (chanOf c s).sp ∧ (chanOf c t).ff = (chanOf c s).ff)
    ∧ (¬ ok → exec (.setpointEntry die stream channel entry) s =
        .next (settle (postEvent 8 0x0002 Status.done (c % 256 + 0 * 256 + st * 65536) (incF Fld.cleStatsDiscard 0 s))))
    ∧ (∀ x, nextCommitOf s = some x →
        let u := dropCommit x.id s
        (x.id ≠ id → exec (.setpointCommit id) s = .next (settle s))
        ∧ (x.id = id →
          (x.kind = .planner ∨ x.kind = .table → exec (.setpointCommit id) s = .next (settle (exchangeHalves x.kind u)))
          ∧ (∀ k d, x.kind = .host k → consumedById k (exchangeHalves x.kind u) = some d → exec (.setpointCommit id) s =
              .next (settle (done d (getF Fld.cleStatusSpVersion 0 (exchangeHalves x.kind u)) (exchangeHalves x.kind u))))
          ∧ (∀ d n item, x.kind = .policy d n item →
            (commitFaultOf (.policy d n item) n item u = none → exec (.setpointCommit id) s = .next (settle (exchangeHalves x.kind u)))
            ∧ (∀ code det, commitFaultOf (.policy d n item) n item u = some (code, det) →
              exec (.setpointCommit id) s = .next (settle (refusePolicy (.policy d n item) n item code det u))))))
    ∧ (nextCommitOf s = none → exec (.setpointCommit id) s = .next (settle s))
    ∧ (s.cle.snapDue.find? (fun p => p.1 == target.val) = none → exec (.snapshot target) s = .next (settle s))
    ∧ (∀ p, s.cle.snapDue.find? (fun p => p.1 == target.val) = some p → exec (.snapshot target) s =
        .next (settle (landSnapshot target.val p.2 { s with cle := { s.cle with snapDue := s.cle.snapDue.erase p } })))

/-- Past FW_READY. With the CLE running and the drive's receiver on: a FEEDBACK frame that cannot be read is counted on a joint port and
changes nothing else; one for another SEQ, a second one, or one outside the drive's cycle changes nothing; the first one of the cycle
completes: where it says offline that is noted; otherwise it is taken in (feedbackIn), the drive has then answered, and its new records
and histories are kept. An IDENT that cannot be read is counted likewise; one that does not answer the last PROBE changes nothing; one
that does, with the entry's AXES, completes: the drive is JOINED, with its turnaround time and identity noted and JP event 0x0002
posted, and its identity is compared for prognostics. DEADLINE_MISS of a channel past its deadline completes: nothing is due of it, MISS
is set (with CLE event 0x0001 where it was clear), MISS_COUNT counts, and the drive's command is sent where it waits for nothing more;
before the deadline nothing changes. REENABLE with CLE and JPORT on completes: the write is stored, and the JOINED drive that it names
may RUN at the next exchange. -/
def Obligations.DrivesAnswerInTheirCycle : Prop :=
  ∀ (drive : Fin 64) (channel : Fin 64) (frame : List Byte) (v : BitVec 32) (s : State), running s = true →
    let d := drive.val
    let c := channel.val
    let e := driveEntry d s
    (receives d s = true →
      (readFeedback e frame = none → exec (.feedback drive frame) s = .next (badFrame e s))
      ∧ (∀ f, readFeedback e frame = some f →
        (((driveOf d s).inCycle = false ∨ (driveOf d s).answered = true ∨ f.seq ≠ (driveOf d s).seq ∨ driveState d s < 2) →
          exec (.feedback drive frame) s = .next s)
        ∧ ((driveOf d s).inCycle = true → (driveOf d s).answered = false → f.seq = (driveOf d s).seq → 2 ≤ driveState d s →
          (bitsAt f.status 1 1 = 1 → exec (.feedback drive frame) s = .next (adjDrive d (fun x => { x with offline := true }) s))
          ∧ (bitsAt f.status 1 1 = 0 → ∃ t, t = feedbackIn d f s ∧ (driveOf d t).answered = true ∧ exec (.feedback drive frame) s =
              .next (takeRecords d ((List.range 8).map fun a => telOf d a s) (recordKin (chansOf d t) t)))))
      ∧ (readIdent e frame = none → exec (.ident drive frame) s = .next (badFrame e s))
      ∧ (∀ seq axes turn id, readIdent e frame = some (seq, axes, turn, id) →
        ((driveState d s ≠ 1 ∨ seq ≠ (driveOf d s).seq ∨ (driveOf d s).probed = false) → exec (.ident drive frame) s = .next s)
        ∧ (driveState d s = 1 → seq = (driveOf d s).seq → (driveOf d s).probed = true → axes = DE.axes e →
            exec (.ident drive frame) s = .next (checkIdentity d (postEvent 9 0x0002 Status.done (d + turn * 65536)
              (adjDrive d (fun x => { x with inCycle := false }) (setF Fld.jpDriveStatusState d 2
                (adjDrive d (fun x => { x with turnNs := turn, driveId := some (BitVec.ofNat 32 id) }) (keepPolarity d s)))))))))
    ∧ (cleRuns s = true → pastDeadline c s = true → ∃ t, exec (.deadlineMiss channel) s = .next (settleDrive (CH.drive (chanEntry c s)) t)
        ∧ t = missChan c s ∧ (chanOf c t).due = none ∧ getB Fld.cleChStatusMiss c t = true)
    ∧ (cleRuns s = true → pastDeadline c s = false → exec (.deadlineMiss channel) s = .next s)
    ∧ (domOn Dom.cle s = true → domOn Dom.jport s = true → flag v 16 = true →
        let u := setR .jpCtrl 0 (writtenVal .jpCtrl (getR .jpCtrl 0 s) (2 ^ 32 - 1) v.toNat) s
        let k := getF Fld.jpCtrlDrive 0 u
        exec (.reenable v) s = .next (if driveState k u = 2 then adjDrive k (fun x => { x with reenable := true }) u else u))

/-- Past FW_READY. HUSK_ENTER with CLE on, not in Husk and not halted completes as a host's entry into Husk (enterHusk): CLE_STATUS.HUSK is
set, and it is not to be left; with CLE not on, in Husk, or halted it changes nothing. HUSK_EXIT in Husk with CLE on completes: Husk is
to be left at the next exchange, and nothing else changes; outside Husk it changes nothing. CLE_FAULT with cause 1 or 2, with CLE on and
not halted, completes: FAULT and its cause are set and the safety outputs are not armed, with DROP_CAUSE 2; on a halted engine it
changes nothing. POLARITY_CORRECTED on a port with a rate, with JPORT on, completes: RX_INV is inverted and JP event 0x0003 posted with
AUX the port. -/
def Obligations.HuskAndHalt : Prop :=
  ∀ (cause : Fin 4) (port : Fin 24) (s : State), running s = true →
    ((inHusk s = true ∨ cleHalted s = true ∨ domOn Dom.cle s = false) → exec .huskEnter s = .next s)
    ∧ (inHusk s = false → cleHalted s = false → domOn Dom.cle s = true → ∃ t, exec .huskEnter s = .next t
        ∧ t = enterHusk 1 s ∧ getB Fld.cleStatusHusk 0 t = true ∧ t.cle.leaving = false)
    ∧ (domOn Dom.cle s = true → inHusk s = true → exec .huskExit s = .next { s with cle := { s.cle with leaving := true } })
    ∧ (inHusk s = false → exec .huskExit s = .next s)
    ∧ (domOn Dom.cle s = true → (cause = 1 ∨ cause = 2) → cleHalted s = false →
        ∃ t, exec (.cleFault cause) s = .next t ∧ cleHalted t = true ∧ getF Fld.cleStatusFaultCause 0 t = cause.val
          ∧ t.safe.armed = false ∧ getF Fld.safeStatusDropCause 0 t = 2)
    ∧ (cleHalted s = true → exec (.cleFault cause) s = .next s)
    ∧ (domOn Dom.jport s = true → bitNs port.val s ≠ 0 → exec (.polarityCorrected port) s =
        .next (postEvent 9 0x0003 Status.done port.val (setB Fld.jpPortRxInv port.val (!(getB Fld.jpPortRxInv port.val s)) s)))

/-- Past FW_READY. LINE_CLASSIFY of a port with a rate, with JPORT on, completes and answers what follows at once (settle): on a port with
no drive in RUN the flags of bits 0 to 3 are then those classified; with JPORT not on it changes nothing. TX_SHORT_RETEST completes 10
ms after the switch-off: it clears TX_SHORT and the switch-off, or notes this clock as a new one. ETHERNET_LINK_CHANGE of a MAC in use,
with ETH on, completes: its LINK bit is the one given. SENSOR_OUTPUT_TRIP and BACKFEED of an output that is on complete and answer what
follows at once: it is off, with SHORT or BACKFEED set; SENSOR_OUTPUT_OPEN of one completes: OPEN is set. Of an output that is off each
changes nothing. SENSOR_OUTPUT_RETRY completes 100 ms after the trip: where the asked current fits with the others the output is on with
it, else REFUSED is set; sooner nothing changes. PWR_SPWR_CFG_WRITE completes: the write is stored and applied output by output
(applySpwr). -/
def Obligations.PortsAndSensorOutputs : Prop :=
  ∀ (port : Fin 24) (flags : BitVec 5) (shorted up : Bool) (mac : Fin 4) (output : Fin 8) (value : BitVec 64) (s : State), running s = true →
    let p := port.val
    let m := output.val
    (domOn Dom.jport s = true → getF Fld.jpPortRate p s ≠ 0 → ∃ t, exec (.lineClassify port flags) s = .next (settle t)
        ∧ t = classify p flags.toNat s ∧ (portRuns p s = false → ∀ i, i < 4 → bitsAt (lineFlags p t) i 1 = bitsAt flags.toNat i 1))
    ∧ (domOn Dom.jport s = false → exec (.lineClassify port flags) s = .next s ∧ exec (.txShortRetest port shorted) s = .next s)
    ∧ (∀ t, domOn Dom.jport s = true → mapGet s.elec.txOff p = some t → t + 10000000 ≤ s.clock →
        exec (.txShortRetest port false) s =
          .next (setB Fld.jpLineTxShort p false { s with elec := { s.elec with txOff := mapErase s.elec.txOff p } })
        ∧ exec (.txShortRetest port true) s = .next { s with elec := { s.elec with txOff := mapSet s.elec.txOff p s.clock } })
    ∧ (domOn Dom.eth s = true → macMode mac.val s ≠ 0 → exec (.ethernetLinkChange mac up) s =
        .next (setR .jpEthCfg 0 (putBits (getR .jpEthCfg 0 s) (8 * mac.val + 4) 1 up.toNat) s))
    ∧ (SP.on m s = true →
        (∃ t, exec (.sensorOutputTrip output) s = .next (settle t) ∧ t = afterTrip m false s ∧ SP.on m t = false
          ∧ SP.flag' Fld.pwrSpwrStatusShort m t = true)
        ∧ (∃ t, exec (.backfeed output) s = .next (settle t) ∧ t = afterTrip m true s ∧ SP.on m t = false
          ∧ SP.flag' Fld.pwrSpwrStatusBackfeed m t = true)
        ∧ exec (.sensorOutputOpen output) s = .next (SP.put Fld.pwrSpwrStatusOpen m true s))
    ∧ (SP.on m s = false → exec (.sensorOutputTrip output) s = .next s ∧ exec (.backfeed output) s = .next s
        ∧ exec (.sensorOutputOpen output) s = .next s)
    ∧ (retryDue m s = true →
        let u := adjSpwr m (fun x => { x with retried := some s.clock }) s
        (ilimFits m (SP.ilimAsked m s) u = true → exec (.sensorOutputRetry output) s = .next (SP.put Fld.pwrSpwrStatusOn m true
          (adjSpwr m (fun x => { x with ilim := SP.ilimAsked m s, offFrom := none }) u)))
        ∧ (ilimFits m (SP.ilimAsked m s) u = false → exec (.sensorOutputRetry output) s = .next (SP.put Fld.pwrSpwrStatusRefused m true
          (adjSpwr m (fun x => { x with offFrom := none }) u))))
    ∧ (retryDue m s = false → exec (.sensorOutputRetry output) s = .next s)
    ∧ exec (.pwrSpwrCfgWrite value) s = .next (forEach (List.range 8) (applySpwr fun k => SP.ilimAsked k s)
        (setR .pwrSpwrCfg 0 (writtenVal .pwrSpwrCfg (getR .pwrSpwrCfg 0 s) (2 ^ 64 - 1) value.toNat) s))

/-- Past FW_READY with PROG on. HEALTH_PASS completes once HEALTH_S has passed since the last: the health records are written (healthPass),
its time is noted and the generation counts; sooner nothing changes. HOURLY_HISTORY completes once an hour of on-time has passed: every
axis takes its hour's entry (hourAxis); sooner nothing changes. PROGNOSTICS_SAVE completes once a quarter hour of on-time has passed: a
good save keeps the axes and the on-time, a failed one sets FLASH_ERR and posts HLT event 0x0009. FEED_BATCH completes with a feed
configured, not stopped and due: one batch is sent (feedBatch); with no feed nothing changes. AXIS_RESET, AXIS_KEEP and REPLAN (HLT_CTRL
writes of that bit alone) complete: the write is stored, and the selected axis starts anew under the identity last seen, or keeps its
history under that identity, or, with MGMT on, every pair is re-planned. REPLAN_PERIOD with MGMT on completes 24 hours of on-time after
the last re-plan: every pair is re-planned. From FEED_BATCH on, what completes answers what follows at once (settle). With PROG not on,
all of these change nothing. -/
def Obligations.HealthAndMargins : Prop :=
  ∀ (ok : Bool) (ecc : ReadEcc) (v : BitVec 32) (s : State), running s = true →
    (progOn s = true →
      let u := setR .hltCtrl 0 (writtenVal .hltCtrl (getR .hltCtrl 0 s) 0xFFFFFFFF v.toNat) s
      let a := getF Fld.hltCtrlAxisSel 0 u
      let now := s.prog.onNs
      (s.prog.lastPass + healthNs s ≤ s.clock → ∃ t, exec (.healthPass ecc) s = .next t ∧ t = healthPass ecc s ∧ t.prog.lastPass = s.clock)
      ∧ (s.clock < s.prog.lastPass + healthNs s → exec (.healthPass ecc) s = .next s)
      ∧ (now < s.prog.lastHour + hourNs → exec .hourlyHistory s = .next s)
      ∧ (s.prog.lastHour + hourNs ≤ now → exec .hourlyHistory s = .next (forEach (List.range 64)
          (fun a s => adjAxis a (hourAxis now) s) { s with prog := { s.prog with lastHour := now } }))
      ∧ (s.prog.lastSave + hourNs / 4 ≤ now →
          exec (.prognosticsSave true) s = .next { s with prog := { s.prog with lastSave := now, saved := s.prog.axes, savedNs := now } }
          ∧ exec (.prognosticsSave false) s = .next (postEvent 10 0x0009 Status.done 0
              (setB Fld.hltStatusFlashErr 0 true { s with prog := { s.prog with lastSave := now } })))
      ∧ (feedOn s = true → s.prog.lastFeed + feedNs s ≤ s.clock → exec .feedBatch s = .next (settle (feedBatch s)))
      ∧ (feedOn s = false → exec .feedBatch s = .next s)
      ∧ (flag v 2 = true → flag v 3 = false → flag v 1 = false → exec (.axisReset v) s = .next (settle
          (adjAxis a (fun x => { axis0 with driveId := x.newId.getD x.driveId, startNs := now }) u)))
      ∧ (flag v 3 = true → flag v 2 = false → flag v 1 = false → exec (.axisKeep v) s = .next (settle
          (adjAxis a (fun x => { x with driveId := x.newId.getD x.driveId, newId := none }) u)))
      ∧ (flag v 1 = true → flag v 2 = false → flag v 3 = false → domOn Dom.mgmt s = true → exec (.replan v) s = .next (settle
          (replanAll (List.range 5) { u with prog := { u.prog with lastReplan := now } })))
      ∧ (domOn Dom.mgmt s = true → s.prog.lastReplan + 24 * hourNs ≤ now → exec .replanPeriod s = .next (settle
          (replanAll (List.range 5) { s with prog := { s.prog with lastReplan := now } }))))
    ∧ (progOn s = false → ∀ i ∈ [Instr.healthPass ecc, .hourlyHistory, .prognosticsSave ok, .feedBatch, .axisReset v, .axisKeep v, .replan v,
        .replanPeriod], exec i s = .next s)

/-- Past FW_READY; what completes answers what follows at once (settle). WAKE_SOURCE of an enabled source but 2 completes: its SEEN bit is
set and, with no transition running, a wake starts (startWake), else REPLAY is set; of one not enabled nothing changes. ALARM, and
WAKE_SOURCE 2, complete once the compare value has come, and once only: the alarm is marked and source 2 fires as above; sooner nothing
changes. WAKE_REPLAY with REPLAY set and no transition running completes: REPLAY clears and the wake starts; with REPLAY clear nothing
changes. DOMAIN_TRANSITION_DONE of a domain that is moving completes: reached, or going off, the domain is in its target (arriveDomain);
not reached, the move misses (missDomain); and the transition goes on. AVS_RESPONSE of a rail with a request completes: the rail is at
the level asked for with no request, and what waited for it goes on. AVS_TIMEOUT, 200 us after a request or later, completes: the first
two times the request is sent again and RESENDS counts, and then the rail fails (failRail) and the transition goes on. PLL_LOCK_TIMEOUT
while a transition runs completes: the moves to on that the PLL feeds miss. With no such move, request or transition, or sooner, each
changes nothing. -/
def Obligations.WakesRailsAndDomains : Prop :=
  ∀ (source : Fin 11) (domain : Fin 64) (rail : Fin 5) (pll : Nat) (reached : Bool) (s : State), running s = true →
    let k := source.val
    let fires (k : Nat) (c : Instr) (s0 : State) : Prop :=
      let seen := setF Fld.pwrWakeStatusSeen 0 (putBits (getF Fld.pwrWakeStatusSeen 0 s0) k 1 1) s0
      (bitsAt (getF Fld.pwrWakeCfgSrc 0 s0) k 1 = 0 → exec c s = .next (settle s0))
      ∧ (bitsAt (getF Fld.pwrWakeCfgSrc 0 s0) k 1 = 1 → s.power.trans.isSome = true →
          exec c s = .next (settle (setB Fld.pwrWakeStatusReplay 0 true seen)))
      ∧ (bitsAt (getF Fld.pwrWakeCfgSrc 0 s0) k 1 = 1 → s.power.trans = none → exec c s = .next (settle (startWake seen)))
    let alarmed : State := { s with power := { s.power with alarmed := true } }
    (k ≠ 2 → fires k (.wakeSource source) s)
    ∧ (alarmDue s = true → fires 2 .alarm alarmed ∧ (k = 2 → fires 2 (.wakeSource source) alarmed))
    ∧ (alarmDue s = false → exec .alarm s = .next s ∧ (k = 2 → exec (.wakeSource source) s = .next s))
    ∧ (s.power.trans = none → getB Fld.pwrWakeStatusReplay 0 s = true →
        exec .wakeReplay s = .next (settle (startWake (setB Fld.pwrWakeStatusReplay 0 false s))))
    ∧ (getB Fld.pwrWakeStatusReplay 0 s = false → exec .wakeReplay s = .next s)
    ∧ (s.power.trans = none → exec (.domainTransitionDone domain reached) s = .next (settle s)
        ∧ exec (.pllLockTimeout pll) s = .next (settle s))
    ∧ (∀ t, s.power.trans = some t →
        (∀ target former temp, t.moving.find? (fun m => m.1 == domain.val + 1) = some (domain.val + 1, target, former, temp) →
          ((reached || target == .off) = true →
            exec (.domainTransitionDone domain reached) s = .next (settle (advance (arriveDomain (domain.val + 1) target former temp s))))
          ∧ ((reached || target == .off) = false →
            exec (.domainTransitionDone domain reached) s = .next (settle (advance (missDomain (domain.val + 1) former temp s)))))
        ∧ exec (.pllLockTimeout pll) s = .next (settle (advance
          (forEach (t.moving.filter fun m => m.2.1 == .on && (pllFeeds pll).contains m.1) (fun m s => missDomain m.1 m.2.2.1 m.2.2.2 s) s))))
    ∧ ((railOf rail.val s).request = none → exec (.avsResponse rail) s = .next (settle s) ∧ exec (.avsTimeout rail) s = .next (settle s))
    ∧ (∀ v n t, (railOf rail.val s).request = some (v, n, t) →
        (rail = 4 → exec (.avsResponse rail) s = .next (settle (settleRails (advance
          (setLim { s.lim with raising := s.lim.raising.filter fun k => k != 4 } (setRail 4 ⟨v, none⟩ s))))))
        ∧ (rail.val < 4 → exec (.avsResponse rail) s = .next (settle (settleRails (advance (riseDie rail.val (setRail rail.val ⟨v, none⟩ s))))))
        ∧ (s.clock < t + 200000 → exec (.avsTimeout rail) s = .next (settle s))
        ∧ (t + 200000 ≤ s.clock → n < 3 → exec (.avsTimeout rail) s = .next (settle (incF Fld.pwrAvsStatusResends 0
            (emit (.avsRequest rail.val v) (setRail rail.val { railOf rail.val s with request := some (v, n + 1, s.clock + 50000) } s)))))
        ∧ (t + 200000 ≤ s.clock → 3 ≤ n → exec (.avsTimeout rail) s = .next (settle (settleRails (advance (failRail rail.val s))))))

/-- Past FW_READY; what completes answers what follows at once (settle). With MGMT on, outside recovery, LIMITER_DECISION completes: one
decision of the limiter is made from its reading (decision); BATTERY_LOW that changes BATT_LOW completes: it is set, the cap in effect
is shown, and LIM event 0x0005 is posted with AUX 1 for low and 0 for recovered; one that does not change it changes nothing. With MGMT
not on, or in recovery, neither changes anything. DROOP of a die that is on completes: the stretch begins at this clock, and one that
runs goes on as it is; of another die nothing changes. SUPPLY_RECOVERED after 64 cycles at least of a stretch completes: the stretch is
over, and its time is added; sooner, or with none, nothing changes. THERMAL_SAMPLE completes: the temperatures are shown, and hot dies
and a hot hub are acted on (thermalSample). -/
def Obligations.LimiterFollowsReadingsAndDroops : Prop :=
  ∀ (r : PowerReading) (below : Bool) (die : Fin 4) (temps : List Int) (s : State), running s = true →
    let n := die.val
    (domOn Dom.mgmt s = true → s.upd.recovery = false → exec (.limiterDecision r) s = .next (settle (decision r s))
      ∧ (getB Fld.limBattLow 0 s = below → exec (.batteryLow below) s = .next (settle s))
      ∧ (getB Fld.limBattLow 0 s ≠ below → exec (.batteryLow below) s =
          .next (settle (postEvent 12 0x0005 Status.done (if below then 1 else 0) (showCap (setB Fld.limBattLow 0 below s))))))
    ∧ (domOn Dom.mgmt s = false ∨ s.upd.recovery = true →
        exec (.limiterDecision r) s = .next s ∧ exec (.batteryLow below) s = .next s)
    ∧ (dieOn n s = true → (dieLim n s).stretchFrom = none → ∃ t, exec (.droop die) s = .next (settle t)
        ∧ t = adjDieLim n (fun x => { x with stretchFrom := some s.clock }) (accrue n s))
    ∧ (dieOn n s = true → (dieLim n s).stretchFrom.isSome = true → exec (.droop die) s = .next (settle s))
    ∧ (dieOn n s = false → exec (.droop die) s = .next s)
    ∧ (∀ f, (dieLim n s).stretchFrom = some f → 128000 ≤ (s.clock - f) * opMhz (opOf n s) → exec (.supplyRecovered die) s = .next (settle
        (adjDieLim n (fun x => { x with stretchFrom := none, stretchNs := x.stretchNs + (s.clock - x.stretchFrom.getD s.clock) }) (accrue n s))))
    ∧ (stretchDone n s = false → exec (.supplyRecovered die) s = .next s)
    ∧ exec (.thermalSample temps) s = .next (settle (thermalSample temps s))

/-- Past FW_READY with SAFE on. ARM where no drop cause holds completes: the outputs are armed, DROP_CAUSE is 0, and both pins are driven
high, A first; while one holds it changes nothing. DROP completes: the outputs are not armed and DROP_CAUSE is 3; DISCREPANCY does so
with DROP_CAUSE 4; where they were armed both pins are driven low. TEST_PULSE with TEST_EN and armed outputs completes: A, then B, is
pulsed low; a pulse that does not read back low drops both with DROP_CAUSE 4. STAGE_LATE of a stage whose window has been open for its
time completes: its running chunk is marked late, its fault 3 counts, its ring notes it (lateStage); STAGE_MISS of one whose next miss
has come: its fault 4 counts and its ring notes it (missStage); of a stage not due they change nothing. RESTART_COMPLETE of a job that
restarts completes once no stream of it owes or runs a dummy frame: the job is in service again (restartComplete); sooner, and on an
empty slot, it changes nothing. The last three answer what follows at once (settle). -/
def Obligations.SafetyOutputs : Prop :=
  ∀ (b readA readB : Bool) (stage : Fin 64) (job : Fin 32) (s : State), running s = true → domOn Dom.safe s = true →
    (dropHolds s = true → exec .arm s = .next s)
    ∧ (dropHolds s = false → ∃ t rest, exec .arm s = .next t ∧ t.safe.armed = true ∧ getF Fld.safeStatusDropCause 0 t = 0
        ∧ t.tx = s.tx ++ [.pin 16 true, .pin 17 true] ++ rest)
    ∧ (∃ t, exec .drop s = .next t ∧ t.safe.armed = false ∧ getF Fld.safeStatusDropCause 0 t = 3
        ∧ (s.safe.armed = true → ∃ rest, t.tx = s.tx ++ [.pin 16 false, .pin 17 false] ++ rest))
    ∧ (∃ t, exec (.discrepancy b) s = .next t ∧ t.safe.armed = false ∧ getF Fld.safeStatusDropCause 0 t = 4
        ∧ (s.safe.armed = true → ∃ rest, t.tx = s.tx ++ [.pin 16 false, .pin 17 false] ++ rest))
    ∧ (getB Fld.safeCtrlTestEn 0 s = true → s.safe.armed = true →
        exec (.testPulse false false) s = .next { s with tx := s.tx ++ [.pin 16 false, .pin 16 true, .pin 17 false, .pin 17 true] }
        ∧ ((readA || readB) = true → ∃ t, exec (.testPulse readA readB) s = .next t ∧ t.safe.armed = false
            ∧ getF Fld.safeStatusDropCause 0 t = 4))
    ∧ (lateDue stage.val s = false → exec (.stageLate stage) s = .next s)
    ∧ (lateDue stage.val s = true → exec (.stageLate stage) s = .next (settle (lateStage stage.val (lateChunk stage.val s))))
    ∧ (missDue stage.val s = false → exec (.stageMiss stage) s = .next s)
    ∧ (missDue stage.val s = true → exec (.stageMiss stage) s = .next (settle (missStage stage.val s)))
    ∧ (jobOf job.val s = none → exec (.restartComplete job) s = .next (settle s))
    ∧ (∀ j ids, jobOf job.val s = some j → j.phase = .restarting ids →
        ((jobStreams job.val s).any (fun p => p.2.dummy.owed || p.2.dummy.started) = true → exec (.restartComplete job) s = .next (settle s))
        ∧ ((jobStreams job.val s).any (fun p => p.2.dummy.owed || p.2.dummy.started) = false →
            ∃ t, exec (.restartComplete job) s = .next (settle t) ∧ t = restartComplete job.val s ∧ phaseOf job.val t = some .resident))

/-- While SEC runs the command of that code; all of it answers what follows at once (settle). GET_IDENTITY completes: SERIAL and the
identity key stand in the response, with RESULT OK. CLAIM, ADD_OWNER_KEY, REVOKE_OWNER_KEY, SET_OWNER_CFG and RETURN complete, and none
then runs. With the lifecycle, the form, the signature and, last, the fuses good, CLAIM leaves DEPLOYED with the key's hash in slot 0
and the secret that was sent, ADD_OWNER_KEY the hash in its empty slot 1 to 3, REVOKE_OWNER_KEY the bit of its slot, SET_OWNER_CFG its
bits set, each with RESULT OK; and RETURN with no job resident leaves lifecycle RETURN in a module that starts. Otherwise the lifecycle,
the owner hashes, OWNER_REVOKE and OWNER_CFG are as before, and RESULT is not OK. Outside its lifecycle (PROVISIONED for CLAIM, DEPLOYED
for the others) each ends with RESULT STATE and changes nothing else; RETURN there also notes the level of HOST_SEL. Whether signatures,
tags and fuses are good are opaque functions and draws of the model; the order of the checks is its choice (log 64). -/
def Obligations.OwnerCommands : Prop :=
  ∀ (sel : Bool) (s : State), running s = true → domOn Dom.sec s = true →
    let ends (r : Nat) (s : State) : State := setF Fld.secCmdResult 0 r { s with sec := { s.sec with cmd := none } }
    let pinned : State := { s with power := { s.power with hostSel := sel } }
    let slot := rdLE (request 0 1 s) 0 1
    let fuse := Config.fuseOk s.freeCtr
    let pub := request 0 97 s
    let secret := claimSecret (request 97 97 s) (request 194 32 s) (request 226 16 s)
    let c := request 242 200 s
    let claimGood := s.sec.lifecycle == 1 && TR.ok c && TR.slot c == 0 && TR.pub c == pub
      && Config.ecdsaOk pub (cmdDigest 0x02 (request 0 242 s)) (TR.sig c) && secret.isSome && fuse
    let addGood := s.sec.lifecycle == 2 && (mapGet s.sec.ownerHash slot).isNone && decide (1 ≤ slot) && decide (slot ≤ 3)
      && TR.ok (request 98 200 s) && ownerSigned 0x03 (request 0 98 s) (request 98 200 s) s && fuse
    let one := request 1 200 s
    let revokeGood := s.sec.lifecycle == 2 && !(lastSlot slot s) && decide (slot ≤ 3) && TR.ok one && TR.slot one != slot
      && ownerSigned 0x04 (request 0 1 s) one s && fuse
    let setGood := s.sec.lifecycle == 2 && decide (slot < 4) && TR.ok one && ownerSigned 0x05 (request 0 1 s) one s && fuse
    let returnGood := s.sec.lifecycle == 2 && s.jobs.isEmpty && TR.ok (request 0 200 s) && ownerSigned 0x06 [] (request 0 200 s) s && fuse
    let kept (t : State) : Prop := t.sec.lifecycle = s.sec.lifecycle ∧ t.sec.ownerHash = s.sec.ownerHash ∧ t.sec.ownerRevoke = s.sec.ownerRevoke
      ∧ t.sec.ownerCfg = s.sec.ownerCfg ∧ getF Fld.secCmdResult 0 t ≠ 0
    let result (i : Instr) (good : Bool) (effect : State → Prop) : Prop := ∃ t, exec i s = .next (settle t) ∧ t.sec.cmd = none
      ∧ (good = true → effect t) ∧ (good = false → kept t)
    let ok (t : State) : Prop := getF Fld.secCmdResult 0 t = 0
    (s.sec.cmd = some 0x01 → exec .getIdentity s =
        .next (settle (ends 0 { s with mem := memWrite s.mem (mailboxBase + 0x200) (serialBytes ++ fitBytes 97 Config.identityKey) })))
    ∧ (s.sec.cmd = some 0x02 → result .claim claimGood (fun t => ok t ∧ t.sec.lifecycle = 2
          ∧ t.sec.ownerHash = mapSet s.sec.ownerHash 0 (Config.sha384 pub) ∧ t.sec.ownerSecret = fitBytes 32 (secret.getD []))
        ∧ (s.sec.lifecycle ≠ 1 → exec .claim s = .next (settle (ends 1 s))))
    ∧ (s.sec.cmd = some 0x03 → result .addOwnerKey addGood
          (fun t => ok t ∧ t.sec.ownerHash = mapSet s.sec.ownerHash slot (Config.sha384 (request 1 97 s)))
        ∧ (s.sec.lifecycle ≠ 2 → exec .addOwnerKey s = .next (settle (ends 1 s))))
    ∧ (s.sec.cmd = some 0x04 → result .revokeOwnerKey revokeGood (fun t => ok t ∧ bitsAt t.sec.ownerRevoke slot 1 = 1)
        ∧ (s.sec.lifecycle ≠ 2 → exec .revokeOwnerKey s = .next (settle (ends 1 s))))
    ∧ (s.sec.cmd = some 0x05 → result .setOwnerCfg setGood (fun t => ok t ∧ t.sec.ownerCfg = s.sec.ownerCfg ||| slot)
        ∧ (s.sec.lifecycle ≠ 2 → exec .setOwnerCfg s = .next (settle (ends 1 s))))
    ∧ (s.sec.cmd = some 0x06 → result (.returnLifecycle sel) returnGood (fun t => t.sec.lifecycle = 3 ∧ t.phase = .starting)
        ∧ (s.sec.lifecycle ≠ 2 → exec (.returnLifecycle sel) s = .next (settle (ends 1 pinned))))

/-- While SEC runs the command; all of it answers what follows at once (settle). DEBUG_CHALLENGE outside DEPLOYED and RETURN ends with
STATE, under lockout with LOCKOUT, else it completes: a nonce of 16 bytes stands with this clock. A DEBUG_RESPONSE with a level, scope
or duration out of range ends with FORMAT; with a level that the lifecycle does not permit, or a session open, with STATE.
DEBUG_RESPONSE of a permitted level completes with no session open, DBG on, and, for level 2, a well-formed trailer: the nonce is used
up; a proved right opens the session that it names, with the failures cleared; a failed one opens none and counts, and the third in a
row locks debug out. DEBUG_CLOSE, and with DBG on DBG_CTRL.CLOSE, complete: no session is open. DEBUG_EXPIRY of a session whose time has
come completes so too, and else changes nothing. STATE for a response while a session is open is the model's reading (see the log). -/
def Obligations.DebugSessionsOpenAndClose : Prop :=
  ∀ s : State, running s = true →
    let f := request 0 4 s
    let level := rdLE f 0 1
    let scope := rdLE f 1 1
    let mins := rdLE f 2 2
    let bad := level = 0 ∨ 2 < level ∨ 32 ≤ scope ∨ mins = 0 ∨ 1440 < mins
    let ends (r : Nat) : State := setF Fld.secCmdResult 0 r { s with sec := { s.sec with cmd := none } }
    (domOn Dom.sec s = true →
      (s.sec.cmd = some 0x10 →
        (s.sec.lifecycle ≠ 2 → s.sec.lifecycle ≠ 3 → exec .debugChallenge s = .next (settle (ends 1)))
        ∧ (s.sec.lifecycle = 2 ∨ s.sec.lifecycle = 3 → s.sec.locked = true → exec .debugChallenge s = .next (settle (ends 4)))
        ∧ (s.sec.lifecycle = 2 ∨ s.sec.lifecycle = 3 → s.sec.locked = false →
            ∃ t n, exec .debugChallenge s = .next (settle t) ∧ t.sec.nonce = some (n, s.clock) ∧ n.length = 16))
      ∧ (s.sec.cmd = some 0x11 →
        (bad → exec .debugResponse s = .next (settle (ends 3)))
        ∧ (¬ bad → (levelPermitted level s = false ∨ s.sec.session.isSome = true) → exec .debugResponse s = .next (settle (ends 1)))
        ∧ (¬ bad → levelPermitted level s = true → s.sec.session = none → domOn Dom.dbg s = true → (level = 2 → TR.ok (request 4 200 s) = true) →
            ∃ t, exec .debugResponse s = .next (settle t) ∧ t.sec.nonce = none
              ∧ (responseOk level s = true → t.sec.fails = 0 ∧
                  t.sec.session = some { level := level, scope := scope, expiry := s.clock + mins * 60000000000 })
              ∧ (responseOk level s = false → t.sec.session = none ∧ t.sec.fails = min 3 (s.sec.fails + 1)
                  ∧ (2 ≤ s.sec.fails → t.sec.locked = true))))
      ∧ (s.sec.cmd = some 0x12 → ∃ t, exec .debugClose s = .next (settle t) ∧ t.sec.session = none))
    ∧ (domOn Dom.dbg s = true → ∃ t, exec .debugCtrlClose s = .next (settle t) ∧ t.sec.session = none)
    ∧ (sessionOver s = true → ∃ t, exec .debugExpiry s = .next (settle t) ∧ t.sec.session = none)
    ∧ (sessionOver s = false → exec .debugExpiry s = .next s)

/-- On a powered module each completes. IDCODE shifts out ID_IDCODE, DOMAINS the 16 bytes of PWR_STATE, BYPASS the bit shifted in; each
deselects EXTEST. With SEC and DBG on: SAMPLE with BSCAN scope shifts out the pins; EXTEST with it, no job resident and EXTEST not
selected selects it and drops the safety outputs; without that scope both only set DBG_STATUS.DENIED, and SAMPLE deselects EXTEST. A
MAILBOX scan of 12 bytes, and an XACT of 12 bytes, each shift out the previous result as 12 bytes before what taking the request sends;
the new result is that of the request taken (answer), at the mailbox only or at every address. With USB, SEC and DBG on an XACT of 16 to
1024 bytes in whole 16-byte records answers a record for each (usbRecords). The scans and records answer what follows at once (settle). -/
def Obligations.TapInstructions : Prop :=
  ∀ (bit : Bool) (pins req : List Byte) (ecc : ReadEcc) (s : State), acornOn s = true →
    let u : State := { s with sec := { s.sec with extest := false } }
    let out : State := { u with tx := u.tx ++ [.debugData (fitBytes 12 s.sec.result)] }
    exec .tapIdcode s = .next (emit (.debugData (natLe 4 (regValue .idIdcode s))) u)
    ∧ exec .tapDomains s = .next (emit (.debugData (natLe 8 (stateWord 1 s) ++ natLe 8 (stateWord 33 s))) u)
    ∧ exec (.tapBypass bit) s = .next (emit (.debugData [if bit then 1 else 0]) u)
    ∧ (debugOn s = true → hasScope 4 s = true →
        exec (.tapSample pins) s = .next (emit (.debugData pins) u)
        ∧ (s.jobs = [] → s.sec.extest = false → ∃ t, exec (.tapExtest pins) s = .next t ∧ t.sec.extest = true ∧ t.safe.armed = false))
    ∧ (debugOn s = true → hasScope 4 s = false → exec (.tapExtest pins) s = .next (setB Fld.dbgStatusDenied 0 true s)
        ∧ exec (.tapSample pins) s = .next (setB Fld.dbgStatusDenied 0 true u))
    ∧ (req.length = 12 →
        (∃ t, exec (.tapMailbox req) s = .next (settle t) ∧ t.sec.result = (answer 1 true true req .clean out).1
          ∧ t.tx = (answer 1 true true req .clean out).2.tx)
        ∧ (∃ t, exec (.xact req ecc) s = .next (settle t) ∧ t.sec.result = (answer 1 false false req ecc out).1
          ∧ t.tx = (answer 1 false false req ecc out).2.tx))
    ∧ (debugOn s = true → domOn Dom.usb s = true → 16 ≤ req.length → req.length ≤ 1024 → req.length % 16 = 0 →
        exec (.xact req ecc) s = .next (settle (usbRecords req ecc s)))

/-- COLD_RESET from an allowed J3 voltage completes: the module is starting, or held while MRST_N is low, at Acorn time 0 with no job, from
what is fused or flashed; from less than 19 V it changes nothing. MODULE_RESET completes where its trigger holds: MRST_N going low holds
the module; the watchdog with WD_RESET, and the end of recovery, leave it starting; RETURN acts as the running owner command; what
completes answers what follows at once (settle); elsewhere it changes nothing. PWR_RESET with KEY 0x4D52 and GO past FW_READY completes:
with the level of HOST_SEL noted and, with PROG on, the prognostics saved, the module is starting; another KEY changes nothing.
MRST_N_RELEASE of a held module with MRST_N low and no hub trip completes: it is starting. FW_READY in start-up completes: the module
runs, and what follows is answered; in another phase nothing changes. On a powered module LOCKOUT below 17 V, and OVERVOLTAGE_SHUTDOWN,
complete: it is unpowered, with no job or stream, and only the second bars a start at once; SURGE above 62 V and to 70 V completes: PWR
event 0x0008 is posted, and what follows is answered. At 62 V or less nothing changes; above 70 V, outside the absolute maximum, SURGE
ends in a fault (log 7), as the spec gives no effect there. -/
def Obligations.ResetsAndSupply : Prop :=
  ∀ (mv : Nat) (sel low : Bool) (k : ModuleTrigger) (value : BitVec 32) (failed : BitVec 64) (s : State),
    let pinned : State := { s with power := { s.power with hostSel := sel } }
    (mayStart mv s = true → ∃ t, exec (.coldReset mv sel low) s = .next t ∧ t = coldStart sel low s
        ∧ t.phase = (if low then .held else .starting) ∧ t.clock = 0 ∧ t.jobs = [] ∧ t.sec.lifecycle = s.sec.lifecycle)
    ∧ (mv < 19000 → exec (.coldReset mv sel low) s = .next s)
    ∧ (triggerHolds k s = true → exec (.moduleReset k sel) s = .next (settle (trigger k pinned))
        ∧ (k = .mrst → (trigger k pinned).phase = .held ∧ (trigger k pinned).power.mrstLow = true)
        ∧ (k = .watchdog → (trigger k pinned).phase = .starting)
        ∧ (k = .recoveryEnd → trigger k pinned = moduleReset 4 pinned ∧ (trigger k pinned).phase = .starting)
        ∧ (k = .ownerReturn → trigger k pinned = returnCmd pinned))
    ∧ (triggerHolds k s = false → exec (.moduleReset k sel) s = .next s)
    ∧ (running s = true → fld value 0 16 = 0x4D52 → flag value 16 = true →
        ∃ t, exec (.pwrReset value sel) s = .next t ∧ t.phase = .starting ∧ t.pending = s.pending
          ∧ t = moduleReset 2 (if progOn s then saveNow pinned else pinned))
    ∧ (fld value 0 16 ≠ 0x4D52 → exec (.pwrReset value sel) s = .next s)
    ∧ (s.phase = .held → s.power.mrstLow = true → s.safe.hubTrip = false →
        ∃ t, exec (.mrstNRelease sel) s = .next t ∧ t.phase = .starting ∧ t.power.mrstLow = false)
    ∧ (s.power.mrstLow = false → exec (.mrstNRelease sel) s = .next s)
    ∧ (s.phase = .starting → ∃ t, exec (.fwReady failed) s = .next (settle t) ∧ t = ready failed.toNat s ∧ t.phase = .running)
    ∧ (s.phase ≠ .starting → exec (.fwReady failed) s = .next s)
    ∧ (s.phase ≠ .unpowered →
        (mv < 17000 → ∃ t, exec (.lockout mv) s = .next t ∧ t.phase = .unpowered ∧ t.jobs = [] ∧ t.streams = [] ∧ t.power.overVolt = false)
        ∧ (17000 ≤ mv → exec (.lockout mv) s = .next s)
        ∧ (∃ t, exec .overvoltageShutdown s = .next t ∧ t.phase = .unpowered ∧ t.jobs = [] ∧ t.streams = [] ∧ t.power.overVolt = true)
        ∧ (62000 < mv → mv ≤ 70000 → exec (.surge mv) s = .next (settle (postEvent 11 0x0008 Status.done (mv / 100) s))))
    ∧ (mv ≤ 62000 → exec (.surge mv) s = .next s)
    ∧ (70000 < mv → exec (.surge mv) s = .fault .absoluteMaximum)

/-- In every state in which exec answers a next state: the time commands named change time, registers, outputs, log and host interface only;
the fusion commands named also tables and fusion; DEADLINE_MISS, REENABLE, HUSK_ENTER, HUSK_EXIT and POLARITY_CORRECTED, besides
registers, outputs, log and host interface, the CLE and the frames that wait for a gate; FEEDBACK, IDENT and CLE_FAULT also the safety
unit and the histories of fusion and prognostics; the health commands named the prognostics, memory and the memory tiers; the safety
output commands the safety unit; the port and sensor output commands registers and the electrical state; TAP instructions registers,
outputs and the security unit; the sweep the memory tiers; and HOST_OK the update unit. Jobs, streams, dies and domains stay as they
were in all of them. -/
def Obligations.UnitCommandsKeepToTheirUnit : Prop :=
  ∀ (v : BitVec 64) (w : BitVec 32) (mac : Fin 4) (entry : Fin 32) (drive chan : Fin 64) (cause : Fin 4) (port : Fin 24) (output : Fin 8)
    (a b : Bool) (bytes : List Byte) (ecc : ReadEcc) (s t : State),
    (∀ i ∈ [Instr.syncTimeout, .generatorEnable v, .generatorDisable v, .timeCapDataRead, .qbvChange mac, .qbvListSwitch mac],
      exec i s = .next t → t = { s with regs := t.regs, tx := t.tx, log := t.log, host := t.host, time := t.time })
    ∧ (∀ i ∈ [Instr.sensorSilent entry, .tableActivation, .fusionEnable w], exec i s = .next t →
        t = { s with regs := t.regs, tx := t.tx, log := t.log, host := t.host, tables := t.tables, fus := t.fus })
    ∧ (∀ i ∈ [Instr.deadlineMiss chan, .reenable w, .huskEnter, .huskExit, .polarityCorrected port], exec i s = .next t →
        t = { s with regs := t.regs, tx := t.tx, log := t.log, host := t.host, cle := t.cle, time := t.time })
    ∧ (∀ i ∈ [Instr.feedback drive bytes, .ident drive bytes, .cleFault cause], exec i s = .next t →
        t = { s with
          regs := t.regs, tx := t.tx, log := t.log, host := t.host, cle := t.cle, time := t.time, fus := t.fus, prog := t.prog, safe := t.safe })
    ∧ (∀ i ∈ [Instr.healthPass ecc, .hourlyHistory, .prognosticsSave a], exec i s = .next t →
        t = { s with regs := t.regs, mem := t.mem, tx := t.tx, log := t.log, host := t.host, tiers := t.tiers, prog := t.prog })
    ∧ (∀ i ∈ [Instr.arm, .drop, .discrepancy a, .testPulse a b], exec i s = .next t →
        t = { s with regs := t.regs, tx := t.tx, log := t.log, host := t.host, safe := t.safe })
    ∧ (∀ i ∈ [Instr.txShortRetest port a, .sensorOutputRetry output, .sensorOutputOpen output, .pwrSpwrCfgWrite v, .ethernetLinkChange mac a],
        exec i s = .next t → t = { s with regs := t.regs, elec := t.elec })
    ∧ (∀ i ∈ [Instr.tapIdcode, .tapDomains, .tapBypass a, .tapSample bytes], exec i s = .next t →
        t = { s with regs := t.regs, tx := t.tx, sec := t.sec })
    ∧ (∀ i ∈ [Instr.migrationSweep], exec i s = .next t → t = { s with tiers := t.tiers })
    ∧ (∀ i ∈ [Instr.hostOk], exec i s = .next t → t = { s with upd := t.upd })
end

