-- ==== Sys2Proof/Laws/State.lean ====
section
/-!
SUPPORT. The named updates of a state, field by field: what each changes, and that it changes nothing else. All hold by definition, and a
proof that uses them never unfolds a record update.
-/
namespace Sys2Proof.Machine
open Sys2Proof

variable (s : State)


/-! ### withPending -/

@[simp] theorem withPending_pending (l : List Instr) : (State.withPending l s).pending = l := rfl
@[simp] theorem withPending_phase (l : List Instr) : (State.withPending l s).phase = s.phase := rfl
@[simp] theorem withPending_clock (l : List Instr) : (State.withPending l s).clock = s.clock := rfl
@[simp] theorem withPending_timeN (l : List Instr) : (State.withPending l s).timeN = s.timeN := rfl
@[simp] theorem withPending_timeFrac (l : List Instr) : (State.withPending l s).timeFrac = s.timeFrac := rfl
@[simp] theorem withPending_rate (l : List Instr) : (State.withPending l s).rate = s.rate := rfl
@[simp] theorem withPending_freeCtr (l : List Instr) : (State.withPending l s).freeCtr = s.freeCtr := rfl
@[simp] theorem withPending_regs (l : List Instr) : (State.withPending l s).regs = s.regs := rfl
@[simp] theorem withPending_mem (l : List Instr) : (State.withPending l s).mem = s.mem := rfl
@[simp] theorem withPending_acc (l : List Instr) : (State.withPending l s).acc = s.acc := rfl
@[simp] theorem withPending_accSat (l : List Instr) : (State.withPending l s).accSat = s.accSat := rfl
@[simp] theorem withPending_accTol (l : List Instr) : (State.withPending l s).accTol = s.accTol := rfl
@[simp] theorem withPending_tx (l : List Instr) : (State.withPending l s).tx = s.tx := rfl
@[simp] theorem withPending_log (l : List Instr) : (State.withPending l s).log = s.log := rfl
@[simp] theorem withPending_host (l : List Instr) : (State.withPending l s).host = s.host := rfl
@[simp] theorem withPending_jobs (l : List Instr) : (State.withPending l s).jobs = s.jobs := rfl
@[simp] theorem withPending_streams (l : List Instr) : (State.withPending l s).streams = s.streams := rfl
@[simp] theorem withPending_dies (l : List Instr) : (State.withPending l s).dies = s.dies := rfl
@[simp] theorem withPending_sends (l : List Instr) : (State.withPending l s).sends = s.sends := rfl
@[simp] theorem withPending_nextSend (l : List Instr) : (State.withPending l s).nextSend = s.nextSend := rfl
@[simp] theorem withPending_tiers (l : List Instr) : (State.withPending l s).tiers = s.tiers := rfl
@[simp] theorem withPending_causes (l : List Instr) : (State.withPending l s).causes = s.causes := rfl
@[simp] theorem withPending_domains (l : List Instr) : (State.withPending l s).domains = s.domains := rfl
@[simp] theorem withPending_time (l : List Instr) : (State.withPending l s).time = s.time := rfl
@[simp] theorem withPending_tables (l : List Instr) : (State.withPending l s).tables = s.tables := rfl
@[simp] theorem withPending_fus (l : List Instr) : (State.withPending l s).fus = s.fus := rfl
@[simp] theorem withPending_plan (l : List Instr) : (State.withPending l s).plan = s.plan := rfl
@[simp] theorem withPending_cle (l : List Instr) : (State.withPending l s).cle = s.cle := rfl
@[simp] theorem withPending_safe (l : List Instr) : (State.withPending l s).safe = s.safe := rfl
@[simp] theorem withPending_prog (l : List Instr) : (State.withPending l s).prog = s.prog := rfl
@[simp] theorem withPending_power (l : List Instr) : (State.withPending l s).power = s.power := rfl
@[simp] theorem withPending_lim (l : List Instr) : (State.withPending l s).lim = s.lim := rfl
@[simp] theorem withPending_sec (l : List Instr) : (State.withPending l s).sec = s.sec := rfl
@[simp] theorem withPending_upd (l : List Instr) : (State.withPending l s).upd = s.upd := rfl
@[simp] theorem withPending_elec (l : List Instr) : (State.withPending l s).elec = s.elec := rfl

/-! ### wrMem -/

@[simp] theorem wrMem_pending (a : Nat) (bs : List Byte) : (wrMem a bs s).pending = s.pending := rfl
@[simp] theorem wrMem_phase (a : Nat) (bs : List Byte) : (wrMem a bs s).phase = s.phase := rfl
@[simp] theorem wrMem_clock (a : Nat) (bs : List Byte) : (wrMem a bs s).clock = s.clock := rfl
@[simp] theorem wrMem_timeN (a : Nat) (bs : List Byte) : (wrMem a bs s).timeN = s.timeN := rfl
@[simp] theorem wrMem_timeFrac (a : Nat) (bs : List Byte) : (wrMem a bs s).timeFrac = s.timeFrac := rfl
@[simp] theorem wrMem_rate (a : Nat) (bs : List Byte) : (wrMem a bs s).rate = s.rate := rfl
@[simp] theorem wrMem_freeCtr (a : Nat) (bs : List Byte) : (wrMem a bs s).freeCtr = s.freeCtr := rfl
@[simp] theorem wrMem_regs (a : Nat) (bs : List Byte) : (wrMem a bs s).regs = s.regs := rfl
@[simp] theorem wrMem_mem (a : Nat) (bs : List Byte) : (wrMem a bs s).mem = memWrite s.mem a bs := rfl
@[simp] theorem wrMem_acc (a : Nat) (bs : List Byte) : (wrMem a bs s).acc = s.acc := rfl
@[simp] theorem wrMem_accSat (a : Nat) (bs : List Byte) : (wrMem a bs s).accSat = s.accSat := rfl
@[simp] theorem wrMem_accTol (a : Nat) (bs : List Byte) : (wrMem a bs s).accTol = s.accTol := rfl
@[simp] theorem wrMem_tx (a : Nat) (bs : List Byte) : (wrMem a bs s).tx = s.tx := rfl
@[simp] theorem wrMem_log (a : Nat) (bs : List Byte) : (wrMem a bs s).log = s.log := rfl
@[simp] theorem wrMem_host (a : Nat) (bs : List Byte) : (wrMem a bs s).host = s.host := rfl
@[simp] theorem wrMem_jobs (a : Nat) (bs : List Byte) : (wrMem a bs s).jobs = s.jobs := rfl
@[simp] theorem wrMem_streams (a : Nat) (bs : List Byte) : (wrMem a bs s).streams = s.streams := rfl
@[simp] theorem wrMem_dies (a : Nat) (bs : List Byte) : (wrMem a bs s).dies = s.dies := rfl
@[simp] theorem wrMem_sends (a : Nat) (bs : List Byte) : (wrMem a bs s).sends = s.sends := rfl
@[simp] theorem wrMem_nextSend (a : Nat) (bs : List Byte) : (wrMem a bs s).nextSend = s.nextSend := rfl
@[simp] theorem wrMem_tiers (a : Nat) (bs : List Byte) : (wrMem a bs s).tiers = s.tiers := rfl
@[simp] theorem wrMem_causes (a : Nat) (bs : List Byte) : (wrMem a bs s).causes = s.causes := rfl
@[simp] theorem wrMem_domains (a : Nat) (bs : List Byte) : (wrMem a bs s).domains = s.domains := rfl
@[simp] theorem wrMem_time (a : Nat) (bs : List Byte) : (wrMem a bs s).time = s.time := rfl
@[simp] theorem wrMem_tables (a : Nat) (bs : List Byte) : (wrMem a bs s).tables = s.tables := rfl
@[simp] theorem wrMem_fus (a : Nat) (bs : List Byte) : (wrMem a bs s).fus = s.fus := rfl
@[simp] theorem wrMem_plan (a : Nat) (bs : List Byte) : (wrMem a bs s).plan = s.plan := rfl
@[simp] theorem wrMem_cle (a : Nat) (bs : List Byte) : (wrMem a bs s).cle = s.cle := rfl
@[simp] theorem wrMem_safe (a : Nat) (bs : List Byte) : (wrMem a bs s).safe = s.safe := rfl
@[simp] theorem wrMem_prog (a : Nat) (bs : List Byte) : (wrMem a bs s).prog = s.prog := rfl
@[simp] theorem wrMem_power (a : Nat) (bs : List Byte) : (wrMem a bs s).power = s.power := rfl
@[simp] theorem wrMem_lim (a : Nat) (bs : List Byte) : (wrMem a bs s).lim = s.lim := rfl
@[simp] theorem wrMem_sec (a : Nat) (bs : List Byte) : (wrMem a bs s).sec = s.sec := rfl
@[simp] theorem wrMem_upd (a : Nat) (bs : List Byte) : (wrMem a bs s).upd = s.upd := rfl
@[simp] theorem wrMem_elec (a : Nat) (bs : List Byte) : (wrMem a bs s).elec = s.elec := rfl

/-! ### zeroMem -/

@[simp] theorem zeroMem_pending (a n : Nat) : (zeroMem a n s).pending = s.pending := rfl
@[simp] theorem zeroMem_phase (a n : Nat) : (zeroMem a n s).phase = s.phase := rfl
@[simp] theorem zeroMem_clock (a n : Nat) : (zeroMem a n s).clock = s.clock := rfl
@[simp] theorem zeroMem_timeN (a n : Nat) : (zeroMem a n s).timeN = s.timeN := rfl
@[simp] theorem zeroMem_timeFrac (a n : Nat) : (zeroMem a n s).timeFrac = s.timeFrac := rfl
@[simp] theorem zeroMem_rate (a n : Nat) : (zeroMem a n s).rate = s.rate := rfl
@[simp] theorem zeroMem_freeCtr (a n : Nat) : (zeroMem a n s).freeCtr = s.freeCtr := rfl
@[simp] theorem zeroMem_regs (a n : Nat) : (zeroMem a n s).regs = s.regs := rfl
@[simp] theorem zeroMem_mem (a n : Nat) : (zeroMem a n s).mem = memZero s.mem a n := rfl
@[simp] theorem zeroMem_acc (a n : Nat) : (zeroMem a n s).acc = s.acc := rfl
@[simp] theorem zeroMem_accSat (a n : Nat) : (zeroMem a n s).accSat = s.accSat := rfl
@[simp] theorem zeroMem_accTol (a n : Nat) : (zeroMem a n s).accTol = s.accTol := rfl
@[simp] theorem zeroMem_tx (a n : Nat) : (zeroMem a n s).tx = s.tx := rfl
@[simp] theorem zeroMem_log (a n : Nat) : (zeroMem a n s).log = s.log := rfl
@[simp] theorem zeroMem_host (a n : Nat) : (zeroMem a n s).host = s.host := rfl
@[simp] theorem zeroMem_jobs (a n : Nat) : (zeroMem a n s).jobs = s.jobs := rfl
@[simp] theorem zeroMem_streams (a n : Nat) : (zeroMem a n s).streams = s.streams := rfl
@[simp] theorem zeroMem_dies (a n : Nat) : (zeroMem a n s).dies = s.dies := rfl
@[simp] theorem zeroMem_sends (a n : Nat) : (zeroMem a n s).sends = s.sends := rfl
@[simp] theorem zeroMem_nextSend (a n : Nat) : (zeroMem a n s).nextSend = s.nextSend := rfl
@[simp] theorem zeroMem_tiers (a n : Nat) : (zeroMem a n s).tiers = s.tiers := rfl
@[simp] theorem zeroMem_causes (a n : Nat) : (zeroMem a n s).causes = s.causes := rfl
@[simp] theorem zeroMem_domains (a n : Nat) : (zeroMem a n s).domains = s.domains := rfl
@[simp] theorem zeroMem_time (a n : Nat) : (zeroMem a n s).time = s.time := rfl
@[simp] theorem zeroMem_tables (a n : Nat) : (zeroMem a n s).tables = s.tables := rfl
@[simp] theorem zeroMem_fus (a n : Nat) : (zeroMem a n s).fus = s.fus := rfl
@[simp] theorem zeroMem_plan (a n : Nat) : (zeroMem a n s).plan = s.plan := rfl
@[simp] theorem zeroMem_cle (a n : Nat) : (zeroMem a n s).cle = s.cle := rfl
@[simp] theorem zeroMem_safe (a n : Nat) : (zeroMem a n s).safe = s.safe := rfl
@[simp] theorem zeroMem_prog (a n : Nat) : (zeroMem a n s).prog = s.prog := rfl
@[simp] theorem zeroMem_power (a n : Nat) : (zeroMem a n s).power = s.power := rfl
@[simp] theorem zeroMem_lim (a n : Nat) : (zeroMem a n s).lim = s.lim := rfl
@[simp] theorem zeroMem_sec (a n : Nat) : (zeroMem a n s).sec = s.sec := rfl
@[simp] theorem zeroMem_upd (a n : Nat) : (zeroMem a n s).upd = s.upd := rfl
@[simp] theorem zeroMem_elec (a n : Nat) : (zeroMem a n s).elec = s.elec := rfl

/-! ### emit -/

@[simp] theorem emit_pending (x : Tx) : (emit x s).pending = s.pending := rfl
@[simp] theorem emit_phase (x : Tx) : (emit x s).phase = s.phase := rfl
@[simp] theorem emit_clock (x : Tx) : (emit x s).clock = s.clock := rfl
@[simp] theorem emit_timeN (x : Tx) : (emit x s).timeN = s.timeN := rfl
@[simp] theorem emit_timeFrac (x : Tx) : (emit x s).timeFrac = s.timeFrac := rfl
@[simp] theorem emit_rate (x : Tx) : (emit x s).rate = s.rate := rfl
@[simp] theorem emit_freeCtr (x : Tx) : (emit x s).freeCtr = s.freeCtr := rfl
@[simp] theorem emit_regs (x : Tx) : (emit x s).regs = s.regs := rfl
@[simp] theorem emit_mem (x : Tx) : (emit x s).mem = s.mem := rfl
@[simp] theorem emit_acc (x : Tx) : (emit x s).acc = s.acc := rfl
@[simp] theorem emit_accSat (x : Tx) : (emit x s).accSat = s.accSat := rfl
@[simp] theorem emit_accTol (x : Tx) : (emit x s).accTol = s.accTol := rfl
@[simp] theorem emit_tx (x : Tx) : (emit x s).tx = s.tx ++ [x] := rfl
@[simp] theorem emit_log (x : Tx) : (emit x s).log = s.log := rfl
@[simp] theorem emit_host (x : Tx) : (emit x s).host = s.host := rfl
@[simp] theorem emit_jobs (x : Tx) : (emit x s).jobs = s.jobs := rfl
@[simp] theorem emit_streams (x : Tx) : (emit x s).streams = s.streams := rfl
@[simp] theorem emit_dies (x : Tx) : (emit x s).dies = s.dies := rfl
@[simp] theorem emit_sends (x : Tx) : (emit x s).sends = s.sends := rfl
@[simp] theorem emit_nextSend (x : Tx) : (emit x s).nextSend = s.nextSend := rfl
@[simp] theorem emit_tiers (x : Tx) : (emit x s).tiers = s.tiers := rfl
@[simp] theorem emit_causes (x : Tx) : (emit x s).causes = s.causes := rfl
@[simp] theorem emit_domains (x : Tx) : (emit x s).domains = s.domains := rfl
@[simp] theorem emit_time (x : Tx) : (emit x s).time = s.time := rfl
@[simp] theorem emit_tables (x : Tx) : (emit x s).tables = s.tables := rfl
@[simp] theorem emit_fus (x : Tx) : (emit x s).fus = s.fus := rfl
@[simp] theorem emit_plan (x : Tx) : (emit x s).plan = s.plan := rfl
@[simp] theorem emit_cle (x : Tx) : (emit x s).cle = s.cle := rfl
@[simp] theorem emit_safe (x : Tx) : (emit x s).safe = s.safe := rfl
@[simp] theorem emit_prog (x : Tx) : (emit x s).prog = s.prog := rfl
@[simp] theorem emit_power (x : Tx) : (emit x s).power = s.power := rfl
@[simp] theorem emit_lim (x : Tx) : (emit x s).lim = s.lim := rfl
@[simp] theorem emit_sec (x : Tx) : (emit x s).sec = s.sec := rfl
@[simp] theorem emit_upd (x : Tx) : (emit x s).upd = s.upd := rfl
@[simp] theorem emit_elec (x : Tx) : (emit x s).elec = s.elec := rfl

/-! ### setR -/

@[simp] theorem setR_pending (r : Reg) (i v : Nat) : (setR r i v s).pending = s.pending := rfl
@[simp] theorem setR_phase (r : Reg) (i v : Nat) : (setR r i v s).phase = s.phase := rfl
@[simp] theorem setR_clock (r : Reg) (i v : Nat) : (setR r i v s).clock = s.clock := rfl
@[simp] theorem setR_timeN (r : Reg) (i v : Nat) : (setR r i v s).timeN = s.timeN := rfl
@[simp] theorem setR_timeFrac (r : Reg) (i v : Nat) : (setR r i v s).timeFrac = s.timeFrac := rfl
@[simp] theorem setR_rate (r : Reg) (i v : Nat) : (setR r i v s).rate = s.rate := rfl
@[simp] theorem setR_freeCtr (r : Reg) (i v : Nat) : (setR r i v s).freeCtr = s.freeCtr := rfl
@[simp] theorem setR_regs (r : Reg) (i v : Nat) : (setR r i v s).regs = mapSet s.regs (keyOf r i) (BitVec.ofNat 64 v) := rfl
@[simp] theorem setR_mem (r : Reg) (i v : Nat) : (setR r i v s).mem = s.mem := rfl
@[simp] theorem setR_acc (r : Reg) (i v : Nat) : (setR r i v s).acc = s.acc := rfl
@[simp] theorem setR_accSat (r : Reg) (i v : Nat) : (setR r i v s).accSat = s.accSat := rfl
@[simp] theorem setR_accTol (r : Reg) (i v : Nat) : (setR r i v s).accTol = s.accTol := rfl
@[simp] theorem setR_tx (r : Reg) (i v : Nat) : (setR r i v s).tx = s.tx := rfl
@[simp] theorem setR_log (r : Reg) (i v : Nat) : (setR r i v s).log = s.log := rfl
@[simp] theorem setR_host (r : Reg) (i v : Nat) : (setR r i v s).host = s.host := rfl
@[simp] theorem setR_jobs (r : Reg) (i v : Nat) : (setR r i v s).jobs = s.jobs := rfl
@[simp] theorem setR_streams (r : Reg) (i v : Nat) : (setR r i v s).streams = s.streams := rfl
@[simp] theorem setR_dies (r : Reg) (i v : Nat) : (setR r i v s).dies = s.dies := rfl
@[simp] theorem setR_sends (r : Reg) (i v : Nat) : (setR r i v s).sends = s.sends := rfl
@[simp] theorem setR_nextSend (r : Reg) (i v : Nat) : (setR r i v s).nextSend = s.nextSend := rfl
@[simp] theorem setR_tiers (r : Reg) (i v : Nat) : (setR r i v s).tiers = s.tiers := rfl
@[simp] theorem setR_causes (r : Reg) (i v : Nat) : (setR r i v s).causes = s.causes := rfl
@[simp] theorem setR_domains (r : Reg) (i v : Nat) : (setR r i v s).domains = s.domains := rfl
@[simp] theorem setR_time (r : Reg) (i v : Nat) : (setR r i v s).time = s.time := rfl
@[simp] theorem setR_tables (r : Reg) (i v : Nat) : (setR r i v s).tables = s.tables := rfl
@[simp] theorem setR_fus (r : Reg) (i v : Nat) : (setR r i v s).fus = s.fus := rfl
@[simp] theorem setR_plan (r : Reg) (i v : Nat) : (setR r i v s).plan = s.plan := rfl
@[simp] theorem setR_cle (r : Reg) (i v : Nat) : (setR r i v s).cle = s.cle := rfl
@[simp] theorem setR_safe (r : Reg) (i v : Nat) : (setR r i v s).safe = s.safe := rfl
@[simp] theorem setR_prog (r : Reg) (i v : Nat) : (setR r i v s).prog = s.prog := rfl
@[simp] theorem setR_power (r : Reg) (i v : Nat) : (setR r i v s).power = s.power := rfl
@[simp] theorem setR_lim (r : Reg) (i v : Nat) : (setR r i v s).lim = s.lim := rfl
@[simp] theorem setR_sec (r : Reg) (i v : Nat) : (setR r i v s).sec = s.sec := rfl
@[simp] theorem setR_upd (r : Reg) (i v : Nat) : (setR r i v s).upd = s.upd := rfl
@[simp] theorem setR_elec (r : Reg) (i v : Nat) : (setR r i v s).elec = s.elec := rfl

/-! ### setF -/

@[simp] theorem setF_pending (f : Field) (i v : Nat) : (setF f i v s).pending = s.pending := rfl
@[simp] theorem setF_phase (f : Field) (i v : Nat) : (setF f i v s).phase = s.phase := rfl
@[simp] theorem setF_clock (f : Field) (i v : Nat) : (setF f i v s).clock = s.clock := rfl
@[simp] theorem setF_timeN (f : Field) (i v : Nat) : (setF f i v s).timeN = s.timeN := rfl
@[simp] theorem setF_timeFrac (f : Field) (i v : Nat) : (setF f i v s).timeFrac = s.timeFrac := rfl
@[simp] theorem setF_rate (f : Field) (i v : Nat) : (setF f i v s).rate = s.rate := rfl
@[simp] theorem setF_freeCtr (f : Field) (i v : Nat) : (setF f i v s).freeCtr = s.freeCtr := rfl
@[simp] theorem setF_regs (f : Field) (i v : Nat) : (setF f i v s).regs = (setR f.reg i (putBits (getR f.reg i s) f.lo f.len v) s).regs := rfl
@[simp] theorem setF_mem (f : Field) (i v : Nat) : (setF f i v s).mem = s.mem := rfl
@[simp] theorem setF_acc (f : Field) (i v : Nat) : (setF f i v s).acc = s.acc := rfl
@[simp] theorem setF_accSat (f : Field) (i v : Nat) : (setF f i v s).accSat = s.accSat := rfl
@[simp] theorem setF_accTol (f : Field) (i v : Nat) : (setF f i v s).accTol = s.accTol := rfl
@[simp] theorem setF_tx (f : Field) (i v : Nat) : (setF f i v s).tx = s.tx := rfl
@[simp] theorem setF_log (f : Field) (i v : Nat) : (setF f i v s).log = s.log := rfl
@[simp] theorem setF_host (f : Field) (i v : Nat) : (setF f i v s).host = s.host := rfl
@[simp] theorem setF_jobs (f : Field) (i v : Nat) : (setF f i v s).jobs = s.jobs := rfl
@[simp] theorem setF_streams (f : Field) (i v : Nat) : (setF f i v s).streams = s.streams := rfl
@[simp] theorem setF_dies (f : Field) (i v : Nat) : (setF f i v s).dies = s.dies := rfl
@[simp] theorem setF_sends (f : Field) (i v : Nat) : (setF f i v s).sends = s.sends := rfl
@[simp] theorem setF_nextSend (f : Field) (i v : Nat) : (setF f i v s).nextSend = s.nextSend := rfl
@[simp] theorem setF_tiers (f : Field) (i v : Nat) : (setF f i v s).tiers = s.tiers := rfl
@[simp] theorem setF_causes (f : Field) (i v : Nat) : (setF f i v s).causes = s.causes := rfl
@[simp] theorem setF_domains (f : Field) (i v : Nat) : (setF f i v s).domains = s.domains := rfl
@[simp] theorem setF_time (f : Field) (i v : Nat) : (setF f i v s).time = s.time := rfl
@[simp] theorem setF_tables (f : Field) (i v : Nat) : (setF f i v s).tables = s.tables := rfl
@[simp] theorem setF_fus (f : Field) (i v : Nat) : (setF f i v s).fus = s.fus := rfl
@[simp] theorem setF_plan (f : Field) (i v : Nat) : (setF f i v s).plan = s.plan := rfl
@[simp] theorem setF_cle (f : Field) (i v : Nat) : (setF f i v s).cle = s.cle := rfl
@[simp] theorem setF_safe (f : Field) (i v : Nat) : (setF f i v s).safe = s.safe := rfl
@[simp] theorem setF_prog (f : Field) (i v : Nat) : (setF f i v s).prog = s.prog := rfl
@[simp] theorem setF_power (f : Field) (i v : Nat) : (setF f i v s).power = s.power := rfl
@[simp] theorem setF_lim (f : Field) (i v : Nat) : (setF f i v s).lim = s.lim := rfl
@[simp] theorem setF_sec (f : Field) (i v : Nat) : (setF f i v s).sec = s.sec := rfl
@[simp] theorem setF_upd (f : Field) (i v : Nat) : (setF f i v s).upd = s.upd := rfl
@[simp] theorem setF_elec (f : Field) (i v : Nat) : (setF f i v s).elec = s.elec := rfl

/-! ### setPush -/

@[simp] theorem setPush_pending (l : List PushMsg) : (setPush l s).pending = s.pending := rfl
@[simp] theorem setPush_phase (l : List PushMsg) : (setPush l s).phase = s.phase := rfl
@[simp] theorem setPush_clock (l : List PushMsg) : (setPush l s).clock = s.clock := rfl
@[simp] theorem setPush_timeN (l : List PushMsg) : (setPush l s).timeN = s.timeN := rfl
@[simp] theorem setPush_timeFrac (l : List PushMsg) : (setPush l s).timeFrac = s.timeFrac := rfl
@[simp] theorem setPush_rate (l : List PushMsg) : (setPush l s).rate = s.rate := rfl
@[simp] theorem setPush_freeCtr (l : List PushMsg) : (setPush l s).freeCtr = s.freeCtr := rfl
@[simp] theorem setPush_regs (l : List PushMsg) : (setPush l s).regs = s.regs := rfl
@[simp] theorem setPush_mem (l : List PushMsg) : (setPush l s).mem = s.mem := rfl
@[simp] theorem setPush_acc (l : List PushMsg) : (setPush l s).acc = s.acc := rfl
@[simp] theorem setPush_accSat (l : List PushMsg) : (setPush l s).accSat = s.accSat := rfl
@[simp] theorem setPush_accTol (l : List PushMsg) : (setPush l s).accTol = s.accTol := rfl
@[simp] theorem setPush_tx (l : List PushMsg) : (setPush l s).tx = s.tx := rfl
@[simp] theorem setPush_log (l : List PushMsg) : (setPush l s).log = s.log := rfl
@[simp] theorem setPush_host (l : List PushMsg) : (setPush l s).host = { s.host with push := l } := rfl
@[simp] theorem setPush_jobs (l : List PushMsg) : (setPush l s).jobs = s.jobs := rfl
@[simp] theorem setPush_streams (l : List PushMsg) : (setPush l s).streams = s.streams := rfl
@[simp] theorem setPush_dies (l : List PushMsg) : (setPush l s).dies = s.dies := rfl
@[simp] theorem setPush_sends (l : List PushMsg) : (setPush l s).sends = s.sends := rfl
@[simp] theorem setPush_nextSend (l : List PushMsg) : (setPush l s).nextSend = s.nextSend := rfl
@[simp] theorem setPush_tiers (l : List PushMsg) : (setPush l s).tiers = s.tiers := rfl
@[simp] theorem setPush_causes (l : List PushMsg) : (setPush l s).causes = s.causes := rfl
@[simp] theorem setPush_domains (l : List PushMsg) : (setPush l s).domains = s.domains := rfl
@[simp] theorem setPush_time (l : List PushMsg) : (setPush l s).time = s.time := rfl
@[simp] theorem setPush_tables (l : List PushMsg) : (setPush l s).tables = s.tables := rfl
@[simp] theorem setPush_fus (l : List PushMsg) : (setPush l s).fus = s.fus := rfl
@[simp] theorem setPush_plan (l : List PushMsg) : (setPush l s).plan = s.plan := rfl
@[simp] theorem setPush_cle (l : List PushMsg) : (setPush l s).cle = s.cle := rfl
@[simp] theorem setPush_safe (l : List PushMsg) : (setPush l s).safe = s.safe := rfl
@[simp] theorem setPush_prog (l : List PushMsg) : (setPush l s).prog = s.prog := rfl
@[simp] theorem setPush_power (l : List PushMsg) : (setPush l s).power = s.power := rfl
@[simp] theorem setPush_lim (l : List PushMsg) : (setPush l s).lim = s.lim := rfl
@[simp] theorem setPush_sec (l : List PushMsg) : (setPush l s).sec = s.sec := rfl
@[simp] theorem setPush_upd (l : List PushMsg) : (setPush l s).upd = s.upd := rfl
@[simp] theorem setPush_elec (l : List PushMsg) : (setPush l s).elec = s.elec := rfl

/-! ### setHold -/

@[simp] theorem setHold_pending (l : List Posting) : (setHold l s).pending = s.pending := rfl
@[simp] theorem setHold_phase (l : List Posting) : (setHold l s).phase = s.phase := rfl
@[simp] theorem setHold_clock (l : List Posting) : (setHold l s).clock = s.clock := rfl
@[simp] theorem setHold_timeN (l : List Posting) : (setHold l s).timeN = s.timeN := rfl
@[simp] theorem setHold_timeFrac (l : List Posting) : (setHold l s).timeFrac = s.timeFrac := rfl
@[simp] theorem setHold_rate (l : List Posting) : (setHold l s).rate = s.rate := rfl
@[simp] theorem setHold_freeCtr (l : List Posting) : (setHold l s).freeCtr = s.freeCtr := rfl
@[simp] theorem setHold_regs (l : List Posting) : (setHold l s).regs = s.regs := rfl
@[simp] theorem setHold_mem (l : List Posting) : (setHold l s).mem = s.mem := rfl
@[simp] theorem setHold_acc (l : List Posting) : (setHold l s).acc = s.acc := rfl
@[simp] theorem setHold_accSat (l : List Posting) : (setHold l s).accSat = s.accSat := rfl
@[simp] theorem setHold_accTol (l : List Posting) : (setHold l s).accTol = s.accTol := rfl
@[simp] theorem setHold_tx (l : List Posting) : (setHold l s).tx = s.tx := rfl
@[simp] theorem setHold_log (l : List Posting) : (setHold l s).log = s.log := rfl
@[simp] theorem setHold_host (l : List Posting) : (setHold l s).host = { s.host with hold := l } := rfl
@[simp] theorem setHold_jobs (l : List Posting) : (setHold l s).jobs = s.jobs := rfl
@[simp] theorem setHold_streams (l : List Posting) : (setHold l s).streams = s.streams := rfl
@[simp] theorem setHold_dies (l : List Posting) : (setHold l s).dies = s.dies := rfl
@[simp] theorem setHold_sends (l : List Posting) : (setHold l s).sends = s.sends := rfl
@[simp] theorem setHold_nextSend (l : List Posting) : (setHold l s).nextSend = s.nextSend := rfl
@[simp] theorem setHold_tiers (l : List Posting) : (setHold l s).tiers = s.tiers := rfl
@[simp] theorem setHold_causes (l : List Posting) : (setHold l s).causes = s.causes := rfl
@[simp] theorem setHold_domains (l : List Posting) : (setHold l s).domains = s.domains := rfl
@[simp] theorem setHold_time (l : List Posting) : (setHold l s).time = s.time := rfl
@[simp] theorem setHold_tables (l : List Posting) : (setHold l s).tables = s.tables := rfl
@[simp] theorem setHold_fus (l : List Posting) : (setHold l s).fus = s.fus := rfl
@[simp] theorem setHold_plan (l : List Posting) : (setHold l s).plan = s.plan := rfl
@[simp] theorem setHold_cle (l : List Posting) : (setHold l s).cle = s.cle := rfl
@[simp] theorem setHold_safe (l : List Posting) : (setHold l s).safe = s.safe := rfl
@[simp] theorem setHold_prog (l : List Posting) : (setHold l s).prog = s.prog := rfl
@[simp] theorem setHold_power (l : List Posting) : (setHold l s).power = s.power := rfl
@[simp] theorem setHold_lim (l : List Posting) : (setHold l s).lim = s.lim := rfl
@[simp] theorem setHold_sec (l : List Posting) : (setHold l s).sec = s.sec := rfl
@[simp] theorem setHold_upd (l : List Posting) : (setHold l s).upd = s.upd := rfl
@[simp] theorem setHold_elec (l : List Posting) : (setHold l s).elec = s.elec := rfl

/-! ### setConsumed -/

@[simp] theorem setConsumed_pending (l : List Consumed) : (setConsumed l s).pending = s.pending := rfl
@[simp] theorem setConsumed_phase (l : List Consumed) : (setConsumed l s).phase = s.phase := rfl
@[simp] theorem setConsumed_clock (l : List Consumed) : (setConsumed l s).clock = s.clock := rfl
@[simp] theorem setConsumed_timeN (l : List Consumed) : (setConsumed l s).timeN = s.timeN := rfl
@[simp] theorem setConsumed_timeFrac (l : List Consumed) : (setConsumed l s).timeFrac = s.timeFrac := rfl
@[simp] theorem setConsumed_rate (l : List Consumed) : (setConsumed l s).rate = s.rate := rfl
@[simp] theorem setConsumed_freeCtr (l : List Consumed) : (setConsumed l s).freeCtr = s.freeCtr := rfl
@[simp] theorem setConsumed_regs (l : List Consumed) : (setConsumed l s).regs = s.regs := rfl
@[simp] theorem setConsumed_mem (l : List Consumed) : (setConsumed l s).mem = s.mem := rfl
@[simp] theorem setConsumed_acc (l : List Consumed) : (setConsumed l s).acc = s.acc := rfl
@[simp] theorem setConsumed_accSat (l : List Consumed) : (setConsumed l s).accSat = s.accSat := rfl
@[simp] theorem setConsumed_accTol (l : List Consumed) : (setConsumed l s).accTol = s.accTol := rfl
@[simp] theorem setConsumed_tx (l : List Consumed) : (setConsumed l s).tx = s.tx := rfl
@[simp] theorem setConsumed_log (l : List Consumed) : (setConsumed l s).log = s.log := rfl
@[simp] theorem setConsumed_host (l : List Consumed) : (setConsumed l s).host = { s.host with consumed := l } := rfl
@[simp] theorem setConsumed_jobs (l : List Consumed) : (setConsumed l s).jobs = s.jobs := rfl
@[simp] theorem setConsumed_streams (l : List Consumed) : (setConsumed l s).streams = s.streams := rfl
@[simp] theorem setConsumed_dies (l : List Consumed) : (setConsumed l s).dies = s.dies := rfl
@[simp] theorem setConsumed_sends (l : List Consumed) : (setConsumed l s).sends = s.sends := rfl
@[simp] theorem setConsumed_nextSend (l : List Consumed) : (setConsumed l s).nextSend = s.nextSend := rfl
@[simp] theorem setConsumed_tiers (l : List Consumed) : (setConsumed l s).tiers = s.tiers := rfl
@[simp] theorem setConsumed_causes (l : List Consumed) : (setConsumed l s).causes = s.causes := rfl
@[simp] theorem setConsumed_domains (l : List Consumed) : (setConsumed l s).domains = s.domains := rfl
@[simp] theorem setConsumed_time (l : List Consumed) : (setConsumed l s).time = s.time := rfl
@[simp] theorem setConsumed_tables (l : List Consumed) : (setConsumed l s).tables = s.tables := rfl
@[simp] theorem setConsumed_fus (l : List Consumed) : (setConsumed l s).fus = s.fus := rfl
@[simp] theorem setConsumed_plan (l : List Consumed) : (setConsumed l s).plan = s.plan := rfl
@[simp] theorem setConsumed_cle (l : List Consumed) : (setConsumed l s).cle = s.cle := rfl
@[simp] theorem setConsumed_safe (l : List Consumed) : (setConsumed l s).safe = s.safe := rfl
@[simp] theorem setConsumed_prog (l : List Consumed) : (setConsumed l s).prog = s.prog := rfl
@[simp] theorem setConsumed_power (l : List Consumed) : (setConsumed l s).power = s.power := rfl
@[simp] theorem setConsumed_lim (l : List Consumed) : (setConsumed l s).lim = s.lim := rfl
@[simp] theorem setConsumed_sec (l : List Consumed) : (setConsumed l s).sec = s.sec := rfl
@[simp] theorem setConsumed_upd (l : List Consumed) : (setConsumed l s).upd = s.upd := rfl
@[simp] theorem setConsumed_elec (l : List Consumed) : (setConsumed l s).elec = s.elec := rfl

/-! ### setSq -/

@[simp] theorem setSq_pending (i : Nat) (r : SqRing) : (setSq i r s).pending = s.pending := rfl
@[simp] theorem setSq_phase (i : Nat) (r : SqRing) : (setSq i r s).phase = s.phase := rfl
@[simp] theorem setSq_clock (i : Nat) (r : SqRing) : (setSq i r s).clock = s.clock := rfl
@[simp] theorem setSq_timeN (i : Nat) (r : SqRing) : (setSq i r s).timeN = s.timeN := rfl
@[simp] theorem setSq_timeFrac (i : Nat) (r : SqRing) : (setSq i r s).timeFrac = s.timeFrac := rfl
@[simp] theorem setSq_rate (i : Nat) (r : SqRing) : (setSq i r s).rate = s.rate := rfl
@[simp] theorem setSq_freeCtr (i : Nat) (r : SqRing) : (setSq i r s).freeCtr = s.freeCtr := rfl
@[simp] theorem setSq_regs (i : Nat) (r : SqRing) : (setSq i r s).regs = s.regs := rfl
@[simp] theorem setSq_mem (i : Nat) (r : SqRing) : (setSq i r s).mem = s.mem := rfl
@[simp] theorem setSq_acc (i : Nat) (r : SqRing) : (setSq i r s).acc = s.acc := rfl
@[simp] theorem setSq_accSat (i : Nat) (r : SqRing) : (setSq i r s).accSat = s.accSat := rfl
@[simp] theorem setSq_accTol (i : Nat) (r : SqRing) : (setSq i r s).accTol = s.accTol := rfl
@[simp] theorem setSq_tx (i : Nat) (r : SqRing) : (setSq i r s).tx = s.tx := rfl
@[simp] theorem setSq_log (i : Nat) (r : SqRing) : (setSq i r s).log = s.log := rfl
@[simp] theorem setSq_host (i : Nat) (r : SqRing) : (setSq i r s).host = { s.host with sqs := mapSet s.host.sqs i r } := rfl
@[simp] theorem setSq_jobs (i : Nat) (r : SqRing) : (setSq i r s).jobs = s.jobs := rfl
@[simp] theorem setSq_streams (i : Nat) (r : SqRing) : (setSq i r s).streams = s.streams := rfl
@[simp] theorem setSq_dies (i : Nat) (r : SqRing) : (setSq i r s).dies = s.dies := rfl
@[simp] theorem setSq_sends (i : Nat) (r : SqRing) : (setSq i r s).sends = s.sends := rfl
@[simp] theorem setSq_nextSend (i : Nat) (r : SqRing) : (setSq i r s).nextSend = s.nextSend := rfl
@[simp] theorem setSq_tiers (i : Nat) (r : SqRing) : (setSq i r s).tiers = s.tiers := rfl
@[simp] theorem setSq_causes (i : Nat) (r : SqRing) : (setSq i r s).causes = s.causes := rfl
@[simp] theorem setSq_domains (i : Nat) (r : SqRing) : (setSq i r s).domains = s.domains := rfl
@[simp] theorem setSq_time (i : Nat) (r : SqRing) : (setSq i r s).time = s.time := rfl
@[simp] theorem setSq_tables (i : Nat) (r : SqRing) : (setSq i r s).tables = s.tables := rfl
@[simp] theorem setSq_fus (i : Nat) (r : SqRing) : (setSq i r s).fus = s.fus := rfl
@[simp] theorem setSq_plan (i : Nat) (r : SqRing) : (setSq i r s).plan = s.plan := rfl
@[simp] theorem setSq_cle (i : Nat) (r : SqRing) : (setSq i r s).cle = s.cle := rfl
@[simp] theorem setSq_safe (i : Nat) (r : SqRing) : (setSq i r s).safe = s.safe := rfl
@[simp] theorem setSq_prog (i : Nat) (r : SqRing) : (setSq i r s).prog = s.prog := rfl
@[simp] theorem setSq_power (i : Nat) (r : SqRing) : (setSq i r s).power = s.power := rfl
@[simp] theorem setSq_lim (i : Nat) (r : SqRing) : (setSq i r s).lim = s.lim := rfl
@[simp] theorem setSq_sec (i : Nat) (r : SqRing) : (setSq i r s).sec = s.sec := rfl
@[simp] theorem setSq_upd (i : Nat) (r : SqRing) : (setSq i r s).upd = s.upd := rfl
@[simp] theorem setSq_elec (i : Nat) (r : SqRing) : (setSq i r s).elec = s.elec := rfl

/-! ### setCq -/

@[simp] theorem setCq_pending (i : Nat) (r : CqRing) : (setCq i r s).pending = s.pending := rfl
@[simp] theorem setCq_phase (i : Nat) (r : CqRing) : (setCq i r s).phase = s.phase := rfl
@[simp] theorem setCq_clock (i : Nat) (r : CqRing) : (setCq i r s).clock = s.clock := rfl
@[simp] theorem setCq_timeN (i : Nat) (r : CqRing) : (setCq i r s).timeN = s.timeN := rfl
@[simp] theorem setCq_timeFrac (i : Nat) (r : CqRing) : (setCq i r s).timeFrac = s.timeFrac := rfl
@[simp] theorem setCq_rate (i : Nat) (r : CqRing) : (setCq i r s).rate = s.rate := rfl
@[simp] theorem setCq_freeCtr (i : Nat) (r : CqRing) : (setCq i r s).freeCtr = s.freeCtr := rfl
@[simp] theorem setCq_regs (i : Nat) (r : CqRing) : (setCq i r s).regs = s.regs := rfl
@[simp] theorem setCq_mem (i : Nat) (r : CqRing) : (setCq i r s).mem = s.mem := rfl
@[simp] theorem setCq_acc (i : Nat) (r : CqRing) : (setCq i r s).acc = s.acc := rfl
@[simp] theorem setCq_accSat (i : Nat) (r : CqRing) : (setCq i r s).accSat = s.accSat := rfl
@[simp] theorem setCq_accTol (i : Nat) (r : CqRing) : (setCq i r s).accTol = s.accTol := rfl
@[simp] theorem setCq_tx (i : Nat) (r : CqRing) : (setCq i r s).tx = s.tx := rfl
@[simp] theorem setCq_log (i : Nat) (r : CqRing) : (setCq i r s).log = s.log := rfl
@[simp] theorem setCq_host (i : Nat) (r : CqRing) : (setCq i r s).host = { s.host with cqs := mapSet s.host.cqs i r } := rfl
@[simp] theorem setCq_jobs (i : Nat) (r : CqRing) : (setCq i r s).jobs = s.jobs := rfl
@[simp] theorem setCq_streams (i : Nat) (r : CqRing) : (setCq i r s).streams = s.streams := rfl
@[simp] theorem setCq_dies (i : Nat) (r : CqRing) : (setCq i r s).dies = s.dies := rfl
@[simp] theorem setCq_sends (i : Nat) (r : CqRing) : (setCq i r s).sends = s.sends := rfl
@[simp] theorem setCq_nextSend (i : Nat) (r : CqRing) : (setCq i r s).nextSend = s.nextSend := rfl
@[simp] theorem setCq_tiers (i : Nat) (r : CqRing) : (setCq i r s).tiers = s.tiers := rfl
@[simp] theorem setCq_causes (i : Nat) (r : CqRing) : (setCq i r s).causes = s.causes := rfl
@[simp] theorem setCq_domains (i : Nat) (r : CqRing) : (setCq i r s).domains = s.domains := rfl
@[simp] theorem setCq_time (i : Nat) (r : CqRing) : (setCq i r s).time = s.time := rfl
@[simp] theorem setCq_tables (i : Nat) (r : CqRing) : (setCq i r s).tables = s.tables := rfl
@[simp] theorem setCq_fus (i : Nat) (r : CqRing) : (setCq i r s).fus = s.fus := rfl
@[simp] theorem setCq_plan (i : Nat) (r : CqRing) : (setCq i r s).plan = s.plan := rfl
@[simp] theorem setCq_cle (i : Nat) (r : CqRing) : (setCq i r s).cle = s.cle := rfl
@[simp] theorem setCq_safe (i : Nat) (r : CqRing) : (setCq i r s).safe = s.safe := rfl
@[simp] theorem setCq_prog (i : Nat) (r : CqRing) : (setCq i r s).prog = s.prog := rfl
@[simp] theorem setCq_power (i : Nat) (r : CqRing) : (setCq i r s).power = s.power := rfl
@[simp] theorem setCq_lim (i : Nat) (r : CqRing) : (setCq i r s).lim = s.lim := rfl
@[simp] theorem setCq_sec (i : Nat) (r : CqRing) : (setCq i r s).sec = s.sec := rfl
@[simp] theorem setCq_upd (i : Nat) (r : CqRing) : (setCq i r s).upd = s.upd := rfl
@[simp] theorem setCq_elec (i : Nat) (r : CqRing) : (setCq i r s).elec = s.elec := rfl

/-! ### passSeq -/

@[simp] theorem passSeq_pending : (passSeq s).pending = s.pending := rfl
@[simp] theorem passSeq_phase : (passSeq s).phase = s.phase := rfl
@[simp] theorem passSeq_clock : (passSeq s).clock = s.clock := rfl
@[simp] theorem passSeq_timeN : (passSeq s).timeN = s.timeN := rfl
@[simp] theorem passSeq_timeFrac : (passSeq s).timeFrac = s.timeFrac := rfl
@[simp] theorem passSeq_rate : (passSeq s).rate = s.rate := rfl
@[simp] theorem passSeq_freeCtr : (passSeq s).freeCtr = s.freeCtr := rfl
@[simp] theorem passSeq_regs : (passSeq s).regs = s.regs := rfl
@[simp] theorem passSeq_mem : (passSeq s).mem = s.mem := rfl
@[simp] theorem passSeq_acc : (passSeq s).acc = s.acc := rfl
@[simp] theorem passSeq_accSat : (passSeq s).accSat = s.accSat := rfl
@[simp] theorem passSeq_accTol : (passSeq s).accTol = s.accTol := rfl
@[simp] theorem passSeq_tx : (passSeq s).tx = s.tx := rfl
@[simp] theorem passSeq_log : (passSeq s).log = s.log := rfl
@[simp] theorem passSeq_host : (passSeq s).host = { s.host with seq := s.host.seq + 1 } := rfl
@[simp] theorem passSeq_jobs : (passSeq s).jobs = s.jobs := rfl
@[simp] theorem passSeq_streams : (passSeq s).streams = s.streams := rfl
@[simp] theorem passSeq_dies : (passSeq s).dies = s.dies := rfl
@[simp] theorem passSeq_sends : (passSeq s).sends = s.sends := rfl
@[simp] theorem passSeq_nextSend : (passSeq s).nextSend = s.nextSend := rfl
@[simp] theorem passSeq_tiers : (passSeq s).tiers = s.tiers := rfl
@[simp] theorem passSeq_causes : (passSeq s).causes = s.causes := rfl
@[simp] theorem passSeq_domains : (passSeq s).domains = s.domains := rfl
@[simp] theorem passSeq_time : (passSeq s).time = s.time := rfl
@[simp] theorem passSeq_tables : (passSeq s).tables = s.tables := rfl
@[simp] theorem passSeq_fus : (passSeq s).fus = s.fus := rfl
@[simp] theorem passSeq_plan : (passSeq s).plan = s.plan := rfl
@[simp] theorem passSeq_cle : (passSeq s).cle = s.cle := rfl
@[simp] theorem passSeq_safe : (passSeq s).safe = s.safe := rfl
@[simp] theorem passSeq_prog : (passSeq s).prog = s.prog := rfl
@[simp] theorem passSeq_power : (passSeq s).power = s.power := rfl
@[simp] theorem passSeq_lim : (passSeq s).lim = s.lim := rfl
@[simp] theorem passSeq_sec : (passSeq s).sec = s.sec := rfl
@[simp] theorem passSeq_upd : (passSeq s).upd = s.upd := rfl
@[simp] theorem passSeq_elec : (passSeq s).elec = s.elec := rfl

/-! ### setJob -/

@[simp] theorem setJob_pending (j : Nat) (x : Job) : (setJob j x s).pending = s.pending := rfl
@[simp] theorem setJob_phase (j : Nat) (x : Job) : (setJob j x s).phase = s.phase := rfl
@[simp] theorem setJob_clock (j : Nat) (x : Job) : (setJob j x s).clock = s.clock := rfl
@[simp] theorem setJob_timeN (j : Nat) (x : Job) : (setJob j x s).timeN = s.timeN := rfl
@[simp] theorem setJob_timeFrac (j : Nat) (x : Job) : (setJob j x s).timeFrac = s.timeFrac := rfl
@[simp] theorem setJob_rate (j : Nat) (x : Job) : (setJob j x s).rate = s.rate := rfl
@[simp] theorem setJob_freeCtr (j : Nat) (x : Job) : (setJob j x s).freeCtr = s.freeCtr := rfl
@[simp] theorem setJob_regs (j : Nat) (x : Job) : (setJob j x s).regs = s.regs := rfl
@[simp] theorem setJob_mem (j : Nat) (x : Job) : (setJob j x s).mem = s.mem := rfl
@[simp] theorem setJob_acc (j : Nat) (x : Job) : (setJob j x s).acc = s.acc := rfl
@[simp] theorem setJob_accSat (j : Nat) (x : Job) : (setJob j x s).accSat = s.accSat := rfl
@[simp] theorem setJob_accTol (j : Nat) (x : Job) : (setJob j x s).accTol = s.accTol := rfl
@[simp] theorem setJob_tx (j : Nat) (x : Job) : (setJob j x s).tx = s.tx := rfl
@[simp] theorem setJob_log (j : Nat) (x : Job) : (setJob j x s).log = s.log := rfl
@[simp] theorem setJob_host (j : Nat) (x : Job) : (setJob j x s).host = s.host := rfl
@[simp] theorem setJob_jobs (j : Nat) (x : Job) : (setJob j x s).jobs = mapSet s.jobs j x := rfl
@[simp] theorem setJob_streams (j : Nat) (x : Job) : (setJob j x s).streams = s.streams := rfl
@[simp] theorem setJob_dies (j : Nat) (x : Job) : (setJob j x s).dies = s.dies := rfl
@[simp] theorem setJob_sends (j : Nat) (x : Job) : (setJob j x s).sends = s.sends := rfl
@[simp] theorem setJob_nextSend (j : Nat) (x : Job) : (setJob j x s).nextSend = s.nextSend := rfl
@[simp] theorem setJob_tiers (j : Nat) (x : Job) : (setJob j x s).tiers = s.tiers := rfl
@[simp] theorem setJob_causes (j : Nat) (x : Job) : (setJob j x s).causes = s.causes := rfl
@[simp] theorem setJob_domains (j : Nat) (x : Job) : (setJob j x s).domains = s.domains := rfl
@[simp] theorem setJob_time (j : Nat) (x : Job) : (setJob j x s).time = s.time := rfl
@[simp] theorem setJob_tables (j : Nat) (x : Job) : (setJob j x s).tables = s.tables := rfl
@[simp] theorem setJob_fus (j : Nat) (x : Job) : (setJob j x s).fus = s.fus := rfl
@[simp] theorem setJob_plan (j : Nat) (x : Job) : (setJob j x s).plan = s.plan := rfl
@[simp] theorem setJob_cle (j : Nat) (x : Job) : (setJob j x s).cle = s.cle := rfl
@[simp] theorem setJob_safe (j : Nat) (x : Job) : (setJob j x s).safe = s.safe := rfl
@[simp] theorem setJob_prog (j : Nat) (x : Job) : (setJob j x s).prog = s.prog := rfl
@[simp] theorem setJob_power (j : Nat) (x : Job) : (setJob j x s).power = s.power := rfl
@[simp] theorem setJob_lim (j : Nat) (x : Job) : (setJob j x s).lim = s.lim := rfl
@[simp] theorem setJob_sec (j : Nat) (x : Job) : (setJob j x s).sec = s.sec := rfl
@[simp] theorem setJob_upd (j : Nat) (x : Job) : (setJob j x s).upd = s.upd := rfl
@[simp] theorem setJob_elec (j : Nat) (x : Job) : (setJob j x s).elec = s.elec := rfl

/-! ### adjJob -/

@[simp] theorem adjJob_pending (j : Nat) (f : Job → Job) : (adjJob j f s).pending = s.pending := rfl
@[simp] theorem adjJob_phase (j : Nat) (f : Job → Job) : (adjJob j f s).phase = s.phase := rfl
@[simp] theorem adjJob_clock (j : Nat) (f : Job → Job) : (adjJob j f s).clock = s.clock := rfl
@[simp] theorem adjJob_timeN (j : Nat) (f : Job → Job) : (adjJob j f s).timeN = s.timeN := rfl
@[simp] theorem adjJob_timeFrac (j : Nat) (f : Job → Job) : (adjJob j f s).timeFrac = s.timeFrac := rfl
@[simp] theorem adjJob_rate (j : Nat) (f : Job → Job) : (adjJob j f s).rate = s.rate := rfl
@[simp] theorem adjJob_freeCtr (j : Nat) (f : Job → Job) : (adjJob j f s).freeCtr = s.freeCtr := rfl
@[simp] theorem adjJob_regs (j : Nat) (f : Job → Job) : (adjJob j f s).regs = s.regs := rfl
@[simp] theorem adjJob_mem (j : Nat) (f : Job → Job) : (adjJob j f s).mem = s.mem := rfl
@[simp] theorem adjJob_acc (j : Nat) (f : Job → Job) : (adjJob j f s).acc = s.acc := rfl
@[simp] theorem adjJob_accSat (j : Nat) (f : Job → Job) : (adjJob j f s).accSat = s.accSat := rfl
@[simp] theorem adjJob_accTol (j : Nat) (f : Job → Job) : (adjJob j f s).accTol = s.accTol := rfl
@[simp] theorem adjJob_tx (j : Nat) (f : Job → Job) : (adjJob j f s).tx = s.tx := rfl
@[simp] theorem adjJob_log (j : Nat) (f : Job → Job) : (adjJob j f s).log = s.log := rfl
@[simp] theorem adjJob_host (j : Nat) (f : Job → Job) : (adjJob j f s).host = s.host := rfl
@[simp] theorem adjJob_jobs (j : Nat) (f : Job → Job) : (adjJob j f s).jobs = mapAdjust s.jobs j f := rfl
@[simp] theorem adjJob_streams (j : Nat) (f : Job → Job) : (adjJob j f s).streams = s.streams := rfl
@[simp] theorem adjJob_dies (j : Nat) (f : Job → Job) : (adjJob j f s).dies = s.dies := rfl
@[simp] theorem adjJob_sends (j : Nat) (f : Job → Job) : (adjJob j f s).sends = s.sends := rfl
@[simp] theorem adjJob_nextSend (j : Nat) (f : Job → Job) : (adjJob j f s).nextSend = s.nextSend := rfl
@[simp] theorem adjJob_tiers (j : Nat) (f : Job → Job) : (adjJob j f s).tiers = s.tiers := rfl
@[simp] theorem adjJob_causes (j : Nat) (f : Job → Job) : (adjJob j f s).causes = s.causes := rfl
@[simp] theorem adjJob_domains (j : Nat) (f : Job → Job) : (adjJob j f s).domains = s.domains := rfl
@[simp] theorem adjJob_time (j : Nat) (f : Job → Job) : (adjJob j f s).time = s.time := rfl
@[simp] theorem adjJob_tables (j : Nat) (f : Job → Job) : (adjJob j f s).tables = s.tables := rfl
@[simp] theorem adjJob_fus (j : Nat) (f : Job → Job) : (adjJob j f s).fus = s.fus := rfl
@[simp] theorem adjJob_plan (j : Nat) (f : Job → Job) : (adjJob j f s).plan = s.plan := rfl
@[simp] theorem adjJob_cle (j : Nat) (f : Job → Job) : (adjJob j f s).cle = s.cle := rfl
@[simp] theorem adjJob_safe (j : Nat) (f : Job → Job) : (adjJob j f s).safe = s.safe := rfl
@[simp] theorem adjJob_prog (j : Nat) (f : Job → Job) : (adjJob j f s).prog = s.prog := rfl
@[simp] theorem adjJob_power (j : Nat) (f : Job → Job) : (adjJob j f s).power = s.power := rfl
@[simp] theorem adjJob_lim (j : Nat) (f : Job → Job) : (adjJob j f s).lim = s.lim := rfl
@[simp] theorem adjJob_sec (j : Nat) (f : Job → Job) : (adjJob j f s).sec = s.sec := rfl
@[simp] theorem adjJob_upd (j : Nat) (f : Job → Job) : (adjJob j f s).upd = s.upd := rfl
@[simp] theorem adjJob_elec (j : Nat) (f : Job → Job) : (adjJob j f s).elec = s.elec := rfl

/-! ### setStream -/

@[simp] theorem setStream_pending (st : Nat) (x : Stream) : (setStream st x s).pending = s.pending := rfl
@[simp] theorem setStream_phase (st : Nat) (x : Stream) : (setStream st x s).phase = s.phase := rfl
@[simp] theorem setStream_clock (st : Nat) (x : Stream) : (setStream st x s).clock = s.clock := rfl
@[simp] theorem setStream_timeN (st : Nat) (x : Stream) : (setStream st x s).timeN = s.timeN := rfl
@[simp] theorem setStream_timeFrac (st : Nat) (x : Stream) : (setStream st x s).timeFrac = s.timeFrac := rfl
@[simp] theorem setStream_rate (st : Nat) (x : Stream) : (setStream st x s).rate = s.rate := rfl
@[simp] theorem setStream_freeCtr (st : Nat) (x : Stream) : (setStream st x s).freeCtr = s.freeCtr := rfl
@[simp] theorem setStream_regs (st : Nat) (x : Stream) : (setStream st x s).regs = s.regs := rfl
@[simp] theorem setStream_mem (st : Nat) (x : Stream) : (setStream st x s).mem = s.mem := rfl
@[simp] theorem setStream_acc (st : Nat) (x : Stream) : (setStream st x s).acc = s.acc := rfl
@[simp] theorem setStream_accSat (st : Nat) (x : Stream) : (setStream st x s).accSat = s.accSat := rfl
@[simp] theorem setStream_accTol (st : Nat) (x : Stream) : (setStream st x s).accTol = s.accTol := rfl
@[simp] theorem setStream_tx (st : Nat) (x : Stream) : (setStream st x s).tx = s.tx := rfl
@[simp] theorem setStream_log (st : Nat) (x : Stream) : (setStream st x s).log = s.log := rfl
@[simp] theorem setStream_host (st : Nat) (x : Stream) : (setStream st x s).host = s.host := rfl
@[simp] theorem setStream_jobs (st : Nat) (x : Stream) : (setStream st x s).jobs = s.jobs := rfl
@[simp] theorem setStream_streams (st : Nat) (x : Stream) : (setStream st x s).streams = mapSet s.streams st x := rfl
@[simp] theorem setStream_dies (st : Nat) (x : Stream) : (setStream st x s).dies = s.dies := rfl
@[simp] theorem setStream_sends (st : Nat) (x : Stream) : (setStream st x s).sends = s.sends := rfl
@[simp] theorem setStream_nextSend (st : Nat) (x : Stream) : (setStream st x s).nextSend = s.nextSend := rfl
@[simp] theorem setStream_tiers (st : Nat) (x : Stream) : (setStream st x s).tiers = s.tiers := rfl
@[simp] theorem setStream_causes (st : Nat) (x : Stream) : (setStream st x s).causes = s.causes := rfl
@[simp] theorem setStream_domains (st : Nat) (x : Stream) : (setStream st x s).domains = s.domains := rfl
@[simp] theorem setStream_time (st : Nat) (x : Stream) : (setStream st x s).time = s.time := rfl
@[simp] theorem setStream_tables (st : Nat) (x : Stream) : (setStream st x s).tables = s.tables := rfl
@[simp] theorem setStream_fus (st : Nat) (x : Stream) : (setStream st x s).fus = s.fus := rfl
@[simp] theorem setStream_plan (st : Nat) (x : Stream) : (setStream st x s).plan = s.plan := rfl
@[simp] theorem setStream_cle (st : Nat) (x : Stream) : (setStream st x s).cle = s.cle := rfl
@[simp] theorem setStream_safe (st : Nat) (x : Stream) : (setStream st x s).safe = s.safe := rfl
@[simp] theorem setStream_prog (st : Nat) (x : Stream) : (setStream st x s).prog = s.prog := rfl
@[simp] theorem setStream_power (st : Nat) (x : Stream) : (setStream st x s).power = s.power := rfl
@[simp] theorem setStream_lim (st : Nat) (x : Stream) : (setStream st x s).lim = s.lim := rfl
@[simp] theorem setStream_sec (st : Nat) (x : Stream) : (setStream st x s).sec = s.sec := rfl
@[simp] theorem setStream_upd (st : Nat) (x : Stream) : (setStream st x s).upd = s.upd := rfl
@[simp] theorem setStream_elec (st : Nat) (x : Stream) : (setStream st x s).elec = s.elec := rfl

/-! ### adjStream -/

@[simp] theorem adjStream_pending (st : Nat) (f : Stream → Stream) : (adjStream st f s).pending = s.pending := rfl
@[simp] theorem adjStream_phase (st : Nat) (f : Stream → Stream) : (adjStream st f s).phase = s.phase := rfl
@[simp] theorem adjStream_clock (st : Nat) (f : Stream → Stream) : (adjStream st f s).clock = s.clock := rfl
@[simp] theorem adjStream_timeN (st : Nat) (f : Stream → Stream) : (adjStream st f s).timeN = s.timeN := rfl
@[simp] theorem adjStream_timeFrac (st : Nat) (f : Stream → Stream) : (adjStream st f s).timeFrac = s.timeFrac := rfl
@[simp] theorem adjStream_rate (st : Nat) (f : Stream → Stream) : (adjStream st f s).rate = s.rate := rfl
@[simp] theorem adjStream_freeCtr (st : Nat) (f : Stream → Stream) : (adjStream st f s).freeCtr = s.freeCtr := rfl
@[simp] theorem adjStream_regs (st : Nat) (f : Stream → Stream) : (adjStream st f s).regs = s.regs := rfl
@[simp] theorem adjStream_mem (st : Nat) (f : Stream → Stream) : (adjStream st f s).mem = s.mem := rfl
@[simp] theorem adjStream_acc (st : Nat) (f : Stream → Stream) : (adjStream st f s).acc = s.acc := rfl
@[simp] theorem adjStream_accSat (st : Nat) (f : Stream → Stream) : (adjStream st f s).accSat = s.accSat := rfl
@[simp] theorem adjStream_accTol (st : Nat) (f : Stream → Stream) : (adjStream st f s).accTol = s.accTol := rfl
@[simp] theorem adjStream_tx (st : Nat) (f : Stream → Stream) : (adjStream st f s).tx = s.tx := rfl
@[simp] theorem adjStream_log (st : Nat) (f : Stream → Stream) : (adjStream st f s).log = s.log := rfl
@[simp] theorem adjStream_host (st : Nat) (f : Stream → Stream) : (adjStream st f s).host = s.host := rfl
@[simp] theorem adjStream_jobs (st : Nat) (f : Stream → Stream) : (adjStream st f s).jobs = s.jobs := rfl
@[simp] theorem adjStream_streams (st : Nat) (f : Stream → Stream) : (adjStream st f s).streams = mapAdjust s.streams st f := rfl
@[simp] theorem adjStream_dies (st : Nat) (f : Stream → Stream) : (adjStream st f s).dies = s.dies := rfl
@[simp] theorem adjStream_sends (st : Nat) (f : Stream → Stream) : (adjStream st f s).sends = s.sends := rfl
@[simp] theorem adjStream_nextSend (st : Nat) (f : Stream → Stream) : (adjStream st f s).nextSend = s.nextSend := rfl
@[simp] theorem adjStream_tiers (st : Nat) (f : Stream → Stream) : (adjStream st f s).tiers = s.tiers := rfl
@[simp] theorem adjStream_causes (st : Nat) (f : Stream → Stream) : (adjStream st f s).causes = s.causes := rfl
@[simp] theorem adjStream_domains (st : Nat) (f : Stream → Stream) : (adjStream st f s).domains = s.domains := rfl
@[simp] theorem adjStream_time (st : Nat) (f : Stream → Stream) : (adjStream st f s).time = s.time := rfl
@[simp] theorem adjStream_tables (st : Nat) (f : Stream → Stream) : (adjStream st f s).tables = s.tables := rfl
@[simp] theorem adjStream_fus (st : Nat) (f : Stream → Stream) : (adjStream st f s).fus = s.fus := rfl
@[simp] theorem adjStream_plan (st : Nat) (f : Stream → Stream) : (adjStream st f s).plan = s.plan := rfl
@[simp] theorem adjStream_cle (st : Nat) (f : Stream → Stream) : (adjStream st f s).cle = s.cle := rfl
@[simp] theorem adjStream_safe (st : Nat) (f : Stream → Stream) : (adjStream st f s).safe = s.safe := rfl
@[simp] theorem adjStream_prog (st : Nat) (f : Stream → Stream) : (adjStream st f s).prog = s.prog := rfl
@[simp] theorem adjStream_power (st : Nat) (f : Stream → Stream) : (adjStream st f s).power = s.power := rfl
@[simp] theorem adjStream_lim (st : Nat) (f : Stream → Stream) : (adjStream st f s).lim = s.lim := rfl
@[simp] theorem adjStream_sec (st : Nat) (f : Stream → Stream) : (adjStream st f s).sec = s.sec := rfl
@[simp] theorem adjStream_upd (st : Nat) (f : Stream → Stream) : (adjStream st f s).upd = s.upd := rfl
@[simp] theorem adjStream_elec (st : Nat) (f : Stream → Stream) : (adjStream st f s).elec = s.elec := rfl

/-! ### setDie -/

@[simp] theorem setDie_pending (d : Nat) (x : Die) : (setDie d x s).pending = s.pending := rfl
@[simp] theorem setDie_phase (d : Nat) (x : Die) : (setDie d x s).phase = s.phase := rfl
@[simp] theorem setDie_clock (d : Nat) (x : Die) : (setDie d x s).clock = s.clock := rfl
@[simp] theorem setDie_timeN (d : Nat) (x : Die) : (setDie d x s).timeN = s.timeN := rfl
@[simp] theorem setDie_timeFrac (d : Nat) (x : Die) : (setDie d x s).timeFrac = s.timeFrac := rfl
@[simp] theorem setDie_rate (d : Nat) (x : Die) : (setDie d x s).rate = s.rate := rfl
@[simp] theorem setDie_freeCtr (d : Nat) (x : Die) : (setDie d x s).freeCtr = s.freeCtr := rfl
@[simp] theorem setDie_regs (d : Nat) (x : Die) : (setDie d x s).regs = s.regs := rfl
@[simp] theorem setDie_mem (d : Nat) (x : Die) : (setDie d x s).mem = s.mem := rfl
@[simp] theorem setDie_acc (d : Nat) (x : Die) : (setDie d x s).acc = s.acc := rfl
@[simp] theorem setDie_accSat (d : Nat) (x : Die) : (setDie d x s).accSat = s.accSat := rfl
@[simp] theorem setDie_accTol (d : Nat) (x : Die) : (setDie d x s).accTol = s.accTol := rfl
@[simp] theorem setDie_tx (d : Nat) (x : Die) : (setDie d x s).tx = s.tx := rfl
@[simp] theorem setDie_log (d : Nat) (x : Die) : (setDie d x s).log = s.log := rfl
@[simp] theorem setDie_host (d : Nat) (x : Die) : (setDie d x s).host = s.host := rfl
@[simp] theorem setDie_jobs (d : Nat) (x : Die) : (setDie d x s).jobs = s.jobs := rfl
@[simp] theorem setDie_streams (d : Nat) (x : Die) : (setDie d x s).streams = s.streams := rfl
@[simp] theorem setDie_dies (d : Nat) (x : Die) : (setDie d x s).dies = s.dies.set d x := rfl
@[simp] theorem setDie_sends (d : Nat) (x : Die) : (setDie d x s).sends = s.sends := rfl
@[simp] theorem setDie_nextSend (d : Nat) (x : Die) : (setDie d x s).nextSend = s.nextSend := rfl
@[simp] theorem setDie_tiers (d : Nat) (x : Die) : (setDie d x s).tiers = s.tiers := rfl
@[simp] theorem setDie_causes (d : Nat) (x : Die) : (setDie d x s).causes = s.causes := rfl
@[simp] theorem setDie_domains (d : Nat) (x : Die) : (setDie d x s).domains = s.domains := rfl
@[simp] theorem setDie_time (d : Nat) (x : Die) : (setDie d x s).time = s.time := rfl
@[simp] theorem setDie_tables (d : Nat) (x : Die) : (setDie d x s).tables = s.tables := rfl
@[simp] theorem setDie_fus (d : Nat) (x : Die) : (setDie d x s).fus = s.fus := rfl
@[simp] theorem setDie_plan (d : Nat) (x : Die) : (setDie d x s).plan = s.plan := rfl
@[simp] theorem setDie_cle (d : Nat) (x : Die) : (setDie d x s).cle = s.cle := rfl
@[simp] theorem setDie_safe (d : Nat) (x : Die) : (setDie d x s).safe = s.safe := rfl
@[simp] theorem setDie_prog (d : Nat) (x : Die) : (setDie d x s).prog = s.prog := rfl
@[simp] theorem setDie_power (d : Nat) (x : Die) : (setDie d x s).power = s.power := rfl
@[simp] theorem setDie_lim (d : Nat) (x : Die) : (setDie d x s).lim = s.lim := rfl
@[simp] theorem setDie_sec (d : Nat) (x : Die) : (setDie d x s).sec = s.sec := rfl
@[simp] theorem setDie_upd (d : Nat) (x : Die) : (setDie d x s).upd = s.upd := rfl
@[simp] theorem setDie_elec (d : Nat) (x : Die) : (setDie d x s).elec = s.elec := rfl

/-! ### setDomain -/

@[simp] theorem setDomain_pending (d : Nat) (x : DomState) : (setDomain d x s).pending = s.pending := rfl
@[simp] theorem setDomain_phase (d : Nat) (x : DomState) : (setDomain d x s).phase = s.phase := rfl
@[simp] theorem setDomain_clock (d : Nat) (x : DomState) : (setDomain d x s).clock = s.clock := rfl
@[simp] theorem setDomain_timeN (d : Nat) (x : DomState) : (setDomain d x s).timeN = s.timeN := rfl
@[simp] theorem setDomain_timeFrac (d : Nat) (x : DomState) : (setDomain d x s).timeFrac = s.timeFrac := rfl
@[simp] theorem setDomain_rate (d : Nat) (x : DomState) : (setDomain d x s).rate = s.rate := rfl
@[simp] theorem setDomain_freeCtr (d : Nat) (x : DomState) : (setDomain d x s).freeCtr = s.freeCtr := rfl
@[simp] theorem setDomain_regs (d : Nat) (x : DomState) : (setDomain d x s).regs = s.regs := rfl
@[simp] theorem setDomain_mem (d : Nat) (x : DomState) : (setDomain d x s).mem = s.mem := rfl
@[simp] theorem setDomain_acc (d : Nat) (x : DomState) : (setDomain d x s).acc = s.acc := rfl
@[simp] theorem setDomain_accSat (d : Nat) (x : DomState) : (setDomain d x s).accSat = s.accSat := rfl
@[simp] theorem setDomain_accTol (d : Nat) (x : DomState) : (setDomain d x s).accTol = s.accTol := rfl
@[simp] theorem setDomain_tx (d : Nat) (x : DomState) : (setDomain d x s).tx = s.tx := rfl
@[simp] theorem setDomain_log (d : Nat) (x : DomState) : (setDomain d x s).log = s.log := rfl
@[simp] theorem setDomain_host (d : Nat) (x : DomState) : (setDomain d x s).host = s.host := rfl
@[simp] theorem setDomain_jobs (d : Nat) (x : DomState) : (setDomain d x s).jobs = s.jobs := rfl
@[simp] theorem setDomain_streams (d : Nat) (x : DomState) : (setDomain d x s).streams = s.streams := rfl
@[simp] theorem setDomain_dies (d : Nat) (x : DomState) : (setDomain d x s).dies = s.dies := rfl
@[simp] theorem setDomain_sends (d : Nat) (x : DomState) : (setDomain d x s).sends = s.sends := rfl
@[simp] theorem setDomain_nextSend (d : Nat) (x : DomState) : (setDomain d x s).nextSend = s.nextSend := rfl
@[simp] theorem setDomain_tiers (d : Nat) (x : DomState) : (setDomain d x s).tiers = s.tiers := rfl
@[simp] theorem setDomain_causes (d : Nat) (x : DomState) : (setDomain d x s).causes = s.causes := rfl
@[simp] theorem setDomain_domains (d : Nat) (x : DomState) : (setDomain d x s).domains = s.domains.set (d - 1) x := rfl
@[simp] theorem setDomain_time (d : Nat) (x : DomState) : (setDomain d x s).time = s.time := rfl
@[simp] theorem setDomain_tables (d : Nat) (x : DomState) : (setDomain d x s).tables = s.tables := rfl
@[simp] theorem setDomain_fus (d : Nat) (x : DomState) : (setDomain d x s).fus = s.fus := rfl
@[simp] theorem setDomain_plan (d : Nat) (x : DomState) : (setDomain d x s).plan = s.plan := rfl
@[simp] theorem setDomain_cle (d : Nat) (x : DomState) : (setDomain d x s).cle = s.cle := rfl
@[simp] theorem setDomain_safe (d : Nat) (x : DomState) : (setDomain d x s).safe = s.safe := rfl
@[simp] theorem setDomain_prog (d : Nat) (x : DomState) : (setDomain d x s).prog = s.prog := rfl
@[simp] theorem setDomain_power (d : Nat) (x : DomState) : (setDomain d x s).power = s.power := rfl
@[simp] theorem setDomain_lim (d : Nat) (x : DomState) : (setDomain d x s).lim = s.lim := rfl
@[simp] theorem setDomain_sec (d : Nat) (x : DomState) : (setDomain d x s).sec = s.sec := rfl
@[simp] theorem setDomain_upd (d : Nat) (x : DomState) : (setDomain d x s).upd = s.upd := rfl
@[simp] theorem setDomain_elec (d : Nat) (x : DomState) : (setDomain d x s).elec = s.elec := rfl

/-! ### raiseCause -/

@[simp] theorem raiseCause_pending (job code : Nat) : (raiseCause job code s).pending = s.pending := rfl
@[simp] theorem raiseCause_phase (job code : Nat) : (raiseCause job code s).phase = s.phase := rfl
@[simp] theorem raiseCause_clock (job code : Nat) : (raiseCause job code s).clock = s.clock := rfl
@[simp] theorem raiseCause_timeN (job code : Nat) : (raiseCause job code s).timeN = s.timeN := rfl
@[simp] theorem raiseCause_timeFrac (job code : Nat) : (raiseCause job code s).timeFrac = s.timeFrac := rfl
@[simp] theorem raiseCause_rate (job code : Nat) : (raiseCause job code s).rate = s.rate := rfl
@[simp] theorem raiseCause_freeCtr (job code : Nat) : (raiseCause job code s).freeCtr = s.freeCtr := rfl
@[simp] theorem raiseCause_regs (job code : Nat) : (raiseCause job code s).regs = s.regs := rfl
@[simp] theorem raiseCause_mem (job code : Nat) : (raiseCause job code s).mem = s.mem := rfl
@[simp] theorem raiseCause_acc (job code : Nat) : (raiseCause job code s).acc = s.acc := rfl
@[simp] theorem raiseCause_accSat (job code : Nat) : (raiseCause job code s).accSat = s.accSat := rfl
@[simp] theorem raiseCause_accTol (job code : Nat) : (raiseCause job code s).accTol = s.accTol := rfl
@[simp] theorem raiseCause_tx (job code : Nat) : (raiseCause job code s).tx = s.tx := rfl
@[simp] theorem raiseCause_log (job code : Nat) : (raiseCause job code s).log = s.log := rfl
@[simp] theorem raiseCause_host (job code : Nat) : (raiseCause job code s).host = s.host := rfl
@[simp] theorem raiseCause_jobs (job code : Nat) : (raiseCause job code s).jobs = s.jobs := rfl
@[simp] theorem raiseCause_streams (job code : Nat) : (raiseCause job code s).streams = s.streams := rfl
@[simp] theorem raiseCause_dies (job code : Nat) : (raiseCause job code s).dies = s.dies := rfl
@[simp] theorem raiseCause_sends (job code : Nat) : (raiseCause job code s).sends = s.sends := rfl
@[simp] theorem raiseCause_nextSend (job code : Nat) : (raiseCause job code s).nextSend = s.nextSend := rfl
@[simp] theorem raiseCause_tiers (job code : Nat) : (raiseCause job code s).tiers = s.tiers := rfl
@[simp] theorem raiseCause_causes (job code : Nat) : (raiseCause job code s).causes = s.causes ++ [(job, code)] := rfl
@[simp] theorem raiseCause_domains (job code : Nat) : (raiseCause job code s).domains = s.domains := rfl
@[simp] theorem raiseCause_time (job code : Nat) : (raiseCause job code s).time = s.time := rfl
@[simp] theorem raiseCause_tables (job code : Nat) : (raiseCause job code s).tables = s.tables := rfl
@[simp] theorem raiseCause_fus (job code : Nat) : (raiseCause job code s).fus = s.fus := rfl
@[simp] theorem raiseCause_plan (job code : Nat) : (raiseCause job code s).plan = s.plan := rfl
@[simp] theorem raiseCause_cle (job code : Nat) : (raiseCause job code s).cle = s.cle := rfl
@[simp] theorem raiseCause_safe (job code : Nat) : (raiseCause job code s).safe = s.safe := rfl
@[simp] theorem raiseCause_prog (job code : Nat) : (raiseCause job code s).prog = s.prog := rfl
@[simp] theorem raiseCause_power (job code : Nat) : (raiseCause job code s).power = s.power := rfl
@[simp] theorem raiseCause_lim (job code : Nat) : (raiseCause job code s).lim = s.lim := rfl
@[simp] theorem raiseCause_sec (job code : Nat) : (raiseCause job code s).sec = s.sec := rfl
@[simp] theorem raiseCause_upd (job code : Nat) : (raiseCause job code s).upd = s.upd := rfl
@[simp] theorem raiseCause_elec (job code : Nat) : (raiseCause job code s).elec = s.elec := rfl

/-! ### setTiers -/

@[simp] theorem setTiers_pending (x : Tiers) : (setTiers x s).pending = s.pending := rfl
@[simp] theorem setTiers_phase (x : Tiers) : (setTiers x s).phase = s.phase := rfl
@[simp] theorem setTiers_clock (x : Tiers) : (setTiers x s).clock = s.clock := rfl
@[simp] theorem setTiers_timeN (x : Tiers) : (setTiers x s).timeN = s.timeN := rfl
@[simp] theorem setTiers_timeFrac (x : Tiers) : (setTiers x s).timeFrac = s.timeFrac := rfl
@[simp] theorem setTiers_rate (x : Tiers) : (setTiers x s).rate = s.rate := rfl
@[simp] theorem setTiers_freeCtr (x : Tiers) : (setTiers x s).freeCtr = s.freeCtr := rfl
@[simp] theorem setTiers_regs (x : Tiers) : (setTiers x s).regs = s.regs := rfl
@[simp] theorem setTiers_mem (x : Tiers) : (setTiers x s).mem = s.mem := rfl
@[simp] theorem setTiers_acc (x : Tiers) : (setTiers x s).acc = s.acc := rfl
@[simp] theorem setTiers_accSat (x : Tiers) : (setTiers x s).accSat = s.accSat := rfl
@[simp] theorem setTiers_accTol (x : Tiers) : (setTiers x s).accTol = s.accTol := rfl
@[simp] theorem setTiers_tx (x : Tiers) : (setTiers x s).tx = s.tx := rfl
@[simp] theorem setTiers_log (x : Tiers) : (setTiers x s).log = s.log := rfl
@[simp] theorem setTiers_host (x : Tiers) : (setTiers x s).host = s.host := rfl
@[simp] theorem setTiers_jobs (x : Tiers) : (setTiers x s).jobs = s.jobs := rfl
@[simp] theorem setTiers_streams (x : Tiers) : (setTiers x s).streams = s.streams := rfl
@[simp] theorem setTiers_dies (x : Tiers) : (setTiers x s).dies = s.dies := rfl
@[simp] theorem setTiers_sends (x : Tiers) : (setTiers x s).sends = s.sends := rfl
@[simp] theorem setTiers_nextSend (x : Tiers) : (setTiers x s).nextSend = s.nextSend := rfl
@[simp] theorem setTiers_tiers (x : Tiers) : (setTiers x s).tiers = x := rfl
@[simp] theorem setTiers_causes (x : Tiers) : (setTiers x s).causes = s.causes := rfl
@[simp] theorem setTiers_domains (x : Tiers) : (setTiers x s).domains = s.domains := rfl
@[simp] theorem setTiers_time (x : Tiers) : (setTiers x s).time = s.time := rfl
@[simp] theorem setTiers_tables (x : Tiers) : (setTiers x s).tables = s.tables := rfl
@[simp] theorem setTiers_fus (x : Tiers) : (setTiers x s).fus = s.fus := rfl
@[simp] theorem setTiers_plan (x : Tiers) : (setTiers x s).plan = s.plan := rfl
@[simp] theorem setTiers_cle (x : Tiers) : (setTiers x s).cle = s.cle := rfl
@[simp] theorem setTiers_safe (x : Tiers) : (setTiers x s).safe = s.safe := rfl
@[simp] theorem setTiers_prog (x : Tiers) : (setTiers x s).prog = s.prog := rfl
@[simp] theorem setTiers_power (x : Tiers) : (setTiers x s).power = s.power := rfl
@[simp] theorem setTiers_lim (x : Tiers) : (setTiers x s).lim = s.lim := rfl
@[simp] theorem setTiers_sec (x : Tiers) : (setTiers x s).sec = s.sec := rfl
@[simp] theorem setTiers_upd (x : Tiers) : (setTiers x s).upd = s.upd := rfl
@[simp] theorem setTiers_elec (x : Tiers) : (setTiers x s).elec = s.elec := rfl

/-! ### setTime -/

@[simp] theorem setTime_pending (x : TimeUnit) : (setTime x s).pending = s.pending := rfl
@[simp] theorem setTime_phase (x : TimeUnit) : (setTime x s).phase = s.phase := rfl
@[simp] theorem setTime_clock (x : TimeUnit) : (setTime x s).clock = s.clock := rfl
@[simp] theorem setTime_timeN (x : TimeUnit) : (setTime x s).timeN = s.timeN := rfl
@[simp] theorem setTime_timeFrac (x : TimeUnit) : (setTime x s).timeFrac = s.timeFrac := rfl
@[simp] theorem setTime_rate (x : TimeUnit) : (setTime x s).rate = s.rate := rfl
@[simp] theorem setTime_freeCtr (x : TimeUnit) : (setTime x s).freeCtr = s.freeCtr := rfl
@[simp] theorem setTime_regs (x : TimeUnit) : (setTime x s).regs = s.regs := rfl
@[simp] theorem setTime_mem (x : TimeUnit) : (setTime x s).mem = s.mem := rfl
@[simp] theorem setTime_acc (x : TimeUnit) : (setTime x s).acc = s.acc := rfl
@[simp] theorem setTime_accSat (x : TimeUnit) : (setTime x s).accSat = s.accSat := rfl
@[simp] theorem setTime_accTol (x : TimeUnit) : (setTime x s).accTol = s.accTol := rfl
@[simp] theorem setTime_tx (x : TimeUnit) : (setTime x s).tx = s.tx := rfl
@[simp] theorem setTime_log (x : TimeUnit) : (setTime x s).log = s.log := rfl
@[simp] theorem setTime_host (x : TimeUnit) : (setTime x s).host = s.host := rfl
@[simp] theorem setTime_jobs (x : TimeUnit) : (setTime x s).jobs = s.jobs := rfl
@[simp] theorem setTime_streams (x : TimeUnit) : (setTime x s).streams = s.streams := rfl
@[simp] theorem setTime_dies (x : TimeUnit) : (setTime x s).dies = s.dies := rfl
@[simp] theorem setTime_sends (x : TimeUnit) : (setTime x s).sends = s.sends := rfl
@[simp] theorem setTime_nextSend (x : TimeUnit) : (setTime x s).nextSend = s.nextSend := rfl
@[simp] theorem setTime_tiers (x : TimeUnit) : (setTime x s).tiers = s.tiers := rfl
@[simp] theorem setTime_causes (x : TimeUnit) : (setTime x s).causes = s.causes := rfl
@[simp] theorem setTime_domains (x : TimeUnit) : (setTime x s).domains = s.domains := rfl
@[simp] theorem setTime_time (x : TimeUnit) : (setTime x s).time = x := rfl
@[simp] theorem setTime_tables (x : TimeUnit) : (setTime x s).tables = s.tables := rfl
@[simp] theorem setTime_fus (x : TimeUnit) : (setTime x s).fus = s.fus := rfl
@[simp] theorem setTime_plan (x : TimeUnit) : (setTime x s).plan = s.plan := rfl
@[simp] theorem setTime_cle (x : TimeUnit) : (setTime x s).cle = s.cle := rfl
@[simp] theorem setTime_safe (x : TimeUnit) : (setTime x s).safe = s.safe := rfl
@[simp] theorem setTime_prog (x : TimeUnit) : (setTime x s).prog = s.prog := rfl
@[simp] theorem setTime_power (x : TimeUnit) : (setTime x s).power = s.power := rfl
@[simp] theorem setTime_lim (x : TimeUnit) : (setTime x s).lim = s.lim := rfl
@[simp] theorem setTime_sec (x : TimeUnit) : (setTime x s).sec = s.sec := rfl
@[simp] theorem setTime_upd (x : TimeUnit) : (setTime x s).upd = s.upd := rfl
@[simp] theorem setTime_elec (x : TimeUnit) : (setTime x s).elec = s.elec := rfl

/-! ### setTables -/

@[simp] theorem setTables_pending (x : Tables) : (setTables x s).pending = s.pending := rfl
@[simp] theorem setTables_phase (x : Tables) : (setTables x s).phase = s.phase := rfl
@[simp] theorem setTables_clock (x : Tables) : (setTables x s).clock = s.clock := rfl
@[simp] theorem setTables_timeN (x : Tables) : (setTables x s).timeN = s.timeN := rfl
@[simp] theorem setTables_timeFrac (x : Tables) : (setTables x s).timeFrac = s.timeFrac := rfl
@[simp] theorem setTables_rate (x : Tables) : (setTables x s).rate = s.rate := rfl
@[simp] theorem setTables_freeCtr (x : Tables) : (setTables x s).freeCtr = s.freeCtr := rfl
@[simp] theorem setTables_regs (x : Tables) : (setTables x s).regs = s.regs := rfl
@[simp] theorem setTables_mem (x : Tables) : (setTables x s).mem = s.mem := rfl
@[simp] theorem setTables_acc (x : Tables) : (setTables x s).acc = s.acc := rfl
@[simp] theorem setTables_accSat (x : Tables) : (setTables x s).accSat = s.accSat := rfl
@[simp] theorem setTables_accTol (x : Tables) : (setTables x s).accTol = s.accTol := rfl
@[simp] theorem setTables_tx (x : Tables) : (setTables x s).tx = s.tx := rfl
@[simp] theorem setTables_log (x : Tables) : (setTables x s).log = s.log := rfl
@[simp] theorem setTables_host (x : Tables) : (setTables x s).host = s.host := rfl
@[simp] theorem setTables_jobs (x : Tables) : (setTables x s).jobs = s.jobs := rfl
@[simp] theorem setTables_streams (x : Tables) : (setTables x s).streams = s.streams := rfl
@[simp] theorem setTables_dies (x : Tables) : (setTables x s).dies = s.dies := rfl
@[simp] theorem setTables_sends (x : Tables) : (setTables x s).sends = s.sends := rfl
@[simp] theorem setTables_nextSend (x : Tables) : (setTables x s).nextSend = s.nextSend := rfl
@[simp] theorem setTables_tiers (x : Tables) : (setTables x s).tiers = s.tiers := rfl
@[simp] theorem setTables_causes (x : Tables) : (setTables x s).causes = s.causes := rfl
@[simp] theorem setTables_domains (x : Tables) : (setTables x s).domains = s.domains := rfl
@[simp] theorem setTables_time (x : Tables) : (setTables x s).time = s.time := rfl
@[simp] theorem setTables_tables (x : Tables) : (setTables x s).tables = x := rfl
@[simp] theorem setTables_fus (x : Tables) : (setTables x s).fus = s.fus := rfl
@[simp] theorem setTables_plan (x : Tables) : (setTables x s).plan = s.plan := rfl
@[simp] theorem setTables_cle (x : Tables) : (setTables x s).cle = s.cle := rfl
@[simp] theorem setTables_safe (x : Tables) : (setTables x s).safe = s.safe := rfl
@[simp] theorem setTables_prog (x : Tables) : (setTables x s).prog = s.prog := rfl
@[simp] theorem setTables_power (x : Tables) : (setTables x s).power = s.power := rfl
@[simp] theorem setTables_lim (x : Tables) : (setTables x s).lim = s.lim := rfl
@[simp] theorem setTables_sec (x : Tables) : (setTables x s).sec = s.sec := rfl
@[simp] theorem setTables_upd (x : Tables) : (setTables x s).upd = s.upd := rfl
@[simp] theorem setTables_elec (x : Tables) : (setTables x s).elec = s.elec := rfl

/-! ### setFus -/

@[simp] theorem setFus_pending (x : Fusion) : (setFus x s).pending = s.pending := rfl
@[simp] theorem setFus_phase (x : Fusion) : (setFus x s).phase = s.phase := rfl
@[simp] theorem setFus_clock (x : Fusion) : (setFus x s).clock = s.clock := rfl
@[simp] theorem setFus_timeN (x : Fusion) : (setFus x s).timeN = s.timeN := rfl
@[simp] theorem setFus_timeFrac (x : Fusion) : (setFus x s).timeFrac = s.timeFrac := rfl
@[simp] theorem setFus_rate (x : Fusion) : (setFus x s).rate = s.rate := rfl
@[simp] theorem setFus_freeCtr (x : Fusion) : (setFus x s).freeCtr = s.freeCtr := rfl
@[simp] theorem setFus_regs (x : Fusion) : (setFus x s).regs = s.regs := rfl
@[simp] theorem setFus_mem (x : Fusion) : (setFus x s).mem = s.mem := rfl
@[simp] theorem setFus_acc (x : Fusion) : (setFus x s).acc = s.acc := rfl
@[simp] theorem setFus_accSat (x : Fusion) : (setFus x s).accSat = s.accSat := rfl
@[simp] theorem setFus_accTol (x : Fusion) : (setFus x s).accTol = s.accTol := rfl
@[simp] theorem setFus_tx (x : Fusion) : (setFus x s).tx = s.tx := rfl
@[simp] theorem setFus_log (x : Fusion) : (setFus x s).log = s.log := rfl
@[simp] theorem setFus_host (x : Fusion) : (setFus x s).host = s.host := rfl
@[simp] theorem setFus_jobs (x : Fusion) : (setFus x s).jobs = s.jobs := rfl
@[simp] theorem setFus_streams (x : Fusion) : (setFus x s).streams = s.streams := rfl
@[simp] theorem setFus_dies (x : Fusion) : (setFus x s).dies = s.dies := rfl
@[simp] theorem setFus_sends (x : Fusion) : (setFus x s).sends = s.sends := rfl
@[simp] theorem setFus_nextSend (x : Fusion) : (setFus x s).nextSend = s.nextSend := rfl
@[simp] theorem setFus_tiers (x : Fusion) : (setFus x s).tiers = s.tiers := rfl
@[simp] theorem setFus_causes (x : Fusion) : (setFus x s).causes = s.causes := rfl
@[simp] theorem setFus_domains (x : Fusion) : (setFus x s).domains = s.domains := rfl
@[simp] theorem setFus_time (x : Fusion) : (setFus x s).time = s.time := rfl
@[simp] theorem setFus_tables (x : Fusion) : (setFus x s).tables = s.tables := rfl
@[simp] theorem setFus_fus (x : Fusion) : (setFus x s).fus = x := rfl
@[simp] theorem setFus_plan (x : Fusion) : (setFus x s).plan = s.plan := rfl
@[simp] theorem setFus_cle (x : Fusion) : (setFus x s).cle = s.cle := rfl
@[simp] theorem setFus_safe (x : Fusion) : (setFus x s).safe = s.safe := rfl
@[simp] theorem setFus_prog (x : Fusion) : (setFus x s).prog = s.prog := rfl
@[simp] theorem setFus_power (x : Fusion) : (setFus x s).power = s.power := rfl
@[simp] theorem setFus_lim (x : Fusion) : (setFus x s).lim = s.lim := rfl
@[simp] theorem setFus_sec (x : Fusion) : (setFus x s).sec = s.sec := rfl
@[simp] theorem setFus_upd (x : Fusion) : (setFus x s).upd = s.upd := rfl
@[simp] theorem setFus_elec (x : Fusion) : (setFus x s).elec = s.elec := rfl

/-! ### setPlan -/

@[simp] theorem setPlan_pending (x : Planner) : (setPlan x s).pending = s.pending := rfl
@[simp] theorem setPlan_phase (x : Planner) : (setPlan x s).phase = s.phase := rfl
@[simp] theorem setPlan_clock (x : Planner) : (setPlan x s).clock = s.clock := rfl
@[simp] theorem setPlan_timeN (x : Planner) : (setPlan x s).timeN = s.timeN := rfl
@[simp] theorem setPlan_timeFrac (x : Planner) : (setPlan x s).timeFrac = s.timeFrac := rfl
@[simp] theorem setPlan_rate (x : Planner) : (setPlan x s).rate = s.rate := rfl
@[simp] theorem setPlan_freeCtr (x : Planner) : (setPlan x s).freeCtr = s.freeCtr := rfl
@[simp] theorem setPlan_regs (x : Planner) : (setPlan x s).regs = s.regs := rfl
@[simp] theorem setPlan_mem (x : Planner) : (setPlan x s).mem = s.mem := rfl
@[simp] theorem setPlan_acc (x : Planner) : (setPlan x s).acc = s.acc := rfl
@[simp] theorem setPlan_accSat (x : Planner) : (setPlan x s).accSat = s.accSat := rfl
@[simp] theorem setPlan_accTol (x : Planner) : (setPlan x s).accTol = s.accTol := rfl
@[simp] theorem setPlan_tx (x : Planner) : (setPlan x s).tx = s.tx := rfl
@[simp] theorem setPlan_log (x : Planner) : (setPlan x s).log = s.log := rfl
@[simp] theorem setPlan_host (x : Planner) : (setPlan x s).host = s.host := rfl
@[simp] theorem setPlan_jobs (x : Planner) : (setPlan x s).jobs = s.jobs := rfl
@[simp] theorem setPlan_streams (x : Planner) : (setPlan x s).streams = s.streams := rfl
@[simp] theorem setPlan_dies (x : Planner) : (setPlan x s).dies = s.dies := rfl
@[simp] theorem setPlan_sends (x : Planner) : (setPlan x s).sends = s.sends := rfl
@[simp] theorem setPlan_nextSend (x : Planner) : (setPlan x s).nextSend = s.nextSend := rfl
@[simp] theorem setPlan_tiers (x : Planner) : (setPlan x s).tiers = s.tiers := rfl
@[simp] theorem setPlan_causes (x : Planner) : (setPlan x s).causes = s.causes := rfl
@[simp] theorem setPlan_domains (x : Planner) : (setPlan x s).domains = s.domains := rfl
@[simp] theorem setPlan_time (x : Planner) : (setPlan x s).time = s.time := rfl
@[simp] theorem setPlan_tables (x : Planner) : (setPlan x s).tables = s.tables := rfl
@[simp] theorem setPlan_fus (x : Planner) : (setPlan x s).fus = s.fus := rfl
@[simp] theorem setPlan_plan (x : Planner) : (setPlan x s).plan = x := rfl
@[simp] theorem setPlan_cle (x : Planner) : (setPlan x s).cle = s.cle := rfl
@[simp] theorem setPlan_safe (x : Planner) : (setPlan x s).safe = s.safe := rfl
@[simp] theorem setPlan_prog (x : Planner) : (setPlan x s).prog = s.prog := rfl
@[simp] theorem setPlan_power (x : Planner) : (setPlan x s).power = s.power := rfl
@[simp] theorem setPlan_lim (x : Planner) : (setPlan x s).lim = s.lim := rfl
@[simp] theorem setPlan_sec (x : Planner) : (setPlan x s).sec = s.sec := rfl
@[simp] theorem setPlan_upd (x : Planner) : (setPlan x s).upd = s.upd := rfl
@[simp] theorem setPlan_elec (x : Planner) : (setPlan x s).elec = s.elec := rfl

/-! ### setCle -/

@[simp] theorem setCle_pending (x : CleUnit) : (setCle x s).pending = s.pending := rfl
@[simp] theorem setCle_phase (x : CleUnit) : (setCle x s).phase = s.phase := rfl
@[simp] theorem setCle_clock (x : CleUnit) : (setCle x s).clock = s.clock := rfl
@[simp] theorem setCle_timeN (x : CleUnit) : (setCle x s).timeN = s.timeN := rfl
@[simp] theorem setCle_timeFrac (x : CleUnit) : (setCle x s).timeFrac = s.timeFrac := rfl
@[simp] theorem setCle_rate (x : CleUnit) : (setCle x s).rate = s.rate := rfl
@[simp] theorem setCle_freeCtr (x : CleUnit) : (setCle x s).freeCtr = s.freeCtr := rfl
@[simp] theorem setCle_regs (x : CleUnit) : (setCle x s).regs = s.regs := rfl
@[simp] theorem setCle_mem (x : CleUnit) : (setCle x s).mem = s.mem := rfl
@[simp] theorem setCle_acc (x : CleUnit) : (setCle x s).acc = s.acc := rfl
@[simp] theorem setCle_accSat (x : CleUnit) : (setCle x s).accSat = s.accSat := rfl
@[simp] theorem setCle_accTol (x : CleUnit) : (setCle x s).accTol = s.accTol := rfl
@[simp] theorem setCle_tx (x : CleUnit) : (setCle x s).tx = s.tx := rfl
@[simp] theorem setCle_log (x : CleUnit) : (setCle x s).log = s.log := rfl
@[simp] theorem setCle_host (x : CleUnit) : (setCle x s).host = s.host := rfl
@[simp] theorem setCle_jobs (x : CleUnit) : (setCle x s).jobs = s.jobs := rfl
@[simp] theorem setCle_streams (x : CleUnit) : (setCle x s).streams = s.streams := rfl
@[simp] theorem setCle_dies (x : CleUnit) : (setCle x s).dies = s.dies := rfl
@[simp] theorem setCle_sends (x : CleUnit) : (setCle x s).sends = s.sends := rfl
@[simp] theorem setCle_nextSend (x : CleUnit) : (setCle x s).nextSend = s.nextSend := rfl
@[simp] theorem setCle_tiers (x : CleUnit) : (setCle x s).tiers = s.tiers := rfl
@[simp] theorem setCle_causes (x : CleUnit) : (setCle x s).causes = s.causes := rfl
@[simp] theorem setCle_domains (x : CleUnit) : (setCle x s).domains = s.domains := rfl
@[simp] theorem setCle_time (x : CleUnit) : (setCle x s).time = s.time := rfl
@[simp] theorem setCle_tables (x : CleUnit) : (setCle x s).tables = s.tables := rfl
@[simp] theorem setCle_fus (x : CleUnit) : (setCle x s).fus = s.fus := rfl
@[simp] theorem setCle_plan (x : CleUnit) : (setCle x s).plan = s.plan := rfl
@[simp] theorem setCle_cle (x : CleUnit) : (setCle x s).cle = x := rfl
@[simp] theorem setCle_safe (x : CleUnit) : (setCle x s).safe = s.safe := rfl
@[simp] theorem setCle_prog (x : CleUnit) : (setCle x s).prog = s.prog := rfl
@[simp] theorem setCle_power (x : CleUnit) : (setCle x s).power = s.power := rfl
@[simp] theorem setCle_lim (x : CleUnit) : (setCle x s).lim = s.lim := rfl
@[simp] theorem setCle_sec (x : CleUnit) : (setCle x s).sec = s.sec := rfl
@[simp] theorem setCle_upd (x : CleUnit) : (setCle x s).upd = s.upd := rfl
@[simp] theorem setCle_elec (x : CleUnit) : (setCle x s).elec = s.elec := rfl

/-! ### setSafe -/

@[simp] theorem setSafe_pending (x : SafeUnit) : (setSafe x s).pending = s.pending := rfl
@[simp] theorem setSafe_phase (x : SafeUnit) : (setSafe x s).phase = s.phase := rfl
@[simp] theorem setSafe_clock (x : SafeUnit) : (setSafe x s).clock = s.clock := rfl
@[simp] theorem setSafe_timeN (x : SafeUnit) : (setSafe x s).timeN = s.timeN := rfl
@[simp] theorem setSafe_timeFrac (x : SafeUnit) : (setSafe x s).timeFrac = s.timeFrac := rfl
@[simp] theorem setSafe_rate (x : SafeUnit) : (setSafe x s).rate = s.rate := rfl
@[simp] theorem setSafe_freeCtr (x : SafeUnit) : (setSafe x s).freeCtr = s.freeCtr := rfl
@[simp] theorem setSafe_regs (x : SafeUnit) : (setSafe x s).regs = s.regs := rfl
@[simp] theorem setSafe_mem (x : SafeUnit) : (setSafe x s).mem = s.mem := rfl
@[simp] theorem setSafe_acc (x : SafeUnit) : (setSafe x s).acc = s.acc := rfl
@[simp] theorem setSafe_accSat (x : SafeUnit) : (setSafe x s).accSat = s.accSat := rfl
@[simp] theorem setSafe_accTol (x : SafeUnit) : (setSafe x s).accTol = s.accTol := rfl
@[simp] theorem setSafe_tx (x : SafeUnit) : (setSafe x s).tx = s.tx := rfl
@[simp] theorem setSafe_log (x : SafeUnit) : (setSafe x s).log = s.log := rfl
@[simp] theorem setSafe_host (x : SafeUnit) : (setSafe x s).host = s.host := rfl
@[simp] theorem setSafe_jobs (x : SafeUnit) : (setSafe x s).jobs = s.jobs := rfl
@[simp] theorem setSafe_streams (x : SafeUnit) : (setSafe x s).streams = s.streams := rfl
@[simp] theorem setSafe_dies (x : SafeUnit) : (setSafe x s).dies = s.dies := rfl
@[simp] theorem setSafe_sends (x : SafeUnit) : (setSafe x s).sends = s.sends := rfl
@[simp] theorem setSafe_nextSend (x : SafeUnit) : (setSafe x s).nextSend = s.nextSend := rfl
@[simp] theorem setSafe_tiers (x : SafeUnit) : (setSafe x s).tiers = s.tiers := rfl
@[simp] theorem setSafe_causes (x : SafeUnit) : (setSafe x s).causes = s.causes := rfl
@[simp] theorem setSafe_domains (x : SafeUnit) : (setSafe x s).domains = s.domains := rfl
@[simp] theorem setSafe_time (x : SafeUnit) : (setSafe x s).time = s.time := rfl
@[simp] theorem setSafe_tables (x : SafeUnit) : (setSafe x s).tables = s.tables := rfl
@[simp] theorem setSafe_fus (x : SafeUnit) : (setSafe x s).fus = s.fus := rfl
@[simp] theorem setSafe_plan (x : SafeUnit) : (setSafe x s).plan = s.plan := rfl
@[simp] theorem setSafe_cle (x : SafeUnit) : (setSafe x s).cle = s.cle := rfl
@[simp] theorem setSafe_safe (x : SafeUnit) : (setSafe x s).safe = x := rfl
@[simp] theorem setSafe_prog (x : SafeUnit) : (setSafe x s).prog = s.prog := rfl
@[simp] theorem setSafe_power (x : SafeUnit) : (setSafe x s).power = s.power := rfl
@[simp] theorem setSafe_lim (x : SafeUnit) : (setSafe x s).lim = s.lim := rfl
@[simp] theorem setSafe_sec (x : SafeUnit) : (setSafe x s).sec = s.sec := rfl
@[simp] theorem setSafe_upd (x : SafeUnit) : (setSafe x s).upd = s.upd := rfl
@[simp] theorem setSafe_elec (x : SafeUnit) : (setSafe x s).elec = s.elec := rfl

/-! ### setProg -/

@[simp] theorem setProg_pending (x : Prog) : (setProg x s).pending = s.pending := rfl
@[simp] theorem setProg_phase (x : Prog) : (setProg x s).phase = s.phase := rfl
@[simp] theorem setProg_clock (x : Prog) : (setProg x s).clock = s.clock := rfl
@[simp] theorem setProg_timeN (x : Prog) : (setProg x s).timeN = s.timeN := rfl
@[simp] theorem setProg_timeFrac (x : Prog) : (setProg x s).timeFrac = s.timeFrac := rfl
@[simp] theorem setProg_rate (x : Prog) : (setProg x s).rate = s.rate := rfl
@[simp] theorem setProg_freeCtr (x : Prog) : (setProg x s).freeCtr = s.freeCtr := rfl
@[simp] theorem setProg_regs (x : Prog) : (setProg x s).regs = s.regs := rfl
@[simp] theorem setProg_mem (x : Prog) : (setProg x s).mem = s.mem := rfl
@[simp] theorem setProg_acc (x : Prog) : (setProg x s).acc = s.acc := rfl
@[simp] theorem setProg_accSat (x : Prog) : (setProg x s).accSat = s.accSat := rfl
@[simp] theorem setProg_accTol (x : Prog) : (setProg x s).accTol = s.accTol := rfl
@[simp] theorem setProg_tx (x : Prog) : (setProg x s).tx = s.tx := rfl
@[simp] theorem setProg_log (x : Prog) : (setProg x s).log = s.log := rfl
@[simp] theorem setProg_host (x : Prog) : (setProg x s).host = s.host := rfl
@[simp] theorem setProg_jobs (x : Prog) : (setProg x s).jobs = s.jobs := rfl
@[simp] theorem setProg_streams (x : Prog) : (setProg x s).streams = s.streams := rfl
@[simp] theorem setProg_dies (x : Prog) : (setProg x s).dies = s.dies := rfl
@[simp] theorem setProg_sends (x : Prog) : (setProg x s).sends = s.sends := rfl
@[simp] theorem setProg_nextSend (x : Prog) : (setProg x s).nextSend = s.nextSend := rfl
@[simp] theorem setProg_tiers (x : Prog) : (setProg x s).tiers = s.tiers := rfl
@[simp] theorem setProg_causes (x : Prog) : (setProg x s).causes = s.causes := rfl
@[simp] theorem setProg_domains (x : Prog) : (setProg x s).domains = s.domains := rfl
@[simp] theorem setProg_time (x : Prog) : (setProg x s).time = s.time := rfl
@[simp] theorem setProg_tables (x : Prog) : (setProg x s).tables = s.tables := rfl
@[simp] theorem setProg_fus (x : Prog) : (setProg x s).fus = s.fus := rfl
@[simp] theorem setProg_plan (x : Prog) : (setProg x s).plan = s.plan := rfl
@[simp] theorem setProg_cle (x : Prog) : (setProg x s).cle = s.cle := rfl
@[simp] theorem setProg_safe (x : Prog) : (setProg x s).safe = s.safe := rfl
@[simp] theorem setProg_prog (x : Prog) : (setProg x s).prog = x := rfl
@[simp] theorem setProg_power (x : Prog) : (setProg x s).power = s.power := rfl
@[simp] theorem setProg_lim (x : Prog) : (setProg x s).lim = s.lim := rfl
@[simp] theorem setProg_sec (x : Prog) : (setProg x s).sec = s.sec := rfl
@[simp] theorem setProg_upd (x : Prog) : (setProg x s).upd = s.upd := rfl
@[simp] theorem setProg_elec (x : Prog) : (setProg x s).elec = s.elec := rfl

/-! ### setPower -/

@[simp] theorem setPower_pending (x : PowerUnit) : (setPower x s).pending = s.pending := rfl
@[simp] theorem setPower_phase (x : PowerUnit) : (setPower x s).phase = s.phase := rfl
@[simp] theorem setPower_clock (x : PowerUnit) : (setPower x s).clock = s.clock := rfl
@[simp] theorem setPower_timeN (x : PowerUnit) : (setPower x s).timeN = s.timeN := rfl
@[simp] theorem setPower_timeFrac (x : PowerUnit) : (setPower x s).timeFrac = s.timeFrac := rfl
@[simp] theorem setPower_rate (x : PowerUnit) : (setPower x s).rate = s.rate := rfl
@[simp] theorem setPower_freeCtr (x : PowerUnit) : (setPower x s).freeCtr = s.freeCtr := rfl
@[simp] theorem setPower_regs (x : PowerUnit) : (setPower x s).regs = s.regs := rfl
@[simp] theorem setPower_mem (x : PowerUnit) : (setPower x s).mem = s.mem := rfl
@[simp] theorem setPower_acc (x : PowerUnit) : (setPower x s).acc = s.acc := rfl
@[simp] theorem setPower_accSat (x : PowerUnit) : (setPower x s).accSat = s.accSat := rfl
@[simp] theorem setPower_accTol (x : PowerUnit) : (setPower x s).accTol = s.accTol := rfl
@[simp] theorem setPower_tx (x : PowerUnit) : (setPower x s).tx = s.tx := rfl
@[simp] theorem setPower_log (x : PowerUnit) : (setPower x s).log = s.log := rfl
@[simp] theorem setPower_host (x : PowerUnit) : (setPower x s).host = s.host := rfl
@[simp] theorem setPower_jobs (x : PowerUnit) : (setPower x s).jobs = s.jobs := rfl
@[simp] theorem setPower_streams (x : PowerUnit) : (setPower x s).streams = s.streams := rfl
@[simp] theorem setPower_dies (x : PowerUnit) : (setPower x s).dies = s.dies := rfl
@[simp] theorem setPower_sends (x : PowerUnit) : (setPower x s).sends = s.sends := rfl
@[simp] theorem setPower_nextSend (x : PowerUnit) : (setPower x s).nextSend = s.nextSend := rfl
@[simp] theorem setPower_tiers (x : PowerUnit) : (setPower x s).tiers = s.tiers := rfl
@[simp] theorem setPower_causes (x : PowerUnit) : (setPower x s).causes = s.causes := rfl
@[simp] theorem setPower_domains (x : PowerUnit) : (setPower x s).domains = s.domains := rfl
@[simp] theorem setPower_time (x : PowerUnit) : (setPower x s).time = s.time := rfl
@[simp] theorem setPower_tables (x : PowerUnit) : (setPower x s).tables = s.tables := rfl
@[simp] theorem setPower_fus (x : PowerUnit) : (setPower x s).fus = s.fus := rfl
@[simp] theorem setPower_plan (x : PowerUnit) : (setPower x s).plan = s.plan := rfl
@[simp] theorem setPower_cle (x : PowerUnit) : (setPower x s).cle = s.cle := rfl
@[simp] theorem setPower_safe (x : PowerUnit) : (setPower x s).safe = s.safe := rfl
@[simp] theorem setPower_prog (x : PowerUnit) : (setPower x s).prog = s.prog := rfl
@[simp] theorem setPower_power (x : PowerUnit) : (setPower x s).power = x := rfl
@[simp] theorem setPower_lim (x : PowerUnit) : (setPower x s).lim = s.lim := rfl
@[simp] theorem setPower_sec (x : PowerUnit) : (setPower x s).sec = s.sec := rfl
@[simp] theorem setPower_upd (x : PowerUnit) : (setPower x s).upd = s.upd := rfl
@[simp] theorem setPower_elec (x : PowerUnit) : (setPower x s).elec = s.elec := rfl

/-! ### setLim -/

@[simp] theorem setLim_pending (x : Limiter) : (setLim x s).pending = s.pending := rfl
@[simp] theorem setLim_phase (x : Limiter) : (setLim x s).phase = s.phase := rfl
@[simp] theorem setLim_clock (x : Limiter) : (setLim x s).clock = s.clock := rfl
@[simp] theorem setLim_timeN (x : Limiter) : (setLim x s).timeN = s.timeN := rfl
@[simp] theorem setLim_timeFrac (x : Limiter) : (setLim x s).timeFrac = s.timeFrac := rfl
@[simp] theorem setLim_rate (x : Limiter) : (setLim x s).rate = s.rate := rfl
@[simp] theorem setLim_freeCtr (x : Limiter) : (setLim x s).freeCtr = s.freeCtr := rfl
@[simp] theorem setLim_regs (x : Limiter) : (setLim x s).regs = s.regs := rfl
@[simp] theorem setLim_mem (x : Limiter) : (setLim x s).mem = s.mem := rfl
@[simp] theorem setLim_acc (x : Limiter) : (setLim x s).acc = s.acc := rfl
@[simp] theorem setLim_accSat (x : Limiter) : (setLim x s).accSat = s.accSat := rfl
@[simp] theorem setLim_accTol (x : Limiter) : (setLim x s).accTol = s.accTol := rfl
@[simp] theorem setLim_tx (x : Limiter) : (setLim x s).tx = s.tx := rfl
@[simp] theorem setLim_log (x : Limiter) : (setLim x s).log = s.log := rfl
@[simp] theorem setLim_host (x : Limiter) : (setLim x s).host = s.host := rfl
@[simp] theorem setLim_jobs (x : Limiter) : (setLim x s).jobs = s.jobs := rfl
@[simp] theorem setLim_streams (x : Limiter) : (setLim x s).streams = s.streams := rfl
@[simp] theorem setLim_dies (x : Limiter) : (setLim x s).dies = s.dies := rfl
@[simp] theorem setLim_sends (x : Limiter) : (setLim x s).sends = s.sends := rfl
@[simp] theorem setLim_nextSend (x : Limiter) : (setLim x s).nextSend = s.nextSend := rfl
@[simp] theorem setLim_tiers (x : Limiter) : (setLim x s).tiers = s.tiers := rfl
@[simp] theorem setLim_causes (x : Limiter) : (setLim x s).causes = s.causes := rfl
@[simp] theorem setLim_domains (x : Limiter) : (setLim x s).domains = s.domains := rfl
@[simp] theorem setLim_time (x : Limiter) : (setLim x s).time = s.time := rfl
@[simp] theorem setLim_tables (x : Limiter) : (setLim x s).tables = s.tables := rfl
@[simp] theorem setLim_fus (x : Limiter) : (setLim x s).fus = s.fus := rfl
@[simp] theorem setLim_plan (x : Limiter) : (setLim x s).plan = s.plan := rfl
@[simp] theorem setLim_cle (x : Limiter) : (setLim x s).cle = s.cle := rfl
@[simp] theorem setLim_safe (x : Limiter) : (setLim x s).safe = s.safe := rfl
@[simp] theorem setLim_prog (x : Limiter) : (setLim x s).prog = s.prog := rfl
@[simp] theorem setLim_power (x : Limiter) : (setLim x s).power = s.power := rfl
@[simp] theorem setLim_lim (x : Limiter) : (setLim x s).lim = x := rfl
@[simp] theorem setLim_sec (x : Limiter) : (setLim x s).sec = s.sec := rfl
@[simp] theorem setLim_upd (x : Limiter) : (setLim x s).upd = s.upd := rfl
@[simp] theorem setLim_elec (x : Limiter) : (setLim x s).elec = s.elec := rfl

/-! ### setSec -/

@[simp] theorem setSec_pending (x : SecUnit) : (setSec x s).pending = s.pending := rfl
@[simp] theorem setSec_phase (x : SecUnit) : (setSec x s).phase = s.phase := rfl
@[simp] theorem setSec_clock (x : SecUnit) : (setSec x s).clock = s.clock := rfl
@[simp] theorem setSec_timeN (x : SecUnit) : (setSec x s).timeN = s.timeN := rfl
@[simp] theorem setSec_timeFrac (x : SecUnit) : (setSec x s).timeFrac = s.timeFrac := rfl
@[simp] theorem setSec_rate (x : SecUnit) : (setSec x s).rate = s.rate := rfl
@[simp] theorem setSec_freeCtr (x : SecUnit) : (setSec x s).freeCtr = s.freeCtr := rfl
@[simp] theorem setSec_regs (x : SecUnit) : (setSec x s).regs = s.regs := rfl
@[simp] theorem setSec_mem (x : SecUnit) : (setSec x s).mem = s.mem := rfl
@[simp] theorem setSec_acc (x : SecUnit) : (setSec x s).acc = s.acc := rfl
@[simp] theorem setSec_accSat (x : SecUnit) : (setSec x s).accSat = s.accSat := rfl
@[simp] theorem setSec_accTol (x : SecUnit) : (setSec x s).accTol = s.accTol := rfl
@[simp] theorem setSec_tx (x : SecUnit) : (setSec x s).tx = s.tx := rfl
@[simp] theorem setSec_log (x : SecUnit) : (setSec x s).log = s.log := rfl
@[simp] theorem setSec_host (x : SecUnit) : (setSec x s).host = s.host := rfl
@[simp] theorem setSec_jobs (x : SecUnit) : (setSec x s).jobs = s.jobs := rfl
@[simp] theorem setSec_streams (x : SecUnit) : (setSec x s).streams = s.streams := rfl
@[simp] theorem setSec_dies (x : SecUnit) : (setSec x s).dies = s.dies := rfl
@[simp] theorem setSec_sends (x : SecUnit) : (setSec x s).sends = s.sends := rfl
@[simp] theorem setSec_nextSend (x : SecUnit) : (setSec x s).nextSend = s.nextSend := rfl
@[simp] theorem setSec_tiers (x : SecUnit) : (setSec x s).tiers = s.tiers := rfl
@[simp] theorem setSec_causes (x : SecUnit) : (setSec x s).causes = s.causes := rfl
@[simp] theorem setSec_domains (x : SecUnit) : (setSec x s).domains = s.domains := rfl
@[simp] theorem setSec_time (x : SecUnit) : (setSec x s).time = s.time := rfl
@[simp] theorem setSec_tables (x : SecUnit) : (setSec x s).tables = s.tables := rfl
@[simp] theorem setSec_fus (x : SecUnit) : (setSec x s).fus = s.fus := rfl
@[simp] theorem setSec_plan (x : SecUnit) : (setSec x s).plan = s.plan := rfl
@[simp] theorem setSec_cle (x : SecUnit) : (setSec x s).cle = s.cle := rfl
@[simp] theorem setSec_safe (x : SecUnit) : (setSec x s).safe = s.safe := rfl
@[simp] theorem setSec_prog (x : SecUnit) : (setSec x s).prog = s.prog := rfl
@[simp] theorem setSec_power (x : SecUnit) : (setSec x s).power = s.power := rfl
@[simp] theorem setSec_lim (x : SecUnit) : (setSec x s).lim = s.lim := rfl
@[simp] theorem setSec_sec (x : SecUnit) : (setSec x s).sec = x := rfl
@[simp] theorem setSec_upd (x : SecUnit) : (setSec x s).upd = s.upd := rfl
@[simp] theorem setSec_elec (x : SecUnit) : (setSec x s).elec = s.elec := rfl

/-! ### setUpd -/

@[simp] theorem setUpd_pending (x : UpdUnit) : (setUpd x s).pending = s.pending := rfl
@[simp] theorem setUpd_phase (x : UpdUnit) : (setUpd x s).phase = s.phase := rfl
@[simp] theorem setUpd_clock (x : UpdUnit) : (setUpd x s).clock = s.clock := rfl
@[simp] theorem setUpd_timeN (x : UpdUnit) : (setUpd x s).timeN = s.timeN := rfl
@[simp] theorem setUpd_timeFrac (x : UpdUnit) : (setUpd x s).timeFrac = s.timeFrac := rfl
@[simp] theorem setUpd_rate (x : UpdUnit) : (setUpd x s).rate = s.rate := rfl
@[simp] theorem setUpd_freeCtr (x : UpdUnit) : (setUpd x s).freeCtr = s.freeCtr := rfl
@[simp] theorem setUpd_regs (x : UpdUnit) : (setUpd x s).regs = s.regs := rfl
@[simp] theorem setUpd_mem (x : UpdUnit) : (setUpd x s).mem = s.mem := rfl
@[simp] theorem setUpd_acc (x : UpdUnit) : (setUpd x s).acc = s.acc := rfl
@[simp] theorem setUpd_accSat (x : UpdUnit) : (setUpd x s).accSat = s.accSat := rfl
@[simp] theorem setUpd_accTol (x : UpdUnit) : (setUpd x s).accTol = s.accTol := rfl
@[simp] theorem setUpd_tx (x : UpdUnit) : (setUpd x s).tx = s.tx := rfl
@[simp] theorem setUpd_log (x : UpdUnit) : (setUpd x s).log = s.log := rfl
@[simp] theorem setUpd_host (x : UpdUnit) : (setUpd x s).host = s.host := rfl
@[simp] theorem setUpd_jobs (x : UpdUnit) : (setUpd x s).jobs = s.jobs := rfl
@[simp] theorem setUpd_streams (x : UpdUnit) : (setUpd x s).streams = s.streams := rfl
@[simp] theorem setUpd_dies (x : UpdUnit) : (setUpd x s).dies = s.dies := rfl
@[simp] theorem setUpd_sends (x : UpdUnit) : (setUpd x s).sends = s.sends := rfl
@[simp] theorem setUpd_nextSend (x : UpdUnit) : (setUpd x s).nextSend = s.nextSend := rfl
@[simp] theorem setUpd_tiers (x : UpdUnit) : (setUpd x s).tiers = s.tiers := rfl
@[simp] theorem setUpd_causes (x : UpdUnit) : (setUpd x s).causes = s.causes := rfl
@[simp] theorem setUpd_domains (x : UpdUnit) : (setUpd x s).domains = s.domains := rfl
@[simp] theorem setUpd_time (x : UpdUnit) : (setUpd x s).time = s.time := rfl
@[simp] theorem setUpd_tables (x : UpdUnit) : (setUpd x s).tables = s.tables := rfl
@[simp] theorem setUpd_fus (x : UpdUnit) : (setUpd x s).fus = s.fus := rfl
@[simp] theorem setUpd_plan (x : UpdUnit) : (setUpd x s).plan = s.plan := rfl
@[simp] theorem setUpd_cle (x : UpdUnit) : (setUpd x s).cle = s.cle := rfl
@[simp] theorem setUpd_safe (x : UpdUnit) : (setUpd x s).safe = s.safe := rfl
@[simp] theorem setUpd_prog (x : UpdUnit) : (setUpd x s).prog = s.prog := rfl
@[simp] theorem setUpd_power (x : UpdUnit) : (setUpd x s).power = s.power := rfl
@[simp] theorem setUpd_lim (x : UpdUnit) : (setUpd x s).lim = s.lim := rfl
@[simp] theorem setUpd_sec (x : UpdUnit) : (setUpd x s).sec = s.sec := rfl
@[simp] theorem setUpd_upd (x : UpdUnit) : (setUpd x s).upd = x := rfl
@[simp] theorem setUpd_elec (x : UpdUnit) : (setUpd x s).elec = s.elec := rfl

/-! ### setSpwr -/

@[simp] theorem setSpwr_pending (m : Nat) (x : SpwrOut) : (setSpwr m x s).pending = s.pending := rfl
@[simp] theorem setSpwr_phase (m : Nat) (x : SpwrOut) : (setSpwr m x s).phase = s.phase := rfl
@[simp] theorem setSpwr_clock (m : Nat) (x : SpwrOut) : (setSpwr m x s).clock = s.clock := rfl
@[simp] theorem setSpwr_timeN (m : Nat) (x : SpwrOut) : (setSpwr m x s).timeN = s.timeN := rfl
@[simp] theorem setSpwr_timeFrac (m : Nat) (x : SpwrOut) : (setSpwr m x s).timeFrac = s.timeFrac := rfl
@[simp] theorem setSpwr_rate (m : Nat) (x : SpwrOut) : (setSpwr m x s).rate = s.rate := rfl
@[simp] theorem setSpwr_freeCtr (m : Nat) (x : SpwrOut) : (setSpwr m x s).freeCtr = s.freeCtr := rfl
@[simp] theorem setSpwr_regs (m : Nat) (x : SpwrOut) : (setSpwr m x s).regs = s.regs := rfl
@[simp] theorem setSpwr_mem (m : Nat) (x : SpwrOut) : (setSpwr m x s).mem = s.mem := rfl
@[simp] theorem setSpwr_acc (m : Nat) (x : SpwrOut) : (setSpwr m x s).acc = s.acc := rfl
@[simp] theorem setSpwr_accSat (m : Nat) (x : SpwrOut) : (setSpwr m x s).accSat = s.accSat := rfl
@[simp] theorem setSpwr_accTol (m : Nat) (x : SpwrOut) : (setSpwr m x s).accTol = s.accTol := rfl
@[simp] theorem setSpwr_tx (m : Nat) (x : SpwrOut) : (setSpwr m x s).tx = s.tx := rfl
@[simp] theorem setSpwr_log (m : Nat) (x : SpwrOut) : (setSpwr m x s).log = s.log := rfl
@[simp] theorem setSpwr_host (m : Nat) (x : SpwrOut) : (setSpwr m x s).host = s.host := rfl
@[simp] theorem setSpwr_jobs (m : Nat) (x : SpwrOut) : (setSpwr m x s).jobs = s.jobs := rfl
@[simp] theorem setSpwr_streams (m : Nat) (x : SpwrOut) : (setSpwr m x s).streams = s.streams := rfl
@[simp] theorem setSpwr_dies (m : Nat) (x : SpwrOut) : (setSpwr m x s).dies = s.dies := rfl
@[simp] theorem setSpwr_sends (m : Nat) (x : SpwrOut) : (setSpwr m x s).sends = s.sends := rfl
@[simp] theorem setSpwr_nextSend (m : Nat) (x : SpwrOut) : (setSpwr m x s).nextSend = s.nextSend := rfl
@[simp] theorem setSpwr_tiers (m : Nat) (x : SpwrOut) : (setSpwr m x s).tiers = s.tiers := rfl
@[simp] theorem setSpwr_causes (m : Nat) (x : SpwrOut) : (setSpwr m x s).causes = s.causes := rfl
@[simp] theorem setSpwr_domains (m : Nat) (x : SpwrOut) : (setSpwr m x s).domains = s.domains := rfl
@[simp] theorem setSpwr_time (m : Nat) (x : SpwrOut) : (setSpwr m x s).time = s.time := rfl
@[simp] theorem setSpwr_tables (m : Nat) (x : SpwrOut) : (setSpwr m x s).tables = s.tables := rfl
@[simp] theorem setSpwr_fus (m : Nat) (x : SpwrOut) : (setSpwr m x s).fus = s.fus := rfl
@[simp] theorem setSpwr_plan (m : Nat) (x : SpwrOut) : (setSpwr m x s).plan = s.plan := rfl
@[simp] theorem setSpwr_cle (m : Nat) (x : SpwrOut) : (setSpwr m x s).cle = s.cle := rfl
@[simp] theorem setSpwr_safe (m : Nat) (x : SpwrOut) : (setSpwr m x s).safe = s.safe := rfl
@[simp] theorem setSpwr_prog (m : Nat) (x : SpwrOut) : (setSpwr m x s).prog = s.prog := rfl
@[simp] theorem setSpwr_power (m : Nat) (x : SpwrOut) : (setSpwr m x s).power = s.power := rfl
@[simp] theorem setSpwr_lim (m : Nat) (x : SpwrOut) : (setSpwr m x s).lim = s.lim := rfl
@[simp] theorem setSpwr_sec (m : Nat) (x : SpwrOut) : (setSpwr m x s).sec = s.sec := rfl
@[simp] theorem setSpwr_upd (m : Nat) (x : SpwrOut) : (setSpwr m x s).upd = s.upd := rfl
@[simp] theorem setSpwr_elec (m : Nat) (x : SpwrOut) : (setSpwr m x s).elec = { s.elec with outs := mapSet s.elec.outs m x } := rfl

/-! ### Forms of a field update -/

@[simp] theorem incF_eq (f : Field) (i : Nat) : incF f i s = addF f i 1 s := rfl
@[simp] theorem addF_eq (f : Field) (i n : Nat) : addF f i n s = setF f i (satAdd f.len (getF f i s) n) s := rfl
@[simp] theorem setB_eq (f : Field) (i : Nat) (b : Bool) : setB f i b s = setF f i (if b then 1 else 0) s := rfl

/-! ### Reads that depend on one field -/

/-- A register is a function of `regs`. -/
theorem getR_of_regs {s t : State} (h : t.regs = s.regs) (r : Reg) (i : Nat) : getR r i t = getR r i s := by
  unfold getR
  rw [h]

/-- A field is a function of `regs`. -/
theorem getF_of_regs {s t : State} (h : t.regs = s.regs) (f : Field) (i : Nat) : getF f i t = getF f i s := by
  unfold getF
  rw [getR_of_regs h]

/-- A domain's state is a function of `domains`. -/
theorem domOn_of_domains {s t : State} (h : t.domains = s.domains) (d : Nat) : domOn d t = domOn d s := by
  unfold domOn domState
  rw [h]

/-- A die is a function of `dies`. -/
theorem dieOf_of_dies {s t : State} (h : t.dies = s.dies) (d : Nat) : dieOf d t = dieOf d s := by
  unfold dieOf
  rw [h]

/-- A stream is a function of `streams`. -/
theorem streamOf_of_streams {s t : State} (h : t.streams = s.streams) (st : Nat) : streamOf st t = streamOf st s := by
  unfold streamOf
  rw [h]

/-! ### Maps: a read after a write -/

@[simp] theorem mapGet_mapSet_same {α : Type} (m : SMap α) (k : Nat) (x : α) : mapGet (mapSet m k x) k = some x := by
  induction m with
  | nil => simp [mapSet, mapGet]
  | cons p m ih =>
    obtain ⟨a, v⟩ := p
    unfold mapSet
    split
    · simp [mapGet]
    · split
      · simp [mapGet]
      · rename_i h
        simp [mapGet, h, ih]

theorem mapGet_mapSet_ne {α : Type} (m : SMap α) {k l : Nat} (h : l ≠ k) (x : α) : mapGet (mapSet m k x) l = mapGet m l := by
  induction m with
  | nil => simp [mapSet, mapGet, h]
  | cons p m ih =>
    obtain ⟨a, v⟩ := p
    unfold mapSet
    split
    · simp [mapGet, h]
    · split
      · rename_i e
        subst e
        simp [mapGet, h]
      · simp only [mapGet, ih]

/-- A register instance reads what was written to it. -/
@[simp] theorem getR_setR_same (r : Reg) (i v : Nat) : getR r i (setR r i v s) = v % 2 ^ 64 := by
  simp [getR, BitVec.toNat_ofNat]

/-- A write leaves every other register instance alone. -/
theorem getR_setR_ne {r q : Reg} {i j : Nat} (h : keyOf q j ≠ keyOf r i) (v : Nat) : getR q j (setR r i v s) = getR q j s := by
  simp [getR, mapGet_mapSet_ne _ h]

/-! ### Memory: a read after a write -/

/-- No cell below the first address of a canonical memory is listed. -/
theorem memByte_of_lt (m : List Host.Cell) (a : Nat) (h : ∀ c ∈ m, a < c.1) : memByte m a = 0 := by
  induction m with
  | nil => rfl
  | cons p m ih =>
    obtain ⟨k, v⟩ := p
    have hk : a < k := h (k, v) (by simp)
    simp only [memByte, if_neg (Nat.ne_of_lt hk)]
    exact ih fun c hc => h c (by simp [hc])

/-- A byte reads what was written to it, where memory has its canonical form. -/
theorem memByte_memPut_same (m : List Host.Cell) (hw : m.Pairwise fun x y => x.1 < y.1) (a : Nat) (b : Byte) : memByte (memPut m a b) a = b := by
  induction m with
  | nil =>
    unfold memPut
    split
    · rename_i h
      exact h.symm
    · exact if_pos rfl
  | cons p m ih =>
    obtain ⟨k, v⟩ := p
    have hr : ∀ c ∈ m, k < c.1 := fun c hc => List.rel_of_pairwise_cons hw hc
    unfold memPut
    split
    · rename_i hlt
      by_cases h : b = 0
      · rw [if_pos h, memByte_of_lt _ _ (fun c hc => by
          rcases List.mem_cons.1 hc with rfl | hc
          · exact hlt
          · exact Nat.lt_trans hlt (hr c hc)), h]
      · rw [if_neg h]
        exact if_pos rfl
    · split
      · rename_i he
        subst he
        by_cases h : b = 0
        · rw [if_pos h, memByte_of_lt _ _ hr, h]
        · rw [if_neg h]
          exact if_pos rfl
      · rename_i hne
        simp only [memByte, if_neg hne]
        exact ih (List.Pairwise.of_cons hw)

/-- A write leaves every other byte alone. -/
theorem memByte_memPut_ne (m : List Host.Cell) {a c : Nat} (h : c ≠ a) (b : Byte) : memByte (memPut m a b) c = memByte m c := by
  induction m with
  | nil =>
    unfold memPut
    split
    · rfl
    · exact if_neg h
  | cons p m ih =>
    obtain ⟨k, v⟩ := p
    unfold memPut
    split
    · split
      · rfl
      · exact if_neg h
    · split
      · rename_i he
        subst he
        simp only [memByte, if_neg h]
        split
        · rfl
        · exact if_neg h
      · simp only [memByte, ih]

/-- A write of a run of bytes leaves every byte outside it alone. -/
theorem memByte_memWrite_ne (m : List Host.Cell) (a c : Nat) (bs : List Byte) (h : c < a ∨ a + bs.length ≤ c) :
    memByte (memWrite m a bs) c = memByte m c := by
  induction bs generalizing m a with
  | nil => rfl
  | cons b bs ih =>
    simp only [List.length_cons] at h
    rw [memWrite, ih, memByte_memPut_ne _ (by omega)]
    omega

/-! ### The forms of a meaning -/

@[simp] theorem onlyIf_true (f : State → State) : onlyIf true f s = f s := rfl
@[simp] theorem onlyIf_false (f : State → State) : onlyIf false f s = s := rfl

end Sys2Proof.Machine
end

