-- ==== Sys2Proof/Laws/Bits.lean ====
section
/-!
SUPPORT. Fields of numbers: what a field reads after one is put, and that the others stay.
-/
namespace Sys2Proof.Machine
open Sys2Proof

set_option Elab.async false

theorem bitsAt_lt (x lo len : Nat) : bitsAt x lo len < 2 ^ len := Nat.mod_lt _ (Nat.two_pow_pos len)

/-- Bits of a field. -/
theorem testBit_bitsAt (x lo len i : Nat) : (bitsAt x lo len).testBit i = (decide (i < len) && x.testBit (lo + i)) := by
  rw [bitsAt, Nat.testBit_mod_two_pow, Nat.testBit_shiftRight]

/-- Bits after a field is put. -/
theorem testBit_putBits (x lo len v i : Nat) :
    (putBits x lo len v).testBit i = if i < lo then x.testBit i else if i < lo + len then v.testBit (i - lo) else x.testBit i := by
  have h : putBits x lo len v = 2 ^ lo * (2 ^ len * (x >>> (lo + len)) + v % 2 ^ len) + x % 2 ^ lo := by
    unfold putBits
    rw [Nat.mul_add, ← Nat.mul_assoc, ← Nat.pow_add]
    have := Nat.mul_comm (v % 2 ^ len) (2 ^ lo)
    have := Nat.mul_comm (x >>> (lo + len)) (2 ^ (lo + len))
    omega
  rw [h, Nat.testBit_two_pow_mul_add _ (Nat.mod_lt _ (Nat.two_pow_pos lo))]
  split
  · rw [Nat.testBit_mod_two_pow]
    simp_all
  · rename_i h1
    rw [Nat.testBit_two_pow_mul_add _ (Nat.mod_lt _ (Nat.two_pow_pos len))]
    split
    · rename_i h2
      rw [if_pos (by omega), Nat.testBit_mod_two_pow]
      simp [h2]
    · rename_i h2
      rw [if_neg (by omega), Nat.testBit_shiftRight]
      congr 1
      omega

/-- A field reads what was put. -/
@[simp] theorem bitsAt_putBits_same (x lo len v : Nat) : bitsAt (putBits x lo len v) lo len = v % 2 ^ len := by
  apply Nat.eq_of_testBit_eq
  intro i
  rw [testBit_bitsAt, testBit_putBits, Nat.testBit_mod_two_pow]
  by_cases h : i < len
  · simp [h]
  · simp [h]

/-- A field keeps its value when a field beside it is put. -/
theorem bitsAt_putBits_ne (x lo len v lo' len' : Nat) (h : lo' + len' ≤ lo ∨ lo + len ≤ lo') :
    bitsAt (putBits x lo len v) lo' len' = bitsAt x lo' len' := by
  apply Nat.eq_of_testBit_eq
  intro i
  rw [testBit_bitsAt, testBit_bitsAt, testBit_putBits]
  by_cases hi : i < len'
  · simp only [hi, decide_true, Bool.true_and]
    split
    · rfl
    · rw [if_neg (by omega)]
  · simp [hi]

/-- A put field keeps a number inside a width that holds the field. -/
theorem putBits_lt (x lo len v w : Nat) (hx : x < 2 ^ w) (h : lo + len ≤ w) : putBits x lo len v < 2 ^ w := by
  apply Nat.lt_pow_two_of_testBit
  intro i hi
  rw [testBit_putBits, if_neg (by omega), if_neg (by omega)]
  exact Nat.testBit_lt_two_pow (Nat.lt_of_lt_of_le hx (Nat.pow_le_pow_right (by omega) hi))

/-- A field of a 64-bit register reads what was set. -/
theorem getF_setF_same (f : Field) (i v : Nat) (s : State) (hr : getR f.reg i s < 2 ^ 64) (hf : f.lo + f.len ≤ 64) :
    getF f i (setF f i v s) = v % 2 ^ f.len := by
  unfold getF setF
  rw [getR_setR_same, Nat.mod_eq_of_lt (putBits_lt _ _ _ _ _ hr hf), bitsAt_putBits_same]

/-- Every register holds 64 bits. -/
theorem getR_lt (r : Reg) (i : Nat) (s : State) (hc : coldVal r < 2 ^ 64) : getR r i s < 2 ^ 64 := by
  unfold getR
  split
  · exact BitVec.isLt _
  · exact hc

end Sys2Proof.Machine
end

