-- ==== Sys2Proof/Laws/Host.lean ====
section
/-!
SUPPORT. What events, completions and ring operations can change: registers, outputs, the Acorn log and the host interface, and nothing
else. The lemmas chain: each carries the relation from an earlier state over one operation.
-/
namespace Sys2Proof.Machine
open Sys2Proof

set_option Elab.async false

variable {s0 s : State}

theorem SameButHost.refl (s : State) : SameButHost s s := rfl

theorem SameButHost.trans {s t u : State} (h : SameButHost s t) (k : SameButHost t u) : SameButHost s u := by
  unfold SameButHost at *
  rw [h] at k
  exact k

/-- A change of those four fields. -/
theorem host_upd {regs tx log host} (h : SameButHost s0 s) : SameButHost s0 { s with regs := regs, tx := tx, log := log, host := host } := by
  unfold SameButHost at *
  rw [h]

/-- A fold of such changes. -/
theorem host_forEach {α : Type} (l : List α) (f : α → State → State) (k : ∀ x ∈ l, ∀ s, SameButHost s0 s → SameButHost s0 (f x s))
    (h : SameButHost s0 s) : SameButHost s0 (forEach l f s) := by
  induction l generalizing s with
  | nil => exact h
  | cons x l ih => exact ih (fun y hy => k y (by simp [hy])) (k x (by simp) s h)

/-- Such a change keeps a state quiet. -/
theorem quiet_host {s t : State} (h : SameButHost s t) (k : ∀ c ∈ t.host.consumed, badOp c t = none) (q : Quiet s) : Quiet t := by
  unfold SameButHost at h
  exact ⟨by rw [h]; exact q.causes, by rw [h]; exact q.streams, by rw [h]; exact q.jobs, by rw [h]; exact q.trans, k,
    by rw [h]; exact q.gated, by rw [h]; exact q.idle⟩

theorem host_emit (x : Tx) (h : SameButHost s0 s) : SameButHost s0 (emit x s) := host_upd h

theorem host_setR (r : Reg) (i v : Nat) (h : SameButHost s0 s) : SameButHost s0 (setR r i v s) := host_upd h

theorem host_setF (f : Field) (i v : Nat) (h : SameButHost s0 s) : SameButHost s0 (setF f i v s) := host_upd h

theorem host_setB (f : Field) (i : Nat) (b : Bool) (h : SameButHost s0 s) : SameButHost s0 (setB f i b s) := host_upd h

theorem host_addF (f : Field) (i n : Nat) (h : SameButHost s0 s) : SameButHost s0 (addF f i n s) := host_upd h

theorem host_incF (f : Field) (i : Nat) (h : SameButHost s0 s) : SameButHost s0 (incF f i s) := host_upd h

theorem host_setPush (l : List PushMsg) (h : SameButHost s0 s) : SameButHost s0 (setPush l s) := host_upd h

theorem host_setHold (l : List Posting) (h : SameButHost s0 s) : SameButHost s0 (setHold l s) := host_upd h

theorem host_setConsumed (l : List Consumed) (h : SameButHost s0 s) : SameButHost s0 (setConsumed l s) := host_upd h

theorem host_setSq (i : Nat) (r : SqRing) (h : SameButHost s0 s) : SameButHost s0 (setSq i r s) := host_upd h

theorem host_setCq (i : Nat) (r : CqRing) (h : SameButHost s0 s) : SameButHost s0 (setCq i r s) := host_upd h

theorem host_passSeq  (h : SameButHost s0 s) : SameButHost s0 (passSeq s) := host_upd h

theorem host_logEvent (e : Entry) (h : SameButHost s0 s) : SameButHost s0 (logEvent e s) := host_setF _ _ _ (host_upd h)

theorem host_dropConsumed (id : Nat) (h : SameButHost s0 s) : SameButHost s0 (dropConsumed id s) := host_upd h

theorem host_markStarted (id : Nat) (h : SameButHost s0 s) : SameButHost s0 (markStarted id s) := host_upd h

theorem host_setJobBit (f : Field) (j : Nat) (b : Bool) (h : SameButHost s0 s) : SameButHost s0 (setJobBit f j b s) := host_upd h

theorem host_signalVector (v : Nat) (h : SameButHost s0 s) : SameButHost s0 (signalVector v s) := by
  unfold signalVector
  split
  · exact host_upd h
  · exact host_emit _ h

theorem host_signalCq (cq : Nat) (h : SameButHost s0 s) : SameButHost s0 (signalCq cq s) := by
  unfold signalCq
  split
  · exact h
  · split
    · exact h
    · exact host_signalVector _ (host_setCq _ _ h)

theorem host_postNow (p : Posting) (h : SameButHost s0 s) : SameButHost s0 (postNow p s) := by
  unfold postNow
  extract_lets q bytes depth base usb q' t u coal
  have hu : SameButHost s0 u := by
    unfold u
    split
    · exact host_setCq _ _ h
    · exact host_emit _ (host_emit _ (host_setCq _ _ h))
  split
  · exact host_signalCq _ hu
  · exact hu

theorem host_tryPost (p : Posting) (h : SameButHost s0 s) : SameButHost s0 ((tryPost p s).1) := by
  unfold tryPost
  split
  · exact host_postNow _ h
  · exact host_setHold _ h
  · exact h
  · exact h

theorem host_eventOnCq0 (e : Entry) (h : SameButHost s0 s) : SameButHost s0 ((eventOnCq0 e s).1) := by
  unfold eventOnCq0
  split
  · exact h
  · simp only
    split
    · exact host_incF _ _ (host_tryPost _ h)
    · exact host_tryPost _ h

theorem host_eventOnce (block detail status aux : Nat) (h : SameButHost s0 s) : SameButHost s0 ((eventOnce block detail status aux s).1) := by
  exact host_eventOnCq0 _ (host_logEvent _ h)

theorem host_setCqLost (cq : Nat) (h : SameButHost s0 s) : SameButHost s0 (setCqLost cq s) := by
  unfold setCqLost
  split
  · exact h
  · exact host_eventOnce _ _ _ _ (host_setB _ _ _ h)

/-- An event is logged and goes to CQ0; nothing else changes (R56, R58, R381). -/
theorem host_postEvent (block detail status aux : Nat) (h : SameButHost s0 s) : SameButHost s0 (postEvent block detail status aux s) := by
  unfold postEvent
  simp only
  split
  · exact host_setCqLost _ (host_eventOnce _ _ _ _ h)
  · exact host_eventOnce _ _ _ _ h

theorem host_hostError (f : Field) (detail status aux : Nat) (h : SameButHost s0 s) : SameButHost s0 (hostError f detail status aux s) := by
  unfold hostError
  split
  · exact h
  · exact host_postEvent _ _ _ _ (host_setB _ _ _ h)

theorem host_loseCpl (cq : Nat) (h : SameButHost s0 s) : SameButHost s0 (loseCpl cq s) := by
  exact host_setCqLost _ (host_incF _ _ h)

theorem host_freePush (m : Option (Nat × Nat)) (h : SameButHost s0 s) : SameButHost s0 (freePush m s) := by
  unfold freePush
  split
  · exact h
  · exact host_setPush _ h

/-- A completion is posted, held, suppressed or lost; nothing else changes (R51 to R54, R58). -/
theorem host_complete (c : Consumed) (f : Facts) (h : SameButHost s0 s) : SameButHost s0 (complete c f s) := by
  unfold complete
  extract_lets e msg t
  have ht : SameButHost s0 t := host_dropConsumed _ h
  split
  · exact host_freePush _ ht
  · split
    · exact host_freePush _ (host_loseCpl _ ht)
    · split
      rename_i u lost hu
      have hk : SameButHost s0 u := by
        have := host_tryPost ⟨boundCq c.sq t, e, flag c.desc 8, returnedData c.desc f, msg⟩ ht
        rw [hu] at this
        exact this
      split
      · exact host_freePush _ (host_loseCpl _ hk)
      · exact hk

theorem host_completeOrWait (c : Consumed) (f : Facts) (h : SameButHost s0 s) : SameButHost s0 (completeOrWait c f s) := by
  unfold completeOrWait
  split
  · exact host_complete _ _ h
  · exact host_upd h

theorem host_completeId (id : Nat) (f : Facts) (h : SameButHost s0 s) : SameButHost s0 (completeId id f s) := by
  unfold completeId
  split
  · exact host_completeOrWait _ _ h
  · exact h

theorem host_refuseFormat (c : Consumed) (e aux : Nat) (h : SameButHost s0 s) : SameButHost s0 (refuseFormat c e aux s) := by
  exact host_completeOrWait _ _ h

theorem host_done (c : Consumed) (aux : Nat) (h : SameButHost s0 s) : SameButHost s0 (done c aux s) := by
  exact host_completeOrWait _ _ h

theorem host_drainDecided  (h : SameButHost s0 s) : SameButHost s0 (drainDecided s) := by
  unfold drainDecided
  refine host_forEach _ _ (fun x _ s h => ?_) (host_upd h)
  split
  split
  · exact host_completeOrWait _ _ h
  · exact h

theorem host_refuseUnknown (c : Consumed) (h : SameButHost s0 s) : SameButHost s0 (refuseUnknown c s) := by
  unfold refuseUnknown
  split
  · split
    · exact host_refuseFormat _ _ _ h
    · exact h
  · exact h

theorem host_refuseFenced (h : SameButHost s0 s) : SameButHost s0 (refuseFenced s) := by
  unfold refuseFenced
  refine host_forEach _ _ (fun c _ s h => ?_) h
  split
  · exact host_refuseUnknown _ h
  · exact h

theorem host_stopRing (sq detail : Nat) (h : SameButHost s0 s) : SameButHost s0 (stopRing sq detail s) := by
  unfold stopRing
  simp only
  split
  · exact host_loseCpl _ (host_tryPost _ (host_setF _ _ _ h))
  · exact host_tryPost _ (host_setF _ _ _ h)

theorem host_cfgError (kind i : Nat) (h : SameButHost s0 s) : SameButHost s0 (cfgError kind i s) := by
  exact host_hostError _ _ _ _ h

theorem host_doorbellError (aux : Nat) (h : SameButHost s0 s) : SameButHost s0 (doorbellError aux s) := by
  exact host_hostError _ _ _ _ h

theorem host_setTail (sq : Nat) (tail : BitVec 32) (h : SameButHost s0 s) : SameButHost s0 (setTail sq tail s) := by
  unfold setTail
  split
  · exact host_setSq _ _ h
  · simp only
    split
    · exact host_stopRing _ _ (host_doorbellError _ h)
    · exact host_doorbellError _ h

theorem host_moveHead (cq : Nat) (head : BitVec 32) (h : SameButHost s0 s) : SameButHost s0 (moveHead cq head s) := by
  unfold moveHead
  simp only
  split
  · exact host_setCq _ _ h
  · exact host_setCq _ _ h

theorem host_setHead (cq : Nat) (head : BitVec 32) (h : SameButHost s0 s) : SameButHost s0 (setHead cq head s) := by
  unfold setHead
  split
  · exact host_moveHead _ _ h
  · exact host_doorbellError _ h

/-- A completion whose ring has room, which is neither suppressed nor of a descriptor consumed before a LINK reset, is posted (R54). -/
theorem complete_post (c : Consumed) (f : Facts) (s : State) (hr : roomAt (boundCq c.sq s) s = .post)
    (hs : (flag c.desc 10 && (descEntry c f s).status == 0) = false) (ho : c.orphan = false) :
    complete c f s = postNow ⟨boundCq c.sq s, descEntry c f s, flag c.desc 8, returnedData c.desc f,
      c.msg.map fun m => (m, if fld c.desc 126 2 = 2 then fld c.desc 128 32 else 0)⟩ (dropConsumed c.id s) := by
  unfold complete
  extract_lets e msg v
  rw [if_neg (by rw [hs]; simp), if_neg (by simp [discarded, ho])]
  split
  rename_i s' lost h
  have : tryPost ⟨boundCq c.sq v, e, flag c.desc 8, returnedData c.desc f, msg⟩ v = (postNow ⟨boundCq c.sq v, e, flag c.desc 8, returnedData c.desc f, msg⟩ v, false) := by
    unfold tryPost
    simp only
    rw [show roomAt (boundCq c.sq v) v = .post from hr]
  rw [this] at h
  cases h
  rfl

/-! ### Registers that events and completions change -/

/-- A register key that is neither the log count, nor HOST_ERR_STATUS, nor HOST_LOST_CPL. -/
def quietKey (k : Nat) : Prop := k ≠ keyOf .pwrLogCount 0 ∧ k ≠ keyOf .hostErrStatus 0 ∧ k ≠ keyOf .hostLostCpl 0

/-- The register of a key holds what it held. -/
def KeyKept (k : Nat) (s t : State) : Prop := mapGet t.regs k = mapGet s.regs k

variable {k : Nat}

theorem key_setF {f : Field} {i v : Nat} (hk : k ≠ keyOf f.reg i) (h : KeyKept k s0 s) : KeyKept k s0 (setF f i v s) := by
  unfold KeyKept at *
  rw [← h]
  simp only [setF_regs, setR_regs]
  exact mapGet_mapSet_ne _ hk _

theorem key_logEvent (e : Entry) (q : quietKey k) (h : KeyKept k s0 s) : KeyKept k s0 (logEvent e s) := key_setF q.1 h

theorem key_signalCq (cq : Nat) (h : KeyKept k s0 s) : KeyKept k s0 (signalCq cq s) := by
  unfold signalCq signalVector
  repeat' split
  all_goals exact h

theorem key_postNow (p : Posting) (h : KeyKept k s0 s) : KeyKept k s0 (postNow p s) := by
  unfold postNow
  extract_lets q bytes depth base usb q' t u coal
  have hu : KeyKept k s0 u := by
    unfold u
    split <;> exact h
  split
  · exact key_signalCq _ hu
  · exact hu

theorem key_tryPost (p : Posting) (h : KeyKept k s0 s) : KeyKept k s0 (tryPost p s).1 := by
  unfold tryPost
  split
  · exact key_postNow _ h
  all_goals exact h

theorem key_eventOnCq0 (e : Entry) (q : quietKey k) (h : KeyKept k s0 s) : KeyKept k s0 (eventOnCq0 e s).1 := by
  unfold eventOnCq0
  split
  · exact h
  · simp only
    split
    · exact key_setF q.2.2 (key_tryPost _ h)
    · exact key_tryPost _ h

theorem key_eventOnce (block detail status aux : Nat) (q : quietKey k) (h : KeyKept k s0 s) :
    KeyKept k s0 (eventOnce block detail status aux s).1 := key_eventOnCq0 _ q (key_logEvent _ q h)

theorem key_setCqLost (cq : Nat) (q : quietKey k) (h : KeyKept k s0 s) : KeyKept k s0 (setCqLost cq s) := by
  unfold setCqLost
  split
  · exact h
  · exact key_eventOnce _ _ _ _ q (key_setF q.2.1 h)

/-- An event changes no register but the log count and the two that count and flag a lost entry. -/
theorem key_postEvent (block detail status aux : Nat) (q : quietKey k) (h : KeyKept k s0 s) :
    KeyKept k s0 (postEvent block detail status aux s) := by
  unfold postEvent
  simp only
  split
  · exact key_setCqLost _ q (key_eventOnce _ _ _ _ q h)
  · exact key_eventOnce _ _ _ _ q h

theorem key_hostError {f : Field} (detail status aux : Nat) (q : quietKey k) (hf : k ≠ keyOf f.reg 0) (h : KeyKept k s0 s) :
    KeyKept k s0 (hostError f detail status aux s) := by
  unfold hostError
  split
  · exact h
  · exact key_postEvent _ _ _ _ q (key_setF hf h)

/-- A field of a kept register reads as before. -/
theorem getF_of_key {f : Field} {i : Nat} (h : KeyKept (keyOf f.reg i) s0 s) : getF f i s = getF f i s0 := by
  unfold getF getR
  unfold KeyKept at h
  rw [h]

/-- The configuration of a ring is kept by events. -/
theorem quietKey_ring {i : Nat} (h : i < 8192) : quietKey (keyOf .hostRingCfg i) := by
  unfold quietKey keyOf regKey
  simp only [regOffset]
  omega

/-! ### What stays as it was, field by field -/

theorem SameButHost.phase {s t : State} (h : SameButHost s t) : t.phase = s.phase := by rw [h]
theorem SameButHost.clock {s t : State} (h : SameButHost s t) : t.clock = s.clock := by rw [h]
theorem SameButHost.timeN {s t : State} (h : SameButHost s t) : t.timeN = s.timeN := by rw [h]
theorem SameButHost.timeFrac {s t : State} (h : SameButHost s t) : t.timeFrac = s.timeFrac := by rw [h]
theorem SameButHost.rate {s t : State} (h : SameButHost s t) : t.rate = s.rate := by rw [h]
theorem SameButHost.freeCtr {s t : State} (h : SameButHost s t) : t.freeCtr = s.freeCtr := by rw [h]
theorem SameButHost.mem {s t : State} (h : SameButHost s t) : t.mem = s.mem := by rw [h]
theorem SameButHost.acc {s t : State} (h : SameButHost s t) : t.acc = s.acc := by rw [h]
theorem SameButHost.accSat {s t : State} (h : SameButHost s t) : t.accSat = s.accSat := by rw [h]
theorem SameButHost.accTol {s t : State} (h : SameButHost s t) : t.accTol = s.accTol := by rw [h]
theorem SameButHost.jobs {s t : State} (h : SameButHost s t) : t.jobs = s.jobs := by rw [h]
theorem SameButHost.streams {s t : State} (h : SameButHost s t) : t.streams = s.streams := by rw [h]
theorem SameButHost.dies {s t : State} (h : SameButHost s t) : t.dies = s.dies := by rw [h]
theorem SameButHost.sends {s t : State} (h : SameButHost s t) : t.sends = s.sends := by rw [h]
theorem SameButHost.nextSend {s t : State} (h : SameButHost s t) : t.nextSend = s.nextSend := by rw [h]
theorem SameButHost.tiers {s t : State} (h : SameButHost s t) : t.tiers = s.tiers := by rw [h]
theorem SameButHost.causes {s t : State} (h : SameButHost s t) : t.causes = s.causes := by rw [h]
theorem SameButHost.domains {s t : State} (h : SameButHost s t) : t.domains = s.domains := by rw [h]
theorem SameButHost.time {s t : State} (h : SameButHost s t) : t.time = s.time := by rw [h]
theorem SameButHost.tables {s t : State} (h : SameButHost s t) : t.tables = s.tables := by rw [h]
theorem SameButHost.fus {s t : State} (h : SameButHost s t) : t.fus = s.fus := by rw [h]
theorem SameButHost.plan {s t : State} (h : SameButHost s t) : t.plan = s.plan := by rw [h]
theorem SameButHost.cle {s t : State} (h : SameButHost s t) : t.cle = s.cle := by rw [h]
theorem SameButHost.safe {s t : State} (h : SameButHost s t) : t.safe = s.safe := by rw [h]
theorem SameButHost.prog {s t : State} (h : SameButHost s t) : t.prog = s.prog := by rw [h]
theorem SameButHost.power {s t : State} (h : SameButHost s t) : t.power = s.power := by rw [h]
theorem SameButHost.lim {s t : State} (h : SameButHost s t) : t.lim = s.lim := by rw [h]
theorem SameButHost.sec {s t : State} (h : SameButHost s t) : t.sec = s.sec := by rw [h]
theorem SameButHost.upd {s t : State} (h : SameButHost s t) : t.upd = s.upd := by rw [h]
theorem SameButHost.elec {s t : State} (h : SameButHost s t) : t.elec = s.elec := by rw [h]
theorem SameButHost.pending {s t : State} (h : SameButHost s t) : t.pending = s.pending := by rw [h]

@[simp] theorem postEvent_phase (b d st a : Nat) (s : State) : (postEvent b d st a s).phase = s.phase :=
  SameButHost.phase (host_postEvent b d st a (SameButHost.refl s))
@[simp] theorem postEvent_clock (b d st a : Nat) (s : State) : (postEvent b d st a s).clock = s.clock :=
  SameButHost.clock (host_postEvent b d st a (SameButHost.refl s))
@[simp] theorem postEvent_timeN (b d st a : Nat) (s : State) : (postEvent b d st a s).timeN = s.timeN :=
  SameButHost.timeN (host_postEvent b d st a (SameButHost.refl s))
@[simp] theorem postEvent_timeFrac (b d st a : Nat) (s : State) : (postEvent b d st a s).timeFrac = s.timeFrac :=
  SameButHost.timeFrac (host_postEvent b d st a (SameButHost.refl s))
@[simp] theorem postEvent_rate (b d st a : Nat) (s : State) : (postEvent b d st a s).rate = s.rate :=
  SameButHost.rate (host_postEvent b d st a (SameButHost.refl s))
@[simp] theorem postEvent_freeCtr (b d st a : Nat) (s : State) : (postEvent b d st a s).freeCtr = s.freeCtr :=
  SameButHost.freeCtr (host_postEvent b d st a (SameButHost.refl s))
@[simp] theorem postEvent_mem (b d st a : Nat) (s : State) : (postEvent b d st a s).mem = s.mem :=
  SameButHost.mem (host_postEvent b d st a (SameButHost.refl s))
@[simp] theorem postEvent_acc (b d st a : Nat) (s : State) : (postEvent b d st a s).acc = s.acc :=
  SameButHost.acc (host_postEvent b d st a (SameButHost.refl s))
@[simp] theorem postEvent_accSat (b d st a : Nat) (s : State) : (postEvent b d st a s).accSat = s.accSat :=
  SameButHost.accSat (host_postEvent b d st a (SameButHost.refl s))
@[simp] theorem postEvent_accTol (b d st a : Nat) (s : State) : (postEvent b d st a s).accTol = s.accTol :=
  SameButHost.accTol (host_postEvent b d st a (SameButHost.refl s))
@[simp] theorem postEvent_jobs (b d st a : Nat) (s : State) : (postEvent b d st a s).jobs = s.jobs :=
  SameButHost.jobs (host_postEvent b d st a (SameButHost.refl s))
@[simp] theorem postEvent_streams (b d st a : Nat) (s : State) : (postEvent b d st a s).streams = s.streams :=
  SameButHost.streams (host_postEvent b d st a (SameButHost.refl s))
@[simp] theorem postEvent_dies (b d st a : Nat) (s : State) : (postEvent b d st a s).dies = s.dies :=
  SameButHost.dies (host_postEvent b d st a (SameButHost.refl s))
@[simp] theorem postEvent_sends (b d st a : Nat) (s : State) : (postEvent b d st a s).sends = s.sends :=
  SameButHost.sends (host_postEvent b d st a (SameButHost.refl s))
@[simp] theorem postEvent_nextSend (b d st a : Nat) (s : State) : (postEvent b d st a s).nextSend = s.nextSend :=
  SameButHost.nextSend (host_postEvent b d st a (SameButHost.refl s))
@[simp] theorem postEvent_tiers (b d st a : Nat) (s : State) : (postEvent b d st a s).tiers = s.tiers :=
  SameButHost.tiers (host_postEvent b d st a (SameButHost.refl s))
@[simp] theorem postEvent_causes (b d st a : Nat) (s : State) : (postEvent b d st a s).causes = s.causes :=
  SameButHost.causes (host_postEvent b d st a (SameButHost.refl s))
@[simp] theorem postEvent_domains (b d st a : Nat) (s : State) : (postEvent b d st a s).domains = s.domains :=
  SameButHost.domains (host_postEvent b d st a (SameButHost.refl s))
@[simp] theorem postEvent_time (b d st a : Nat) (s : State) : (postEvent b d st a s).time = s.time :=
  SameButHost.time (host_postEvent b d st a (SameButHost.refl s))
@[simp] theorem postEvent_tables (b d st a : Nat) (s : State) : (postEvent b d st a s).tables = s.tables :=
  SameButHost.tables (host_postEvent b d st a (SameButHost.refl s))
@[simp] theorem postEvent_fus (b d st a : Nat) (s : State) : (postEvent b d st a s).fus = s.fus :=
  SameButHost.fus (host_postEvent b d st a (SameButHost.refl s))
@[simp] theorem postEvent_plan (b d st a : Nat) (s : State) : (postEvent b d st a s).plan = s.plan :=
  SameButHost.plan (host_postEvent b d st a (SameButHost.refl s))
@[simp] theorem postEvent_cle (b d st a : Nat) (s : State) : (postEvent b d st a s).cle = s.cle :=
  SameButHost.cle (host_postEvent b d st a (SameButHost.refl s))
@[simp] theorem postEvent_safe (b d st a : Nat) (s : State) : (postEvent b d st a s).safe = s.safe :=
  SameButHost.safe (host_postEvent b d st a (SameButHost.refl s))
@[simp] theorem postEvent_prog (b d st a : Nat) (s : State) : (postEvent b d st a s).prog = s.prog :=
  SameButHost.prog (host_postEvent b d st a (SameButHost.refl s))
@[simp] theorem postEvent_power (b d st a : Nat) (s : State) : (postEvent b d st a s).power = s.power :=
  SameButHost.power (host_postEvent b d st a (SameButHost.refl s))
@[simp] theorem postEvent_lim (b d st a : Nat) (s : State) : (postEvent b d st a s).lim = s.lim :=
  SameButHost.lim (host_postEvent b d st a (SameButHost.refl s))
@[simp] theorem postEvent_sec (b d st a : Nat) (s : State) : (postEvent b d st a s).sec = s.sec :=
  SameButHost.sec (host_postEvent b d st a (SameButHost.refl s))
@[simp] theorem postEvent_upd (b d st a : Nat) (s : State) : (postEvent b d st a s).upd = s.upd :=
  SameButHost.upd (host_postEvent b d st a (SameButHost.refl s))
@[simp] theorem postEvent_elec (b d st a : Nat) (s : State) : (postEvent b d st a s).elec = s.elec :=
  SameButHost.elec (host_postEvent b d st a (SameButHost.refl s))
@[simp] theorem postEvent_pending (b d st a : Nat) (s : State) : (postEvent b d st a s).pending = s.pending :=
  SameButHost.pending (host_postEvent b d st a (SameButHost.refl s))
@[simp] theorem completeOrWait_phase (c : Consumed) (f : Facts) (s : State) : (completeOrWait c f s).phase = s.phase :=
  SameButHost.phase (host_completeOrWait c f (SameButHost.refl s))
@[simp] theorem completeOrWait_clock (c : Consumed) (f : Facts) (s : State) : (completeOrWait c f s).clock = s.clock :=
  SameButHost.clock (host_completeOrWait c f (SameButHost.refl s))
@[simp] theorem completeOrWait_timeN (c : Consumed) (f : Facts) (s : State) : (completeOrWait c f s).timeN = s.timeN :=
  SameButHost.timeN (host_completeOrWait c f (SameButHost.refl s))
@[simp] theorem completeOrWait_timeFrac (c : Consumed) (f : Facts) (s : State) : (completeOrWait c f s).timeFrac = s.timeFrac :=
  SameButHost.timeFrac (host_completeOrWait c f (SameButHost.refl s))
@[simp] theorem completeOrWait_rate (c : Consumed) (f : Facts) (s : State) : (completeOrWait c f s).rate = s.rate :=
  SameButHost.rate (host_completeOrWait c f (SameButHost.refl s))
@[simp] theorem completeOrWait_freeCtr (c : Consumed) (f : Facts) (s : State) : (completeOrWait c f s).freeCtr = s.freeCtr :=
  SameButHost.freeCtr (host_completeOrWait c f (SameButHost.refl s))
@[simp] theorem completeOrWait_mem (c : Consumed) (f : Facts) (s : State) : (completeOrWait c f s).mem = s.mem :=
  SameButHost.mem (host_completeOrWait c f (SameButHost.refl s))
@[simp] theorem completeOrWait_acc (c : Consumed) (f : Facts) (s : State) : (completeOrWait c f s).acc = s.acc :=
  SameButHost.acc (host_completeOrWait c f (SameButHost.refl s))
@[simp] theorem completeOrWait_accSat (c : Consumed) (f : Facts) (s : State) : (completeOrWait c f s).accSat = s.accSat :=
  SameButHost.accSat (host_completeOrWait c f (SameButHost.refl s))
@[simp] theorem completeOrWait_accTol (c : Consumed) (f : Facts) (s : State) : (completeOrWait c f s).accTol = s.accTol :=
  SameButHost.accTol (host_completeOrWait c f (SameButHost.refl s))
@[simp] theorem completeOrWait_jobs (c : Consumed) (f : Facts) (s : State) : (completeOrWait c f s).jobs = s.jobs :=
  SameButHost.jobs (host_completeOrWait c f (SameButHost.refl s))
@[simp] theorem completeOrWait_streams (c : Consumed) (f : Facts) (s : State) : (completeOrWait c f s).streams = s.streams :=
  SameButHost.streams (host_completeOrWait c f (SameButHost.refl s))
@[simp] theorem completeOrWait_dies (c : Consumed) (f : Facts) (s : State) : (completeOrWait c f s).dies = s.dies :=
  SameButHost.dies (host_completeOrWait c f (SameButHost.refl s))
@[simp] theorem completeOrWait_sends (c : Consumed) (f : Facts) (s : State) : (completeOrWait c f s).sends = s.sends :=
  SameButHost.sends (host_completeOrWait c f (SameButHost.refl s))
@[simp] theorem completeOrWait_nextSend (c : Consumed) (f : Facts) (s : State) : (completeOrWait c f s).nextSend = s.nextSend :=
  SameButHost.nextSend (host_completeOrWait c f (SameButHost.refl s))
@[simp] theorem completeOrWait_tiers (c : Consumed) (f : Facts) (s : State) : (completeOrWait c f s).tiers = s.tiers :=
  SameButHost.tiers (host_completeOrWait c f (SameButHost.refl s))
@[simp] theorem completeOrWait_causes (c : Consumed) (f : Facts) (s : State) : (completeOrWait c f s).causes = s.causes :=
  SameButHost.causes (host_completeOrWait c f (SameButHost.refl s))
@[simp] theorem completeOrWait_domains (c : Consumed) (f : Facts) (s : State) : (completeOrWait c f s).domains = s.domains :=
  SameButHost.domains (host_completeOrWait c f (SameButHost.refl s))
@[simp] theorem completeOrWait_time (c : Consumed) (f : Facts) (s : State) : (completeOrWait c f s).time = s.time :=
  SameButHost.time (host_completeOrWait c f (SameButHost.refl s))
@[simp] theorem completeOrWait_tables (c : Consumed) (f : Facts) (s : State) : (completeOrWait c f s).tables = s.tables :=
  SameButHost.tables (host_completeOrWait c f (SameButHost.refl s))
@[simp] theorem completeOrWait_fus (c : Consumed) (f : Facts) (s : State) : (completeOrWait c f s).fus = s.fus :=
  SameButHost.fus (host_completeOrWait c f (SameButHost.refl s))
@[simp] theorem completeOrWait_plan (c : Consumed) (f : Facts) (s : State) : (completeOrWait c f s).plan = s.plan :=
  SameButHost.plan (host_completeOrWait c f (SameButHost.refl s))
@[simp] theorem completeOrWait_cle (c : Consumed) (f : Facts) (s : State) : (completeOrWait c f s).cle = s.cle :=
  SameButHost.cle (host_completeOrWait c f (SameButHost.refl s))
@[simp] theorem completeOrWait_safe (c : Consumed) (f : Facts) (s : State) : (completeOrWait c f s).safe = s.safe :=
  SameButHost.safe (host_completeOrWait c f (SameButHost.refl s))
@[simp] theorem completeOrWait_prog (c : Consumed) (f : Facts) (s : State) : (completeOrWait c f s).prog = s.prog :=
  SameButHost.prog (host_completeOrWait c f (SameButHost.refl s))
@[simp] theorem completeOrWait_power (c : Consumed) (f : Facts) (s : State) : (completeOrWait c f s).power = s.power :=
  SameButHost.power (host_completeOrWait c f (SameButHost.refl s))
@[simp] theorem completeOrWait_lim (c : Consumed) (f : Facts) (s : State) : (completeOrWait c f s).lim = s.lim :=
  SameButHost.lim (host_completeOrWait c f (SameButHost.refl s))
@[simp] theorem completeOrWait_sec (c : Consumed) (f : Facts) (s : State) : (completeOrWait c f s).sec = s.sec :=
  SameButHost.sec (host_completeOrWait c f (SameButHost.refl s))
@[simp] theorem completeOrWait_upd (c : Consumed) (f : Facts) (s : State) : (completeOrWait c f s).upd = s.upd :=
  SameButHost.upd (host_completeOrWait c f (SameButHost.refl s))
@[simp] theorem completeOrWait_elec (c : Consumed) (f : Facts) (s : State) : (completeOrWait c f s).elec = s.elec :=
  SameButHost.elec (host_completeOrWait c f (SameButHost.refl s))
@[simp] theorem completeOrWait_pending (c : Consumed) (f : Facts) (s : State) : (completeOrWait c f s).pending = s.pending :=
  SameButHost.pending (host_completeOrWait c f (SameButHost.refl s))

/-- An event leaves the fields of every register but the three of `quietKey`. -/
theorem getF_postEvent {f : Field} {i : Nat} (q : quietKey (keyOf f.reg i)) (b d st a : Nat) (s : State) :
    getF f i (postEvent b d st a s) = getF f i s :=
  getF_of_key (key_postEvent b d st a q rfl)

/-- The same of a flag. -/
theorem getB_postEvent {f : Field} {i : Nat} (q : quietKey (keyOf f.reg i)) (b d st a : Nat) (s : State) :
    getB f i (postEvent b d st a s) = getB f i s := by
  unfold getB
  rw [getF_postEvent q]

end Sys2Proof.Machine
end

