-- ==== Sys2Proof/Laws/Keep.lean ====
section
/-!
SUPPORT. What every change of state keeps: the queue, what has been sent, blown fuses, and the canonical form of plain data. The
relation, the lemmas that put it together along the forms in which a meaning is written, and those of the operations that write
canonical data.
-/
namespace Sys2Proof.Machine
open Sys2Proof

set_option Elab.async false

/-- What holds between the state before a change and the state after it. -/
structure Rel (s t : State) : Prop where
  pending : t.pending = s.pending
  tx : s.tx <+: t.tx
  fuses : FusesKept s t
  canon : Canonical s → Canonical t

/-! ### The relation along the forms of a meaning -/

/-- The second part of a pair meets a predicate. -/
def PSnd {α β : Type} (P : β → Prop) (p : α × β) : Prop := P p.2
/-- The first part of a pair meets a predicate. -/
def PFst {α β : Type} (P : α → Prop) (p : α × β) : Prop := P p.1
/-- The state of a run of folds meets a predicate. -/
def PRun (P : State → Prop) (f : FoldRun) : Prop := P f.s
/-- What an option holds meets a predicate. -/
def POpt {α : Type} (P : α → Prop) (o : Option α) : Prop := ∀ x, o = some x → P x
/-- The next state of an outcome meets a predicate. -/
def PNext {σ φ ρ : Type} (P : σ → Prop) (o : Host.Outcome σ φ ρ) : Prop := ∀ t, o = .next t → P t

theorem FusesKept.refl (s : State) : FusesKept s s :=
  ⟨Nat.le_refl _, id, Nat.le_refl _, fun _ h => h, fun _ h => h, fun _ _ h => h⟩

theorem FusesKept.trans {s t u : State} (h : FusesKept s t) (k : FusesKept t u) : FusesKept s u :=
  ⟨Nat.le_trans h.lifecycle k.lifecycle, fun c => k.legal (h.legal c), Nat.le_trans h.epoch k.epoch, fun i x => k.vendorRevoke i (h.vendorRevoke i x),
    fun i x => k.ownerCfg i (h.ownerCfg i x), fun i hi x => k.ownerRevoke i hi (h.ownerRevoke i hi x)⟩

theorem Rel.refl (s : State) : Rel s s := ⟨rfl, List.prefix_refl _, FusesKept.refl s, id⟩

theorem Rel.trans {s t u : State} (h : Rel s t) (k : Rel t u) : Rel s u :=
  ⟨k.pending.trans h.pending, h.tx.trans k.tx, h.fuses.trans k.fuses, fun c => k.canon (h.canon c)⟩

theorem ite_keep {α : Type} {P : α → Prop} {c : Prop} [Decidable c] {a b : α} (ha : P a) (hb : P b) : P (if c then a else b) := by
  split
  · exact ha
  · exact hb

theorem some_keep {α : Type} {P : α → Prop} {x : α} (h : P x) : POpt P (some x) := by
  intro y e
  cases e
  exact h

theorem none_keep {α : Type} {P : α → Prop} : POpt P (none : Option α) := by
  intro y e
  cases e

theorem snd_keep {α β : Type} {P : β → Prop} {a : α} {b : β} (h : P b) : PSnd P (a, b) := h

theorem fst_keep {α β : Type} {P : α → Prop} {a : α} {b : β} (h : P a) : PFst P (a, b) := h

theorem getD_keep {α : Type} {P : α → Prop} {o : Option α} {d : α} (h : POpt P o) (hd : P d) : P (o.getD d) := by
  cases o with
  | none => exact hd
  | some x => exact h x rfl

theorem next_keep {σ φ ρ : Type} {P : σ → Prop} {t : σ} (h : P t) : PNext P (.next t : Host.Outcome σ φ ρ) := by
  intro y e
  cases e
  exact h

theorem fault_keep {σ φ ρ : Type} {P : σ → Prop} {r : φ} : PNext P (.fault r : Host.Outcome σ φ ρ) := by
  intro y e
  cases e

/-- A predicate of a value carries over to the form that a match has shown it to have. -/
theorem of_eq {α β : Type} {P : α → Prop} {x y : α} {Q : β → Prop} {z : β} (e : x = y) (h : P x) (k : P y → Q z := by exact fun h => h) : Q z :=
  k (e ▸ h)

theorem of_eq_some {α : Type} {P : α → Prop} {x : Option α} {z : α} (e : x = some z) (h : POpt P x) : P z := h z e

theorem of_eq_somePair {α β : Type} {P : α × β → Prop} {Q : β → Prop} {x : Option (α × β)} {y : α} {z : β} (e : x = some (y, z)) (h : POpt P x)
    (k : P (y, z) → Q z := by exact fun h => h) : Q z := k (h _ e)

theorem of_fvar {α β : Type} {P : α → Prop} {y : α} {Q : β → Prop} {z : β} (h : P y) (k : P y → Q z := by exact fun h => h) : Q z := k h

theorem of_some {α : Type} {P : α → Prop} {x : α} (h : POpt P (some x)) : P x := h x rfl

theorem map_keep {α β : Type} {P : α → Prop} {Q : β → Prop} {o : Option α} {f : α → β} (h : POpt P o) (k : ∀ x, P x → Q (f x)) : POpt Q (o.map f) := by
  intro y e
  cases o with
  | none => cases e
  | some x =>
    cases e
    exact k x (h x rfl)

theorem map_any {α β : Type} {Q : β → Prop} {o : Option α} {f : α → β} (k : ∀ x, Q (f x)) : POpt Q (o.map f) := by
  intro y e
  cases o with
  | none => cases e
  | some x =>
    cases e
    exact k x

theorem bind_keep {α β : Type} {P : α → Prop} {Q : β → Prop} {o : Option α} {f : α → Option β} (h : POpt P o)
    (k : ∀ x, P x → POpt Q (f x)) : POpt Q (o.bind f) := by
  cases o with
  | none => exact none_keep
  | some x => exact k x (h x rfl)

theorem orElse_keep {α : Type} {P : α → Prop} {o : Option α} {f : Unit → Option α} (h : POpt P o) (k : ∀ u, POpt P (f u)) :
    POpt P (o.orElse f) := by
  cases o with
  | none => exact k ()
  | some x => exact h

theorem foldl_keep {α β : Type} {P : β → Prop} {l : List α} {f : β → α → β} {b : β} (h : P b) (k : ∀ b, P b → ∀ x, P (f b x)) :
    P (l.foldl f b) := by
  induction l generalizing b with
  | nil => exact h
  | cons x l ih => exact ih (k b h x)

/-- A change of fields that the relation does not speak of. -/
theorem rel_upd {s0 b : State} {phase clock timeN timeFrac rate freeCtr blkExp acc accSat accTol log host sends nextSend tiers causes time tables
    fus plan cle safe prog power lim upd elec} (h : Rel s0 b) :
    Rel s0 { pending := b.pending, phase := phase, clock := clock, timeN := timeN, timeFrac := timeFrac, rate := rate, freeCtr := freeCtr
             regs := b.regs, mem := b.mem, blkExp := blkExp, acc := acc, accSat := accSat, accTol := accTol, tx := b.tx, log := log, host := host
             jobs := b.jobs, streams := b.streams, dies := b.dies, sends := sends, nextSend := nextSend, tiers := tiers
             causes := causes, domains := b.domains, time := time, tables := tables, fus := fus, plan := plan, cle := cle
             safe := safe, prog := prog, power := power, lim := lim, sec := b.sec, upd := upd, elec := elec } :=
  ⟨h.pending, h.tx, ⟨h.fuses.1, h.fuses.2, h.fuses.3, h.fuses.4, h.fuses.5, h.fuses.6⟩,
    fun c => ⟨(h.canon c).mem, (h.canon c).regs, (h.canon c).jobs, (h.canon c).streams, (h.canon c).domains, (h.canon c).dies⟩⟩


/-! ### Canonical data: memory -/

/-- Addresses rise from each cell to every later one, and no cell holds 0. -/
theorem Memory.wf_iff (m : List Host.Cell) : Memory.wf m = true ↔ m.Pairwise (fun x y => x.1 < y.1) ∧ ∀ c ∈ m, c.2 ≠ 0 := by
  induction m with
  | nil => simp [Memory.wf]
  | cons x m ih =>
    obtain ⟨a, b⟩ := x
    cases m with
    | nil => simp [Memory.wf]
    | cons y m =>
      obtain ⟨a', b'⟩ := y
      simp only [Memory.wf, Bool.and_eq_true, decide_eq_true_eq, ih, List.pairwise_cons, List.forall_mem_cons]
      constructor
      · rintro ⟨⟨hb, hlt⟩, ⟨hp, hq⟩, hz, hr⟩
        exact ⟨⟨⟨hlt, fun c hc => Nat.lt_trans hlt (hp c hc)⟩, hp, hq⟩, hb, hz, hr⟩
      · rintro ⟨⟨⟨hlt, _⟩, hp, hq⟩, hb, hz, hr⟩
        exact ⟨⟨hb, hlt⟩, ⟨hp, hq⟩, hz, hr⟩

/-- A cell after a write is the one written, or was there. -/
theorem mem_memPut {m : List Host.Cell} {a : Nat} {b : Byte} {c : Host.Cell} (h : c ∈ memPut m a b) : c = (a, b) ∧ b ≠ 0 ∨ c ∈ m := by
  induction m with
  | nil =>
    simp only [memPut] at h
    split at h
    · cases h
    · rename_i hb
      exact .inl ⟨by simpa using h, hb⟩
  | cons x m ih =>
    obtain ⟨k, v⟩ := x
    simp only [memPut] at h
    split at h
    · split at h
      · exact .inr h
      · rename_i hb
        rcases List.mem_cons.1 h with h | h
        · exact .inl ⟨h, hb⟩
        · exact .inr h
    · split at h
      · split at h
        · exact .inr (List.mem_cons_of_mem _ h)
        · rename_i hb
          rcases List.mem_cons.1 h with h | h
          · exact .inl ⟨h, hb⟩
          · exact .inr (List.mem_cons_of_mem _ h)
      · rcases List.mem_cons.1 h with h | h
        · exact .inr (h ▸ List.mem_cons_self)
        · rcases ih h with h | h
          · exact .inl h
          · exact .inr (List.mem_cons_of_mem _ h)

theorem memPut_rising {m : List Host.Cell} (a : Nat) (b : Byte) (h : m.Pairwise (fun x y => x.1 < y.1)) :
    (memPut m a b).Pairwise (fun x y => x.1 < y.1) := by
  induction m with
  | nil =>
    simp only [memPut]
    split <;> simp
  | cons x m ih =>
    obtain ⟨k, v⟩ := x
    obtain ⟨h1, h2⟩ := List.pairwise_cons.1 h
    simp only [memPut]
    split
    · split
      · exact h
      · rename_i hlt _
        exact List.pairwise_cons.2 ⟨fun c hc => by
          rcases List.mem_cons.1 hc with rfl | hc
          · exact hlt
          · exact Nat.lt_trans hlt (h1 c hc), h⟩
    · split
      · split
        · exact h2
        · rename_i e _
          subst e
          exact List.pairwise_cons.2 ⟨h1, h2⟩
      · refine List.pairwise_cons.2 ⟨fun c hc => ?_, ih h2⟩
        rcases mem_memPut hc with ⟨rfl, _⟩ | hc
        · simp only
          omega
        · exact h1 c hc

/-- A write of one byte keeps the canonical form. -/
theorem memPut_wf {m : List Host.Cell} (a : Nat) (b : Byte) (h : Memory.wf m = true) : Memory.wf (memPut m a b) = true := by
  rw [Memory.wf_iff] at h ⊢
  refine ⟨memPut_rising a b h.1, fun c hc => ?_⟩
  rcases mem_memPut hc with ⟨rfl, hb⟩ | hc
  · exact hb
  · exact h.2 c hc

/-- A write of bytes keeps the canonical form. -/
theorem memWrite_wf (bs : List Byte) {m : List Host.Cell} {a : Nat} (h : Memory.wf m = true) : Memory.wf (memWrite m a bs) = true := by
  induction bs generalizing m a with
  | nil => exact h
  | cons b bs ih => exact ih (memPut_wf a b h)

/-- Cells taken away keep the canonical form. -/
theorem memFilter_wf (p : Host.Cell → Bool) {m : List Host.Cell} (h : Memory.wf m = true) : Memory.wf (m.filter p) = true := by
  rw [Memory.wf_iff] at h ⊢
  exact ⟨h.1.filter p, fun c hc => h.2 c (List.mem_of_mem_filter hc)⟩

/-- Zeroing a range keeps the canonical form. -/
theorem memZero_wf (a n : Nat) {m : List Host.Cell} (h : Memory.wf m = true) : Memory.wf (memZero m a n) = true := memFilter_wf _ h

/-- A range replaced at once keeps the canonical form. -/
theorem memRefill_wf (a n : Nat) (f : Nat → Byte) {m : List Host.Cell} (h : Memory.wf m = true) :
    Memory.wf (memRefill m a n f) = true := by
  rw [Memory.wf_iff] at h ⊢
  have mid : ∀ c ∈ (List.range n).filterMap fun i => if f i = 0 then none else some (a + i, f i), a ≤ c.1 ∧ c.1 < a + n ∧ c.2 ≠ 0 := by
    intro c hc
    obtain ⟨i, hi, e⟩ := List.mem_filterMap.1 hc
    split at e
    · cases e
    · rename_i hz
      cases e
      exact ⟨Nat.le_add_right _ _, Nat.add_lt_add_left (List.mem_range.1 hi) _, hz⟩
  unfold memRefill
  refine ⟨List.pairwise_append.2 ⟨List.pairwise_append.2 ⟨h.1.filter _, ?_, ?_⟩, h.1.filter _, ?_⟩, ?_⟩
  · rw [List.pairwise_filterMap]
    refine List.pairwise_lt_range.imp fun {i j} hij x hx y hy => ?_
    split at hx
    · cases hx
    · split at hy
      · cases hy
      · cases hx
        cases hy
        exact Nat.add_lt_add_left hij _
  · intro x hx y hy
    have h1 := (List.mem_filter.1 hx).2
    have h2 := mid y hy
    simp only [decide_eq_true_eq] at h1
    omega
  · intro x hx y hy
    have h2 := (List.mem_filter.1 hy).2
    simp only [decide_eq_true_eq] at h2
    rcases List.mem_append.1 hx with hx | hx
    · have h1 := (List.mem_filter.1 hx).2
      simp only [decide_eq_true_eq] at h1
      omega
    · have h1 := mid x hx
      omega
  · intro c hc
    rcases List.mem_append.1 hc with hc | hc
    · rcases List.mem_append.1 hc with hc | hc
      · exact h.2 c (List.mem_of_mem_filter hc)
      · exact (mid c hc).2.2
    · exact h.2 c (List.mem_of_mem_filter hc)

/-! ### Canonical data: maps -/

/-- Keys rise from each entry to every later one. -/
theorem mapWf_iff {α : Type} (m : SMap α) : mapWf m = true ↔ m.Pairwise (fun x y => x.1 < y.1) := by
  induction m with
  | nil => simp [mapWf]
  | cons x m ih =>
    obtain ⟨a, b⟩ := x
    cases m with
    | nil => simp [mapWf]
    | cons y m =>
      obtain ⟨a', b'⟩ := y
      simp only [mapWf, Bool.and_eq_true, decide_eq_true_eq, ih, List.pairwise_cons, List.forall_mem_cons]
      constructor
      · rintro ⟨hlt, hp, hq⟩
        exact ⟨⟨hlt, fun c hc => Nat.lt_trans hlt (hp c hc)⟩, hp, hq⟩
      · rintro ⟨⟨hlt, _⟩, hp, hq⟩
        exact ⟨hlt, hp, hq⟩

theorem mem_mapSet {α : Type} {m : SMap α} {i : Nat} {x : α} {c : Nat × α} (h : c ∈ mapSet m i x) : c = (i, x) ∨ c ∈ m := by
  induction m with
  | nil => exact .inl (by simpa [mapSet] using h)
  | cons y m ih =>
    obtain ⟨k, v⟩ := y
    simp only [mapSet] at h
    split at h
    · exact List.mem_cons.1 h
    · split at h
      · rcases List.mem_cons.1 h with h | h
        · exact .inl h
        · exact .inr (List.mem_cons_of_mem _ h)
      · rcases List.mem_cons.1 h with h | h
        · exact .inr (h ▸ List.mem_cons_self)
        · rcases ih h with h | h
          · exact .inl h
          · exact .inr (List.mem_cons_of_mem _ h)

/-- Setting a key keeps the canonical form. -/
theorem mapSet_wf {α : Type} {m : SMap α} (i : Nat) (x : α) (h : mapWf m = true) : mapWf (mapSet m i x) = true := by
  rw [mapWf_iff] at h ⊢
  induction m with
  | nil => simp [mapSet]
  | cons y m ih =>
    obtain ⟨k, v⟩ := y
    obtain ⟨h1, h2⟩ := List.pairwise_cons.1 h
    simp only [mapSet]
    split
    · rename_i hlt
      exact List.pairwise_cons.2 ⟨fun c hc => by
        rcases List.mem_cons.1 hc with rfl | hc
        · exact hlt
        · exact Nat.lt_trans hlt (h1 c hc), h⟩
    · split
      · rename_i e
        subst e
        exact List.pairwise_cons.2 ⟨h1, h2⟩
      · refine List.pairwise_cons.2 ⟨fun c hc => ?_, ih h2⟩
        rcases mem_mapSet hc with rfl | hc
        · simp only
          omega
        · exact h1 c hc

theorem mapErase_sublist {α : Type} (m : SMap α) (i : Nat) : (mapErase m i).Sublist m := by
  induction m with
  | nil => exact List.Sublist.refl _
  | cons y m ih =>
    obtain ⟨k, v⟩ := y
    simp only [mapErase]
    split
    · exact List.sublist_cons_self _ _
    · exact ih.cons_cons _

/-- Erasing a key keeps the canonical form. -/
theorem mapErase_wf {α : Type} {m : SMap α} (i : Nat) (h : mapWf m = true) : mapWf (mapErase m i) = true := by
  rw [mapWf_iff] at h ⊢
  exact h.sublist (mapErase_sublist m i)

/-- Changing an entry keeps the canonical form. -/
theorem mapAdjust_wf {α : Type} {m : SMap α} (i : Nat) (f : α → α) (h : mapWf m = true) : mapWf (mapAdjust m i f) = true := by
  unfold mapAdjust
  split
  · exact mapSet_wf i _ h
  · exact h

/-- Entries changed under their keys, or taken away, keep the canonical form. -/
theorem mapFilterMap_wf {α β : Type} {m : SMap α} {f : Nat × α → Option (Nat × β)} (k : ∀ p q, f p = some q → q.1 = p.1)
    (h : mapWf m = true) : mapWf (m.filterMap f) = true := by
  rw [mapWf_iff] at h ⊢
  rw [List.pairwise_filterMap]
  refine h.imp fun {x y} hxy p hp q hq => ?_
  rw [k x p hp, k y q hq]
  exact hxy

/-- Entries changed under their keys keep the canonical form. -/
theorem mapMap_wf {α β : Type} {m : SMap α} {f : Nat × α → Nat × β} (k : ∀ p, (f p).1 = p.1) (h : mapWf m = true) :
    mapWf (m.map f) = true := by
  rw [mapWf_iff] at h ⊢
  rw [List.pairwise_map]
  refine h.imp fun {x y} hxy => ?_
  rw [k x, k y]
  exact hxy

/-! ### Changes of canonical data -/

theorem rel_mem {s0 b : State} {m : List Host.Cell} (h : Rel s0 b) (k : Memory.wf b.mem = true → Memory.wf m = true) :
    Rel s0 { b with mem := m } :=
  ⟨h.pending, h.tx, ⟨h.fuses.1, h.fuses.2, h.fuses.3, h.fuses.4, h.fuses.5, h.fuses.6⟩,
    fun c => ⟨k (h.canon c).mem, (h.canon c).regs, (h.canon c).jobs, (h.canon c).streams, (h.canon c).domains, (h.canon c).dies⟩⟩

theorem rel_regs {s0 b : State} {m : SMap (BitVec 64)} (h : Rel s0 b) (k : mapWf b.regs = true → mapWf m = true) :
    Rel s0 { b with regs := m } :=
  ⟨h.pending, h.tx, ⟨h.fuses.1, h.fuses.2, h.fuses.3, h.fuses.4, h.fuses.5, h.fuses.6⟩,
    fun c => ⟨(h.canon c).mem, k (h.canon c).regs, (h.canon c).jobs, (h.canon c).streams, (h.canon c).domains, (h.canon c).dies⟩⟩

theorem rel_jobs {s0 b : State} {m : SMap Job} (h : Rel s0 b) (k : mapWf b.jobs = true → mapWf m = true) :
    Rel s0 { b with jobs := m } :=
  ⟨h.pending, h.tx, ⟨h.fuses.1, h.fuses.2, h.fuses.3, h.fuses.4, h.fuses.5, h.fuses.6⟩,
    fun c => ⟨(h.canon c).mem, (h.canon c).regs, k (h.canon c).jobs, (h.canon c).streams, (h.canon c).domains, (h.canon c).dies⟩⟩

theorem rel_streams {s0 b : State} {m : SMap Stream} (h : Rel s0 b) (k : mapWf b.streams = true → mapWf m = true) :
    Rel s0 { b with streams := m } :=
  ⟨h.pending, h.tx, ⟨h.fuses.1, h.fuses.2, h.fuses.3, h.fuses.4, h.fuses.5, h.fuses.6⟩,
    fun c => ⟨(h.canon c).mem, (h.canon c).regs, (h.canon c).jobs, k (h.canon c).streams, (h.canon c).domains, (h.canon c).dies⟩⟩

theorem rel_dies {s0 b : State} {l : List Die} (h : Rel s0 b) (k : l.length = b.dies.length) : Rel s0 { b with dies := l } :=
  ⟨h.pending, h.tx, ⟨h.fuses.1, h.fuses.2, h.fuses.3, h.fuses.4, h.fuses.5, h.fuses.6⟩,
    fun c => ⟨(h.canon c).mem, (h.canon c).regs, (h.canon c).jobs, (h.canon c).streams, (h.canon c).domains, k.trans (h.canon c).dies⟩⟩

theorem rel_domains {s0 b : State} {l : List DomState} (h : Rel s0 b) (k : l.length = b.domains.length) :
    Rel s0 { b with domains := l } :=
  ⟨h.pending, h.tx, ⟨h.fuses.1, h.fuses.2, h.fuses.3, h.fuses.4, h.fuses.5, h.fuses.6⟩,
    fun c => ⟨(h.canon c).mem, (h.canon c).regs, (h.canon c).jobs, (h.canon c).streams, k.trans (h.canon c).domains, (h.canon c).dies⟩⟩

/-- A change of the security unit that clears no fuse bit. -/
theorem rel_sec {s0 b : State} {x : SecUnit} (h : Rel s0 b) (k : FusesKept b { b with sec := x }) : Rel s0 { b with sec := x } :=
  h.trans ⟨rfl, List.prefix_refl _, k, fun c => ⟨c.mem, c.regs, c.jobs, c.streams, c.domains, c.dies⟩⟩

/-- A security unit with the same fuses. -/
theorem fuses_same {b : State} {x : SecUnit} (h1 : x.lifecycle = b.sec.lifecycle := by rfl) (h2 : x.epoch = b.sec.epoch := by rfl)
    (h3 : x.vendorRevoke = b.sec.vendorRevoke := by rfl) (h4 : x.ownerCfg = b.sec.ownerCfg := by rfl)
    (h5 : x.ownerRevoke = b.sec.ownerRevoke := by rfl) : FusesKept b { b with sec := x } := by
  refine ⟨?_, ?_, ?_, ?_, ?_, ?_⟩ <;> simp only [h1, h2, h3, h4, h5] <;> simp

theorem fifteen_bits : ∀ i < 4, Nat.testBit 15 i = true := by decide

/-- A bit set in a field leaves every set bit set. -/
theorem putBits_one_keeps {x lo i : Nat} (h : x.testBit i = true) : (putBits x lo 1 1).testBit i = true := by
  have e : putBits x lo 1 1 = 2 ^ lo * (2 * (x >>> (lo + 1)) + 1) + x % 2 ^ lo := by
    unfold putBits
    rw [Nat.pow_succ]
    ring
  rw [e, Nat.testBit_two_pow_mul_add _ (Nat.mod_lt _ (Nat.two_pow_pos lo))]
  split
  · rename_i hi
    rw [Nat.testBit_mod_two_pow, h]
    simpa using hi
  · rename_i hi
    obtain ⟨k, rfl⟩ := Nat.exists_eq_add_of_le (Nat.le_of_not_lt hi)
    rw [Nat.add_sub_cancel_left]
    cases k with
    | zero => simp [Nat.testBit_zero]
    | succ k =>
      rw [Nat.testBit_succ]
      have e2 : (2 * (x >>> (lo + 1)) + 1) / 2 = x >>> (lo + 1) := by omega
      rw [e2, Nat.testBit_shiftRight, Nat.add_assoc, Nat.add_comm 1 k]
      exact h

end Sys2Proof.Machine
end

