-- ==== Sys2Proof/Laws/KeepHost.lean ====
section
/-!
SUPPORT. What every change of state keeps: registers, rings, the object range, tables, descriptor intake and operands.
-/
namespace Sys2Proof.Machine
open Sys2Proof

set_option Elab.async false

/-! ### Ops -/

theorem keep_wrMem {s0 : State} {a bs s} (k0 : Rel s0 s) : Rel s0 (wrMem a bs s) :=
  rel_mem k0 (memWrite_wf bs)

theorem keep_zeroMem {s0 : State} {a n s} (k0 : Rel s0 s) : Rel s0 (zeroMem a n s) :=
  rel_mem k0 (memFilter_wf _)

theorem keep_emit {s0 : State} {t s} (k0 : Rel s0 s) : Rel s0 (emit t s) :=
  ⟨k0.pending, k0.tx.trans (List.prefix_append _ _), ⟨k0.fuses.1, k0.fuses.2, k0.fuses.3, k0.fuses.4, k0.fuses.5, k0.fuses.6⟩,
    fun c => ⟨(k0.canon c).mem, (k0.canon c).regs, (k0.canon c).jobs, (k0.canon c).streams, (k0.canon c).domains, (k0.canon c).dies⟩⟩

theorem keep_freeNat {s0 : State} {a0 s} (k0 : Rel s0 s) :
    PSnd (Rel s0) (freeNat a0 s) := by
  unfold freeNat
  exact snd_keep (P := Rel s0) (rel_upd k0)

theorem keep_freeBytes {s0 : State} {a0 a1 s} (k0 : Rel s0 s) :
    PSnd (Rel s0) (freeBytes a0 a1 s) := by
  unfold freeBytes
  exact snd_keep (P := Rel s0) (rel_upd k0)

theorem keep_onlyIf {s0 : State} {a0 a1 s} (k0 : ∀ z0, Rel s0 z0 → Rel s0 (a1 z0)) (k1 : Rel s0 s) :
    Rel s0 (onlyIf a0 a1 s) := by
  unfold onlyIf
  refine ite_keep (P := Rel s0) ?_ ?_
  · refine k0 _ ?_
    · exact k1
  · exact k1

theorem keep_forEach {α : Type} {s0 : State} {l : List α} {f : α → State → State} {s : State} (k0 : ∀ x t, Rel s0 t → Rel s0 (f x t))
    (k1 : Rel s0 s) : Rel s0 (forEach l f s) := by
  unfold forEach
  exact foldl_keep (P := Rel s0) k1 fun t h x => k0 x t h

/-! ### Regs -/

theorem keep_setR {s0 : State} {r i v s} (k0 : Rel s0 s) : Rel s0 (setR r i v s) :=
  rel_regs k0 (mapSet_wf _ _)

theorem keep_setF {s0 : State} {a0 a1 a2 s} (k0 : Rel s0 s) :
    Rel s0 (setF a0 a1 a2 s) := by
  unfold setF
  exact keep_setR k0

theorem keep_setB {s0 : State} {a0 a1 a2 s} (k0 : Rel s0 s) :
    Rel s0 (setB a0 a1 a2 s) := by
  unfold setB
  exact keep_setF k0

theorem keep_addF {s0 : State} {a0 a1 a2 s} (k0 : Rel s0 s) :
    Rel s0 (addF a0 a1 a2 s) := by
  unfold addF
  exact keep_setF k0

theorem keep_incF {s0 : State} {a0 a1 s} (k0 : Rel s0 s) :
    Rel s0 (incF a0 a1 s) := by
  unfold incF
  exact keep_addF k0

theorem keep_resetRegs {s0 : State} {k p s} (k0 : Rel s0 s) : Rel s0 (resetRegs k p s) := by
  refine rel_regs k0 (mapFilterMap_wf fun p q e => ?_)
  obtain ⟨key, v⟩ := p
  simp only at e
  split at e
  · exact (congrArg Prod.fst (Option.some.inj e)).symm
  · split at e
    · exact (congrArg Prod.fst (Option.some.inj e)).symm
    · exact (congrArg Prod.fst (Option.some.inj e)).symm

/-! ### Rings -/

theorem keep_setPush {s0 : State} {a0 s} (k0 : Rel s0 s) :
    Rel s0 (setPush a0 s) := by
  unfold setPush
  exact rel_upd k0

theorem keep_setHold {s0 : State} {a0 s} (k0 : Rel s0 s) :
    Rel s0 (setHold a0 s) := by
  unfold setHold
  exact rel_upd k0

theorem keep_setConsumed {s0 : State} {a0 s} (k0 : Rel s0 s) :
    Rel s0 (setConsumed a0 s) := by
  unfold setConsumed
  exact rel_upd k0

theorem keep_setSq {s0 : State} {a0 a1 s} (k0 : Rel s0 s) :
    Rel s0 (setSq a0 a1 s) := by
  unfold setSq
  exact rel_upd k0

theorem keep_setCq {s0 : State} {a0 a1 s} (k0 : Rel s0 s) :
    Rel s0 (setCq a0 a1 s) := by
  unfold setCq
  exact rel_upd k0

theorem keep_signalVector {s0 : State} {a0 s} (k0 : Rel s0 s) :
    Rel s0 (signalVector a0 s) := by
  unfold signalVector
  exact ite_keep (P := Rel s0) (rel_upd k0) (keep_emit k0)

theorem keep_signalCq {s0 : State} {a0 s} (k0 : Rel s0 s) :
    Rel s0 (signalCq a0 s) := by
  unfold signalCq
  split
  · exact k0
  · exact ite_keep (P := Rel s0) k0 (keep_signalVector (keep_setCq k0))

theorem keep_postNow {s0 : State} {a0 s} (k0 : Rel s0 s) :
    Rel s0 (postNow a0 s) := by
  unfold postNow
  extract_lets +onlyGivenNames -merge -underBinder x0 x1 x2 x3 x4 x5
  try clear_value x0 x1 x2 x3 x4 x5
  extract_lets +onlyGivenNames -merge -underBinder x6
  have h7 : Rel s0 x6 := keep_setCq k0
  clear_value x6
  extract_lets +onlyGivenNames -merge -underBinder x8
  have h9 : Rel s0 x8 := ite_keep (P := Rel s0) h7 (keep_emit (keep_emit h7))
  clear_value x8
  extract_lets +onlyGivenNames -merge -underBinder x10
  try clear_value x10
  exact ite_keep (P := Rel s0) (keep_signalCq h9) h9

theorem keep_tryPost {s0 : State} {a0 s} (k0 : Rel s0 s) :
    PFst (Rel s0) (tryPost a0 s) := by
  unfold tryPost
  split
  · exact fst_keep (P := Rel s0) (keep_postNow k0)
  · exact fst_keep (P := Rel s0) (keep_setHold k0)
  · exact fst_keep (P := Rel s0) k0
  · exact fst_keep (P := Rel s0) k0

theorem keep_logEvent {s0 : State} {a0 s} (k0 : Rel s0 s) :
    Rel s0 (logEvent a0 s) := by
  unfold logEvent
  extract_lets +onlyGivenNames -merge -underBinder x0 x1 x2 x3
  try clear_value x0 x1 x2
  have h4 : Rel s0 x3 := rel_upd k0
  clear_value x3
  exact keep_setF h4

theorem keep_eventOnCq0 {s0 : State} {a0 s} (k0 : Rel s0 s) :
    PFst (Rel s0) (eventOnCq0 a0 s) := by
  unfold eventOnCq0
  refine ite_keep (P := (PFst (Rel s0))) ?_ ?_
  · exact fst_keep (P := Rel s0) k0
  · split
    · rename_i y0 y1 q2
      have h3 : Rel s0 y0 := by
        exact of_eq (P := (PFst (Rel s0))) q2 (keep_tryPost k0)
      exact fst_keep (P := Rel s0) (ite_keep (P := Rel s0) (keep_incF h3) h3)

theorem keep_eventOnce {s0 : State} {a0 a1 a2 a3 s} (k0 : Rel s0 s) :
    PFst (Rel s0) (eventOnce a0 a1 a2 a3 s) := by
  unfold eventOnce
  extract_lets +onlyGivenNames -merge -underBinder x0
  try clear_value x0
  exact keep_eventOnCq0 (keep_logEvent k0)

theorem keep_setCqLost {s0 : State} {a0 s} (k0 : Rel s0 s) :
    Rel s0 (setCqLost a0 s) := by
  unfold setCqLost
  refine ite_keep (P := Rel s0) ?_ ?_
  · exact k0
  · show (PFst (Rel s0)) _
    exact keep_eventOnce (keep_setB k0)

theorem keep_postEvent {s0 : State} {a0 a1 a2 a3 s} (k0 : Rel s0 s) :
    Rel s0 (postEvent a0 a1 a2 a3 s) := by
  unfold postEvent
  split
  · rename_i y0 y1 q2
    have h3 : Rel s0 y0 := by
      exact of_eq (P := (PFst (Rel s0))) q2 (keep_eventOnce k0)
    exact ite_keep (P := Rel s0) (keep_setCqLost h3) h3

theorem keep_hostError {s0 : State} {a0 a1 a2 a3 s} (k0 : Rel s0 s) :
    Rel s0 (hostError a0 a1 a2 a3 s) := by
  unfold hostError
  exact ite_keep (P := Rel s0) k0 (keep_postEvent (keep_setB k0))

theorem keep_loseCpl {s0 : State} {a0 s} (k0 : Rel s0 s) :
    Rel s0 (loseCpl a0 s) := by
  unfold loseCpl
  exact keep_setCqLost (keep_incF k0)

theorem keep_freePush {s0 : State} {a0 s} (k0 : Rel s0 s) :
    Rel s0 (freePush a0 s) := by
  unfold freePush
  split
  · exact k0
  · exact keep_setPush k0

theorem keep_dropConsumed {s0 : State} {a0 s} (k0 : Rel s0 s) :
    Rel s0 (dropConsumed a0 s) := by
  unfold dropConsumed
  exact keep_setConsumed k0

theorem keep_complete {s0 : State} {a0 a1 s} (k0 : Rel s0 s) :
    Rel s0 (complete a0 a1 s) := by
  unfold complete
  extract_lets +onlyGivenNames -merge -underBinder x0 x1
  try clear_value x0 x1
  extract_lets +onlyGivenNames -merge -underBinder x2
  have h3 : Rel s0 x2 := keep_dropConsumed k0
  clear_value x2
  refine ite_keep (P := Rel s0) ?_ ?_
  · exact keep_freePush h3
  · refine ite_keep (P := Rel s0) ?_ ?_
    · exact keep_freePush (keep_loseCpl h3)
    · split
      · rename_i y4 y5 q6
        have h7 : Rel s0 y4 := by
          exact of_eq (P := (PFst (Rel s0))) q6 (keep_tryPost h3)
        exact ite_keep (P := Rel s0) (keep_freePush (keep_loseCpl h7)) h7

theorem keep_completeOrWait {s0 : State} {a0 a1 s} (k0 : Rel s0 s) :
    Rel s0 (completeOrWait a0 a1 s) := by
  unfold completeOrWait
  exact ite_keep (P := Rel s0) (keep_complete k0) (rel_upd k0)

theorem keep_completeId {s0 : State} {a0 a1 s} (k0 : Rel s0 s) :
    Rel s0 (completeId a0 a1 s) := by
  unfold completeId
  split
  · exact keep_completeOrWait k0
  · exact k0

theorem keep_drainDecided {s0 : State} {s} (k0 : Rel s0 s) :
    Rel s0 (drainDecided s) := by
  unfold drainDecided
  refine keep_forEach ?_ ?_
  · intro a0 a1 h2
    split
    · split
      · exact keep_completeOrWait h2
      · exact h2
  · exact rel_upd k0

theorem keep_stopRing {s0 : State} {a0 a1 s} (k0 : Rel s0 s) :
    Rel s0 (stopRing a0 a1 s) := by
  unfold stopRing
  extract_lets +onlyGivenNames -merge -underBinder x0
  have h1 : Rel s0 x0 := keep_setF k0
  clear_value x0
  extract_lets +onlyGivenNames -merge -underBinder x2
  try clear_value x2
  split
  · rename_i y3 y4 q5
    have h6 : Rel s0 y3 := by
      exact of_eq (P := (PFst (Rel s0))) q5 (keep_tryPost h1)
    exact ite_keep (P := Rel s0) (keep_loseCpl h6) h6

theorem keep_cfgError {s0 : State} {a0 a1 s} (k0 : Rel s0 s) :
    Rel s0 (cfgError a0 a1 s) := by
  unfold cfgError
  exact keep_hostError k0

theorem keep_dropUnread {s0 : State} {a0 s} (k0 : Rel s0 s) :
    Rel s0 (dropUnread a0 s) := by
  unfold dropUnread
  exact keep_setPush k0

theorem keep_dropHeld {s0 : State} {a0 s} (k0 : Rel s0 s) :
    Rel s0 (dropHeld a0 s) := by
  unfold dropHeld
  extract_lets +onlyGivenNames -merge -underBinder x0
  try clear_value x0
  extract_lets +onlyGivenNames -merge -underBinder x1
  have h2 : Rel s0 x1 := keep_setHold k0
  clear_value x1
  refine keep_forEach ?_ ?_
  · intro a3 a4 h5
    exact ite_keep (P := Rel s0) h5 (keep_freePush (keep_loseCpl h5))
  · exact h2

theorem keep_postOwed {s0 : State} {s} (k0 : Rel s0 s) :
    Rel s0 (postOwed s) := by
  unfold postOwed
  extract_lets +onlyGivenNames -merge -underBinder x0
  try clear_value x0
  refine keep_forEach ?_ ?_
  · intro a1 a2 h3
    split
    · rename_i y4 y5 q6
      have h7 : Rel s0 y4 := by
        exact of_eq (P := (PFst (Rel s0))) q6 (keep_eventOnCq0 h3)
      exact ite_keep (P := Rel s0) (keep_setCqLost h7) h7
  · exact rel_upd k0

theorem keep_zeroRing {s0 : State} {a0 a1 s} (k0 : Rel s0 s) :
    Rel s0 (zeroRing a0 a1 s) := by
  unfold zeroRing
  exact ite_keep (P := Rel s0) (keep_setSq k0) (keep_setCq k0)

theorem keep_ringCfgWrite {s0 : State} {a0 a1 s} (k0 : Rel s0 s) :
    Rel s0 (ringCfgWrite a0 a1 s) := by
  unfold ringCfgWrite
  split
  · exact k0
  · extract_lets +onlyGivenNames -merge -underBinder x0 x1 x2 x3 x4 x5 x6
    try clear_value x0 x1 x2 x3 x4 x5 x6
    refine ite_keep (P := Rel s0) ?_ ?_
    · refine ite_keep (P := Rel s0) ?_ ?_
      · refine ite_keep (P := Rel s0) ?_ ?_
        · exact keep_cfgError k0
        · refine ite_keep (P := Rel s0) ?_ ?_
          · exact keep_cfgError k0
          · extract_lets +onlyGivenNames -merge -underBinder x7
            have h8 : Rel s0 x7 := keep_zeroRing (keep_setR k0)
            clear_value x7
            exact ite_keep (P := Rel s0) (keep_postOwed h8) h8
      · exact keep_setR k0
    · refine ite_keep (P := Rel s0) ?_ ?_
      · exact keep_cfgError k0
      · refine ite_keep (P := Rel s0) ?_ ?_
        · exact keep_setR k0
        · refine ite_keep (P := Rel s0) ?_ ?_
          · exact keep_cfgError k0
          · extract_lets +onlyGivenNames -merge -underBinder x9
            have h10 : Rel s0 x9 := keep_setR k0
            clear_value x9
            exact ite_keep (P := Rel s0) (keep_dropUnread h10) (keep_dropHeld h10)

theorem keep_ringBaseWrite {s0 : State} {a0 a1 s} (k0 : Rel s0 s) :
    Rel s0 (ringBaseWrite a0 a1 s) := by
  unfold ringBaseWrite
  split
  · exact k0
  · extract_lets +onlyGivenNames -merge -underBinder x0 x1
    try clear_value x0 x1
    exact ite_keep (P := Rel s0) (keep_cfgError k0) (keep_setR k0)

theorem keep_doorbellError {s0 : State} {a0 s} (k0 : Rel s0 s) :
    Rel s0 (doorbellError a0 s) := by
  unfold doorbellError
  exact keep_hostError k0

theorem keep_setTail {s0 : State} {a0 a1 s} (k0 : Rel s0 s) :
    Rel s0 (setTail a0 a1 s) := by
  unfold setTail
  refine ite_keep (P := Rel s0) ?_ ?_
  · exact keep_setSq k0
  · extract_lets +onlyGivenNames -merge -underBinder x0
    try clear_value x0
    extract_lets +onlyGivenNames -merge -underBinder x1
    have h2 : Rel s0 x1 := keep_doorbellError k0
    clear_value x1
    exact ite_keep (P := Rel s0) (keep_stopRing h2) h2

theorem keep_moveHead {s0 : State} {a0 a1 s} (k0 : Rel s0 s) :
    Rel s0 (moveHead a0 a1 s) := by
  unfold moveHead
  extract_lets +onlyGivenNames -merge -underBinder x0
  try clear_value x0
  exact ite_keep (P := Rel s0) (keep_setCq k0) (keep_setCq k0)

theorem keep_setHead {s0 : State} {a0 a1 s} (k0 : Rel s0 s) :
    Rel s0 (setHead a0 a1 s) := by
  unfold setHead
  exact ite_keep (P := Rel s0) (keep_moveHead k0) (keep_doorbellError k0)

theorem keep_drainStep {s0 : State} {a0 a1 s} (k0 : Rel s0 s) :
    Rel s0 (drainStep a0 a1 s) := by
  unfold drainStep
  refine ite_keep (P := Rel s0) ?_ ?_
  · exact keep_setHold k0
  · split
    · exact keep_postNow k0
    · exact ite_keep (P := Rel s0) k0 (keep_freePush (keep_loseCpl k0))
    · exact keep_setHold k0
    · exact keep_setHold k0

theorem keep_drainHold {s0 : State} {a0 s} (k0 : Rel s0 s) :
    Rel s0 (drainHold a0 s) := by
  unfold drainHold
  refine keep_forEach ?_ ?_
  · intro a0 a1 h2
    exact keep_drainStep h2
  · exact keep_setHold k0

theorem keep_execHoldingQueueDrain {s0 : State} {a0 s} (k0 : Rel s0 s) :
    PNext (Rel s0) (execHoldingQueueDrain a0 s) := by
  unfold execHoldingQueueDrain
  refine next_keep ?_
  refine keep_onlyIf ?_ ?_
  · intro a0 h1
    exact keep_drainDecided (keep_drainHold h1)
  · exact k0

theorem keep_stallCq {s0 : State} {a0 s} (k0 : Rel s0 s) :
    Rel s0 (stallCq a0 s) := by
  unfold stallCq
  extract_lets +onlyGivenNames -merge -underBinder x0 x1
  try clear_value x0
  have h2 : Rel s0 x1 := keep_setCq k0
  clear_value x1
  exact keep_postEvent (keep_setB h2)

theorem keep_execCqStall {s0 : State} {a0 s} (k0 : Rel s0 s) :
    PNext (Rel s0) (execCqStall a0 s) := by
  unfold execCqStall
  refine next_keep ?_
  refine keep_onlyIf ?_ ?_
  · intro a0 h1
    exact keep_stallCq h1
  · exact k0

theorem keep_execCoalTime {s0 : State} {a0 s} (k0 : Rel s0 s) :
    PNext (Rel s0) (execCoalTime a0 s) := by
  unfold execCoalTime
  refine next_keep ?_
  refine keep_onlyIf ?_ ?_
  · intro a0 h1
    exact keep_signalCq h1
  · exact k0

theorem keep_msixEntryWrite {s0 : State} {a0 a1 s} (k0 : Rel s0 s) :
    Rel s0 (msixEntryWrite a0 a1 s) := by
  unfold msixEntryWrite
  extract_lets +onlyGivenNames -merge -underBinder x0 x1
  try clear_value x0
  have h2 : Rel s0 x1 := rel_upd k0
  clear_value x1
  exact ite_keep (P := Rel s0) (keep_emit (rel_upd h2)) h2

theorem keep_execMsixUnmask {s0 : State} {a0 s} (k0 : Rel s0 s) :
    PNext (Rel s0) (execMsixUnmask a0 s) := by
  unfold execMsixUnmask
  extract_lets +onlyGivenNames -merge -underBinder x0
  try clear_value x0
  refine next_keep ?_
  refine keep_onlyIf ?_ ?_
  · intro a1 h2
    exact keep_msixEntryWrite h2
  · exact k0

/-! ### Objects -/

theorem keep_setDie {s0 : State} {d x s} (k0 : Rel s0 s) : Rel s0 (setDie d x s) :=
  rel_dies k0 List.length_set

theorem keep_adjDie {s0 : State} {a0 a1 s} (k0 : Rel s0 s) :
    Rel s0 (adjDie a0 a1 s) := by
  unfold adjDie
  exact keep_setDie k0

theorem keep_reportT0Ue {s0 : State} {a0 a1 s} (k0 : Rel s0 s) :
    Rel s0 (reportT0Ue a0 a1 s) := by
  unfold reportT0Ue
  exact keep_postEvent (keep_setB k0)

theorem keep_poisonAt {s0 : State} {a0 s} (k0 : Rel s0 s) :
    Rel s0 (poisonAt a0 s) := by
  unfold poisonAt
  extract_lets +onlyGivenNames -merge -underBinder x0
  try clear_value x0
  exact rel_upd k0

theorem keep_reportUe {s0 : State} {a0 a1 s} (k0 : Rel s0 s) :
    Rel s0 (reportUe a0 a1 s) := by
  unfold reportUe
  exact ite_keep (P := Rel s0) k0 (keep_poisonAt (keep_postEvent (keep_incF (keep_setB k0))))

theorem keep_reportCe {s0 : State} {a0 s} (k0 : Rel s0 s) :
    Rel s0 (reportCe a0 s) := by
  unfold reportCe
  extract_lets +onlyGivenNames -merge -underBinder x0
  try clear_value x0
  extract_lets +onlyGivenNames -merge -underBinder x1
  have h2 : Rel s0 x1 := keep_incF (keep_setB k0)
  clear_value x1
  extract_lets +onlyGivenNames -merge -underBinder x3
  try clear_value x3
  split
  · extract_lets +onlyGivenNames -merge -underBinder x4 x5 x6 x7 x8
    try clear_value x4 x5 x6 x7
    have h9 : Rel s0 x8 := rel_upd h2
    clear_value x8
    exact ite_keep (P := Rel s0) (keep_postEvent h9) h9

theorem keep_senseAt {s0 : State} {a0 a1 s} (k0 : Rel s0 s) :
    Rel s0 (senseAt a0 a1 s) := by
  unfold senseAt
  refine ite_keep (P := Rel s0) ?_ ?_
  · exact ite_keep (P := Rel s0) k0 (ite_keep (P := Rel s0) (keep_reportCe k0) (keep_reportUe k0))
  · exact ite_keep (P := Rel s0) (ite_keep (P := Rel s0) (keep_incF (keep_setB k0)) (keep_poisonAt k0)) k0

theorem keep_senseObj {s0 : State} {a0 a1 a2 s} (k0 : Rel s0 s) :
    Rel s0 (senseObj a0 a1 a2 s) := by
  unfold senseObj
  extract_lets +onlyGivenNames -merge -underBinder x0
  have h1 : ∀ a2, ∀ a3, (Rel s0) (x0 a2 a3) := by
    unfold x0
    intro a2 a3
    refine ite_keep (P := Rel s0) ?_ ?_
    · exact k0
    · split
      · exact keep_senseAt k0
      · exact k0
  clear_value x0
  split
  · exact k0
  · refine h1 _ _
  · refine h1 _ _

theorem keep_senseRanges {s0 : State} {a0 a1 s} (k0 : Rel s0 s) :
    Rel s0 (senseRanges a0 a1 s) := by
  unfold senseRanges
  extract_lets +onlyGivenNames -merge -underBinder x0
  have h1 : ∀ a2, ∀ a3, (Rel s0) (x0 a2 a3) := by
    unfold x0
    intro a2 a3
    split
    · exact keep_senseAt k0
    · exact k0
  clear_value x0
  split
  · exact k0
  · refine h1 _ _
  · refine h1 _ _

theorem keep_cleanLines {s0 : State} {a0 a1 s} (k0 : Rel s0 s) :
    Rel s0 (cleanLines a0 a1 s) := by
  unfold cleanLines
  exact rel_upd k0

theorem keep_dropExps {s0 : State} {a0 a1 s} (k0 : Rel s0 s) :
    Rel s0 (dropExps a0 a1 s) := by
  unfold dropExps
  exact rel_upd k0

theorem keep_store {s0 : State} {a0 a1 s} (k0 : Rel s0 s) :
    Rel s0 (store a0 a1 s) := by
  unfold store
  exact keep_dropExps (keep_cleanLines (keep_wrMem k0))

theorem keep_writeObjPieces {s0 : State} {k a bs s} (k0 : Rel s0 s) : Rel s0 (writeObjPieces k a bs s) := by
  induction k generalizing a bs s with
  | zero => exact k0
  | succ k ih =>
    unfold writeObjPieces
    refine ite_keep (P := Rel s0) k0 (ih ?_)
    split
    · exact keep_store k0
    · exact k0

theorem keep_writeObj {s0 : State} {a0 a1 s} (k0 : Rel s0 s) :
    Rel s0 (writeObj a0 a1 s) := by
  unfold writeObj
  extract_lets +onlyGivenNames -merge -underBinder x0
  have h1 : Rel s0 x0 := keep_writeObjPieces k0
  clear_value x0
  refine keep_forEach ?_ ?_
  · intro a2 a3 h4
    split
    · exact keep_cleanLines h4
    · exact h4
  · exact h1

theorem keep_hostWritePage {s0 : State} {a0 a1 s} (k0 : Rel s0 s) :
    Rel s0 (hostWritePage a0 a1 s) := by
  unfold hostWritePage
  refine ite_keep (P := Rel s0) ?_ ?_
  · exact k0
  · split
    · extract_lets +onlyGivenNames -merge -underBinder x0
      try clear_value x0
      exact rel_upd k0
    · exact keep_writeObj k0

theorem keep_hostWritePieces {s0 : State} {k a bs s} (k0 : Rel s0 s) : Rel s0 (hostWritePieces k a bs s) := by
  induction k generalizing a bs s with
  | zero => exact k0
  | succ k ih =>
    unfold hostWritePieces
    exact ite_keep (P := Rel s0) k0 (ih (keep_hostWritePage k0))

theorem keep_hostWriteObj {s0 : State} {a0 a1 s} (k0 : Rel s0 s) :
    Rel s0 (hostWriteObj a0 a1 s) := by
  unfold hostWriteObj
  exact keep_hostWritePieces k0

theorem keep_discardEngineWrite {s0 : State} {a0 a1 s} (k0 : Rel s0 s) :
    Rel s0 (discardEngineWrite a0 a1 s) := by
  unfold discardEngineWrite
  exact ite_keep (P := Rel s0) k0 (keep_postEvent (rel_upd k0))

theorem keep_engineWrite {s0 : State} {a0 a1 a2 s} (k0 : Rel s0 s) :
    Rel s0 (engineWrite a0 a1 a2 s) := by
  unfold engineWrite
  split
  · exact keep_discardEngineWrite k0
  · exact keep_writeObj k0

theorem keep_touchPages {s0 : State} {a0 a1 s} (k0 : Rel s0 s) :
    Rel s0 (touchPages a0 a1 s) := by
  unfold touchPages
  refine keep_forEach ?_ ?_
  · intro a0 a1 h2
    split
    · exact h2
    · extract_lets +onlyGivenNames -merge -underBinder x3 x4 x5
      try clear_value x3 x4
      try clear_value x5
      extract_lets +onlyGivenNames -merge -underBinder x6
      try clear_value x6
      exact rel_upd h2
  · exact k0

theorem keep_touchRanges {s0 : State} {a0 s} (k0 : Rel s0 s) :
    Rel s0 (touchRanges a0 s) := by
  unfold touchRanges
  refine keep_forEach ?_ ?_
  · intro a0 a1 h2
    exact keep_touchPages h2
  · exact k0

theorem keep_memEvent {s0 : State} {a0 a1 a2 s} (k0 : Rel s0 s) :
    Rel s0 (memEvent a0 a1 a2 s) := by
  unfold memEvent
  exact keep_postEvent k0

theorem keep_setTiers {s0 : State} {a0 s} (k0 : Rel s0 s) :
    Rel s0 (setTiers a0 s) := by
  unfold setTiers
  exact rel_upd k0

theorem keep_takeFrame {s0 : State} {a0 a1 s} (k0 : Rel s0 s) :
    POpt (PSnd (Rel s0)) (takeFrame a0 a1 s) := by
  unfold takeFrame
  refine ite_keep (P := (POpt (PSnd (Rel s0)))) ?_ ?_
  · exact none_keep
  · refine map_any (Q := (PSnd (Rel s0))) ?_
    intro a0
    exact snd_keep (P := Rel s0) (keep_setTiers k0)

theorem keep_showRetired {s0 : State} {a0 s} (k0 : Rel s0 s) :
    Rel s0 (showRetired a0 s) := by
  unfold showRetired
  refine keep_forEach ?_ ?_
  · intro a0 a1 h2
    exact keep_setF h2
  · exact k0

theorem keep_leaveFrame {s0 : State} {a0 a1 s} (k0 : Rel s0 s) :
    Rel s0 (leaveFrame a0 a1 s) := by
  unfold leaveFrame
  extract_lets +onlyGivenNames -merge -underBinder x0 x1 x2
  try clear_value x0 x1
  have h3 : Rel s0 x2 := keep_setTiers k0
  clear_value x2
  refine ite_keep (P := Rel s0) ?_ ?_
  · exact h3
  · extract_lets +onlyGivenNames -merge -underBinder x4 x5
    try clear_value x4
    have h6 : Rel s0 x5 := keep_setTiers h3
    clear_value x5
    extract_lets +onlyGivenNames -merge -underBinder x7
    try clear_value x7
    extract_lets +onlyGivenNames -merge -underBinder x8
    have h9 : Rel s0 x8 := keep_showRetired h6
    clear_value x8
    exact ite_keep (P := Rel s0) (keep_memEvent h9) h9

theorem keep_placeT1 {s0 : State} {home job s} (k0 : Rel s0 s) : POpt (PSnd (Rel s0)) (placeT1 home job s) := by
  unfold placeT1
  intro x e
  obtain ⟨d, -, e⟩ := List.exists_of_findSome?_eq_some e
  exact map_keep (P := PSnd (Rel s0)) (Q := PSnd (Rel s0)) (keep_takeFrame k0) (fun _ h => snd_keep (P := Rel s0) h) x e

theorem keep_meetInput {s0 : State} {a0 a1 a2 s} (k0 : Rel s0 s) :
    Rel s0 (meetInput a0 a1 a2 s) := by
  unfold meetInput
  refine ite_keep (P := Rel s0) ?_ ?_
  · exact k0
  · extract_lets +onlyGivenNames -merge -underBinder x0
    have h1 : Rel s0 x0 := by
      unfold x0
      split
      · exact keep_senseObj k0
      · exact k0
      · exact k0
    clear_value x0
    exact keep_touchPages h1

theorem keep_openInput {s0 : State} {a0 a1 s} (k0 : Rel s0 s) :
    Rel s0 (openInput a0 a1 s) := by
  unfold openInput
  exact keep_meetInput k0

theorem keep_dmaError {s0 : State} {a0 s} (k0 : Rel s0 s) :
    Rel s0 (dmaError a0 s) := by
  unfold dmaError
  exact keep_hostError k0

theorem keep_refuseFormat {s0 : State} {a0 a1 a2 s} (k0 : Rel s0 s) :
    Rel s0 (refuseFormat a0 a1 a2 s) := by
  unfold refuseFormat
  exact keep_completeOrWait k0

theorem keep_noteT0 {s0 : State} {a0 s} (k0 : Rel s0 s) :
    Rel s0 (noteT0 a0 s) := by
  unfold noteT0
  split
  · exact keep_reportT0Ue k0
  · exact k0
  · exact k0

theorem keep_inputFailed {s0 : State} {a0 a1 s} (k0 : Rel s0 s) :
    Rel s0 (inputFailed a0 a1 s) := by
  unfold inputFailed
  split
  · exact k0
  · exact keep_completeOrWait (keep_dmaError k0)
  · split
    · exact keep_completeOrWait (keep_noteT0 k0)

theorem keep_withInput {s0 : State} {a0 a1 a2 s} (k0 : ∀ z0, ∀ z1, Rel s0 z1 → Rel s0 (a2 z0 z1)) (k1 : Rel s0 s) :
    Rel s0 (withInput a0 a1 a2 s) := by
  unfold withInput
  extract_lets +onlyGivenNames -merge -underBinder x0
  have h1 : Rel s0 x0 := keep_openInput k1
  clear_value x0
  split
  · refine k0 _ _ ?_
    · exact h1
  · exact keep_inputFailed h1

theorem keep_deliver {s0 : State} {a0 a1 s} (k0 : Rel s0 s) :
    Rel s0 (deliver a0 a1 s) := by
  unfold deliver
  split
  · exact keep_hostWriteObj k0
  · exact keep_emit k0
  · exact k0

theorem keep_makeOutput {s0 : State} {a0 a1 a2 s} (k0 : Rel s0 s) :
    PSnd (Rel s0) (makeOutput a0 a1 a2 s) := by
  unfold makeOutput
  refine ite_keep (P := (PSnd (Rel s0))) ?_ ?_
  · exact snd_keep (P := Rel s0) k0
  · refine ite_keep (P := (PSnd (Rel s0))) ?_ ?_
    · exact snd_keep (P := Rel s0) k0
    · extract_lets +onlyGivenNames -merge -underBinder x0
      try clear_value x0
      split
      · exact snd_keep (P := Rel s0) k0
      · exact snd_keep (P := Rel s0) (keep_deliver k0)

/-! ### Intake -/

theorem keep_markStarted {s0 : State} {a0 s} (k0 : Rel s0 s) :
    Rel s0 (markStarted a0 s) := by
  unfold markStarted
  exact keep_setConsumed k0

theorem keep_refuseUnknown {s0 : State} {a0 s} (k0 : Rel s0 s) :
    Rel s0 (refuseUnknown a0 s) := by
  unfold refuseUnknown
  split
  · exact ite_keep (P := Rel s0) (keep_refuseFormat k0) k0
  · exact k0

theorem keep_refuseFenced {s0 : State} {s} (k0 : Rel s0 s) :
    Rel s0 (refuseFenced s) := by
  unfold refuseFenced
  refine keep_forEach ?_ ?_
  · intro a0 a1 h2
    split
    · exact keep_refuseUnknown h2
    · exact h2
  · exact k0

theorem keep_beginPrime {s0 : State} {a0 a1 a2 s} (k0 : ∀ z0, ∀ z1, Rel s0 z1 → Rel s0 (a2 z0 z1)) (k1 : Rel s0 s) :
    PNext (Rel s0) (begin' a0 a1 a2 s) := by
  unfold begin'
  split
  · exact next_keep k1
  · split
    · exact next_keep (keep_refuseFenced (keep_refuseFormat k1))
    · refine next_keep ?_
      refine keep_refuseFenced ?_
      refine k0 _ _ ?_
      · exact keep_markStarted k1

theorem keep_done {s0 : State} {a0 a1 s} (k0 : Rel s0 s) :
    Rel s0 (done a0 a1 s) := by
  unfold done
  exact keep_completeOrWait k0

theorem keep_execNop {s0 : State} {a0 s} (k0 : Rel s0 s) :
    PNext (Rel s0) (execNop a0 s) := by
  unfold execNop
  refine keep_beginPrime ?_ ?_
  · intro a0 a1 h2
    exact keep_done h2
  · exact k0

theorem keep_consume {s0 : State} {a0 a1 a2 s} (k0 : Rel s0 s) :
    Rel s0 (consume a0 a1 a2 s) := by
  unfold consume
  extract_lets +onlyGivenNames -merge -underBinder x0 x1
  try clear_value x0 x1
  extract_lets +onlyGivenNames -merge -underBinder x2
  have h3 : Rel s0 x2 := keep_setSq k0
  clear_value x2
  extract_lets +onlyGivenNames -merge -underBinder x4 x5
  try clear_value x4
  have h6 : Rel s0 x5 := rel_upd h3
  clear_value x5
  exact keep_refuseUnknown h6

theorem keep_takeTurn {s0 : State} {a0 s} (k0 : Rel s0 s) :
    Rel s0 (takeTurn a0 s) := by
  unfold takeTurn
  extract_lets +onlyGivenNames -merge -underBinder x0
  try clear_value x0
  exact rel_upd k0

theorem keep_unpush {s0 : State} {a0 s} (k0 : Rel s0 s) :
    Rel s0 (unpush a0 s) := by
  unfold unpush
  exact keep_setPush k0

theorem keep_readDescriptor {s0 : State} {a0 a1 s} (k0 : Rel s0 s) :
    Rel s0 (readDescriptor a0 a1 s) := by
  unfold readDescriptor
  refine ite_keep (P := Rel s0) ?_ ?_
  · split
    · exact keep_unpush (keep_consume k0)
    · exact k0
  · split
    · exact keep_consume k0
    · exact keep_stopRing (keep_hostError k0)

theorem keep_execDescriptorRead {s0 : State} {a0 a1 s} (k0 : Rel s0 s) :
    PNext (Rel s0) (execDescriptorRead a0 a1 s) := by
  unfold execDescriptorRead
  refine next_keep ?_
  refine keep_onlyIf ?_ ?_
  · intro a0 h1
    exact keep_readDescriptor (keep_takeTurn h1)
  · exact k0

/-! ### Tables -/

theorem keep_setTables {s0 : State} {a0 s} (k0 : Rel s0 s) :
    Rel s0 (setTables a0 s) := by
  unfold setTables
  exact rel_upd k0

theorem keep_storePending {s0 : State} {a0 s} (k0 : Rel s0 s) :
    Rel s0 (storePending a0 s) := by
  unfold storePending
  extract_lets +onlyGivenNames -merge -underBinder x0 x1
  try clear_value x0 x1
  exact keep_setTables k0

theorem keep_offerTable {s0 : State} {a0 s} (k0 : Rel s0 s) :
    Rel s0 (offerTable a0 s) := by
  unfold offerTable
  exact ite_keep (P := Rel s0) (keep_setTables k0) (keep_storePending k0)

theorem keep_admitWaiting {s0 : State} {a0 s} (k0 : Rel s0 s) :
    Rel s0 (admitWaiting a0 s) := by
  unfold admitWaiting
  split
  · exact k0
  · exact ite_keep (P := Rel s0) k0 (keep_storePending (keep_setTables k0))

theorem keep_activateTable {s0 : State} {a0 a1 s} (k0 : Rel s0 s) :
    Rel s0 (activateTable a0 a1 s) := by
  unfold activateTable
  extract_lets +onlyGivenNames -merge -underBinder x0 x1
  try clear_value x0
  have h2 : Rel s0 x1 := keep_setTables k0
  clear_value x1
  extract_lets +onlyGivenNames -merge -underBinder x3
  have h4 : Rel s0 x3 := by
    unfold x3
    split
    · exact keep_done h2
    · exact h2
  clear_value x3
  exact keep_admitWaiting h4

/-! ### Operands -/

theorem keep_setJob {s0 : State} {j x s} (k0 : Rel s0 s) : Rel s0 (setJob j x s) :=
  rel_jobs k0 (mapSet_wf _ _)

theorem keep_setStream {s0 : State} {j x s} (k0 : Rel s0 s) : Rel s0 (setStream j x s) :=
  rel_streams k0 (mapSet_wf _ _)

theorem keep_adjStream {s0 : State} {j f s} (k0 : Rel s0 s) : Rel s0 (adjStream j f s) :=
  rel_streams k0 (mapAdjust_wf _ _)

theorem keep_adjJob {s0 : State} {j f s} (k0 : Rel s0 s) : Rel s0 (adjJob j f s) :=
  rel_jobs k0 (mapAdjust_wf _ _)

theorem keep_adjCtx {s0 : State} {a0 a1 a2 s} (k0 : Rel s0 s) :
    Rel s0 (adjCtx a0 a1 a2 s) := by
  unfold adjCtx
  exact keep_adjStream k0

theorem keep_accSet {s0 : State} {a0 a1 s} (k0 : Rel s0 s) :
    Rel s0 (accSet a0 a1 s) := by
  unfold accSet
  exact rel_upd k0

/-! ### Epochs -/

theorem keep_raiseCause {s0 : State} {a0 a1 s} (k0 : Rel s0 s) :
    Rel s0 (raiseCause a0 a1 s) := by
  unfold raiseCause
  exact rel_upd k0

theorem keep_adjRun {s0 : State} {a0 a1 a2 a3 s} (k0 : Rel s0 s) :
    Rel s0 (adjRun a0 a1 a2 a3 s) := by
  unfold adjRun
  exact ite_keep (P := Rel s0) (keep_adjStream k0) (keep_adjCtx k0)

theorem keep_setToken {s0 : State} {a0 a1 a2 a3 s} (k0 : Rel s0 s) :
    Rel s0 (setToken a0 a1 a2 a3 s) := by
  unfold setToken
  exact keep_adjCtx k0

theorem keep_tokenAdd {s0 : State} {a0 a1 a2 a3 s} (k0 : Rel s0 s) :
    Rel s0 (tokenAdd a0 a1 a2 a3 s) := by
  unfold tokenAdd
  split
  · exact k0
  · refine ite_keep (P := Rel s0) ?_ ?_
    · exact k0
    · extract_lets +onlyGivenNames -merge -underBinder x0
      try clear_value x0
      exact ite_keep (P := Rel s0) (keep_setToken k0) (keep_raiseCause (keep_postEvent (keep_setB (keep_setToken k0))))

theorem keep_hubToken {s0 : State} {a0 a1 a2 s} (k0 : Rel s0 s) :
    Rel s0 (hubToken a0 a1 a2 s) := by
  unfold hubToken
  exact ite_keep (P := Rel s0) k0 (keep_tokenAdd k0)

theorem keep_takeToken {s0 : State} {a0 a1 a2 a3 s} (k0 : Rel s0 s) :
    Rel s0 (takeToken a0 a1 a2 a3 s) := by
  unfold takeToken
  exact ite_keep (P := Rel s0) k0 (keep_setToken k0)

theorem keep_setEpochs {s0 : State} {a0 a1 s} (k0 : Rel s0 s) :
    Rel s0 (setEpochs a0 a1 s) := by
  unfold setEpochs
  exact keep_adjDie k0

theorem keep_adjEpoch {s0 : State} {a0 a1 a2 s} (k0 : Rel s0 s) :
    Rel s0 (adjEpoch a0 a1 a2 s) := by
  unfold adjEpoch
  exact keep_adjDie k0

theorem keep_takeNoted {s0 : State} {a0 a1 a2 a3 s} (k0 : Rel s0 s) :
    Rel s0 (takeNoted a0 a1 a2 a3 s) := by
  unfold takeNoted
  refine ite_keep (P := Rel s0) ?_ ?_
  · exact k0
  · extract_lets +onlyGivenNames -merge -underBinder x0
    have h1 : Rel s0 x0 := keep_takeToken k0
    clear_value x0
    split
    · exact keep_adjEpoch h1
    · exact h1

theorem keep_takeGates {s0 : State} {a0 a1 a2 s} (k0 : Rel s0 s) :
    Rel s0 (takeGates a0 a1 a2 s) := by
  unfold takeGates
  exact keep_takeNoted (keep_takeNoted k0)

theorem keep_adjChunk {s0 : State} {a0 a1 s} (k0 : Rel s0 s) :
    Rel s0 (adjChunk a0 a1 s) := by
  unfold adjChunk
  exact keep_adjStream k0

theorem keep_markChunk {s0 : State} {a0 a1 a2 a3 s} (k0 : Rel s0 s) :
    Rel s0 (markChunk a0 a1 a2 a3 s) := by
  unfold markChunk
  exact keep_adjChunk k0

theorem keep_endChunk {s0 : State} {a0 a1 a2 a3 s} (k0 : Rel s0 s) :
    Rel s0 (endChunk a0 a1 a2 a3 s) := by
  unfold endChunk
  exact keep_adjChunk k0

theorem keep_endAtBoundary {s0 : State} {a0 a1 a2 a3 s} (k0 : Rel s0 s) :
    Rel s0 (endAtBoundary a0 a1 a2 a3 s) := by
  unfold endAtBoundary
  exact keep_adjChunk k0

theorem keep_adjFacts {s0 : State} {a0 a1 s} (k0 : Rel s0 s) :
    Rel s0 (adjFacts a0 a1 s) := by
  unfold adjFacts
  exact keep_adjChunk k0

theorem keep_dummyFail {s0 : State} {a0 s} (k0 : Rel s0 s) :
    Rel s0 (dummyFail a0 s) := by
  unfold dummyFail
  split
  · exact k0
  · extract_lets +onlyGivenNames -merge -underBinder x0
    have h1 : Rel s0 x0 := keep_adjStream k0
    clear_value x0
    exact keep_raiseCause (keep_postEvent (keep_incF h1))

theorem keep_readFault {s0 : State} {a0 a1 a2 s} (k0 : Rel s0 s) :
    Rel s0 (readFault a0 a1 a2 s) := by
  unfold readFault
  split
  · exact k0
  · split
    · extract_lets +onlyGivenNames -merge -underBinder x0
      have h1 : Rel s0 x0 := by
        unfold x0
        split
        · exact keep_raiseCause (keep_reportT0Ue k0)
        · extract_lets +onlyGivenNames -merge -underBinder x2
          have h3 : Rel s0 x2 := ite_keep (P := Rel s0) k0 (keep_endChunk k0)
          clear_value x2
          exact ite_keep (P := Rel s0) h3 (keep_raiseCause h3)
        · exact keep_raiseCause (ite_keep (P := Rel s0) k0 (keep_endChunk k0))
      clear_value x0
      exact ite_keep (P := Rel s0) (keep_dummyFail h1) h1

theorem keep_applyNote {s0 : State} {a0 a1 a2 a3 s} (k0 : Rel s0 s) :
    Rel s0 (applyNote a0 a1 a2 a3 s) := by
  unfold applyNote
  split
  · exact ite_keep (P := Rel s0) k0 (keep_adjChunk k0)
  · refine ite_keep (P := Rel s0) ?_ ?_
    · exact k0
    · extract_lets +onlyGivenNames -merge -underBinder x0
      have h1 : Rel s0 x0 := keep_adjFacts k0
      clear_value x0
      exact rel_upd h1
  · exact ite_keep (P := Rel s0) (keep_dummyFail k0) (keep_adjChunk k0)
  · exact keep_postEvent (keep_setB k0)
  · exact keep_addF k0
  · exact keep_addF k0

theorem keep_report {s0 : State} {a0 a1 a2 a3 s} (k0 : Rel s0 s) :
    Rel s0 (report a0 a1 a2 a3 s) := by
  unfold report
  split
  · exact keep_adjEpoch k0
  · exact keep_applyNote k0

theorem keep_restoreCells {s0 : State} {d v s} (k0 : Rel s0 s) : Rel s0 (restoreCells d v s) := by
  unfold restoreCells
  exact keep_adjDie (rel_mem k0 (memRefill_wf _ _ _))

theorem keep_restoreMarks {s0 : State} {a0 a1 a2 s} (k0 : Rel s0 s) :
    Rel s0 (restoreMarks a0 a1 a2 s) := by
  unfold restoreMarks
  extract_lets +onlyGivenNames -merge -underBinder x0
  try clear_value x0
  exact rel_upd k0

theorem keep_restoreBanks {s0 : State} {a0 a1 a2 s} (k0 : Rel s0 s) :
    Rel s0 (restoreBanks a0 a1 a2 s) := by
  unfold restoreBanks
  extract_lets +onlyGivenNames -merge -underBinder x0
  try clear_value x0
  exact rel_upd k0

theorem keep_openEpoch {s0 : State} {a0 a1 a2 a3 a4 a5 a6 a7 a8 s} (k0 : Rel s0 s) :
    Rel s0 (openEpoch a0 a1 a2 a3 a4 a5 a6 a7 a8 s) := by
  unfold openEpoch
  exact ite_keep (P := Rel s0) k0 (keep_adjDie k0)

theorem keep_t0Fault {s0 : State} {a0 a1 a2 a3 s} (k0 : Rel s0 s) :
    Rel s0 (t0Fault a0 a1 a2 a3 s) := by
  unfold t0Fault
  extract_lets +onlyGivenNames -merge -underBinder x0
  try clear_value x0
  extract_lets +onlyGivenNames -merge -underBinder x1
  have h2 : Rel s0 x1 := keep_raiseCause (keep_reportT0Ue k0)
  clear_value x1
  exact ite_keep (P := Rel s0) (keep_dummyFail h2) h2

theorem keep_dieWrite {s0 : State} {a0 a1 a2 s} (k0 : Rel s0 s) :
    Rel s0 (dieWrite a0 a1 a2 s) := by
  unfold dieWrite
  split
  · exact keep_adjEpoch k0
  · exact keep_store k0

theorem keep_dieExp {s0 : State} {a0 a1 a2 s} (k0 : Rel s0 s) :
    Rel s0 (dieExp a0 a1 a2 s) := by
  unfold dieExp
  split
  · exact keep_adjEpoch k0
  · exact rel_upd k0

theorem keep_landWrites {s0 : State} {w e s} (k0 : Rel s0 s) : Rel s0 (landWrites w e s) := by
  unfold landWrites
  extract_lets +onlyGivenNames -merge -underBinder x0 x1
  have h1 : Rel s0 x1 := by
    have h0 : Rel s0 { s with mem := w.foldl (fun m (a, b) => memPut m a b) s.mem } :=
      rel_mem k0 fun h => foldl_keep (P := fun m => Memory.wf m = true) h fun m hm x => memPut_wf x.1 x.2 hm
    exact rel_upd h0
  exact keep_forEach (fun _ _ h => keep_cleanLines h) h1

theorem keep_launch {s0 : State} {a0 s} (k0 : Rel s0 s) :
    Rel s0 (launch a0 s) := by
  unfold launch
  exact rel_upd k0

theorem keep_landEpoch {s0 : State} {a0 a1 s} (k0 : Rel s0 s) :
    Rel s0 (landEpoch a0 a1 s) := by
  unfold landEpoch
  extract_lets +onlyGivenNames -merge -underBinder x0
  have h1 : Rel s0 x0 := keep_landWrites k0
  clear_value x0
  extract_lets +onlyGivenNames -merge -underBinder x2
  have h3 : Rel s0 x2 := by
    unfold x2
    refine keep_forEach ?_ ?_
    · intro a4 a5 h6
      exact keep_launch h6
    · exact h1
  clear_value x2
  extract_lets +onlyGivenNames -merge -underBinder x7
  have h8 : Rel s0 x7 := by
    unfold x7
    refine keep_forEach ?_ ?_
    · intro a9 a10 h11
      split
      · exact keep_tokenAdd h11
    · exact h3
  clear_value x7
  extract_lets +onlyGivenNames -merge -underBinder x12
  have h13 : Rel s0 x12 := by
    unfold x12
    refine keep_forEach ?_ ?_
    · intro a14 a15 h16
      exact keep_readFault h16
    · exact h8
  clear_value x12
  refine keep_forEach ?_ ?_
  · intro a17 a18 h19
    exact keep_applyNote h19
  · exact h13

theorem keep_freeSpec {s0 : State} {a0 a1 s} (k0 : Rel s0 s) :
    Rel s0 (freeSpec a0 a1 s) := by
  unfold freeSpec
  exact keep_adjDie k0

theorem keep_commitEpoch {s0 : State} {a0 a1 s} (k0 : Rel s0 s) :
    Rel s0 (commitEpoch a0 a1 s) := by
  unfold commitEpoch
  split
  · exact k0
  · extract_lets +onlyGivenNames -merge -underBinder x0
    try clear_value x0
    extract_lets +onlyGivenNames -merge -underBinder x1
    have h2 : Rel s0 x1 := keep_setEpochs k0
    clear_value x1
    split
    · exact keep_adjEpoch h2
    · exact keep_freeSpec (keep_landEpoch h2)

theorem keep_walkerSquash {s0 : State} {a0 s} (k0 : Rel s0 s) :
    Rel s0 (walkerSquash a0 s) := by
  unfold walkerSquash
  split
  · exact k0
  · extract_lets +onlyGivenNames -merge -underBinder x0
    have h1 : ∀ a2, ∀ a3, Rel s0 a3 → Rel s0 (x0 a2 a3) := by
      unfold x0
      intro a2 a3 h4
      exact keep_setToken h4
    clear_value x0
    extract_lets +onlyGivenNames -merge -underBinder x5
    have h6 : Rel s0 x5 := by
      unfold x5
      refine h1 _ _ ?_
      · refine h1 _ _ ?_
        · refine h1 _ _ ?_
          · exact k0
    clear_value x5
    exact keep_adjDie h6

theorem keep_rewindTo {s0 : State} {a0 a1 a2 a3 a4 s} (k0 : Rel s0 s) :
    Rel s0 (rewindTo a0 a1 a2 a3 a4 s) := by
  unfold rewindTo
  exact keep_adjRun k0

theorem keep_giveBack {s0 : State} {a0 a1 s} (k0 : Rel s0 s) :
    Rel s0 (giveBack a0 a1 s) := by
  unfold giveBack
  refine keep_forEach ?_ ?_
  · intro a0 a1 h2
    split
    · exact keep_setToken h2
  · exact k0

theorem keep_undoPrefetch {s0 : State} {a0 a1 s} (k0 : Rel s0 s) :
    Rel s0 (undoPrefetch a0 a1 s) := by
  unfold undoPrefetch
  exact keep_adjRun (keep_adjDie k0)

theorem keep_undoCheap {s0 : State} {a0 a1 s} (k0 : Rel s0 s) :
    Rel s0 (undoCheap a0 a1 s) := by
  unfold undoCheap
  extract_lets +onlyGivenNames -merge -underBinder x0
  try clear_value x0
  extract_lets +onlyGivenNames -merge -underBinder x1
  have h2 : Rel s0 x1 := by
    unfold x1
    split
    · exact keep_restoreMarks (keep_restoreCells k0)
    · exact k0
  clear_value x1
  exact keep_adjRun h2

theorem keep_undoSkip {s0 : State} {a0 a1 s} (k0 : Rel s0 s) :
    Rel s0 (undoSkip a0 a1 s) := by
  unfold undoSkip
  extract_lets +onlyGivenNames -merge -underBinder x0
  have h1 : Rel s0 x0 := by
    unfold x0
    split
    · exact keep_restoreMarks (keep_restoreBanks (keep_restoreCells k0))
    · exact k0
  clear_value x0
  exact keep_walkerSquash (keep_adjRun h1)

theorem keep_squashEpoch {s0 : State} {a0 a1 s} (k0 : Rel s0 s) :
    Rel s0 (squashEpoch a0 a1 s) := by
  unfold squashEpoch
  split
  · exact k0
  · extract_lets +onlyGivenNames -merge -underBinder x0
    try clear_value x0
    extract_lets +onlyGivenNames -merge -underBinder x1
    have h2 : Rel s0 x1 := keep_setEpochs k0
    clear_value x1
    extract_lets +onlyGivenNames -merge -underBinder x3
    have h4 : Rel s0 x3 := by
      unfold x3
      refine keep_forEach ?_ ?_
      · intro a5 a6 h7
        exact keep_giveBack h7
      · exact keep_giveBack (keep_incF h2)
    clear_value x3
    exact ite_keep (P := Rel s0) (keep_undoPrefetch h4) (ite_keep (P := Rel s0) (keep_undoSkip h4) (keep_undoCheap h4))

theorem keep_countReplay {s0 : State} {a0 s} (k0 : Rel s0 s) :
    Rel s0 (countReplay a0 s) := by
  unfold countReplay
  exact keep_adjFacts k0

theorem keep_squashAll {s0 : State} {a0 s} (k0 : Rel s0 s) :
    Rel s0 (squashAll a0 s) := by
  unfold squashAll
  extract_lets +onlyGivenNames -merge -underBinder x0 x1 x2
  try clear_value x0 x1 x2
  extract_lets +onlyGivenNames -merge -underBinder x3
  have h4 : Rel s0 x3 := by
    unfold x3
    refine keep_forEach ?_ ?_
    · intro a5 a6 h7
      extract_lets +onlyGivenNames -merge -underBinder x8
      have h9 : Rel s0 x8 := keep_postEvent (keep_incF (keep_squashEpoch h7))
      clear_value x8
      exact ite_keep (P := Rel s0) (keep_countReplay h9) h9
    · exact k0
  clear_value x3
  split
  · exact keep_rewindTo h4
  · exact h4

end Sys2Proof.Machine
end

