-- ==== Sys2Proof/Laws/KeepHub.lean ====
section
/-!
SUPPORT. What every change of state keeps: the time base, the control engine, stages, the planner, fusion and health.
-/
namespace Sys2Proof.Machine
open Sys2Proof

set_option Elab.async false

/-! ### Time -/

theorem keep_timeEvent {s0 : State} {a0 a1 s} (k0 : Rel s0 s) :
    Rel s0 (timeEvent a0 a1 s) := by
  unfold timeEvent
  exact keep_postEvent k0

theorem keep_setTime {s0 : State} {a0 s} (k0 : Rel s0 s) :
    Rel s0 (setTime a0 s) := by
  unfold setTime
  exact rel_upd k0

theorem keep_pulse {s0 : State} {a0 a1 a2 s} (k0 : Rel s0 s) :
    Rel s0 (pulse a0 a1 a2 s) := by
  unfold pulse
  exact keep_emit (keep_setTime k0)

theorem keep_endPulses {s0 : State} {a0 s} (k0 : Rel s0 s) :
    Rel s0 (endPulses a0 s) := by
  unfold endPulses
  extract_lets +onlyGivenNames -merge -underBinder x0 x1 x2 x3
  try clear_value x0 x1 x2
  have h4 : Rel s0 x3 := keep_setTime k0
  clear_value x3
  refine keep_forEach ?_ ?_
  · intro a5 a6 h7
    exact ite_keep (P := Rel s0) h7 (keep_emit h7)
  · exact h4

theorem keep_firePins {s0 : State} {a0 s} (k0 : Rel s0 s) :
    Rel s0 (firePins a0 s) := by
  unfold firePins
  extract_lets +onlyGivenNames -merge -underBinder x0 x1 x2
  try clear_value x0 x1 x2
  refine keep_forEach ?_ ?_
  · intro a3 a4 h5
    exact keep_pulse h5
  · exact k0

theorem keep_setGen {s0 : State} {a0 a1 s} (k0 : Rel s0 s) :
    Rel s0 (setGen a0 a1 s) := by
  unfold setGen
  exact keep_setTime k0

theorem keep_genEnable {s0 : State} {a0 s} (k0 : Rel s0 s) :
    Rel s0 (genEnable a0 s) := by
  unfold genEnable
  split
  · exact keep_setGen k0
  · exact keep_timeEvent (keep_setGen k0)

theorem keep_genDisable {s0 : State} {a0 s} (k0 : Rel s0 s) :
    Rel s0 (genDisable a0 s) := by
  unfold genDisable
  exact keep_endPulses (keep_setGen k0)

theorem keep_genCfgWrite {s0 : State} {a0 a1 s} (k0 : Rel s0 s) :
    Rel s0 (genCfgWrite a0 a1 s) := by
  unfold genCfgWrite
  extract_lets +onlyGivenNames -merge -underBinder x0 x1 x2 x3 x4
  try clear_value x0 x1 x2 x3 x4
  refine ite_keep (P := Rel s0) ?_ ?_
  · exact ite_keep (P := Rel s0) (keep_setR k0) (keep_setB (keep_setR k0))
  · extract_lets +onlyGivenNames -merge -underBinder x5
    have h6 : Rel s0 x5 := keep_setR k0
    clear_value x5
    exact ite_keep (P := Rel s0) (keep_genEnable h6) (ite_keep (P := Rel s0) (keep_genDisable h6) h6)

theorem keep_genStartWrite {s0 : State} {a0 a1 s} (k0 : Rel s0 s) :
    Rel s0 (genStartWrite a0 a1 s) := by
  unfold genStartWrite
  extract_lets +onlyGivenNames -merge -underBinder x0 x1 x2
  try clear_value x0 x1 x2
  exact ite_keep (P := Rel s0) k0 (ite_keep (P := Rel s0) (keep_setB k0) (keep_setR k0))

theorem keep_genFire {s0 : State} {a0 s} (k0 : Rel s0 s) :
    Rel s0 (genFire a0 s) := by
  unfold genFire
  extract_lets +onlyGivenNames -merge -underBinder x0 x1 x2
  try clear_value x0 x1 x2
  exact keep_firePins (keep_setGen k0)

theorem keep_stepGen {s0 : State} {a0 a1 s} (k0 : Rel s0 s) :
    PFst (Rel s0) (stepGen a0 a1 s) := by
  unfold stepGen
  extract_lets +onlyGivenNames -merge -underBinder x0
  try clear_value x0
  refine ite_keep (P := (PFst (Rel s0))) ?_ ?_
  · exact fst_keep (P := Rel s0) k0
  · extract_lets +onlyGivenNames -merge -underBinder x1 x2 x3
    try clear_value x1 x2 x3
    extract_lets +onlyGivenNames -merge -underBinder x4
    have h5 : Rel s0 x4 := keep_setGen k0
    clear_value x4
    extract_lets +onlyGivenNames -merge -underBinder x6
    have h7 : Rel s0 x6 := keep_firePins h5
    clear_value x6
    exact fst_keep (P := Rel s0) (ite_keep (P := Rel s0) (keep_timeEvent h7) h7)

theorem keep_stepTime {s0 : State} {a0 s} (k0 : Rel s0 s) :
    PFst (Rel s0) (stepTime a0 s) := by
  unfold stepTime
  refine ite_keep (P := (PFst (Rel s0))) ?_ ?_
  · exact fst_keep (P := Rel s0) k0
  · extract_lets +onlyGivenNames -merge -underBinder x0 x1
    try clear_value x0 x1
    extract_lets +onlyGivenNames -merge -underBinder x2
    have h3 : Rel s0 x2 := keep_setF (rel_upd k0)
    clear_value x2
    extract_lets +onlyGivenNames -merge -underBinder x4
    have h5 : Rel s0 x4 := keep_timeEvent h3
    clear_value x4
    refine ite_keep (P := (PFst (Rel s0))) ?_ ?_
    · exact fst_keep (P := Rel s0) h5
    · refine foldl_keep (P := (PFst (Rel s0))) ?_ ?_
      · exact fst_keep (P := Rel s0) h5
      · intro a6 h7 a8
        split
        · rename_i y9 y10 q11
          have h12 : Rel s0 y9 := by
            refine of_eq (P := (PFst (Rel s0))) q11 ?_
            refine keep_stepGen ?_
            show (PFst (Rel s0)) _
            exact h7
          exact fst_keep (P := Rel s0) h12

theorem keep_timeReload {s0 : State} {s} (k0 : Rel s0 s) :
    PFst (Rel s0) (timeReload s) := by
  unfold timeReload
  extract_lets +onlyGivenNames -merge -underBinder x0 x1
  have h2 : Rel s0 x0 := keep_setF k0
  clear_value x0
  have h3 : Rel s0 x1 := rel_upd h2
  clear_value x1
  refine ite_keep (P := (PFst (Rel s0))) ?_ ?_
  · exact fst_keep (P := Rel s0) (keep_setTime (rel_upd h3))
  · extract_lets +onlyGivenNames -merge -underBinder x4 x5
    try clear_value x4 x5
    split
    · rename_i y6 y7 q8
      have h9 : Rel s0 y7 := by
        exact of_eq (P := (PSnd (Rel s0))) q8 (keep_freeNat h3)
      extract_lets +onlyGivenNames -merge -underBinder x10 x11 x12
      try clear_value x10 x11
      have h13 : Rel s0 x12 := keep_setTime h9
      clear_value x12
      exact keep_stepTime h13

theorem keep_enterHoldover {s0 : State} {a0 s} (k0 : Rel s0 s) :
    Rel s0 (enterHoldover a0 s) := by
  unfold enterHoldover
  exact keep_timeEvent (keep_setF k0)

theorem keep_refuseStep {s0 : State} {a0 s} (k0 : Rel s0 s) :
    Rel s0 (refuseStep a0 s) := by
  unfold refuseStep
  extract_lets +onlyGivenNames -merge -underBinder x0
  have h1 : Rel s0 x0 := ite_keep (P := Rel s0) (keep_enterHoldover k0) k0
  clear_value x0
  exact ite_keep (P := Rel s0) h1 (keep_timeEvent (keep_setB h1))

theorem keep_servo {s0 : State} {s} (k0 : Rel s0 s) :
    Rel s0 (servo s) := by
  unfold servo
  split
  · rename_i y0 y1 q2
    have h3 : Rel s0 y1 := by
      exact of_eq (P := (PSnd (Rel s0))) q2 (keep_freeNat k0)
    exact rel_upd h3

theorem keep_lockStep {s0 : State} {a0 s} (k0 : Rel s0 s) :
    PFst (Rel s0) (lockStep a0 s) := by
  unfold lockStep
  exact keep_stepTime (keep_setTime (keep_setF k0))

theorem keep_syncMeasured {s0 : State} {a0 s} (k0 : Rel s0 s) :
    PFst (Rel s0) (syncMeasured a0 s) := by
  unfold syncMeasured
  extract_lets +onlyGivenNames -merge -underBinder x0 x1
  try clear_value x0
  have h2 : Rel s0 x1 := keep_setF (keep_setTime k0)
  clear_value x1
  split
  · exact keep_lockStep h2
  · extract_lets +onlyGivenNames -merge -underBinder x3 x4 x5
    try clear_value x3 x4
    have h6 : Rel s0 x5 := keep_setTime h2
    clear_value x5
    refine ite_keep (P := (PFst (Rel s0))) ?_ ?_
    · exact ite_keep (P := (PFst (Rel s0))) (keep_lockStep h6) (fst_keep (P := Rel s0) (keep_refuseStep h6))
    · exact fst_keep (P := Rel s0) (keep_servo h6)
  · exact ite_keep (P := (PFst (Rel s0))) (keep_lockStep h2) (fst_keep (P := Rel s0) (keep_refuseStep h2))

theorem keep_acceptStep {s0 : State} {s} (k0 : Rel s0 s) :
    PFst (Rel s0) (acceptStep s) := by
  unfold acceptStep
  refine ite_keep (P := (PFst (Rel s0))) ?_ ?_
  · exact fst_keep (P := Rel s0) k0
  · split
    · rename_i y0 y1 q2
      have h3 : Rel s0 y0 := by
        exact of_eq (P := (PFst (Rel s0))) q2 (keep_lockStep k0)
      exact fst_keep (P := Rel s0) (ite_keep (P := Rel s0) h3 (keep_enterHoldover h3))

theorem keep_execSyncTimeout {s0 : State} {s} (k0 : Rel s0 s) :
    PNext (Rel s0) (execSyncTimeout s) := by
  unfold execSyncTimeout
  refine next_keep ?_
  refine keep_onlyIf ?_ ?_
  · intro a0 h1
    exact keep_enterHoldover h1
  · exact k0

theorem keep_execGeneratorDisable {s0 : State} {a0 s} (k0 : Rel s0 s) :
    PNext (Rel s0) (execGeneratorDisable a0 s) := by
  unfold execGeneratorDisable
  refine next_keep ?_
  refine keep_onlyIf ?_ ?_
  · intro a0 h1
    exact keep_genCfgWrite h1
  · exact k0

theorem keep_execGeneratorEnable {s0 : State} {a0 s} (k0 : Rel s0 s) :
    PNext (Rel s0) (execGeneratorEnable a0 s) := by
  unfold execGeneratorEnable
  refine next_keep ?_
  refine keep_onlyIf ?_ ?_
  · intro a0 h1
    exact keep_genCfgWrite h1
  · exact k0

theorem keep_recordEdge {s0 : State} {a0 a1 s} (k0 : Rel s0 s) :
    Rel s0 (recordEdge a0 a1 s) := by
  unfold recordEdge
  extract_lets +onlyGivenNames -merge -underBinder x0 x1 x2
  try clear_value x0 x1
  have h3 : Rel s0 x2 := ite_keep (P := Rel s0) (keep_setTime k0) (keep_timeEvent k0)
  clear_value x2
  exact ite_keep (P := Rel s0) (keep_timeEvent h3) h3

theorem keep_readCap {s0 : State} {s} (k0 : Rel s0 s) :
    PSnd (Rel s0) (readCap s) := by
  unfold readCap
  extract_lets +onlyGivenNames -merge -underBinder x0
  try clear_value x0
  split
  · exact snd_keep (P := Rel s0) k0
  · exact snd_keep (P := Rel s0) (keep_setTime k0)

theorem keep_execTimeCapDataRead {s0 : State} {s} (k0 : Rel s0 s) :
    PNext (Rel s0) (execTimeCapDataRead s) := by
  unfold execTimeCapDataRead
  refine next_keep ?_
  refine keep_onlyIf ?_ ?_
  · intro a0 h1
    split
    · rename_i y2 y3 q4
      have h5 : Rel s0 y3 := by
        exact of_eq (P := (PSnd (Rel s0))) q4 (keep_readCap h1)
      exact keep_emit h5
  · exact k0

theorem keep_qbvRequest {s0 : State} {a0 s} (k0 : Rel s0 s) :
    Rel s0 (qbvRequest a0 s) := by
  unfold qbvRequest
  extract_lets +onlyGivenNames -merge -underBinder x0
  try clear_value x0
  exact keep_setTime k0

theorem keep_execQbvChange {s0 : State} {a0 s} (k0 : Rel s0 s) :
    PNext (Rel s0) (execQbvChange a0 s) := by
  unfold execQbvChange
  refine next_keep ?_
  refine keep_onlyIf ?_ ?_
  · intro a0 h1
    exact keep_qbvRequest h1
  · exact k0

theorem keep_qbvSwitch {s0 : State} {a0 s} (k0 : Rel s0 s) :
    Rel s0 (qbvSwitch a0 s) := by
  unfold qbvSwitch
  split
  · exact ite_keep (P := Rel s0) (keep_setTime (keep_setF k0)) k0
  · exact k0

theorem keep_execQbvListSwitch {s0 : State} {a0 s} (k0 : Rel s0 s) :
    PNext (Rel s0) (execQbvListSwitch a0 s) := by
  unfold execQbvListSwitch
  refine next_keep ?_
  refine keep_onlyIf ?_ ?_
  · intro a0 h1
    exact keep_qbvSwitch h1
  · exact k0

theorem keep_ethSend {s0 : State} {a0 a1 s} (k0 : Rel s0 s) :
    Rel s0 (ethSend a0 a1 s) := by
  unfold ethSend
  exact ite_keep (P := Rel s0) (keep_emit k0) (keep_setTime k0)

theorem keep_openGates {s0 : State} {s} (k0 : Rel s0 s) :
    Rel s0 (openGates s) := by
  unfold openGates
  extract_lets +onlyGivenNames -merge -underBinder x0
  try clear_value x0
  refine ite_keep (P := Rel s0) ?_ ?_
  · exact k0
  · refine keep_forEach ?_ ?_
    · intro a1 a2 h3
      exact keep_emit h3
    · exact keep_setTime k0

theorem keep_tickTime {s0 : State} {s} (k0 : Rel s0 s) :
    Rel s0 (tickTime s) := by
  unfold tickTime
  refine ite_keep (P := Rel s0) ?_ ?_
  · extract_lets +onlyGivenNames -merge -underBinder x0
    try clear_value x0
    exact rel_upd k0
  · exact k0

theorem keep_tick {s0 : State} {s} (k0 : Rel s0 s) :
    Rel s0 (tick s) := by
  unfold tick
  extract_lets +onlyGivenNames -merge -underBinder x0
  have h1 : Rel s0 x0 := keep_tickTime (rel_upd k0)
  clear_value x0
  exact keep_openGates (keep_endPulses h1)

/-! ### Cle -/

theorem keep_setCle {s0 : State} {a0 s} (k0 : Rel s0 s) :
    Rel s0 (setCle a0 s) := by
  unfold setCle
  exact rel_upd k0

theorem keep_setChan {s0 : State} {a0 a1 s} (k0 : Rel s0 s) :
    Rel s0 (setChan a0 a1 s) := by
  unfold setChan
  exact keep_setCle k0

theorem keep_adjChan {s0 : State} {a0 a1 s} (k0 : Rel s0 s) :
    Rel s0 (adjChan a0 a1 s) := by
  unfold adjChan
  exact keep_setChan k0

theorem keep_setDrive {s0 : State} {a0 a1 s} (k0 : Rel s0 s) :
    Rel s0 (setDrive a0 a1 s) := by
  unfold setDrive
  exact keep_setCle k0

theorem keep_adjDrive {s0 : State} {a0 a1 s} (k0 : Rel s0 s) :
    Rel s0 (adjDrive a0 a1 s) := by
  unfold adjDrive
  exact keep_setDrive k0

theorem keep_cleEvent {s0 : State} {a0 a1 s} (k0 : Rel s0 s) :
    Rel s0 (cleEvent a0 a1 s) := by
  unfold cleEvent
  exact keep_postEvent k0

theorem keep_jpEvent {s0 : State} {a0 a1 s} (k0 : Rel s0 s) :
    Rel s0 (jpEvent a0 a1 s) := by
  unfold jpEvent
  exact keep_postEvent k0

theorem keep_showLost {s0 : State} {s} (k0 : Rel s0 s) :
    Rel s0 (showLost s) := by
  unfold showLost
  refine keep_forEach ?_ ?_
  · intro a0 a1 h2
    exact keep_setB h2
  · exact k0

theorem keep_sendDrive {s0 : State} {a0 a1 a2 a3 s} (k0 : Rel s0 s) :
    Rel s0 (sendDrive a0 a1 a2 a3 s) := by
  unfold sendDrive
  extract_lets +onlyGivenNames -merge -underBinder x0 x1
  try clear_value x0 x1
  refine ite_keep (P := Rel s0) ?_ ?_
  · exact k0
  · refine ite_keep (P := Rel s0) ?_ ?_
    · extract_lets +onlyGivenNames -merge -underBinder x2 x3
      try clear_value x2 x3
      exact keep_emit k0
    · exact keep_ethSend k0

theorem keep_sendCommand {s0 : State} {a0 s} (k0 : Rel s0 s) :
    Rel s0 (sendCommand a0 s) := by
  unfold sendCommand
  exact keep_adjDrive (keep_sendDrive k0)

theorem keep_settleDrive {s0 : State} {a0 s} (k0 : Rel s0 s) :
    Rel s0 (settleDrive a0 s) := by
  unfold settleDrive
  extract_lets +onlyGivenNames -merge -underBinder x0
  try clear_value x0
  exact ite_keep (P := Rel s0) (keep_sendCommand k0) k0

theorem keep_normalUpdate {s0 : State} {a0 s} (k0 : Rel s0 s) :
    Rel s0 (normalUpdate a0 s) := by
  unfold normalUpdate
  extract_lets +onlyGivenNames -merge -underBinder x0 x1
  try clear_value x0 x1
  split
  · extract_lets +onlyGivenNames -merge -underBinder x2
    try clear_value x2
    extract_lets +onlyGivenNames -merge -underBinder x3
    have h4 : Rel s0 x3 := ite_keep (P := Rel s0) k0 (keep_incF k0)
    clear_value x3
    split
    · exact keep_setB (keep_setChan h4)

theorem keep_huskUpdate {s0 : State} {a0 s} (k0 : Rel s0 s) :
    Rel s0 (huskUpdate a0 s) := by
  unfold huskUpdate
  extract_lets +onlyGivenNames -merge -underBinder x0 x1
  try clear_value x0 x1
  refine ite_keep (P := Rel s0) ?_ ?_
  · exact keep_setChan k0
  · split
    · exact keep_setB (keep_setChan k0)

theorem keep_runUpdate {s0 : State} {a0 s} (k0 : Rel s0 s) :
    Rel s0 (runUpdate a0 s) := by
  unfold runUpdate
  exact ite_keep (P := Rel s0) (keep_huskUpdate k0) (keep_normalUpdate k0)

theorem keep_missChan {s0 : State} {a0 s} (k0 : Rel s0 s) :
    Rel s0 (missChan a0 s) := by
  unfold missChan
  extract_lets +onlyGivenNames -merge -underBinder x0
  have h1 : Rel s0 x0 := keep_adjChan k0
  clear_value x0
  extract_lets +onlyGivenNames -merge -underBinder x2
  have h3 : Rel s0 x2 := ite_keep (P := Rel s0) h1 (keep_cleEvent h1)
  clear_value x2
  exact keep_incF (keep_setB h3)

theorem keep_releaseChan {s0 : State} {a0 s} (k0 : Rel s0 s) :
    Rel s0 (releaseChan a0 s) := by
  unfold releaseChan
  extract_lets +onlyGivenNames -merge -underBinder x0 x1
  try clear_value x0 x1
  refine ite_keep (P := Rel s0) ?_ ?_
  · exact keep_incF (keep_setChan k0)
  · exact ite_keep (P := Rel s0) (keep_missChan k0) (keep_runUpdate (keep_setChan k0))

theorem keep_toProbing {s0 : State} {a0 s} (k0 : Rel s0 s) :
    Rel s0 (toProbing a0 s) := by
  unfold toProbing
  extract_lets +onlyGivenNames -merge -underBinder x0
  have h1 : Rel s0 x0 := keep_setF (keep_setF k0)
  clear_value x0
  extract_lets +onlyGivenNames -merge -underBinder x2
  have h3 : Rel s0 x2 := keep_adjDrive h1
  clear_value x2
  refine keep_showLost ?_
  refine keep_forEach ?_ ?_
  · intro a4 a5 h6
    exact keep_adjChan h6
  · exact h3

theorem keep_toRun {s0 : State} {a0 s} (k0 : Rel s0 s) :
    Rel s0 (toRun a0 s) := by
  unfold toRun
  extract_lets +onlyGivenNames -merge -underBinder x0
  have h1 : Rel s0 x0 := keep_setF (keep_setF k0)
  clear_value x0
  extract_lets +onlyGivenNames -merge -underBinder x2
  have h3 : Rel s0 x2 := keep_adjDrive h1
  clear_value x2
  refine keep_showLost ?_
  refine keep_forEach ?_ ?_
  · intro a4 a5 h6
    exact keep_adjChan h6
  · exact h3

theorem keep_endCycle {s0 : State} {a0 s} (k0 : Rel s0 s) :
    Rel s0 (endCycle a0 s) := by
  unfold endCycle
  extract_lets +onlyGivenNames -merge -underBinder x0
  try clear_value x0
  refine ite_keep (P := Rel s0) ?_ ?_
  · exact k0
  · extract_lets +onlyGivenNames -merge -underBinder x1
    have h2 : Rel s0 x1 := keep_incF k0
    clear_value x1
    refine ite_keep (P := Rel s0) ?_ ?_
    · extract_lets +onlyGivenNames -merge -underBinder x3
      have h4 : Rel s0 x3 := keep_jpEvent (keep_incF h2)
      clear_value x3
      exact keep_toProbing (keep_adjDrive h4)
    · exact h2

theorem keep_probe {s0 : State} {a0 a1 s} (k0 : Rel s0 s) :
    Rel s0 (probe a0 a1 s) := by
  unfold probe
  extract_lets +onlyGivenNames -merge -underBinder x0
  try clear_value x0
  extract_lets +onlyGivenNames -merge -underBinder x1
  have h2 : Rel s0 x1 := keep_adjDrive k0
  clear_value x1
  extract_lets +onlyGivenNames -merge -underBinder x3
  try clear_value x3
  exact keep_sendDrive h2

theorem keep_driveCycle {s0 : State} {a0 a1 s} (k0 : Rel s0 s) :
    Rel s0 (driveCycle a0 a1 s) := by
  unfold driveCycle
  extract_lets +onlyGivenNames -merge -underBinder x0
  have h1 : Rel s0 x0 := by
    unfold x0
    refine keep_forEach ?_ ?_
    · intro a2 a3 h4
      exact ite_keep (P := Rel s0) (keep_missChan h4) h4
    · exact keep_endCycle k0
  clear_value x0
  extract_lets +onlyGivenNames -merge -underBinder x5 x6
  try clear_value x5 x6
  extract_lets +onlyGivenNames -merge -underBinder x7
  have h8 : Rel s0 x7 := keep_adjDrive h1
  clear_value x7
  refine ite_keep (P := Rel s0) ?_ ?_
  · exact keep_probe h8
  · extract_lets +onlyGivenNames -merge -underBinder x9
    have h10 : Rel s0 x9 := keep_adjDrive h8
    clear_value x9
    extract_lets +onlyGivenNames -merge -underBinder x11
    have h12 : Rel s0 x11 := ite_keep (P := Rel s0) (keep_sendDrive h10) h10
    clear_value x11
    refine ite_keep (P := Rel s0) ?_ ?_
    · refine keep_forEach ?_ ?_
      · intro a13 a14 h15
        exact keep_adjChan h15
      · exact h12
    · exact h12

theorem keep_cleFire {s0 : State} {a0 a1 s} (k0 : Rel s0 s) :
    Rel s0 (cleFire a0 a1 s) := by
  unfold cleFire
  refine ite_keep (P := Rel s0) ?_ ?_
  · exact k0
  · extract_lets +onlyGivenNames -merge -underBinder x0
    have h1 : Rel s0 x0 := by
      unfold x0
      refine keep_forEach ?_ ?_
      · intro a2 a3 h4
        exact keep_driveCycle h4
      · exact k0
    clear_value x0
    extract_lets +onlyGivenNames -merge -underBinder x5
    try clear_value x5
    extract_lets +onlyGivenNames -merge -underBinder x6
    have h7 : Rel s0 x6 := by
      unfold x6
      refine keep_forEach ?_ ?_
      · intro a8 a9 h10
        exact keep_adjChan h10
      · exact h1
    clear_value x6
    refine keep_forEach ?_ ?_
    · intro a11 a12 h13
      exact keep_releaseChan h13
    · exact h7

theorem keep_takeTels {s0 : State} {a0 a1 a2 s} (k0 : Rel s0 s) :
    Rel s0 (takeTels a0 a1 a2 s) := by
  unfold takeTels
  exact keep_adjDrive k0

theorem keep_showDriveFault {s0 : State} {a0 a1 s} (k0 : Rel s0 s) :
    Rel s0 (showDriveFault a0 a1 s) := by
  unfold showDriveFault
  refine keep_forEach ?_ ?_
  · intro a0 a1 h2
    extract_lets +onlyGivenNames -merge -underBinder x3
    have h4 : Rel s0 x3 := ite_keep (P := Rel s0) (keep_jpEvent h2) h2
    clear_value x3
    exact keep_setB h4
  · exact k0

theorem keep_feedbackIn {s0 : State} {a0 a1 s} (k0 : Rel s0 s) :
    Rel s0 (feedbackIn a0 a1 s) := by
  unfold feedbackIn
  extract_lets +onlyGivenNames -merge -underBinder x0 x1
  try clear_value x0 x1
  refine ite_keep (P := Rel s0) ?_ ?_
  · exact keep_adjDrive k0
  · extract_lets +onlyGivenNames -merge -underBinder x2
    have h3 : Rel s0 x2 := keep_adjDrive (keep_setF k0)
    clear_value x2
    extract_lets +onlyGivenNames -merge -underBinder x4
    have h5 : Rel s0 x4 := by
      unfold x4
      refine keep_forEach ?_ ?_
      · intro a6 a7 h8
        exact keep_adjChan h8
      · exact h3
    clear_value x4
    extract_lets +onlyGivenNames -merge -underBinder x9
    have h10 : Rel s0 x9 := keep_takeTels (keep_showDriveFault h5)
    clear_value x9
    extract_lets +onlyGivenNames -merge -underBinder x11
    have h12 : Rel s0 x11 := by
      unfold x11
      refine ite_keep (P := Rel s0) ?_ ?_
      · refine keep_forEach ?_ ?_
        · intro a13 a14 h15
          exact keep_releaseChan h15
        · exact h10
      · exact h10
    clear_value x11
    exact keep_settleDrive h12

theorem keep_badFrame {s0 : State} {a0 s} (k0 : Rel s0 s) :
    Rel s0 (badFrame a0 s) := by
  unfold badFrame
  exact ite_keep (P := Rel s0) (keep_incF k0) k0

theorem keep_feedback {s0 : State} {a0 a1 s} (k0 : Rel s0 s) :
    Rel s0 (feedback a0 a1 s) := by
  unfold feedback
  extract_lets +onlyGivenNames -merge -underBinder x0
  try clear_value x0
  split
  · exact keep_badFrame k0
  · extract_lets +onlyGivenNames -merge -underBinder x1
    try clear_value x1
    exact ite_keep (P := Rel s0) k0 (keep_feedbackIn k0)

theorem keep_execDeadlineMiss {s0 : State} {a0 s} (k0 : Rel s0 s) :
    PNext (Rel s0) (execDeadlineMiss a0 s) := by
  unfold execDeadlineMiss
  extract_lets +onlyGivenNames -merge -underBinder x0
  try clear_value x0
  refine next_keep ?_
  refine keep_onlyIf ?_ ?_
  · intro a1 h2
    exact keep_settleDrive (keep_missChan h2)
  · exact k0

theorem keep_keepPolarity {s0 : State} {a0 s} (k0 : Rel s0 s) :
    Rel s0 (keepPolarity a0 s) := by
  unfold keepPolarity
  extract_lets +onlyGivenNames -merge -underBinder x0 x1
  try clear_value x0 x1
  exact ite_keep (P := Rel s0) k0 (keep_jpEvent (keep_setB k0))

theorem keep_ident {s0 : State} {a0 a1 s} (k0 : Rel s0 s) :
    PFst (Rel s0) (ident a0 a1 s) := by
  unfold ident
  extract_lets +onlyGivenNames -merge -underBinder x0
  try clear_value x0
  split
  · exact fst_keep (P := Rel s0) (keep_badFrame k0)
  · refine ite_keep (P := (PFst (Rel s0))) ?_ ?_
    · exact fst_keep (P := Rel s0) k0
    · extract_lets +onlyGivenNames -merge -underBinder x1
      have h2 : Rel s0 x1 := keep_keepPolarity k0
      clear_value x1
      extract_lets +onlyGivenNames -merge -underBinder x3
      have h4 : Rel s0 x3 := keep_adjDrive h2
      clear_value x3
      refine ite_keep (P := (PFst (Rel s0))) ?_ ?_
      · exact fst_keep (P := Rel s0) (keep_jpEvent (keep_adjDrive (keep_setF h4)))
      · exact fst_keep (P := Rel s0) (keep_jpEvent h4)

theorem keep_reenableDrive {s0 : State} {a0 s} (k0 : Rel s0 s) :
    Rel s0 (reenableDrive a0 s) := by
  unfold reenableDrive
  exact ite_keep (P := Rel s0) (keep_adjDrive k0) k0

theorem keep_execReenable {s0 : State} {a0 s} (k0 : Rel s0 s) :
    PNext (Rel s0) (execReenable a0 s) := by
  unfold execReenable
  refine next_keep ?_
  refine keep_onlyIf ?_ ?_
  · intro a0 h1
    extract_lets +onlyGivenNames -merge -underBinder x2
    have h3 : Rel s0 x2 := keep_setR h1
    clear_value x2
    exact keep_reenableDrive h3
  · exact k0

theorem keep_exchangeChan {s0 : State} {a0 s} (k0 : Rel s0 s) :
    Rel s0 (exchangeChan a0 s) := by
  unfold exchangeChan
  exact keep_adjChan k0

theorem keep_refreshChan {s0 : State} {a0 s} (k0 : Rel s0 s) :
    Rel s0 (refreshChan a0 s) := by
  unfold refreshChan
  exact keep_adjChan k0

theorem keep_driveTableIn {s0 : State} {s} (k0 : Rel s0 s) :
    Rel s0 (driveTableIn s) := by
  unfold driveTableIn
  refine keep_forEach ?_ ?_
  · intro a0 a1 h2
    extract_lets +onlyGivenNames -merge -underBinder x3
    try clear_value x3
    exact ite_keep (P := Rel s0) (keep_toProbing h2) (ite_keep (P := Rel s0) (keep_setF (keep_setF (keep_setDrive h2))) h2)
  · exact k0

theorem keep_cleActivate {s0 : State} {s} (k0 : Rel s0 s) :
    Rel s0 (cleActivate s) := by
  unfold cleActivate
  extract_lets +onlyGivenNames -merge -underBinder x0
  try clear_value x0
  extract_lets +onlyGivenNames -merge -underBinder x1
  have h2 : Rel s0 x1 := by
    unfold x1
    refine keep_forEach ?_ ?_
    · intro a3 a4 h5
      exact keep_activateTable h5
    · exact k0
  clear_value x1
  exact keep_showLost (keep_driveTableIn h2)

theorem keep_leaveHusk {s0 : State} {s} (k0 : Rel s0 s) :
    Rel s0 (leaveHusk s) := by
  unfold leaveHusk
  refine ite_keep (P := Rel s0) ?_ ?_
  · exact k0
  · extract_lets +onlyGivenNames -merge -underBinder x0 x1
    try clear_value x0
    have h2 : Rel s0 x1 := keep_setB (keep_setCle k0)
    clear_value x1
    extract_lets +onlyGivenNames -merge -underBinder x3
    have h4 : Rel s0 x3 := by
      unfold x3
      refine keep_forEach ?_ ?_
      · intro a5 a6 h7
        exact keep_setB (keep_adjChan h7)
      · exact h2
    clear_value x3
    exact keep_cleEvent h4

theorem keep_exchangeHalves {s0 : State} {a0 s} (k0 : Rel s0 s) :
    Rel s0 (exchangeHalves a0 s) := by
  unfold exchangeHalves
  extract_lets +onlyGivenNames -merge -underBinder x0
  have h1 : Rel s0 x0 := by
    unfold x0
    refine keep_forEach ?_ ?_
    · intro a2 a3 h4
      exact keep_exchangeChan h4
    · exact k0
  clear_value x0
  extract_lets +onlyGivenNames -merge -underBinder x5
  have h6 : Rel s0 x5 := keep_setF h1
  clear_value x5
  extract_lets +onlyGivenNames -merge -underBinder x7
  have h8 : Rel s0 x7 := keep_cleActivate h6
  clear_value x7
  extract_lets +onlyGivenNames -merge -underBinder x9
  have h10 : Rel s0 x9 := by
    unfold x9
    refine keep_forEach ?_ ?_
    · intro a11 a12 h13
      exact ite_keep (P := Rel s0) (keep_toRun h13) h13
    · exact h8
  clear_value x9
  exact keep_leaveHusk h10

theorem keep_queueCommit {s0 : State} {a0 s} (k0 : Rel s0 s) :
    Rel s0 (queueCommit a0 s) := by
  unfold queueCommit
  exact keep_setCle k0

theorem keep_queueActivation {s0 : State} {s} (k0 : Rel s0 s) :
    Rel s0 (queueActivation s) := by
  unfold queueActivation
  exact ite_keep (P := Rel s0) (keep_queueCommit k0) k0

theorem keep_dropCommit {s0 : State} {a0 s} (k0 : Rel s0 s) :
    Rel s0 (dropCommit a0 s) := by
  unfold dropCommit
  exact keep_setCle k0

theorem keep_discardSetpoint {s0 : State} {a0 a1 a2 s} (k0 : Rel s0 s) :
    Rel s0 (discardSetpoint a0 a1 a2 s) := by
  unfold discardSetpoint
  exact keep_cleEvent (keep_incF k0)

theorem keep_putSetpoint {s0 : State} {a0 a1 a2 s} (k0 : Rel s0 s) :
    Rel s0 (putSetpoint a0 a1 a2 s) := by
  unfold putSetpoint
  exact keep_adjChan k0

theorem keep_policyEntry {s0 : State} {a0 a1 a2 s} (k0 : Rel s0 s) :
    Rel s0 (policyEntry a0 a1 a2 s) := by
  unfold policyEntry
  extract_lets +onlyGivenNames -merge -underBinder x0
  try clear_value x0
  exact ite_keep (P := Rel s0) (keep_discardSetpoint k0) (keep_putSetpoint k0)

theorem keep_hostEntry {s0 : State} {a0 s} (k0 : Rel s0 s) :
    Rel s0 (hostEntry a0 s) := by
  unfold hostEntry
  extract_lets +onlyGivenNames -merge -underBinder x0
  try clear_value x0
  exact ite_keep (P := Rel s0) (keep_discardSetpoint k0) (keep_putSetpoint k0)

theorem keep_enterHusk {s0 : State} {a0 s} (k0 : Rel s0 s) :
    Rel s0 (enterHusk a0 s) := by
  unfold enterHusk
  refine ite_keep (P := Rel s0) ?_ ?_
  · exact k0
  · extract_lets +onlyGivenNames -merge -underBinder x0 x1
    try clear_value x0
    have h2 : Rel s0 x1 := keep_cleEvent (keep_setB (keep_setCle k0))
    clear_value x1
    extract_lets +onlyGivenNames -merge -underBinder x3
    have h4 : Rel s0 x3 := by
      unfold x3
      refine keep_forEach ?_ ?_
      · intro a5 a6 h7
        extract_lets +onlyGivenNames -merge -underBinder x8
        try clear_value x8
        exact keep_setB (keep_adjChan h7)
      · exact h2
    clear_value x3
    refine ite_keep (P := Rel s0) ?_ ?_
    · exact h4
    · extract_lets +onlyGivenNames -merge -underBinder x9
      have h10 : Rel s0 x9 := by
        unfold x9
        refine keep_forEach ?_ ?_
        · intro a11 a12 h13
          exact keep_huskUpdate h13
        · exact h4
      clear_value x9
      refine keep_forEach ?_ ?_
      · intro a14 a15 h16
        exact keep_sendCommand h16
      · exact h10

theorem keep_execHuskEnter {s0 : State} {s} (k0 : Rel s0 s) :
    PNext (Rel s0) (execHuskEnter s) := by
  unfold execHuskEnter
  refine next_keep ?_
  refine keep_onlyIf ?_ ?_
  · intro a0 h1
    exact keep_enterHusk h1
  · exact k0

theorem keep_huskExit {s0 : State} {s} (k0 : Rel s0 s) :
    Rel s0 (huskExit s) := by
  unfold huskExit
  exact ite_keep (P := Rel s0) (keep_setCle k0) k0

theorem keep_execHuskExit {s0 : State} {s} (k0 : Rel s0 s) :
    PNext (Rel s0) (execHuskExit s) := by
  unfold execHuskExit
  refine next_keep ?_
  refine keep_onlyIf ?_ ?_
  · intro a0 h1
    exact keep_huskExit h1
  · exact k0

theorem keep_execPolarityCorrected {s0 : State} {a0 s} (k0 : Rel s0 s) :
    PNext (Rel s0) (execPolarityCorrected a0 s) := by
  unfold execPolarityCorrected
  refine next_keep ?_
  refine keep_onlyIf ?_ ?_
  · intro a0 h1
    exact keep_jpEvent (keep_setB h1)
  · exact k0

theorem keep_latchSnapshots {s0 : State} {a0 a1 s} (k0 : Rel s0 s) :
    Rel s0 (latchSnapshots a0 a1 s) := by
  unfold latchSnapshots
  refine ite_keep (P := Rel s0) ?_ ?_
  · exact k0
  · refine keep_forEach ?_ ?_
    · intro a0 a1 h2
      extract_lets +onlyGivenNames -merge -underBinder x3 x4
      try clear_value x3 x4
      exact keep_setCle h2
    · exact k0

theorem keep_landSnapshot {s0 : State} {a0 a1 s} (k0 : Rel s0 s) :
    Rel s0 (landSnapshot a0 a1 s) := by
  unfold landSnapshot
  extract_lets +onlyGivenNames -merge -underBinder x0 x1
  try clear_value x0 x1
  split
  · exact k0
  · exact ite_keep (P := Rel s0) k0 (keep_hubToken (ite_keep (P := Rel s0) (keep_store k0) (keep_discardEngineWrite k0)))

/-! ### Stages -/

theorem keep_safeEvent {s0 : State} {a0 a1 a2 s} (k0 : Rel s0 s) :
    Rel s0 (safeEvent a0 a1 a2 s) := by
  unfold safeEvent
  exact keep_postEvent k0

theorem keep_setSafe {s0 : State} {a0 s} (k0 : Rel s0 s) :
    Rel s0 (setSafe a0 s) := by
  unfold setSafe
  exact rel_upd k0

theorem keep_clampReport {s0 : State} {a0 a1 s} (k0 : Rel s0 s) :
    Rel s0 (clampReport a0 a1 s) := by
  unfold clampReport
  exact keep_postEvent (keep_setF (keep_setF (keep_incF k0)))

theorem keep_showFault {s0 : State} {s} (k0 : Rel s0 s) :
    Rel s0 (showFault s) := by
  unfold showFault
  extract_lets +onlyGivenNames -merge -underBinder x0 x1 x2
  try clear_value x0 x1
  have h3 : Rel s0 x2 := keep_setB (keep_setSafe k0)
  clear_value x2
  exact ite_keep (P := Rel s0) h3 (keep_emit h3)

theorem keep_showOutputs {s0 : State} {s} (k0 : Rel s0 s) :
    Rel s0 (showOutputs s) := by
  unfold showOutputs
  extract_lets +onlyGivenNames -merge -underBinder x0
  try clear_value x0
  exact keep_emit (keep_emit (keep_setB (keep_setB k0)))

theorem keep_dropOutputs {s0 : State} {a0 s} (k0 : Rel s0 s) :
    Rel s0 (dropOutputs a0 s) := by
  unfold dropOutputs
  extract_lets +onlyGivenNames -merge -underBinder x0 x1 x2
  try clear_value x0 x1
  have h3 : Rel s0 x2 := keep_setF (keep_setSafe k0)
  clear_value x2
  extract_lets +onlyGivenNames -merge -underBinder x4
  have h5 : Rel s0 x4 := ite_keep (P := Rel s0) (keep_safeEvent (keep_showOutputs h3)) h3
  clear_value x4
  exact keep_showFault h5

theorem keep_armOutputs {s0 : State} {s} (k0 : Rel s0 s) :
    Rel s0 (armOutputs s) := by
  unfold armOutputs
  refine ite_keep (P := Rel s0) ?_ ?_
  · exact k0
  · extract_lets +onlyGivenNames -merge -underBinder x0 x1
    try clear_value x0
    have h2 : Rel s0 x1 := keep_setF (keep_setSafe k0)
    clear_value x1
    exact keep_showFault (keep_safeEvent (keep_showOutputs h2))

theorem keep_execArm {s0 : State} {s} (k0 : Rel s0 s) :
    PNext (Rel s0) (execArm s) := by
  unfold execArm
  refine next_keep ?_
  refine keep_onlyIf ?_ ?_
  · intro a0 h1
    exact keep_armOutputs h1
  · exact k0

theorem keep_execDrop {s0 : State} {s} (k0 : Rel s0 s) :
    PNext (Rel s0) (execDrop s) := by
  unfold execDrop
  refine next_keep ?_
  refine keep_onlyIf ?_ ?_
  · intro a0 h1
    exact keep_dropOutputs h1
  · exact k0

theorem keep_execDiscrepancy {s0 : State} {a0 s} (k0 : Rel s0 s) :
    PNext (Rel s0) (execDiscrepancy a0 s) := by
  unfold execDiscrepancy
  refine next_keep ?_
  refine keep_onlyIf ?_ ?_
  · intro a0 h1
    exact keep_dropOutputs (keep_setB h1)
  · exact k0

theorem keep_execTestPulse {s0 : State} {a0 a1 s} (k0 : Rel s0 s) :
    PNext (Rel s0) (execTestPulse a0 a1 s) := by
  unfold execTestPulse
  refine next_keep ?_
  refine keep_onlyIf ?_ ?_
  · intro a0 h1
    extract_lets +onlyGivenNames -merge -underBinder x2
    have h3 : Rel s0 x2 := keep_emit (keep_emit (keep_emit (keep_emit h1)))
    clear_value x2
    exact ite_keep (P := Rel s0) (keep_dropOutputs h3) h3
  · exact k0

theorem keep_haltCle {s0 : State} {a0 s} (k0 : Rel s0 s) :
    Rel s0 (haltCle a0 s) := by
  unfold haltCle
  refine ite_keep (P := Rel s0) ?_ ?_
  · exact k0
  · extract_lets +onlyGivenNames -merge -underBinder x0
    have h1 : Rel s0 x0 := keep_setF (keep_setB k0)
    clear_value x0
    extract_lets +onlyGivenNames -merge -underBinder x2
    have h3 : Rel s0 x2 := by
      unfold x2
      refine keep_forEach ?_ ?_
      · intro a4 a5 h6
        exact ite_keep (P := Rel s0) (keep_adjChan h6) h6
      · exact h1
    clear_value x2
    exact keep_dropOutputs (keep_cleEvent h3)

theorem keep_execCleFault {s0 : State} {a0 s} (k0 : Rel s0 s) :
    PNext (Rel s0) (execCleFault a0 s) := by
  unfold execCleFault
  refine next_keep ?_
  refine keep_onlyIf ?_ ?_
  · intro a0 h1
    exact keep_haltCle h1
  · exact k0

theorem keep_brakeReport {s0 : State} {s} (k0 : Rel s0 s) :
    Rel s0 (brakeReport s) := by
  unfold brakeReport
  extract_lets +onlyGivenNames -merge -underBinder x0
  try clear_value x0
  refine ite_keep (P := Rel s0) ?_ ?_
  · exact k0
  · extract_lets +onlyGivenNames -merge -underBinder x1
    have h2 : Rel s0 x1 := keep_safeEvent k0
    clear_value x1
    extract_lets +onlyGivenNames -merge -underBinder x3
    have h4 : Rel s0 x3 := ite_keep (P := Rel s0) (keep_enterHusk h2) h2
    clear_value x3
    exact ite_keep (P := Rel s0) (keep_dropOutputs h4) h4

theorem keep_adjStage {s0 : State} {a0 a1 s} (k0 : Rel s0 s) :
    Rel s0 (adjStage a0 a1 s) := by
  unfold adjStage
  exact keep_setSafe k0

theorem keep_pushRing {s0 : State} {a0 a1 s} (k0 : Rel s0 s) :
    Rel s0 (pushRing a0 a1 s) := by
  unfold pushRing
  extract_lets +onlyGivenNames -merge -underBinder x0
  try clear_value x0
  extract_lets +onlyGivenNames -merge -underBinder x1
  have h2 : Rel s0 x1 := keep_setF k0
  clear_value x1
  split
  · exact ite_keep (P := Rel s0) (keep_raiseCause h2) h2
  · exact h2

theorem keep_markRing {s0 : State} {a0 s} (k0 : Rel s0 s) :
    Rel s0 (markRing a0 s) := by
  unfold markRing
  extract_lets +onlyGivenNames -merge -underBinder x0
  try clear_value x0
  refine ite_keep (P := Rel s0) ?_ ?_
  · exact k0
  · extract_lets +onlyGivenNames -merge -underBinder x1
    have h2 : Rel s0 x1 := keep_setF k0
    clear_value x1
    split
    · exact ite_keep (P := Rel s0) (keep_raiseCause h2) h2
    · exact h2

theorem keep_countFault {s0 : State} {a0 a1 s} (k0 : Rel s0 s) :
    Rel s0 (countFault a0 a1 s) := by
  unfold countFault
  extract_lets +onlyGivenNames -merge -underBinder x0
  have h1 : Rel s0 x0 := keep_incF k0
  clear_value x0
  extract_lets +onlyGivenNames -merge -underBinder x2
  have h3 : Rel s0 x2 := ite_keep (P := Rel s0) h1 (keep_incF h1)
  clear_value x2
  exact keep_safeEvent h3

theorem keep_openStage {s0 : State} {a0 a1 s} (k0 : Rel s0 s) :
    Rel s0 (openStage a0 a1 s) := by
  unfold openStage
  exact ite_keep (P := Rel s0) (keep_adjStage k0) k0

theorem keep_lateStage {s0 : State} {a0 s} (k0 : Rel s0 s) :
    Rel s0 (lateStage a0 s) := by
  unfold lateStage
  exact keep_pushRing (keep_countFault (keep_adjStage k0))

theorem keep_endStage {s0 : State} {a0 a1 s} (k0 : Rel s0 s) :
    PFst (Rel s0) (endStage a0 a1 s) := by
  unfold endStage
  split
  · exact fst_keep (P := Rel s0) k0
  · extract_lets +onlyGivenNames -merge -underBinder x0 x1 x2
    try clear_value x0 x1 x2
    extract_lets +onlyGivenNames -merge -underBinder x3
    have h4 : Rel s0 x3 := ite_keep (P := Rel s0) (keep_countFault k0) k0
    clear_value x3
    extract_lets +onlyGivenNames -merge -underBinder x5
    have h6 : Rel s0 x5 := ite_keep (P := Rel s0) (keep_countFault h4) h4
    clear_value x5
    extract_lets +onlyGivenNames -merge -underBinder x7
    have h8 : Rel s0 x7 := ite_keep (P := Rel s0) h6 (keep_pushRing h6)
    clear_value x7
    exact fst_keep (P := Rel s0) (keep_adjStage h8)

theorem keep_dropStage {s0 : State} {a0 s} (k0 : Rel s0 s) :
    Rel s0 (dropStage a0 s) := by
  unfold dropStage
  exact keep_adjStage k0

theorem keep_openSource {s0 : State} {a0 s} (k0 : Rel s0 s) :
    Rel s0 (openSource a0 s) := by
  unfold openSource
  split
  · exact keep_openStage k0
  · exact k0

theorem keep_endSource {s0 : State} {a0 s} (k0 : Rel s0 s) :
    Rel s0 (endSource a0 s) := by
  unfold endSource
  split
  · show (PFst (Rel s0)) _
    exact keep_endStage k0
  · exact k0

theorem keep_dropSource {s0 : State} {a0 s} (k0 : Rel s0 s) :
    Rel s0 (dropSource a0 s) := by
  unfold dropSource
  split
  · exact keep_dropStage k0
  · exact k0

theorem keep_countMismatch {s0 : State} {s} (k0 : Rel s0 s) :
    Rel s0 (countMismatch s) := by
  unfold countMismatch
  exact keep_incF k0

/-! ### Planner -/

theorem keep_plnEvent {s0 : State} {a0 a1 s} (k0 : Rel s0 s) :
    Rel s0 (plnEvent a0 a1 s) := by
  unfold plnEvent
  exact keep_postEvent k0

theorem keep_setPlan {s0 : State} {a0 s} (k0 : Rel s0 s) :
    Rel s0 (setPlan a0 s) := by
  unfold setPlan
  exact rel_upd k0

theorem keep_showPlan {s0 : State} {s} (k0 : Rel s0 s) :
    Rel s0 (showPlan s) := by
  unfold showPlan
  exact keep_setB (keep_setB (keep_setF k0))

theorem keep_writerToken {s0 : State} {a0 s} (k0 : Rel s0 s) :
    Rel s0 (writerToken a0 s) := by
  unfold writerToken
  exact keep_hubToken k0

theorem keep_newVersion {s0 : State} {a0 a1 s} (k0 : Rel s0 s) :
    Rel s0 (newVersion a0 a1 s) := by
  unfold newVersion
  extract_lets +onlyGivenNames -merge -underBinder x0
  try clear_value x0
  extract_lets +onlyGivenNames -merge -underBinder x1
  have h2 : Rel s0 x1 := keep_setF k0
  clear_value x1
  extract_lets +onlyGivenNames -merge -underBinder x3
  have h4 : Rel s0 x3 := by
    unfold x3
    split
    · exact keep_setF (keep_setB h2)
    · exact h2
  clear_value x3
  extract_lets +onlyGivenNames -merge -underBinder x5
  have h6 : Rel s0 x5 := by
    unfold x5
    split
    · exact keep_setF (keep_setB h4)
    · exact h4
  clear_value x5
  exact keep_plnEvent h6

theorem keep_releaseTokens {s0 : State} {s a1} (k0 : Rel s0 s) (k1 : Rel s0 a1) :
    Rel s0 (releaseTokens s a1) := by
  unfold releaseTokens
  refine keep_forEach ?_ ?_
  · intro a0 a1 h2
    exact ite_keep (P := Rel s0) (keep_writerToken h2) h2
  · exact k1

theorem keep_commitTree {s0 : State} {a0 a1 s} (k0 : Rel s0 s) :
    Rel s0 (commitTree a0 a1 s) := by
  unfold commitTree
  exact keep_releaseTokens k0 (keep_newVersion (keep_store k0))

theorem keep_treeWriteIn {s0 : State} {a0 a1 a2 s} (k0 : Rel s0 s) :
    Rel s0 (treeWriteIn a0 a1 a2 s) := by
  unfold treeWriteIn
  extract_lets +onlyGivenNames -merge -underBinder x0 x1 x2
  try clear_value x0 x1
  have h3 : Rel s0 x2 := keep_commitTree (keep_setTables k0)
  clear_value x2
  exact keep_completeId h3

theorem keep_admitTree {s0 : State} {s} (k0 : Rel s0 s) :
    Rel s0 (admitTree s) := by
  unfold admitTree
  split
  · exact k0
  · split
    · exact keep_treeWriteIn (keep_setPlan k0)
    · exact k0

theorem keep_refuseCommit {s0 : State} {a0 a1 s} (k0 : Rel s0 s) :
    Rel s0 (refuseCommit a0 a1 s) := by
  unfold refuseCommit
  exact keep_plnEvent (keep_incF k0)

theorem keep_mapCommitLine {s0 : State} {a0 a1 s} (k0 : Rel s0 s) :
    Rel s0 (mapCommitLine a0 a1 s) := by
  unfold mapCommitLine
  extract_lets +onlyGivenNames -merge -underBinder x0
  have h1 : Rel s0 x0 := by
    unfold x0
    split
    · exact keep_refuseCommit k0
    · extract_lets +onlyGivenNames -merge -underBinder x2 x3
      try clear_value x2 x3
      split
      · exact keep_refuseCommit k0
      · exact keep_commitTree k0
  clear_value x0
  exact keep_writerToken h1

theorem keep_discardPlanSend {s0 : State} {a0 a1 s} (k0 : Rel s0 s) :
    Rel s0 (discardPlanSend a0 a1 s) := by
  unfold discardPlanSend
  exact keep_plnEvent (keep_incF k0)

theorem keep_planSend {s0 : State} {a0 a1 a2 a3 s} (k0 : Rel s0 s) :
    Rel s0 (planSend a0 a1 a2 a3 s) := by
  unfold planSend
  refine ite_keep (P := Rel s0) ?_ ?_
  · exact k0
  · refine ite_keep (P := Rel s0) ?_ ?_
    · exact keep_discardPlanSend k0
    · extract_lets +onlyGivenNames -merge -underBinder x0
      try clear_value x0
      refine ite_keep (P := Rel s0) ?_ ?_
      · exact ite_keep (P := Rel s0) (keep_store k0) (keep_discardPlanSend k0)
      · exact ite_keep (P := Rel s0) (keep_mapCommitLine k0) (keep_discardPlanSend k0)

theorem keep_occIntake {s0 : State} {s} (k0 : Rel s0 s) :
    Rel s0 (occIntake s) := by
  unfold occIntake
  split
  · exact k0
  · extract_lets +onlyGivenNames -merge -underBinder x0 x1
    try clear_value x0
    have h2 : Rel s0 x1 := keep_setPlan k0
    clear_value x1
    refine ite_keep (P := Rel s0) ?_ ?_
    · exact h2
    · split
      · exact keep_plnEvent (keep_incF h2)
      · extract_lets +onlyGivenNames -merge -underBinder x3 x4
        try clear_value x3 x4
        extract_lets +onlyGivenNames -merge -underBinder x5
        have h6 : Rel s0 x5 := keep_store h2
        clear_value x5
        exact keep_newVersion (keep_setPlan h6)

theorem keep_fetchPrim {s0 : State} {a0 a1 a2 s} (k0 : Rel s0 s) :
    Rel s0 (fetchPrim a0 a1 a2 s) := by
  unfold fetchPrim
  extract_lets +onlyGivenNames -merge -underBinder x0
  try clear_value x0
  extract_lets +onlyGivenNames -merge -underBinder x1
  have h2 : Rel s0 x1 := keep_store k0
  clear_value x1
  refine ite_keep (P := Rel s0) ?_ ?_
  · exact h2
  · extract_lets +onlyGivenNames -merge -underBinder x3
    have h4 : Rel s0 x3 := by
      unfold x3
      split
      · exact keep_setPlan h2
      · exact h2
    clear_value x3
    exact keep_plnEvent (keep_incF h4)

theorem keep_jobFault {s0 : State} {a0 a1 s} (k0 : Rel s0 s) :
    Rel s0 (jobFault a0 a1 s) := by
  unfold jobFault
  split
  · exact keep_raiseCause (keep_noteT0 k0)
  · exact keep_raiseCause k0
  · exact keep_raiseCause k0

theorem keep_fetchPrims {s0 : State} {a0 a1 a2 s} (k0 : Rel s0 s) :
    Rel s0 (fetchPrims a0 a1 a2 s) := by
  unfold fetchPrims
  refine keep_forEach ?_ ?_
  · intro a0 a1 h2
    split
    · exact keep_fetchPrim h2
  · exact keep_fetchPrim k0

theorem keep_beginCycle {s0 : State} {a0 a1 a2 a3 a4 s} (k0 : Rel s0 s) :
    Rel s0 (beginCycle a0 a1 a2 a3 a4 s) := by
  unfold beginCycle
  extract_lets +onlyGivenNames -merge -underBinder x0 x1 x2
  try clear_value x0 x1 x2
  extract_lets +onlyGivenNames -merge -underBinder x3
  have h4 : Rel s0 x3 := keep_touchRanges (keep_senseRanges k0)
  clear_value x3
  extract_lets +onlyGivenNames -merge -underBinder x5 x6 x7 x8
  try clear_value x5 x6 x7
  have h9 : Rel s0 x8 := keep_openSource (keep_setPlan h4)
  clear_value x8
  split
  · exact ite_keep (P := Rel s0) (keep_completeOrWait h4) (keep_jobFault h9)
  · exact keep_fetchPrims h9

theorem keep_startRequest {s0 : State} {a0 a1 a2 s} (k0 : Rel s0 s) :
    Rel s0 (startRequest a0 a1 a2 s) := by
  unfold startRequest
  extract_lets +onlyGivenNames -merge -underBinder x0
  try clear_value x0
  refine keep_withInput ?_ ?_
  · intro a1 a2 h3
    refine ite_keep (P := Rel s0) ?_ ?_
    · exact keep_refuseFormat h3
    · exact ite_keep (P := Rel s0) (keep_refuseFormat h3) (ite_keep (P := Rel s0) (keep_refuseFormat h3) (keep_beginCycle h3))
  · exact k0

theorem keep_planActivate {s0 : State} {s} (k0 : Rel s0 s) :
    Rel s0 (planActivate s) := by
  unfold planActivate
  refine ite_keep (P := Rel s0) ?_ ?_
  · exact k0
  · refine keep_forEach ?_ ?_
    · intro a0 a1 h2
      exact keep_activateTable h2
    · exact k0

theorem keep_planStart {s0 : State} {a0 a1 s} (k0 : Rel s0 s) :
    Rel s0 (planStart a0 a1 s) := by
  unfold planStart
  split
  · exact k0
  · refine ite_keep (P := Rel s0) ?_ ?_
    · exact k0
    · extract_lets +onlyGivenNames -merge -underBinder x0 x1
      try clear_value x0
      have h2 : Rel s0 x1 := keep_setPlan k0
      clear_value x1
      split
      · exact keep_showPlan (keep_startRequest h2)
      · exact keep_showPlan h2

theorem keep_planRequest {s0 : State} {a0 s} (k0 : Rel s0 s) :
    Rel s0 (planRequest a0 s) := by
  unfold planRequest
  exact ite_keep (P := Rel s0) (keep_completeOrWait k0) (keep_showPlan (keep_setPlan k0))

theorem keep_planBudget {s0 : State} {s} (k0 : Rel s0 s) :
    Rel s0 (planBudget s) := by
  unfold planBudget
  split
  · exact ite_keep (P := Rel s0) k0 (keep_incF (keep_setPlan k0))
  · exact k0

theorem keep_handOver {s0 : State} {a0 a1 s} (k0 : Rel s0 s) :
    Rel s0 (handOver a0 a1 s) := by
  unfold handOver
  extract_lets +onlyGivenNames -merge -underBinder x0 x1
  try clear_value x0 x1
  exact keep_queueCommit (keep_setCle k0)

theorem keep_countResult {s0 : State} {a0 a1 s} (k0 : Rel s0 s) :
    Rel s0 (countResult a0 a1 s) := by
  unfold countResult
  extract_lets +onlyGivenNames -merge -underBinder x0
  have h1 : Rel s0 x0 := ite_keep (P := Rel s0) (keep_incF k0) k0
  clear_value x0
  exact ite_keep (P := Rel s0) (keep_incF h1) (ite_keep (P := Rel s0) (keep_incF h1) h1)

theorem keep_reportBrake {s0 : State} {a0 a1 s} (k0 : Rel s0 s) :
    Rel s0 (reportBrake a0 a1 s) := by
  unfold reportBrake
  split
  · exact k0
  · exact keep_brakeReport (keep_plnEvent k0)

theorem keep_endPlanCycle {s0 : State} {s} (k0 : Rel s0 s) :
    Rel s0 (endPlanCycle s) := by
  unfold endPlanCycle
  extract_lets +onlyGivenNames -merge -underBinder x0 x1
  try clear_value x0
  have h2 : Rel s0 x1 := keep_setPlan k0
  clear_value x1
  exact keep_showPlan (keep_admitTree (keep_planActivate (keep_releaseTokens k0 h2)))

theorem keep_resultToken {s0 : State} {a0 s} (k0 : Rel s0 s) :
    Rel s0 (resultToken a0 s) := by
  unfold resultToken
  exact ite_keep (P := Rel s0) k0 (ite_keep (P := Rel s0) (keep_plnEvent k0) (keep_hubToken k0))

theorem keep_planResult {s0 : State} {s} (k0 : Rel s0 s) :
    Rel s0 (planResult s) := by
  unfold planResult
  split
  · exact k0
  · split
    · exact keep_endPlanCycle (keep_dropSource k0)
    · extract_lets +onlyGivenNames -merge -underBinder x0
      try clear_value x0
      extract_lets +onlyGivenNames -merge -underBinder x1
      have h2 : Rel s0 x1 := rel_upd k0
      clear_value x1
      extract_lets +onlyGivenNames -merge -underBinder x3 x4 x5 x6
      try clear_value x3 x4 x5 x6
      extract_lets +onlyGivenNames -merge -underBinder x7
      have h8 : Rel s0 x7 := keep_reportBrake (keep_countResult h2)
      clear_value x7
      extract_lets +onlyGivenNames -merge -underBinder x9
      try clear_value x9
      split
      · rename_i y10 y11 q12
        have h13 : Rel s0 y11 := by
          refine of_eq (P := (PSnd (Rel s0))) q12 ?_
          exact ite_keep (P := (PSnd (Rel s0))) (snd_keep (P := Rel s0) (keep_engineWrite h8)) (keep_makeOutput h8)
        extract_lets +onlyGivenNames -merge -underBinder x14
        have h15 : Rel s0 x14 := keep_resultToken h13
        clear_value x14
        extract_lets +onlyGivenNames -merge -underBinder x16
        have h17 : Rel s0 x16 := keep_endSource h15
        clear_value x16
        extract_lets +onlyGivenNames -merge -underBinder x18
        have h19 : Rel s0 x18 := keep_completeOrWait h17
        clear_value x18
        extract_lets +onlyGivenNames -merge -underBinder x20 x21
        try clear_value x20 x21
        exact keep_endPlanCycle (ite_keep (P := Rel s0) (keep_handOver h19) h19)

theorem keep_abortCycle {s0 : State} {a0 s} (k0 : Rel s0 s) :
    Rel s0 (abortCycle a0 s) := by
  unfold abortCycle
  split
  · exact k0
  · exact keep_endPlanCycle (keep_completeId (keep_dropSource k0))

theorem keep_treeWrite {s0 : State} {a0 a1 s} (k0 : Rel s0 s) :
    Rel s0 (treeWrite a0 a1 s) := by
  unfold treeWrite
  refine ite_keep (P := Rel s0) ?_ ?_
  · exact keep_refuseFormat k0
  · exact ite_keep (P := Rel s0) (keep_refuseFormat k0) (keep_showPlan (keep_admitTree (keep_setPlan k0)))

theorem keep_plnWriterWrite {s0 : State} {a0 a1 s} (k0 : Rel s0 s) :
    Rel s0 (plnWriterWrite a0 a1 s) := by
  unfold plnWriterWrite
  exact ite_keep (P := Rel s0) k0 (keep_setR k0)

/-! ### Fusion -/

theorem keep_fusEvent {s0 : State} {a0 a1 s} (k0 : Rel s0 s) :
    Rel s0 (fusEvent a0 a1 s) := by
  unfold fusEvent
  exact keep_postEvent k0

theorem keep_setFus {s0 : State} {a0 s} (k0 : Rel s0 s) :
    Rel s0 (setFus a0 s) := by
  unfold setFus
  exact rel_upd k0

theorem keep_fusActivate {s0 : State} {a0 s} (k0 : Rel s0 s) :
    Rel s0 (fusActivate a0 s) := by
  unfold fusActivate
  extract_lets +onlyGivenNames -merge -underBinder x0
  try clear_value x0
  refine ite_keep (P := Rel s0) ?_ ?_
  · exact k0
  · extract_lets +onlyGivenNames -merge -underBinder x1
    have h2 : Rel s0 x1 := keep_setF k0
    clear_value x1
    refine keep_forEach ?_ ?_
    · intro a3 a4 h5
      extract_lets +onlyGivenNames -merge -underBinder x6
      have h7 : Rel s0 x6 := keep_activateTable h5
      clear_value x6
      exact ite_keep (P := Rel s0) (keep_setFus h7) h7
    · exact h2

theorem keep_execTableActivation {s0 : State} {s} (k0 : Rel s0 s) :
    PNext (Rel s0) (execTableActivation s) := by
  unfold execTableActivation
  refine next_keep ?_
  refine keep_onlyIf ?_ ?_
  · intro a0 h1
    exact keep_fusActivate h1
  · exact k0

theorem keep_adjSensor {s0 : State} {a0 a1 s} (k0 : Rel s0 s) :
    Rel s0 (adjSensor a0 a1 s) := by
  unfold adjSensor
  exact keep_setFus k0

theorem keep_landSample {s0 : State} {a0 a1 a2 a3 a4 s} (k0 : Rel s0 s) :
    Rel s0 (landSample a0 a1 a2 a3 a4 s) := by
  unfold landSample
  extract_lets +onlyGivenNames -merge -underBinder x0 x1 x2 x3 x4 x5 x6 x7
  try clear_value x0 x1 x2 x3 x4 x5 x6 x7
  extract_lets +onlyGivenNames -merge -underBinder x8
  have h9 : Rel s0 x8 := ite_keep (P := Rel s0) (keep_incF k0) k0
  clear_value x8
  extract_lets +onlyGivenNames -merge -underBinder x10
  have h11 : Rel s0 x10 := ite_keep (P := Rel s0) (keep_incF h9) h9
  clear_value x10
  extract_lets +onlyGivenNames -merge -underBinder x12
  have h13 : Rel s0 x12 := by
    unfold x12
    refine keep_forEach ?_ ?_
    · intro a14 a15 h16
      exact keep_engineWrite h16
    · exact h11
  clear_value x12
  extract_lets +onlyGivenNames -merge -underBinder x17
  try clear_value x17
  extract_lets +onlyGivenNames -merge -underBinder x18
  have h19 : Rel s0 x18 := keep_engineWrite h13
  clear_value x18
  extract_lets +onlyGivenNames -merge -underBinder x20
  have h21 : Rel s0 x20 := keep_adjSensor h19
  clear_value x20
  exact keep_hubToken h21

theorem keep_takeSample {s0 : State} {a0 a1 a2 a3 s} (k0 : Rel s0 s) :
    Rel s0 (takeSample a0 a1 a2 a3 s) := by
  unfold takeSample
  extract_lets +onlyGivenNames -merge -underBinder x0
  try clear_value x0
  split
  · exact keep_landSample k0

theorem keep_spiAssert {s0 : State} {a0 a1 s} (k0 : Rel s0 s) :
    Rel s0 (spiAssert a0 a1 s) := by
  unfold spiAssert
  extract_lets +onlyGivenNames -merge -underBinder x0 x1
  try clear_value x0 x1
  extract_lets +onlyGivenNames -merge -underBinder x2
  have h3 : Rel s0 x2 := keep_adjSensor k0
  clear_value x2
  refine ite_keep (P := Rel s0) ?_ ?_
  · exact keep_incF h3
  · split
    · exact keep_landSample (keep_adjSensor h3)

theorem keep_execSensorSilent {s0 : State} {a0 s} (k0 : Rel s0 s) :
    PNext (Rel s0) (execSensorSilent a0 s) := by
  unfold execSensorSilent
  refine next_keep ?_
  refine keep_onlyIf ?_ ?_
  · intro a0 h1
    exact keep_fusEvent (keep_adjSensor h1)
  · exact k0

theorem keep_stopIntakes {s0 : State} {a0 s} (k0 : Rel s0 s) :
    Rel s0 (stopIntakes a0 s) := by
  unfold stopIntakes
  refine keep_forEach ?_ ?_
  · intro a0 a1 h2
    exact keep_fusEvent (keep_adjSensor h2)
  · exact k0

theorem keep_postToken {s0 : State} {a0 a1 a2 s} (k0 : Rel s0 s) :
    Rel s0 (postToken a0 a1 a2 s) := by
  unfold postToken
  exact keep_hubToken k0

theorem keep_refusePost {s0 : State} {a0 a1 a2 a3 s} (k0 : Rel s0 s) :
    Rel s0 (refusePost a0 a1 a2 a3 s) := by
  unfold refusePost
  exact keep_fusEvent (ite_keep (P := Rel s0) k0 (keep_incF k0))

theorem keep_dropLate {s0 : State} {a0 a1 a2 s} (k0 : Rel s0 s) :
    Rel s0 (dropLate a0 a1 a2 s) := by
  unfold dropLate
  exact keep_postToken (keep_incF (keep_setFus k0))

theorem keep_placePost {s0 : State} {a0 s} (k0 : Rel s0 s) :
    Rel s0 (placePost a0 s) := by
  unfold placePost
  extract_lets +onlyGivenNames -merge -underBinder x0
  try clear_value x0
  split
  · exact keep_setFus k0
  · exact ite_keep (P := Rel s0) (keep_setFus k0) (ite_keep (P := Rel s0) (keep_incF (keep_setFus k0)) (keep_dropLate k0))

theorem keep_landPost {s0 : State} {a0 a1 a2 a3 s} (k0 : Rel s0 s) :
    Rel s0 (landPost a0 a1 a2 a3 s) := by
  unfold landPost
  refine ite_keep (P := Rel s0) ?_ ?_
  · exact k0
  · extract_lets +onlyGivenNames -merge -underBinder x0
    try clear_value x0
    refine ite_keep (P := Rel s0) ?_ ?_
    · exact keep_postToken (keep_refusePost k0)
    · extract_lets +onlyGivenNames -merge -underBinder x1
      try clear_value x1
      refine ite_keep (P := Rel s0) ?_ ?_
      · extract_lets +onlyGivenNames -merge -underBinder x2
        try clear_value x2
        exact keep_postToken (keep_setFus k0)
      · extract_lets +onlyGivenNames -merge -underBinder x3
        try clear_value x3
        exact ite_keep (P := Rel s0) (keep_placePost k0) (keep_setFus k0)

theorem keep_fusSend {s0 : State} {a0 a1 a2 a3 s} (k0 : Rel s0 s) :
    Rel s0 (fusSend a0 a1 a2 a3 s) := by
  unfold fusSend
  exact ite_keep (P := Rel s0) (keep_landPost k0) (ite_keep (P := Rel s0) (keep_refusePost k0) k0)

theorem keep_replacePosts {s0 : State} {s} (k0 : Rel s0 s) :
    Rel s0 (replacePosts s) := by
  unfold replacePosts
  extract_lets +onlyGivenNames -merge -underBinder x0 x1 x2
  try clear_value x0 x1
  have h3 : Rel s0 x2 := keep_setFus k0
  clear_value x2
  refine keep_forEach ?_ ?_
  · intro a4 a5 h6
    exact keep_placePost h6
  · exact h3

theorem keep_startInstants {s0 : State} {s} (k0 : Rel s0 s) :
    Rel s0 (startInstants s) := by
  unfold startInstants
  extract_lets +onlyGivenNames -merge -underBinder x0 x1
  try clear_value x0
  have h2 : Rel s0 x1 := keep_setFus k0
  clear_value x1
  extract_lets +onlyGivenNames -merge -underBinder x3
  try clear_value x3
  exact keep_replacePosts (keep_setFus h2)

theorem keep_fusCtrlWrite {s0 : State} {a0 a1 s} (k0 : Rel s0 s) :
    Rel s0 (fusCtrlWrite a0 a1 s) := by
  unfold fusCtrlWrite
  extract_lets +onlyGivenNames -merge -underBinder x0 x1
  try clear_value x0 x1
  extract_lets +onlyGivenNames -merge -underBinder x2
  have h3 : Rel s0 x2 := keep_setR k0
  clear_value x2
  exact ite_keep (P := Rel s0) (keep_startInstants h3) (ite_keep (P := Rel s0) (keep_setFus h3) h3)

theorem keep_execFusionEnable {s0 : State} {a0 s} (k0 : Rel s0 s) :
    PNext (Rel s0) (execFusionEnable a0 s) := by
  unfold execFusionEnable
  refine next_keep ?_
  refine keep_onlyIf ?_ ?_
  · intro a0 h1
    exact keep_fusCtrlWrite h1
  · exact k0

theorem keep_relayPosts {s0 : State} {a0 s} (k0 : Rel s0 s) :
    Rel s0 (relayPosts a0 s) := by
  unfold relayPosts
  extract_lets +onlyGivenNames -merge -underBinder x0 x1 x2
  try clear_value x0 x1
  have h3 : Rel s0 x2 := keep_setFus k0
  clear_value x2
  refine keep_forEach ?_ ?_
  · intro a4 a5 h6
    exact keep_placePost h6
  · exact h3

theorem keep_skipInstant {s0 : State} {a0 s} (k0 : Rel s0 s) :
    Rel s0 (skipInstant a0 s) := by
  unfold skipInstant
  extract_lets +onlyGivenNames -merge -underBinder x0 x1
  try clear_value x0
  have h2 : Rel s0 x1 := keep_fusEvent (keep_incF (keep_setFus k0))
  clear_value x1
  exact keep_relayPosts h2

theorem keep_fusStep {s0 : State} {a0 s} (k0 : Rel s0 s) :
    Rel s0 (fusStep a0 s) := by
  unfold fusStep
  refine ite_keep (P := Rel s0) ?_ ?_
  · exact keep_setFus k0
  · split
    · exact k0
    · refine ite_keep (P := Rel s0) ?_ ?_
      · exact k0
      · extract_lets +onlyGivenNames -merge -underBinder x0
        try clear_value x0
        refine foldl_keep (P := Rel s0) ?_ ?_
        · exact k0
        · intro a1 h2 a3
          exact keep_skipInstant h2

theorem keep_recordKin {s0 : State} {a0 s} (k0 : Rel s0 s) :
    Rel s0 (recordKin a0 s) := by
  unfold recordKin
  refine ite_keep (P := Rel s0) ?_ ?_
  · exact k0
  · refine keep_forEach ?_ ?_
    · intro a0 a1 h2
      extract_lets +onlyGivenNames -merge -underBinder x3 x4 x5
      try clear_value x3 x4 x5
      refine ite_keep (P := Rel s0) ?_ ?_
      · exact h2
      · extract_lets +onlyGivenNames -merge -underBinder x6
        try clear_value x6
        exact keep_setFus h2
    · exact k0

/-! ### Lifting -/

theorem keep_mapFault {s0 : State} {a0 a1 s} (k0 : Rel s0 s) :
    Rel s0 (mapFault a0 a1 s) := by
  unfold mapFault
  exact ite_keep (P := Rel s0) k0 (keep_jobFault k0)

theorem keep_meetRanges {s0 : State} {a0 a1 s} (k0 : Rel s0 s) :
    Rel s0 (meetRanges a0 a1 s) := by
  unfold meetRanges
  exact keep_touchRanges (keep_senseRanges k0)

theorem keep_liftPost {s0 : State} {a0 a1 a2} (k0 : (PSnd (Rel s0)) a2) :
    PSnd (Rel s0) (liftPost a0 a1 a2) := by
  unfold liftPost
  split
  · rename_i y0 y1
    have h3 : Rel s0 y1 := of_fvar k0
    extract_lets +onlyGivenNames -merge -underBinder x4
    try clear_value x4
    extract_lets +onlyGivenNames -merge -underBinder x5
    have h6 : ∀ a7, Rel s0 a7 → Rel s0 (x5 a7) := by
      unfold x5
      intro a7 h8
      exact keep_postToken h8
    clear_value x5
    split
    · split
      · refine snd_keep (P := Rel s0) ?_
        refine h6 _ ?_
        · exact keep_mapFault h3
      · extract_lets +onlyGivenNames -merge -underBinder x9 x10
        try clear_value x9 x10
        refine snd_keep (P := Rel s0) ?_
        refine h6 _ ?_
        · exact h3
    · refine snd_keep (P := Rel s0) ?_
      refine h6 _ ?_
      · exact keep_incF h3

theorem keep_storeField {s0 : State} {a0 a1 a2 s} (k0 : Rel s0 s) :
    Rel s0 (storeField a0 a1 a2 s) := by
  unfold storeField
  refine keep_forEach ?_ ?_
  · intro a0 a1 h2
    refine keep_forEach ?_ ?_
    · intro a3 a4 h5
      extract_lets +onlyGivenNames -merge -underBinder x6
      try clear_value x6
      extract_lets +onlyGivenNames -merge -underBinder x7
      have h8 : Rel s0 x7 := keep_wrMem h5
      clear_value x7
      exact keep_wrMem h8
    · exact h2
  · exact k0

theorem keep_bear {s0 : State} {a0 a1 a2 s} (k0 : Rel s0 s) :
    PSnd (Rel s0) (bear a0 a1 a2 s) := by
  unfold bear
  refine ite_keep (P := (PSnd (Rel s0))) ?_ ?_
  · exact snd_keep (P := Rel s0) k0
  · split
    · exact snd_keep (P := Rel s0) (keep_incF k0)
    · extract_lets +onlyGivenNames -merge -underBinder x0 x1
      try clear_value x0 x1
      exact snd_keep (P := Rel s0) (keep_setFus k0)

theorem keep_takeDetection {s0 : State} {a0 a1 a2} (k0 : (PSnd (Rel s0)) a2) :
    PSnd (Rel s0) (takeDetection a0 a1 a2) := by
  unfold takeDetection
  split
  · rename_i y0 y1
    have h3 : Rel s0 y1 := of_fvar k0
    extract_lets +onlyGivenNames -merge -underBinder x4
    try clear_value x4
    split
    · extract_lets +onlyGivenNames -merge -underBinder x5
      try clear_value x5
      exact snd_keep (P := Rel s0) (keep_setFus h3)
    · exact keep_bear h3

theorem keep_endTracks {s0 : State} {a0 s} (k0 : Rel s0 s) :
    Rel s0 (endTracks a0 s) := by
  unfold endTracks
  extract_lets +onlyGivenNames -merge -underBinder x0 x1
  try clear_value x0 x1
  exact keep_setFus k0

theorem keep_applyRound {s0 : State} {a0 s} (k0 : Rel s0 s) :
    Rel s0 (applyRound a0 s) := by
  unfold applyRound
  extract_lets +onlyGivenNames -merge -underBinder x0
  have h1 : ∀ a2, Rel s0 a2 → Rel s0 (x0 a2) := by
    unfold x0
    intro a2 h3
    exact keep_postToken h3
  clear_value x0
  refine ite_keep (P := Rel s0) ?_ ?_
  · refine h1 _ ?_
    · exact keep_incF k0
  · split
    · refine h1 _ ?_
      · exact keep_mapFault k0
    · extract_lets +onlyGivenNames -merge -underBinder x4 x5 x6
      try clear_value x4 x5
      have h7 : Rel s0 x6 := keep_setFus k0
      clear_value x6
      split
      · rename_i y8 y9 q10
        have h11 : Rel s0 y9 := by
          refine of_eq (P := (PSnd (Rel s0))) q10 ?_
          refine foldl_keep (P := (PSnd (Rel s0))) ?_ ?_
          · exact snd_keep (P := Rel s0) h7
          · intro a12 h13 a14
            exact keep_takeDetection h13
        extract_lets +onlyGivenNames -merge -underBinder x15
        have h16 : Rel s0 x15 := keep_endTracks h11
        clear_value x15
        refine h1 _ ?_
        · exact ite_keep (P := Rel s0) h16 (keep_fusEvent h16)

theorem keep_storeTracks {s0 : State} {s} (k0 : Rel s0 s) :
    Rel s0 (storeTracks s) := by
  unfold storeTracks
  refine keep_forEach ?_ ?_
  · intro a0 a1 h2
    split
    · exact keep_wrMem h2
  · exact keep_zeroMem k0

theorem keep_closeDetections {s0 : State} {a0 s} (k0 : Rel s0 s) :
    PSnd (Rel s0) (closeDetections a0 s) := by
  unfold closeDetections
  extract_lets +onlyGivenNames -merge -underBinder x0 x1 x2
  try clear_value x0 x1
  have h3 : Rel s0 x2 := keep_setFus k0
  clear_value x2
  refine foldl_keep (P := (PSnd (Rel s0))) ?_ ?_
  · exact snd_keep (P := Rel s0) h3
  · intro a4 h5 a6
    extract_lets +onlyGivenNames -merge -underBinder x7
    try clear_value x7
    refine snd_keep (P := Rel s0) ?_
    refine keep_applyRound ?_
    refine keep_meetRanges ?_
    show (PSnd (Rel s0)) _
    exact h5

theorem keep_closeTracks {s0 : State} {a0 a1 s} (k0 : Rel s0 s) :
    Rel s0 (closeTracks a0 a1 s) := by
  unfold closeTracks
  exact keep_storeTracks (keep_setFus k0)

theorem keep_closeInstant {s0 : State} {a0 a1 s} (k0 : Rel s0 s) :
    Rel s0 (closeInstant a0 a1 s) := by
  unfold closeInstant
  extract_lets +onlyGivenNames -merge -underBinder x0 x1 x2
  try clear_value x0 x1
  have h3 : Rel s0 x2 := keep_setFus (keep_openSource k0)
  clear_value x2
  split
  · rename_i y4 y5 q6
    have h7 : Rel s0 y5 := by
      exact of_eq (P := (PSnd (Rel s0))) q6 (keep_closeDetections h3)
    extract_lets +onlyGivenNames -merge -underBinder x8
    have h9 : Rel s0 x8 := keep_fusActivate h7
    clear_value x8
    extract_lets +onlyGivenNames -merge -underBinder x10 x11
    try clear_value x10 x11
    extract_lets +onlyGivenNames -merge -underBinder x12
    have h13 : Rel s0 x12 := rel_upd h9
    clear_value x12
    extract_lets +onlyGivenNames -merge -underBinder x14 x15 x16
    try clear_value x14 x15
    have h17 : Rel s0 x16 := keep_setFus h13
    clear_value x16
    extract_lets +onlyGivenNames -merge -underBinder x18
    have h19 : Rel s0 x18 := keep_meetRanges h17
    clear_value x18
    split
    · rename_i y20 y21 q22
      have h23 : Rel s0 y21 := by
        refine of_eq (P := (PSnd (Rel s0))) q22 ?_
        refine foldl_keep (P := (PSnd (Rel s0))) ?_ ?_
        · exact snd_keep (P := Rel s0) h19
        · intro a24 h25 a26
          exact keep_liftPost h25
      extract_lets +onlyGivenNames -merge -underBinder x27
      try clear_value x27
      extract_lets +onlyGivenNames -merge -underBinder x28
      have h29 : Rel s0 x28 := keep_closeTracks (keep_storeField h23)
      clear_value x28
      extract_lets +onlyGivenNames -merge -underBinder x30 x31
      try clear_value x30 x31
      exact keep_setB (keep_setFus h29)

theorem keep_fusionClose {s0 : State} {a0 s} (k0 : Rel s0 s) :
    Rel s0 (fusionClose a0 s) := by
  unfold fusionClose
  split
  · exact k0
  · exact ite_keep (P := Rel s0) k0 (ite_keep (P := Rel s0) (keep_setB k0) (keep_closeInstant k0))

theorem keep_occOut {s0 : State} {a0 s} (k0 : Rel s0 s) :
    Rel s0 (occOut a0 s) := by
  unfold occOut
  extract_lets +onlyGivenNames -merge -underBinder x0
  try clear_value x0
  refine ite_keep (P := Rel s0) ?_ ?_
  · exact k0
  · refine ite_keep (P := Rel s0) ?_ ?_
    · exact keep_plnEvent k0
    · extract_lets +onlyGivenNames -merge -underBinder x1
      try clear_value x1
      exact keep_setPlan (keep_store k0)

theorem keep_writeResult {s0 : State} {a0 s} (k0 : Rel s0 s) :
    Rel s0 (writeResult a0 s) := by
  unfold writeResult
  refine ite_keep (P := Rel s0) ?_ ?_
  · exact keep_fusEvent k0
  · extract_lets +onlyGivenNames -merge -underBinder x0
    have h1 : Rel s0 x0 := keep_engineWrite k0
    clear_value x0
    extract_lets +onlyGivenNames -merge -underBinder x2
    have h3 : Rel s0 x2 := keep_occOut h1
    clear_value x2
    extract_lets +onlyGivenNames -merge -underBinder x4
    have h5 : Rel s0 x4 := keep_hubToken h3
    clear_value x4
    exact ite_keep (P := Rel s0) (keep_fusEvent h5) h5

theorem keep_skipBehind {s0 : State} {a0 s} (k0 : Rel s0 s) :
    Rel s0 (skipBehind a0 s) := by
  unfold skipBehind
  exact ite_keep (P := Rel s0) (keep_skipInstant k0) k0

theorem keep_fusionResult {s0 : State} {s} (k0 : Rel s0 s) :
    Rel s0 (fusionResult s) := by
  unfold fusionResult
  split
  · exact k0
  · extract_lets +onlyGivenNames -merge -underBinder x0 x1
    try clear_value x0
    have h2 : Rel s0 x1 := keep_setFus k0
    clear_value x1
    extract_lets +onlyGivenNames -merge -underBinder x3
    have h4 : Rel s0 x3 := keep_setF (keep_writeResult h2)
    clear_value x3
    exact keep_skipBehind (keep_endSource h4)

/-! ### Health -/

theorem keep_hltEvent {s0 : State} {a0 a1 s} (k0 : Rel s0 s) :
    Rel s0 (hltEvent a0 a1 s) := by
  unfold hltEvent
  exact keep_postEvent k0

theorem keep_setProg {s0 : State} {a0 s} (k0 : Rel s0 s) :
    Rel s0 (setProg a0 s) := by
  unfold setProg
  exact rel_upd k0

theorem keep_setAxis {s0 : State} {a0 a1 s} (k0 : Rel s0 s) :
    Rel s0 (setAxis a0 a1 s) := by
  unfold setAxis
  exact keep_setProg k0

theorem keep_adjAxis {s0 : State} {a0 a1 s} (k0 : Rel s0 s) :
    Rel s0 (adjAxis a0 a1 s) := by
  unfold adjAxis
  exact keep_setAxis k0

theorem keep_feedRecord {s0 : State} {a0 a1 a2 s} (k0 : Rel s0 s) :
    Rel s0 (feedRecord a0 a1 a2 s) := by
  unfold feedRecord
  extract_lets +onlyGivenNames -merge -underBinder x0
  try clear_value x0
  extract_lets +onlyGivenNames -merge -underBinder x1
  have h2 : Rel s0 x1 := keep_adjAxis k0
  clear_value x1
  refine ite_keep (P := Rel s0) ?_ ?_
  · exact h2
  · refine ite_keep (P := Rel s0) ?_ ?_
    · exact keep_setProg h2
    · extract_lets +onlyGivenNames -merge -underBinder x3
      try clear_value x3
      exact keep_setProg h2

theorem keep_takeRecord {s0 : State} {a0 a1 a2 s} (k0 : Rel s0 s) :
    Rel s0 (takeRecord a0 a1 a2 s) := by
  unfold takeRecord
  extract_lets +onlyGivenNames -merge -underBinder x0 x1
  try clear_value x0 x1
  refine ite_keep (P := Rel s0) ?_ ?_
  · exact k0
  · extract_lets +onlyGivenNames -merge -underBinder x2
    try clear_value x2
    exact keep_feedRecord (keep_setAxis k0)

theorem keep_takeRecords {s0 : State} {a0 a1 s} (k0 : Rel s0 s) :
    Rel s0 (takeRecords a0 a1 s) := by
  unfold takeRecords
  refine keep_forEach ?_ ?_
  · intro a0 a1 h2
    split
    · exact ite_keep (P := Rel s0) h2 (keep_takeRecord h2)
    · exact h2
  · exact k0

theorem keep_execFeedback {s0 : State} {a0 a1 s} (k0 : Rel s0 s) :
    PNext (Rel s0) (execFeedback a0 a1 s) := by
  unfold execFeedback
  refine next_keep ?_
  refine keep_onlyIf ?_ ?_
  · intro a0 h1
    extract_lets +onlyGivenNames -merge -underBinder x2 x3
    try clear_value x2 x3
    extract_lets +onlyGivenNames -merge -underBinder x4
    have h5 : Rel s0 x4 := keep_feedback h1
    clear_value x4
    exact ite_keep (P := Rel s0) (keep_takeRecords (keep_recordKin h5)) h5
  · exact k0

theorem keep_stopFeed {s0 : State} {s} (k0 : Rel s0 s) :
    Rel s0 (stopFeed s) := by
  unfold stopFeed
  exact ite_keep (P := Rel s0) (keep_hltEvent (keep_setProg k0)) k0

theorem keep_stopFeedOf {s0 : State} {a0 s} (k0 : Rel s0 s) :
    Rel s0 (stopFeedOf a0 s) := by
  unfold stopFeedOf
  exact ite_keep (P := Rel s0) (keep_stopFeed k0) k0

theorem keep_feedBatch {s0 : State} {s} (k0 : Rel s0 s) :
    Rel s0 (feedBatch s) := by
  unfold feedBatch
  refine ite_keep (P := Rel s0) ?_ ?_
  · exact keep_stopFeed k0
  · extract_lets +onlyGivenNames -merge -underBinder x0 x1 x2
    try clear_value x0 x1 x2
    extract_lets +onlyGivenNames -merge -underBinder x3
    have h4 : Rel s0 x3 := keep_engineWrite k0
    clear_value x3
    extract_lets +onlyGivenNames -merge -underBinder x5
    have h6 : Rel s0 x5 := keep_setProg h4
    clear_value x5
    exact keep_hubToken h6

theorem keep_execHourlyHistory {s0 : State} {s} (k0 : Rel s0 s) :
    PNext (Rel s0) (execHourlyHistory s) := by
  unfold execHourlyHistory
  refine next_keep ?_
  refine keep_onlyIf ?_ ?_
  · intro a0 h1
    extract_lets +onlyGivenNames -merge -underBinder x2 x3 x4
    try clear_value x2 x3
    have h5 : Rel s0 x4 := keep_setProg h1
    clear_value x4
    refine keep_forEach ?_ ?_
    · intro a6 a7 h8
      exact keep_adjAxis h8
    · exact h5
  · exact k0

theorem keep_saveAxes {s0 : State} {a0 s} (k0 : Rel s0 s) :
    Rel s0 (saveAxes a0 s) := by
  unfold saveAxes
  extract_lets +onlyGivenNames -merge -underBinder x0 x1
  try clear_value x0
  have h2 : Rel s0 x1 := keep_setProg k0
  clear_value x1
  exact ite_keep (P := Rel s0) (keep_setProg h2) (keep_hltEvent (keep_setB h2))

theorem keep_restoreAxes {s0 : State} {s} (k0 : Rel s0 s) :
    Rel s0 (restoreAxes s) := by
  unfold restoreAxes
  exact keep_setProg k0

theorem keep_saveNow {s0 : State} {s} (k0 : Rel s0 s) :
    Rel s0 (saveNow s) := by
  unfold saveNow
  exact keep_saveAxes (rel_upd k0)

theorem keep_execPrognosticsSave {s0 : State} {a0 s} (k0 : Rel s0 s) :
    PNext (Rel s0) (execPrognosticsSave a0 s) := by
  unfold execPrognosticsSave
  refine next_keep ?_
  refine keep_onlyIf ?_ ?_
  · intro a0 h1
    exact keep_saveAxes h1
  · exact k0

theorem keep_checkIdentity {s0 : State} {a0 s} (k0 : Rel s0 s) :
    Rel s0 (checkIdentity a0 s) := by
  unfold checkIdentity
  refine ite_keep (P := Rel s0) ?_ ?_
  · exact k0
  · extract_lets +onlyGivenNames -merge -underBinder x0
    try clear_value x0
    refine keep_forEach ?_ ?_
    · intro a1 a2 h3
      extract_lets +onlyGivenNames -merge -underBinder x4
      try clear_value x4
      refine ite_keep (P := Rel s0) ?_ ?_
      · exact h3
      · exact ite_keep (P := Rel s0) (keep_setAxis h3) (ite_keep (P := Rel s0) h3 (keep_hltEvent (keep_setAxis h3)))
    · exact k0

theorem keep_execIdent {s0 : State} {a0 a1 s} (k0 : Rel s0 s) :
    PNext (Rel s0) (execIdent a0 a1 s) := by
  unfold execIdent
  refine next_keep ?_
  refine keep_onlyIf ?_ ?_
  · intro a0 h1
    split
    · rename_i y2 y3 q4
      have h5 : Rel s0 y2 := by
        exact of_eq (P := (PFst (Rel s0))) q4 (keep_ident h1)
      exact ite_keep (P := Rel s0) (keep_checkIdentity h5) h5
  · exact k0

theorem keep_resetAxis {s0 : State} {a0 s} (k0 : Rel s0 s) :
    Rel s0 (resetAxis a0 s) := by
  unfold resetAxis
  exact keep_adjAxis k0

theorem keep_keepAxis {s0 : State} {a0 s} (k0 : Rel s0 s) :
    Rel s0 (keepAxis a0 s) := by
  unfold keepAxis
  exact keep_adjAxis k0

theorem keep_passAxis {s0 : State} {a0 a1 a2 s} (k0 : Rel s0 s) :
    Rel s0 (passAxis a0 a1 a2 s) := by
  unfold passAxis
  extract_lets +onlyGivenNames -merge -underBinder x0 x1 x2
  try clear_value x0 x1 x2
  split
  · extract_lets +onlyGivenNames -merge -underBinder x3
    try clear_value x3
    extract_lets +onlyGivenNames -merge -underBinder x4
    have h5 : Rel s0 x4 := keep_wrMem k0
    clear_value x4
    extract_lets +onlyGivenNames -merge -underBinder x6
    have h7 : Rel s0 x6 := keep_setAxis h5
    clear_value x6
    exact ite_keep (P := Rel s0) h7 (keep_hltEvent h7)

theorem keep_senseScores {s0 : State} {a0 s} (k0 : Rel s0 s) :
    Rel s0 (senseScores a0 s) := by
  unfold senseScores
  extract_lets +onlyGivenNames -merge -underBinder x0
  try clear_value x0
  exact ite_keep (P := Rel s0) k0 (keep_touchPages (keep_senseObj k0))

theorem keep_healthPass {s0 : State} {a0 s} (k0 : Rel s0 s) :
    Rel s0 (healthPass a0 s) := by
  unfold healthPass
  extract_lets +onlyGivenNames -merge -underBinder x0
  try clear_value x0
  extract_lets +onlyGivenNames -merge -underBinder x1
  have h2 : Rel s0 x1 := keep_senseScores k0
  clear_value x1
  extract_lets +onlyGivenNames -merge -underBinder x3
  try clear_value x3
  extract_lets +onlyGivenNames -merge -underBinder x4
  have h5 : Rel s0 x4 := keep_zeroMem h2
  clear_value x4
  extract_lets +onlyGivenNames -merge -underBinder x6
  have h7 : Rel s0 x6 := by
    unfold x6
    refine keep_forEach ?_ ?_
    · intro a8 a9 h10
      exact keep_passAxis h10
    · exact h5
  clear_value x6
  exact keep_setF (keep_setProg h7)

theorem keep_execHealthPass {s0 : State} {a0 s} (k0 : Rel s0 s) :
    PNext (Rel s0) (execHealthPass a0 s) := by
  unfold execHealthPass
  refine next_keep ?_
  refine keep_onlyIf ?_ ?_
  · intro a0 h1
    exact keep_healthPass h1
  · exact k0

theorem keep_axisParamWrite {s0 : State} {a0 a1 s} (k0 : Rel s0 s) :
    Rel s0 (axisParamWrite a0 a1 s) := by
  unfold axisParamWrite
  refine keep_forEach ?_ ?_
  · intro a0 a1 h2
    split
    · extract_lets +onlyGivenNames -merge -underBinder x3
      try clear_value x3
      exact ite_keep (P := Rel s0) (keep_setB h2) (keep_wrMem h2)
  · exact k0

end Sys2Proof.Machine
end

