-- ==== Sys2Proof/Laws/KeepFabric.lean ====
section
/-!
SUPPORT. What every change of state keeps: posts, the compute fabric, the sequencer and the memory tiers.
-/
namespace Sys2Proof.Machine
open Sys2Proof

set_option Elab.async false

/-! ### Post -/

theorem keep_drainStore {s0 : State} {a0 a1 a2 a3 a4 a5 a6 s} (k0 : Rel s0 s) :
    Rel s0 (drainStore a0 a1 a2 a3 a4 a5 a6 s) := by
  unfold drainStore
  split
  · exact keep_dieWrite k0
  · refine ite_keep (P := Rel s0) ?_ ?_
    · split
      · rename_i y0 y1 q2
        have h3 : Rel s0 y1 := by
          exact of_eq (P := (PSnd (Rel s0))) q2 (keep_freeBytes k0)
        exact keep_dieWrite h3
    · exact keep_dieWrite k0
  · exact k0

theorem keep_drainOut {s0 : State} {a0 a1 a2 a3 a4 a5 a6 a7 s} (k0 : Rel s0 s) :
    Rel s0 (drainOut a0 a1 a2 a3 a4 a5 a6 a7 s) := by
  unfold drainOut
  exact ite_keep (P := Rel s0) (keep_adjDie k0) (keep_drainStore k0)

theorem keep_vpuRun {s0 : State} {a0 a1 a2 s} (k0 : Rel s0 s) :
    Rel s0 (vpuRun a0 a1 a2 s) := by
  unfold vpuRun
  refine ite_keep (P := Rel s0) ?_ ?_
  · exact k0
  · extract_lets +onlyGivenNames -merge -underBinder x0
    try clear_value x0
    refine keep_adjDie ?_
    refine keep_forEach ?_ ?_
    · intro a1 a2 h3
      split
      · exact keep_dieWrite h3
    · exact k0

theorem keep_stgStore {s0 : State} {a0 a1 a2 a3 a4 s} (k0 : Rel s0 s) :
    Rel s0 (stgStore a0 a1 a2 a3 a4 s) := by
  unfold stgStore
  extract_lets +onlyGivenNames -merge -underBinder x0
  have h1 : ∀ a2, ∀ a3, Rel s0 a3 → Rel s0 (x0 a2 a3) := by
    unfold x0
    intro a2 a3 h4
    refine keep_forEach ?_ ?_
    · intro a5 a6 h7
      exact keep_dieExp h7
    · exact keep_dieWrite h4
  clear_value x0
  split
  · refine h1 _ _ ?_
    · exact k0
  · refine keep_forEach ?_ ?_
    · intro a8 a9 h10
      refine h1 _ _ ?_
      · exact h10
    · exact k0
  · refine h1 _ _ ?_
    · exact k0
  · exact k0

theorem keep_stagingMove {s0 : State} {a0 a1 a2 a3 s} (k0 : Rel s0 s) :
    Rel s0 (stagingMove a0 a1 a2 a3 s) := by
  unfold stagingMove
  refine ite_keep (P := Rel s0) ?_ ?_
  · exact k0
  · refine ite_keep (P := Rel s0) ?_ ?_
    · extract_lets +onlyGivenNames -merge -underBinder x0
      try clear_value x0
      refine keep_forEach ?_ ?_
      · intro a1 a2 h3
        exact keep_dieWrite h3
      · exact k0
    · split
      · exact keep_stgStore (ite_keep (P := Rel s0) k0 (keep_report k0))

/-! ### Conv -/

theorem keep_refuseRun {s0 : State} {a0 a1 a2 a3 s} (k0 : Rel s0 s) :
    Rel s0 (refuseRun a0 a1 a2 a3 s) := by
  unfold refuseRun
  exact ite_keep (P := Rel s0) (keep_dummyFail k0) (keep_endChunk k0)

theorem keep_convRefuse {s0 : State} {a0 a1 a2 a3 a4 s} (k0 : Rel s0 s) :
    Rel s0 (convRefuse a0 a1 a2 a3 a4 s) := by
  unfold convRefuse
  extract_lets +onlyGivenNames -merge -underBinder x0
  try clear_value x0
  exact keep_refuseRun (keep_postEvent (keep_incF (keep_setB k0)))

theorem keep_noteTaps {s0 : State} {a0 a1 a2 s} (k0 : Rel s0 s) :
    Rel s0 (noteTaps a0 a1 a2 s) := by
  unfold noteTaps
  extract_lets +onlyGivenNames -merge -underBinder x0
  try clear_value x0
  exact keep_adjDie k0

theorem keep_setHalf {s0 : State} {a0 a1 a2 s} (k0 : Rel s0 s) :
    Rel s0 (setHalf a0 a1 a2 s) := by
  unfold setHalf
  exact keep_adjDie k0

theorem keep_convFill {s0 : State} {a0 a1 a2 a3 s} (k0 : Rel s0 s) :
    Rel s0 (convFill a0 a1 a2 a3 s) := by
  unfold convFill
  exact ite_keep (P := Rel s0) (keep_setHalf k0) k0

theorem keep_convRefill {s0 : State} {a0 a1 a2 a3 s} (k0 : Rel s0 s) :
    Rel s0 (convRefill a0 a1 a2 a3 s) := by
  unfold convRefill
  extract_lets +onlyGivenNames -merge -underBinder x0 x1
  try clear_value x0 x1
  exact ite_keep (P := Rel s0) k0 (keep_incF (keep_setHalf k0))

theorem keep_convAssemble {s0 : State} {a0 a1 a2 a3 a4 s} (k0 : Rel s0 s) :
    Rel s0 (convAssemble a0 a1 a2 a3 a4 s) := by
  unfold convAssemble
  refine ite_keep (P := Rel s0) ?_ ?_
  · exact k0
  · extract_lets +onlyGivenNames -merge -underBinder x0
    have h1 : Rel s0 x0 := keep_convRefill k0
    clear_value x0
    extract_lets +onlyGivenNames -merge -underBinder x2
    try clear_value x2
    exact keep_adjDie (keep_wrMem h1)

theorem keep_convRun {s0 : State} {a0 a1 a2 s} (k0 : Rel s0 s) :
    Rel s0 (convRun a0 a1 a2 s) := by
  unfold convRun
  refine keep_forEach ?_ ?_
  · intro a0 a1 h2
    extract_lets +onlyGivenNames -merge -underBinder x3
    try clear_value x3
    exact keep_convFill (keep_convAssemble h2)
  · exact k0

theorem keep_invalidateHalves {s0 : State} {a0 s} (k0 : Rel s0 s) :
    Rel s0 (invalidateHalves a0 s) := by
  unfold invalidateHalves
  exact keep_adjDie k0

/-! ### Attention -/

theorem keep_adjWalker {s0 : State} {a0 a1 s} (k0 : Rel s0 s) :
    Rel s0 (adjWalker a0 a1 s) := by
  unfold adjWalker
  exact keep_adjDie k0

theorem keep_countSkips {s0 : State} {a0 a1 s} (k0 : Rel s0 s) :
    Rel s0 (countSkips a0 a1 s) := by
  unfold countSkips
  extract_lets +onlyGivenNames -merge -underBinder x0
  try clear_value x0
  exact ite_keep (P := Rel s0) k0 (keep_adjWalker (keep_adjFacts k0))

theorem keep_attFail {s0 : State} {a0 a1 a2 a3 a4 s} (k0 : Rel s0 s) :
    Rel s0 (attFail a0 a1 a2 a3 a4 s) := by
  unfold attFail
  extract_lets +onlyGivenNames -merge -underBinder x0
  try clear_value x0
  extract_lets +onlyGivenNames -merge -underBinder x1
  have h2 : Rel s0 x1 := ite_keep (P := Rel s0) (keep_squashEpoch k0) (keep_countSkips k0)
  clear_value x1
  extract_lets +onlyGivenNames -merge -underBinder x3
  have h4 : Rel s0 x3 := keep_adjDie h2
  clear_value x3
  exact keep_refuseRun (keep_postEvent (keep_incF (keep_setB h4)))

theorem keep_walkerStart {s0 : State} {a0 a1 a2 a3 s} (k0 : Rel s0 s) :
    Rel s0 (walkerStart a0 a1 a2 a3 s) := by
  unfold walkerStart
  extract_lets +onlyGivenNames -merge -underBinder x0 x1
  try clear_value x0 x1
  extract_lets +onlyGivenNames -merge -underBinder x2
  have h3 : Rel s0 x2 := keep_adjDie k0
  clear_value x2
  split
  · exact keep_attFail h3
  · extract_lets +onlyGivenNames -merge -underBinder x4
    try clear_value x4
    split
    · exact keep_readFault (keep_adjWalker h3)
    · exact keep_touchRanges h3

theorem keep_copyPage {s0 : State} {a0 a1 a2 a3 a4 s} (k0 : Rel s0 s) :
    Rel s0 (copyPage a0 a1 a2 a3 a4 s) := by
  unfold copyPage
  refine keep_forEach ?_ ?_
  · intro a0 a1 h2
    refine keep_forEach ?_ ?_
    · intro a3 a4 h5
      extract_lets +onlyGivenNames -merge -underBinder x6 x7 x8 x9
      try clear_value x6 x7 x8 x9
      exact keep_store (keep_store h5)
    · exact h2
  · exact k0

theorem keep_loadQueries {s0 : State} {a0 a1 a2 a3 s} (k0 : Rel s0 s) :
    Rel s0 (loadQueries a0 a1 a2 a3 s) := by
  unfold loadQueries
  refine keep_forEach ?_ ?_
  · intro a0 a1 h2
    refine keep_forEach ?_ ?_
    · intro a3 a4 h5
      extract_lets +onlyGivenNames -merge -underBinder x6
      have h7 : Rel s0 x6 := keep_adjDie h5
      clear_value x6
      extract_lets +onlyGivenNames -merge -underBinder x8 x9 x10
      try clear_value x8 x9 x10
      exact keep_wrMem h7
    · exact h2
  · exact k0

theorem keep_deliverStep {s0 : State} {a0 a1 a2 a3 a4 s} (k0 : Rel s0 s) :
    Rel s0 (deliverStep a0 a1 a2 a3 a4 s) := by
  unfold deliverStep
  extract_lets +onlyGivenNames -merge -underBinder x0 x1
  try clear_value x0 x1
  extract_lets +onlyGivenNames -merge -underBinder x2
  have h3 : Rel s0 x2 := by
    unfold x2
    split
    · exact keep_copyPage k0
    · exact k0
  clear_value x2
  extract_lets +onlyGivenNames -merge -underBinder x4
  have h5 : Rel s0 x4 := by
    unfold x4
    split
    · exact ite_keep (P := Rel s0) (keep_loadQueries h3) h3
    · exact h3
  clear_value x4
  extract_lets +onlyGivenNames -merge -underBinder x6
  try clear_value x6
  extract_lets +onlyGivenNames -merge -underBinder x7
  have h8 : Rel s0 x7 := keep_adjWalker h5
  clear_value x7
  extract_lets +onlyGivenNames -merge -underBinder x9
  have h10 : Rel s0 x9 := ite_keep (P := Rel s0) (keep_tokenAdd h8) h8
  clear_value x9
  extract_lets +onlyGivenNames -merge -underBinder x11
  have h12 : Rel s0 x11 := keep_tokenAdd h10
  clear_value x11
  exact ite_keep (P := Rel s0) (keep_tokenAdd h12) h12

theorem keep_stepRead {s0 : State} {a0 a1 a2 a3 a4 a5 s} (k0 : ∀ z0, Rel s0 z0 → Rel s0 (a5 z0)) (k1 : Rel s0 s) :
    Rel s0 (stepRead a0 a1 a2 a3 a4 a5 s) := by
  unfold stepRead
  extract_lets +onlyGivenNames -merge -underBinder x0
  have h1 : Rel s0 x0 := keep_touchRanges (keep_senseRanges k1)
  clear_value x0
  split
  · exact keep_readFault (keep_adjWalker h1)
  · refine k0 _ ?_
    · exact h1

theorem keep_pageStep {s0 : State} {a0 a1 s} (k0 : Rel s0 s) :
    Rel s0 (pageStep a0 a1 s) := by
  unfold pageStep
  split
  · exact k0
  · extract_lets +onlyGivenNames -merge -underBinder x0 x1
    try clear_value x0 x1
    refine ite_keep (P := Rel s0) ?_ ?_
    · exact k0
    · extract_lets +onlyGivenNames -merge -underBinder x2
      try clear_value x2
      split
      · exact keep_deliverStep k0
      · extract_lets +onlyGivenNames -merge -underBinder x3
        try clear_value x3
        refine ite_keep (P := Rel s0) ?_ ?_
        · exact keep_attFail k0
        · split
          · refine keep_stepRead ?_ ?_
            · intro a4 h5
              exact keep_deliverStep h5
            · exact k0
          · refine ite_keep (P := Rel s0) ?_ ?_
            · exact keep_attFail k0
            · refine keep_stepRead ?_ ?_
              · intro a6 h7
                exact keep_deliverStep h7
              · exact k0

theorem keep_rowStart {s0 : State} {a0 a1 a2 a3 a4 s} (k0 : Rel s0 s) :
    Rel s0 (rowStart a0 a1 a2 a3 a4 s) := by
  unfold rowStart
  split
  · exact k0
  · extract_lets +onlyGivenNames -merge -underBinder x0 x1 x2 x3 x4 x5 x6
    try clear_value x0 x1 x2 x3 x4 x5 x6
    extract_lets +onlyGivenNames -merge -underBinder x7
    have h8 : Rel s0 x7 := keep_adjWalker k0
    clear_value x7
    exact ite_keep (P := Rel s0) (keep_openEpoch h8) h8

theorem keep_verifySkip {s0 : State} {a0 a1 a2 s} (k0 : Rel s0 s) :
    Rel s0 (verifySkip a0 a1 a2 s) := by
  unfold verifySkip
  exact keep_incF (keep_commitEpoch (keep_adjWalker (keep_countSkips k0)))

theorem keep_onGate {s0 : State} {a0 a1 a2 s} (k0 : Rel s0 s) :
    Rel s0 (onGate a0 a1 a2 s) := by
  unfold onGate
  split
  · exact k0
  · extract_lets +onlyGivenNames -merge -underBinder x0
    try clear_value x0
    refine ite_keep (P := Rel s0) ?_ ?_
    · exact k0
    · extract_lets +onlyGivenNames -merge -underBinder x1
      try clear_value x1
      extract_lets +onlyGivenNames -merge -underBinder x2
      have h3 : Rel s0 x2 := keep_adjWalker k0
      clear_value x2
      exact ite_keep (P := Rel s0) (keep_verifySkip h3) h3

theorem keep_nextRow {s0 : State} {a0 s} (k0 : Rel s0 s) :
    Rel s0 (nextRow a0 s) := by
  unfold nextRow
  exact keep_adjWalker k0

theorem keep_rowEnd {s0 : State} {a0 a1 a2 s} (k0 : Rel s0 s) :
    PFst (Rel s0) (rowEnd a0 a1 a2 s) := by
  unfold rowEnd
  split
  · exact fst_keep (P := Rel s0) k0
  · refine ite_keep (P := (PFst (Rel s0))) ?_ ?_
    · exact fst_keep (P := Rel s0) k0
    · refine ite_keep (P := (PFst (Rel s0))) ?_ ?_
      · refine ite_keep (P := (PFst (Rel s0))) ?_ ?_
        · exact fst_keep (P := Rel s0) (keep_nextRow (keep_verifySkip k0))
        · exact fst_keep (P := Rel s0) (keep_rewindTo (keep_countReplay (keep_squashEpoch k0)))
      · exact fst_keep (P := Rel s0) (keep_nextRow (keep_countSkips k0))

/-! ### Recurrent -/

theorem keep_rowSaturates {s0 : State} {a0 a1 a2 a3 s} (k0 : Rel s0 s) :
    Rel s0 (rowSaturates a0 a1 a2 a3 s) := by
  unfold rowSaturates
  exact ite_keep (P := Rel s0) k0 (keep_report (rel_upd k0))

theorem keep_rowClears {s0 : State} {a0 s} (k0 : Rel s0 s) :
    Rel s0 (rowClears a0 s) := by
  unfold rowClears
  exact rel_upd k0

theorem keep_recRefuse {s0 : State} {a0 a1 a2 a3 a4 s} (k0 : Rel s0 s) :
    Rel s0 (recRefuse a0 a1 a2 a3 a4 s) := by
  unfold recRefuse
  extract_lets +onlyGivenNames -merge -underBinder x0
  try clear_value x0
  exact keep_refuseRun (keep_postEvent (keep_incF (keep_setB k0)))

theorem keep_setResidue {s0 : State} {a0 a1 s} (k0 : Rel s0 s) :
    Rel s0 (setResidue a0 a1 s) := by
  unfold setResidue
  exact rel_upd k0

theorem keep_updateWord {s0 : State} {a0 a1 a2 a3 a4 a5 a6 a7 a8 a9 s} (k0 : Rel s0 s) :
    Rel s0 (updateWord a0 a1 a2 a3 a4 a5 a6 a7 a8 a9 s) := by
  unfold updateWord
  extract_lets +onlyGivenNames -merge -underBinder x0 x1 x2 x3 x4
  try clear_value x0 x1 x2 x3 x4
  refine ite_keep (P := Rel s0) ?_ ?_
  · exact k0
  · extract_lets +onlyGivenNames -merge -underBinder x5
    have h6 : Rel s0 x5 := keep_accSet k0
    clear_value x5
    extract_lets +onlyGivenNames -merge -underBinder x7
    have h8 : Rel s0 x7 := ite_keep (P := Rel s0) (keep_setResidue h6) h6
    clear_value x7
    exact ite_keep (P := Rel s0) (keep_rowSaturates h8) h8

theorem keep_recUpdate {s0 : State} {a0 a1 a2 a3 a4 a5 a6 a7 a8 s} (k0 : Rel s0 s) :
    Rel s0 (recUpdate a0 a1 a2 a3 a4 a5 a6 a7 a8 s) := by
  unfold recUpdate
  refine keep_forEach ?_ ?_
  · intro a0 a1 h2
    extract_lets +onlyGivenNames -merge -underBinder x3 x4 x5 x6
    try clear_value x3 x4 x5 x6
    refine keep_forEach ?_ ?_
    · intro a7 a8 h9
      split
      · exact keep_updateWord h9
    · exact h2
  · exact k0

theorem keep_recReadout {s0 : State} {a0 a1 a2 a3 a4 a5 a6 a7 a8 s} (k0 : Rel s0 s) :
    Rel s0 (recReadout a0 a1 a2 a3 a4 a5 a6 a7 a8 s) := by
  unfold recReadout
  refine keep_forEach ?_ ?_
  · intro a0 a1 h2
    extract_lets +onlyGivenNames -merge -underBinder x3 x4 x5 x6
    try clear_value x3 x4 x5 x6
    exact ite_keep (P := Rel s0) (keep_dieWrite h2) (keep_drainOut h2)
  · exact k0

theorem keep_recLoad {s0 : State} {a0 a1 a2 a3 a4 a5 s} (k0 : Rel s0 s) :
    Rel s0 (recLoad a0 a1 a2 a3 a4 a5 s) := by
  unfold recLoad
  refine keep_forEach ?_ ?_
  · intro a0 a1 h2
    extract_lets +onlyGivenNames -merge -underBinder x3 x4
    try clear_value x3 x4
    extract_lets +onlyGivenNames -merge -underBinder x5
    have h6 : Rel s0 x5 := by
      unfold x5
      refine ite_keep (P := Rel s0) ?_ ?_
      · exact h2
      · refine keep_forEach ?_ ?_
        · intro a7 a8 h9
          exact keep_rowClears h9
        · exact h2
    clear_value x5
    refine keep_forEach ?_ ?_
    · intro a10 a11 h12
      split
      · extract_lets +onlyGivenNames -merge -underBinder x13
        try clear_value x13
        refine ite_keep (P := Rel s0) ?_ ?_
        · exact h12
        · extract_lets +onlyGivenNames -merge -underBinder x14
          try clear_value x14
          extract_lets +onlyGivenNames -merge -underBinder x15
          have h16 : Rel s0 x15 := keep_incF (keep_accSet h12)
          clear_value x15
          exact ite_keep (P := Rel s0) (keep_setResidue h16) h16
    · exact h6
  · exact k0

theorem keep_recStore {s0 : State} {a0 a1 a2 a3 a4 a5 s} (k0 : Rel s0 s) :
    Rel s0 (recStore a0 a1 a2 a3 a4 a5 s) := by
  unfold recStore
  refine keep_forEach ?_ ?_
  · intro a0 a1 h2
    extract_lets +onlyGivenNames -merge -underBinder x3 x4
    try clear_value x3 x4
    exact keep_dieWrite h2
  · exact k0

theorem keep_recordSpan {s0 : State} {a0 a1 a2 a3 a4 s} (k0 : Rel s0 s) :
    Rel s0 (recordSpan a0 a1 a2 a3 a4 s) := by
  unfold recordSpan
  refine keep_forEach ?_ ?_
  · intro a0 a1 h2
    exact keep_adjDie h2
  · exact k0

theorem keep_recRun {s0 : State} {a0 a1 a2 a3 a4 a5 a6 s} (k0 : Rel s0 s) :
    Rel s0 (recRun a0 a1 a2 a3 a4 a5 a6 s) := by
  unfold recRun
  extract_lets +onlyGivenNames -merge -underBinder x0 x1
  try clear_value x0 x1
  extract_lets +onlyGivenNames -merge -underBinder x2
  have h3 : Rel s0 x2 := by
    unfold x2
    refine keep_forEach ?_ ?_
    · intro a4 a5 h6
      extract_lets +onlyGivenNames -merge -underBinder x7
      try clear_value x7
      split
      · exact keep_recUpdate h6
      · exact keep_recReadout h6
      · exact keep_recLoad h6
      · exact keep_recStore h6
    · exact k0
  clear_value x2
  extract_lets +onlyGivenNames -merge -underBinder x8
  try clear_value x8
  exact ite_keep (P := Rel s0) (keep_recordSpan h3) h3

/-! ### Fabric -/

theorem keep_loadLanes {s0 : State} {a0 a1 a2 a3 a4 s} (k0 : Rel s0 s) :
    Rel s0 (loadLanes a0 a1 a2 a3 a4 s) := by
  unfold loadLanes
  extract_lets +onlyGivenNames -merge -underBinder x0 x1
  try clear_value x0 x1
  extract_lets +onlyGivenNames -merge -underBinder x2
  have h3 : Rel s0 x2 := by
    unfold x2
    refine keep_forEach ?_ ?_
    · intro a4 a5 h6
      split
      · exact keep_wrMem h6
    · exact k0
  clear_value x2
  exact keep_adjDie h3

theorem keep_aloadPart {s0 : State} {a0 a1 a2 a3 a4 s} (k0 : Rel s0 s) :
    Rel s0 (aloadPart a0 a1 a2 a3 a4 s) := by
  unfold aloadPart
  exact ite_keep (P := Rel s0) (ite_keep (P := Rel s0) (keep_loadLanes k0) k0) k0

theorem keep_exchange {s0 : State} {a0 s} (k0 : Rel s0 s) :
    Rel s0 (exchange a0 s) := by
  unfold exchange
  extract_lets +onlyGivenNames -merge -underBinder x0 x1 x2
  try clear_value x0 x1 x2
  extract_lets +onlyGivenNames -merge -underBinder x3
  have h4 : Rel s0 x3 := keep_wrMem (keep_wrMem k0)
  clear_value x3
  exact keep_adjDie h4

theorem keep_convPart {s0 : State} {a0 a1 a2 s} (k0 : Rel s0 s) :
    Rel s0 (convPart a0 a1 a2 s) := by
  unfold convPart
  exact ite_keep (P := Rel s0) (keep_convRun k0) k0

theorem keep_loadAndExchange {s0 : State} {a0 a1 a2 s} (k0 : Rel s0 s) :
    Rel s0 (loadAndExchange a0 a1 a2 s) := by
  unfold loadAndExchange
  extract_lets +onlyGivenNames -merge -underBinder x0
  try clear_value x0
  extract_lets +onlyGivenNames -merge -underBinder x1
  have h2 : Rel s0 x1 := keep_convPart (keep_aloadPart k0)
  clear_value x1
  extract_lets +onlyGivenNames -merge -underBinder x3
  have h4 : Rel s0 x3 := ite_keep (P := Rel s0) (keep_exchange h2) h2
  clear_value x3
  exact keep_aloadPart h4

theorem keep_foldSet {s0 : State} {a0 a1 a2 a3 a4 s} (k0 : Rel s0 s) :
    Rel s0 (foldSet a0 a1 a2 a3 a4 s) := by
  unfold foldSet
  exact ite_keep (P := Rel s0) (keep_accSet (keep_adjRun k0)) (keep_accSet k0)

theorem keep_foldLane {s0 : State} {a0 a1 a2 a3 a4 a5 s} (k0 : Rel s0 s) :
    Rel s0 (foldLane a0 a1 a2 a3 a4 a5 s) := by
  unfold foldLane
  extract_lets +onlyGivenNames -merge -underBinder x0
  try clear_value x0
  exact ite_keep (P := Rel s0) k0 (ite_keep (P := Rel s0) (keep_rowSaturates (keep_foldSet k0)) (keep_foldSet k0))

theorem keep_addTol {s0 : State} {a0 a1 a2 s} (k0 : Rel s0 s) :
    Rel s0 (addTol a0 a1 a2 s) := by
  unfold addTol
  extract_lets +onlyGivenNames -merge -underBinder x0
  try clear_value x0
  exact ite_keep (P := Rel s0) (rel_upd k0) (rel_upd k0)

theorem keep_noteBest_put {s0 : State} {a0 s a2 a3 a4} (k0 : Rel s0 s) :
    Rel s0 (noteBest.put a0 s a2 a3 a4) := by
  unfold noteBest.put
  exact keep_adjRun k0

theorem keep_noteBest {s0 : State} {a0 a1 s} (k0 : Rel s0 s) :
    Rel s0 (noteBest a0 a1 s) := by
  unfold noteBest
  extract_lets +onlyGivenNames -merge -underBinder x0 x1 x2
  try clear_value x0 x1 x2
  split
  · exact keep_noteBest_put k0
  · exact keep_noteBest_put k0
  · exact k0

theorem keep_foldScore {s0 : State} {a0 a1 a2 a3 a4 a5 s} (k0 : Rel s0 s) :
    PFst (Rel s0) (foldScore a0 a1 a2 a3 a4 a5 s) := by
  unfold foldScore
  extract_lets +onlyGivenNames -merge -underBinder x0 x1
  try clear_value x0 x1
  extract_lets +onlyGivenNames -merge -underBinder x2
  have h3 : Rel s0 x2 := by
    unfold x2
    refine keep_forEach ?_ ?_
    · intro a4 a5 h6
      exact ite_keep (P := Rel s0) (keep_rowClears h6) h6
    · exact k0
  clear_value x2
  extract_lets +onlyGivenNames -merge -underBinder x7
  have h8 : Rel s0 x7 := by
    unfold x7
    refine keep_forEach ?_ ?_
    · intro a9 a10 h11
      refine ite_keep (P := Rel s0) ?_ ?_
      · exact keep_accSet h11
      · extract_lets +onlyGivenNames -merge -underBinder x12
        have h13 : Rel s0 x12 := keep_foldLane h11
        clear_value x12
        split
        · exact keep_adjWalker h13
        · exact h13
    · exact h3
  clear_value x7
  extract_lets +onlyGivenNames -merge -underBinder x14
  try clear_value x14
  exact fst_keep (P := Rel s0) (keep_adjWalker h8)

theorem keep_countUnder {s0 : State} {a0 a1 s} (k0 : Rel s0 s) :
    Rel s0 (countUnder a0 a1 s) := by
  unfold countUnder
  exact ite_keep (P := Rel s0) k0 (keep_report k0)

theorem keep_notePlanes {s0 : State} {a0 a1 a2 s} (k0 : Rel s0 s) :
    Rel s0 (notePlanes a0 a1 a2 s) := by
  unfold notePlanes
  exact ite_keep (P := Rel s0) k0 (keep_adjRun k0)

theorem keep_foldPlain {s0 : State} {a0 a1 a2 a3 a4 a5 s} (k0 : Rel s0 s) :
    Rel s0 (foldPlain a0 a1 a2 a3 a4 a5 s) := by
  unfold foldPlain
  extract_lets +onlyGivenNames -merge -underBinder x0 x1
  try clear_value x0 x1
  extract_lets +onlyGivenNames -merge -underBinder x2
  have h3 : Rel s0 x2 := by
    unfold x2
    refine keep_forEach ?_ ?_
    · intro a4 a5 h6
      exact ite_keep (P := Rel s0) (keep_rowClears h6) h6
    · exact k0
  clear_value x2
  extract_lets +onlyGivenNames -merge -underBinder x7
  have h8 : Rel s0 x7 := by
    unfold x7
    refine keep_forEach ?_ ?_
    · intro a9 a10 h11
      extract_lets +onlyGivenNames -merge -underBinder x12
      have h13 : Rel s0 x12 := keep_countUnder h11
      clear_value x12
      extract_lets +onlyGivenNames -merge -underBinder x14
      have h15 : Rel s0 x14 := keep_foldLane h13
      clear_value x14
      extract_lets +onlyGivenNames -merge -underBinder x16
      have h17 : Rel s0 x16 := ite_keep (P := Rel s0) (keep_addTol h15) h15
      clear_value x16
      exact ite_keep (P := Rel s0) (keep_noteBest h17) h17
    · exact h3
  clear_value x7
  split
  · extract_lets +onlyGivenNames -merge -underBinder x18
    have h19 : Rel s0 x18 := keep_notePlanes h8
    clear_value x18
    exact ite_keep (P := Rel s0) (keep_adjRun h19) h19
  · exact h8

theorem keep_nextPosition {s0 : State} {a0 a1 a2 s} (k0 : Rel s0 s) :
    Rel s0 (nextPosition a0 a1 a2 s) := by
  unfold nextPosition
  exact ite_keep (P := Rel s0) (keep_adjRun k0) k0

theorem keep_foldChannel {s0 : State} {a0 a1 a2} (k0 : (PRun (Rel s0)) a2) :
    PRun (Rel s0) (foldChannel a0 a1 a2) := by
  unfold foldChannel
  refine ite_keep (P := (PRun (Rel s0))) ?_ ?_
  · exact k0
  · extract_lets +onlyGivenNames -merge -underBinder x0
    have h1 : Rel s0 x0 := by
      unfold x0
      show PRun (Rel s0) _
      exact k0
    clear_value x0
    extract_lets +onlyGivenNames -merge -underBinder x2 x3 x4 x5 x6
    try clear_value x2 x3 x4 x5 x6
    refine ite_keep (P := (PRun (Rel s0))) ?_ ?_
    · show Rel s0 _
      refine keep_forEach ?_ ?_
      · intro a7 a8 h9
        exact ite_keep (P := Rel s0) (keep_accSet (keep_rowClears h9)) h9
      · exact h1
    · extract_lets +onlyGivenNames -merge -underBinder x10 x11
      try clear_value x10 x11
      extract_lets +onlyGivenNames -merge -underBinder x12
      have h13 : Rel s0 x12 := keep_nextPosition h1
      clear_value x12
      extract_lets +onlyGivenNames -merge -underBinder x14 x15 x16 x17
      try clear_value x14 x15 x16 x17
      split
      · show Rel s0 _
        show PRun (Rel s0) _
        exact k0
      · extract_lets +onlyGivenNames -merge -underBinder x18
        have h19 : Rel s0 x18 := ite_keep (P := Rel s0) h13 (keep_foldPlain h13)
        clear_value x18
        split
        · refine ite_keep (P := (PRun (Rel s0))) ?_ ?_
          · show Rel s0 _
            exact h19
          · extract_lets +onlyGivenNames -merge -underBinder x20
            try clear_value x20
            extract_lets +onlyGivenNames -merge -underBinder x21
            have h22 : (PFst (Rel s0)) x21 := keep_foldScore h19
            clear_value x21
            show Rel s0 _
            show (PFst (Rel s0)) _
            exact h22
        · show Rel s0 _
          exact h19

theorem keep_foldAll {s0 : State} {c s} (k0 : Rel s0 s) : PRun (Rel s0) (foldAll c s) := by
  unfold foldAll
  refine ite_keep (P := PRun (Rel s0)) k0 ?_
  extract_lets +onlyGivenNames -merge -underBinder x0
  have h1 : PRun (Rel s0) x0 := foldl_keep (P := PRun (Rel s0)) k0 fun _ h _ => keep_foldChannel h
  clear_value x0
  extract_lets +onlyGivenNames -merge -underBinder x1 x2
  dsimp only [PRun]
  exact keep_adjDie h1

theorem keep_checkGroups {s0 : State} {a0 a1 a2 a3 a4 a5 a6 a7 s} (k0 : Rel s0 s) :
    Rel s0 (checkGroups a0 a1 a2 a3 a4 a5 a6 a7 s) := by
  unfold checkGroups
  refine ite_keep (P := Rel s0) ?_ ?_
  · exact k0
  · extract_lets +onlyGivenNames -merge -underBinder x0 x1
    try clear_value x0 x1
    exact ite_keep (P := Rel s0) (keep_report k0) k0

theorem keep_drainRow {s0 : State} {a0 a1 a2 a3 a4 a5 a6 a7 a8 a9 a10 s} (k0 : Rel s0 s) :
    Rel s0 (drainRow a0 a1 a2 a3 a4 a5 a6 a7 a8 a9 a10 s) := by
  unfold drainRow
  extract_lets +onlyGivenNames -merge -underBinder x0 x1 x2 x3 x4 x5 x6
  try clear_value x0 x1 x2 x3 x4 x5 x6
  split
  · refine keep_forEach ?_ ?_
    · intro a7 a8 h9
      split
      · exact ite_keep (P := Rel s0) (keep_dieWrite h9) (ite_keep (P := Rel s0) (keep_dieWrite h9) h9)
    · exact k0
  · refine ite_keep (P := Rel s0) ?_ ?_
    · extract_lets +onlyGivenNames -merge -underBinder x10
      try clear_value x10
      exact keep_drainStore k0
    · exact keep_drainOut k0

theorem keep_drainAll {s0 : State} {a0 a1 a2 a3 a4 a5 a6 a7 s} (k0 : Rel s0 s) :
    Rel s0 (drainAll a0 a1 a2 a3 a4 a5 a6 a7 s) := by
  unfold drainAll
  refine ite_keep (P := Rel s0) ?_ ?_
  · exact k0
  · extract_lets +onlyGivenNames -merge -underBinder x0 x1
    try clear_value x0 x1
    refine keep_forEach ?_ ?_
    · intro a2 a3 h4
      extract_lets +onlyGivenNames -merge -underBinder x5
      have h6 : Rel s0 x5 := keep_checkGroups h4
      clear_value x5
      refine keep_forEach ?_ ?_
      · intro a7 a8 h9
        exact keep_drainRow h9
      · exact h6
    · exact k0

theorem keep_endFill {s0 : State} {a0 a1 a2 s} (k0 : Rel s0 s) :
    Rel s0 (endFill a0 a1 a2 s) := by
  unfold endFill
  split
  · exact k0
  · extract_lets +onlyGivenNames -merge -underBinder x0
    try clear_value x0
    extract_lets +onlyGivenNames -merge -underBinder x1
    have h2 : Rel s0 x1 := rel_upd k0
    clear_value x1
    extract_lets +onlyGivenNames -merge -underBinder x3
    have h4 : Rel s0 x3 := keep_commitEpoch (keep_adjRun h2)
    clear_value x3
    split
    · exact keep_report h4
    · exact h4

theorem keep_fabError {s0 : State} {a0 a1 a2 s} (k0 : Rel s0 s) :
    Rel s0 (fabError a0 a1 a2 s) := by
  unfold fabError
  extract_lets +onlyGivenNames -merge -underBinder x0
  try clear_value x0
  split
  · exact k0
  · exact keep_incF (keep_setB k0)
  · exact keep_raiseCause (keep_reportT0Ue k0)
  · exact k0
  · exact k0
  · extract_lets +onlyGivenNames -merge -underBinder x1
    try clear_value x1
    exact keep_raiseCause (keep_postEvent (keep_setB k0))

/-! ### Sequence -/

theorem keep_refill {s0 : State} {a0 a1 a2 a3 s} (k0 : Rel s0 s) :
    Rel s0 (refill a0 a1 a2 a3 s) := by
  unfold refill
  extract_lets +onlyGivenNames -merge -underBinder x0
  try clear_value x0
  exact keep_adjDie k0

theorem keep_refillEcc {s0 : State} {a0 a1 a2 a3 s} (k0 : Rel s0 s) :
    Rel s0 (refillEcc a0 a1 a2 a3 s) := by
  unfold refillEcc
  extract_lets +onlyGivenNames -merge -underBinder x0
  try clear_value x0
  extract_lets +onlyGivenNames -merge -underBinder x1
  have h2 : ∀ a3, ∀ a4, (Rel s0) (x1 a3 a4) := by
    unfold x1
    intro a3 a4
    split
    · exact keep_senseAt k0
    · exact k0
  clear_value x1
  split
  · refine h2 _ _
  · refine h2 _ _
  · exact k0
  · exact k0
  · exact k0
  · exact k0

theorem keep_fetchWord {s0 : State} {a0 a1 a2 a3 a4 a5 a6 s} (k0 : Rel s0 s) :
    PFst (Rel s0) (fetchWord a0 a1 a2 a3 a4 a5 a6 s) := by
  unfold fetchWord
  extract_lets +onlyGivenNames -merge -underBinder x0
  try clear_value x0
  extract_lets +onlyGivenNames -merge -underBinder x1
  have h2 : Rel s0 x1 := keep_refill (keep_refill (keep_refillEcc k0))
  clear_value x1
  refine ite_keep (P := (PFst (Rel s0))) ?_ ?_
  · exact fst_keep (P := Rel s0) h2
  · refine ite_keep (P := (PFst (Rel s0))) ?_ ?_
    · exact fst_keep (P := Rel s0) h2
    · split
      · exact fst_keep (P := Rel s0) (keep_readFault h2)
      · exact fst_keep (P := Rel s0) h2

theorem keep_dropCache {s0 : State} {a0 s} (k0 : Rel s0 s) :
    Rel s0 (dropCache a0 s) := by
  unfold dropCache
  refine keep_forEach ?_ ?_
  · intro a0 a1 h2
    exact keep_adjDie h2
  · exact k0

theorem keep_startThread {s0 : State} {a0 a1 a2 a3 a4 s} (k0 : Rel s0 s) :
    Rel s0 (startThread a0 a1 a2 a3 a4 s) := by
  unfold startThread
  extract_lets +onlyGivenNames -merge -underBinder x0
  try clear_value x0
  exact keep_adjDie (rel_upd k0)

theorem keep_kick {s0 : State} {a0 a1 a2 a3 a4 s} (k0 : Rel s0 s) :
    Rel s0 (kick a0 a1 a2 a3 a4 s) := by
  unfold kick
  refine keep_forEach ?_ ?_
  · intro a0 a1 h2
    exact keep_startThread h2
  · exact k0

theorem keep_aheadStep {s0 : State} {a0 a1 a2 a3 s} (k0 : Rel s0 s) :
    POpt (Rel s0) (aheadStep a0 a1 a2 a3 s) := by
  unfold aheadStep
  split
  · exact none_keep
  · extract_lets +onlyGivenNames -merge -underBinder x0
    try clear_value x0
    split
    · exact none_keep
    · extract_lets +onlyGivenNames -merge -underBinder x1
      try clear_value x1
      refine ite_keep (P := (POpt (Rel s0))) ?_ ?_
      · exact none_keep
      · extract_lets +onlyGivenNames -merge -underBinder x2 x3 x4
        try clear_value x2 x3 x4
        refine ite_keep (P := (POpt (Rel s0))) ?_ ?_
        · exact none_keep
        · extract_lets +onlyGivenNames -merge -underBinder x5
          have h6 : Rel s0 x5 := by
            unfold x5
            split
            · exact ite_keep (P := Rel s0) k0 (keep_openEpoch k0)
            · exact k0
          clear_value x5
          extract_lets +onlyGivenNames -merge -underBinder x7
          try clear_value x7
          extract_lets +onlyGivenNames -merge -underBinder x8
          have h9 : Rel s0 x8 := keep_kick h6
          clear_value x8
          exact some_keep (P := Rel s0) (keep_adjRun h9)

theorem keep_runAhead {s0 : State} {st d dummy j n s} (k0 : Rel s0 s) : Rel s0 (runAhead st d dummy j n s) := by
  induction n generalizing s with
  | zero => exact k0
  | succ n ih =>
    unfold runAhead
    split
    · rename_i e
      exact ih (of_eq_some e (keep_aheadStep k0))
    · exact k0

theorem keep_sendWord {s0 : State} {a0 a1 a2 a3 s} (k0 : Rel s0 s) :
    Rel s0 (sendWord a0 a1 a2 a3 s) := by
  unfold sendWord
  refine ite_keep (P := Rel s0) ?_ ?_
  · exact k0
  · extract_lets +onlyGivenNames -merge -underBinder x0 x1
    try clear_value x0 x1
    split
    · exact keep_adjEpoch k0
    · exact keep_launch k0

theorem keep_signalWord {s0 : State} {a0 a1 a2 s} (k0 : Rel s0 s) :
    Rel s0 (signalWord a0 a1 a2 s) := by
  unfold signalWord
  refine ite_keep (P := Rel s0) ?_ ?_
  · exact k0
  · split
    · exact keep_adjEpoch k0
    · exact keep_tokenAdd k0

theorem keep_unplaceSeg {s0 : State} {a0 a1 s} (k0 : Rel s0 s) :
    Rel s0 (unplaceSeg a0 a1 s) := by
  unfold unplaceSeg
  refine ite_keep (P := Rel s0) ?_ ?_
  · exact k0
  · refine keep_forEach ?_ ?_
    · intro a0 a1 h2
      split
      · exact rel_upd h2
      · exact h2
    · exact k0

theorem keep_adjWindow {s0 : State} {a0 a1 s} (k0 : Rel s0 s) :
    Rel s0 (adjWindow a0 a1 s) := by
  unfold adjWindow
  exact rel_upd k0

theorem keep_retireWinFrame {s0 : State} {a0 a1 s} (k0 : Rel s0 s) :
    Rel s0 (retireWinFrame a0 a1 s) := by
  unfold retireWinFrame
  split
  · exact k0
  · split
    · exact k0
    · extract_lets +onlyGivenNames -merge -underBinder x0
      try clear_value x0
      refine ite_keep (P := Rel s0) ?_ ?_
      · exact k0
      · split
        · rename_i y1 y2 q3
          have h4 : Rel s0 y2 := by
            exact of_eq_somePair (P := (PSnd (Rel s0))) q3 (keep_takeFrame (keep_leaveFrame k0))
          exact keep_adjWindow h4
        · exact keep_adjWindow (keep_leaveFrame k0)

theorem keep_retireWindow {s0 : State} {a0 s} (k0 : Rel s0 s) :
    Rel s0 (retireWindow a0 s) := by
  unfold retireWindow
  refine keep_forEach ?_ ?_
  · intro a0 a1 h2
    exact keep_retireWinFrame h2
  · exact k0

theorem keep_watchWindow {s0 : State} {a0 s} (k0 : Rel s0 s) :
    Rel s0 (watchWindow a0 s) := by
  unfold watchWindow
  extract_lets +onlyGivenNames -merge -underBinder x0 x1
  try clear_value x0 x1
  exact keep_adjWindow k0

theorem keep_watchWindows {s0 : State} {a0 s} (k0 : Rel s0 s) :
    Rel s0 (watchWindows a0 s) := by
  unfold watchWindows
  refine keep_forEach ?_ ?_
  · intro a0 a1 h2
    exact keep_watchWindow h2
  · exact k0

theorem keep_freeSegments {s0 : State} {a0 s} (k0 : Rel s0 s) :
    Rel s0 (freeSegments a0 s) := by
  unfold freeSegments
  extract_lets +onlyGivenNames -merge -underBinder x0
  have h1 : Rel s0 x0 := by
    unfold x0
    refine keep_forEach ?_ ?_
    · intro a2 a3 h4
      extract_lets +onlyGivenNames -merge -underBinder x5
      try clear_value x5
      extract_lets +onlyGivenNames -merge -underBinder x6
      have h7 : Rel s0 x6 := by
        unfold x6
        refine keep_forEach ?_ ?_
        · intro a8 a9 h10
          exact keep_unplaceSeg h10
        · exact h4
      clear_value x6
      extract_lets +onlyGivenNames -merge -underBinder x11
      have h12 : Rel s0 x11 := keep_adjWindow h7
      clear_value x11
      exact ite_keep (P := Rel s0) h12 (keep_retireWindow h12)
    · exact k0
  clear_value x0
  exact keep_watchWindows h1

theorem keep_startCopies {s0 : State} {s} (k0 : Rel s0 s) :
    Rel s0 (startCopies s) := by
  unfold startCopies
  extract_lets +onlyGivenNames -merge -underBinder x0
  try clear_value x0
  exact rel_upd k0

theorem keep_followLayers {s0 : State} {a0 a1 s} (k0 : Rel s0 s) :
    Rel s0 (followLayers a0 a1 s) := by
  unfold followLayers
  exact ite_keep (P := Rel s0) k0 (keep_startCopies (keep_freeSegments k0))

theorem keep_nextLap {s0 : State} {a0 a1 s} (k0 : Rel s0 s) :
    Rel s0 (nextLap a0 a1 s) := by
  unfold nextLap
  refine keep_forEach ?_ ?_
  · intro a0 a1 h2
    refine ite_keep (P := Rel s0) ?_ ?_
    · extract_lets +onlyGivenNames -merge -underBinder x3
      have h4 : Rel s0 x3 := by
        unfold x3
        refine keep_forEach ?_ ?_
        · intro a5 a6 h7
          exact keep_unplaceSeg h7
        · exact h2
      clear_value x3
      exact keep_retireWindow (keep_adjWindow h4)
    · exact keep_adjWindow h2
  · exact k0

theorem keep_stall {s0 : State} {a0 a1 a2 s} (k0 : Rel s0 s) :
    Rel s0 (stall a0 a1 a2 s) := by
  unfold stall
  exact keep_setB (keep_setB k0)

theorem keep_beginFill {s0 : State} {a0 a1 a2 a3 a4 a5 s} (k0 : Rel s0 s) :
    Rel s0 (beginFill a0 a1 a2 a3 a4 a5 s) := by
  unfold beginFill
  extract_lets +onlyGivenNames -merge -underBinder x0 x1
  try clear_value x0 x1
  refine ite_keep (P := Rel s0) ?_ ?_
  · exact k0
  · extract_lets +onlyGivenNames -merge -underBinder x2
    try clear_value x2
    extract_lets +onlyGivenNames -merge -underBinder x3
    have h4 : Rel s0 x3 := keep_adjRun k0
    clear_value x3
    split
    · exact ite_keep (P := Rel s0) (keep_openEpoch h4) h4
    · exact h4

theorem keep_firstActions {s0 : State} {a0 a1 a2 a3 a4 s} (k0 : Rel s0 s) :
    Rel s0 (firstActions a0 a1 a2 a3 a4 s) := by
  unfold firstActions
  extract_lets +onlyGivenNames -merge -underBinder x0 x1 x2
  try clear_value x0 x1
  have h3 : Rel s0 x2 := ite_keep (P := Rel s0) (keep_adjRun k0) k0
  clear_value x2
  extract_lets +onlyGivenNames -merge -underBinder x4
  have h5 : Rel s0 x4 := keep_loadAndExchange h3
  clear_value x4
  exact ite_keep (P := Rel s0) h5 (keep_sendWord (keep_stagingMove h5))

theorem keep_firstChecks {s0 : State} {a0 a1 a2 a3 a4 a5 s} (k0 : Rel s0 s) :
    PFst (Rel s0) (firstChecks a0 a1 a2 a3 a4 a5 s) := by
  unfold firstChecks
  extract_lets +onlyGivenNames -merge -underBinder x0
  have h1 : Rel s0 x0 := ite_keep (P := Rel s0) (keep_noteTaps k0) k0
  clear_value x0
  split
  · exact fst_keep (P := Rel s0) (keep_convRefuse h1)
  · split
    · exact fst_keep (P := Rel s0) (keep_recRefuse h1)
    · exact fst_keep (P := Rel s0) h1

theorem keep_meetWalker {s0 : State} {a0 a1 a2 a3 s} (k0 : Rel s0 s) :
    Rel s0 (meetWalker a0 a1 a2 a3 s) := by
  unfold meetWalker
  split
  · exact keep_walkerStart k0
  · exact ite_keep (P := Rel s0) (keep_walkerStart k0) k0

theorem keep_firstCycle {s0 : State} {a0 a1 a2 a3 a4 a5 a6 s} (k0 : Rel s0 s) :
    PFst (Rel s0) (firstCycle a0 a1 a2 a3 a4 a5 a6 s) := by
  unfold firstCycle
  split
  · exact fst_keep (P := Rel s0) (keep_t0Fault k0)
  · refine ite_keep (P := (PFst (Rel s0))) ?_ ?_
    · exact fst_keep (P := Rel s0) (keep_firstActions k0)
    · extract_lets +onlyGivenNames -merge -underBinder x0
      have h1 : Rel s0 x0 := ite_keep (P := Rel s0) (keep_meetWalker k0) k0
      clear_value x0
      refine ite_keep (P := (PFst (Rel s0))) ?_ ?_
      · exact fst_keep (P := Rel s0) h1
      · extract_lets +onlyGivenNames -merge -underBinder x2
        have h3 : (PFst (Rel s0)) x2 := keep_firstChecks h1
        clear_value x2
        refine ite_keep (P := (PFst (Rel s0))) ?_ ?_
        · refine fst_keep (P := Rel s0) ?_
          refine keep_firstActions ?_
          show (PFst (Rel s0)) _
          exact h3
        · refine fst_keep (P := Rel s0) ?_
          show (PFst (Rel s0)) _
          exact h3

theorem keep_enterExec {s0 : State} {a0 a1 a2 a3 a4 a5 s} (k0 : Rel s0 s) :
    PFst (Rel s0) (enterExec a0 a1 a2 a3 a4 a5 s) := by
  unfold enterExec
  extract_lets +onlyGivenNames -merge -underBinder x0 x1 x2
  try clear_value x0 x1 x2
  refine ite_keep (P := (PFst (Rel s0))) ?_ ?_
  · exact fst_keep (P := Rel s0) (keep_stall k0)
  · refine ite_keep (P := (PFst (Rel s0))) ?_ ?_
    · exact fst_keep (P := Rel s0) (keep_stall k0)
    · extract_lets +onlyGivenNames -merge -underBinder x3
      have h4 : Rel s0 x3 := keep_adjRun (keep_stall k0)
      clear_value x3
      extract_lets +onlyGivenNames -merge -underBinder x5
      have h6 : Rel s0 x5 := ite_keep (P := Rel s0) (keep_rowStart h4) h4
      clear_value x5
      extract_lets +onlyGivenNames -merge -underBinder x7
      have h8 : Rel s0 x7 := keep_beginFill h6
      clear_value x7
      extract_lets +onlyGivenNames -merge -underBinder x9
      have h10 : Rel s0 x9 := ite_keep (P := Rel s0) h8 (keep_onGate (keep_takeGates h8))
      clear_value x9
      extract_lets +onlyGivenNames -merge -underBinder x11
      have h12 : (PFst (Rel s0)) x11 := ite_keep (P := (PFst (Rel s0))) (keep_firstCycle h10) (fst_keep (P := Rel s0) h10)
      clear_value x11
      refine ite_keep (P := (PFst (Rel s0))) ?_ ?_
      · refine fst_keep (P := Rel s0) ?_
        show (PFst (Rel s0)) _
        exact h12
      · refine ite_keep (P := (PFst (Rel s0))) ?_ ?_
        · exact fst_keep (P := Rel s0) k0
        · refine fst_keep (P := Rel s0) ?_
          show (PFst (Rel s0)) _
          exact h12

theorem keep_outputs {s0 : State} {a0 a1 a2 s} (k0 : Rel s0 s) :
    Rel s0 (outputs a0 a1 a2 s) := by
  unfold outputs
  extract_lets +onlyGivenNames -merge -underBinder x0 x1
  try clear_value x0 x1
  extract_lets +onlyGivenNames -merge -underBinder x2
  have h3 : Rel s0 x2 := ite_keep (P := Rel s0) (keep_recRun k0) k0
  clear_value x2
  extract_lets +onlyGivenNames -merge -underBinder x4
  have h5 : Rel s0 x4 := ite_keep (P := Rel s0) h3 (keep_drainAll h3)
  clear_value x4
  exact keep_vpuRun h5

theorem keep_closeExec {s0 : State} {a0 a1 a2 a3 s} (k0 : Rel s0 s) :
    Rel s0 (closeExec a0 a1 a2 a3 s) := by
  unfold closeExec
  extract_lets +onlyGivenNames -merge -underBinder x0
  try clear_value x0
  extract_lets +onlyGivenNames -merge -underBinder x1
  have h2 : Rel s0 x1 := ite_keep (P := Rel s0) (keep_endFill k0) k0
  clear_value x1
  extract_lets +onlyGivenNames -merge -underBinder x3 x4
  try clear_value x3 x4
  extract_lets +onlyGivenNames -merge -underBinder x5
  have h6 : Rel s0 x5 := ite_keep (P := Rel s0) h2 (keep_signalWord (keep_outputs h2))
  clear_value x5
  extract_lets +onlyGivenNames -merge -underBinder x7
  have h8 : Rel s0 x7 := keep_adjDie h6
  clear_value x7
  exact keep_adjRun h8

theorem keep_finishExec {s0 : State} {a0 a1 a2 a3 a4 a5 a6 s} (k0 : Rel s0 s) :
    PFst (Rel s0) (finishExec a0 a1 a2 a3 a4 a5 a6 s) := by
  unfold finishExec
  extract_lets +onlyGivenNames -merge -underBinder x0
  try clear_value x0
  extract_lets +onlyGivenNames -merge -underBinder x1
  have h2 : (PRun (Rel s0)) x1 := keep_foldAll k0
  clear_value x1
  refine ite_keep (P := (PFst (Rel s0))) ?_ ?_
  · exact fst_keep (P := Rel s0) (keep_adjRun (keep_stall k0))
  · refine ite_keep (P := (PFst (Rel s0))) ?_ ?_
    · exact fst_keep (P := Rel s0) (keep_attFail k0)
    · extract_lets +onlyGivenNames -merge -underBinder x3
      try clear_value x3
      split
      · exact fst_keep (P := Rel s0) (keep_t0Fault k0)
      · extract_lets +onlyGivenNames -merge -underBinder x4 x5 x6
        try clear_value x4 x5 x6
        extract_lets +onlyGivenNames -merge -underBinder x7
        have h8 : Rel s0 x7 := by
          unfold x7
          refine keep_closeExec ?_
          show PRun (Rel s0) _
          exact h2
        clear_value x7
        refine ite_keep (P := (PFst (Rel s0))) ?_ ?_
        · exact fst_keep (P := Rel s0) (keep_stall k0)
        · refine ite_keep (P := (PFst (Rel s0))) ?_ ?_
          · exact fst_keep (P := Rel s0) h8
          · refine ite_keep (P := (PFst (Rel s0))) ?_ ?_
            · extract_lets +onlyGivenNames -merge -underBinder x9
              have h10 : (PFst (Rel s0)) x9 := keep_rowEnd h8
              clear_value x9
              refine fst_keep (P := Rel s0) ?_
              show (PFst (Rel s0)) _
              exact h10
            · exact fst_keep (P := Rel s0) h8

theorem keep_execOnce {s0 : State} {a0 a1 a2 a3 a4 a5 s} (k0 : Rel s0 s) :
    PFst (Rel s0) (execOnce a0 a1 a2 a3 a4 a5 s) := by
  unfold execOnce
  split
  · exact fst_keep (P := Rel s0) k0
  · extract_lets +onlyGivenNames -merge -underBinder x0
    have h1 : (PFst (Rel s0)) x0 := ite_keep (P := (PFst (Rel s0))) (fst_keep (P := Rel s0) k0) (keep_enterExec k0)
    clear_value x0
    split
    · rename_i y2
      have h4 : Rel s0 y2 := of_fvar h1
      split
      · exact keep_finishExec h4
      · exact fst_keep (P := Rel s0) h4
    · rename_i y5
      have h7 : Rel s0 y5 := of_fvar h1
      exact fst_keep (P := Rel s0) h7
    · rename_i y8
      have h10 : Rel s0 y8 := of_fvar h1
      exact fst_keep (P := Rel s0) h10

theorem keep_execAll {s0 : State} {st d word dummy j w n s} (k0 : Rel s0 s) : PFst (Rel s0) (execAll st d word dummy j w n s) := by
  induction n generalizing s with
  | zero => exact k0
  | succ n ih =>
    unfold execAll
    split
    · rename_i e
      exact ih (of_eq (P := PFst (Rel s0)) e (keep_execOnce k0))
    · rename_i e
      exact of_eq (P := PFst (Rel s0)) e (keep_execOnce k0)

theorem keep_takeVariant {s0 : State} {a0 a1 a2 a3 s} (k0 : Rel s0 s) :
    Rel s0 (takeVariant a0 a1 a2 a3 s) := by
  unfold takeVariant
  exact ite_keep (P := Rel s0) k0 (keep_report k0)

theorem keep_resolveSelect {s0 : State} {a0 a1 a2 a3 a4 s} (k0 : Rel s0 s) :
    Rel s0 (resolveSelect a0 a1 a2 a3 a4 s) := by
  unfold resolveSelect
  extract_lets +onlyGivenNames -merge -underBinder x0
  try clear_value x0
  refine ite_keep (P := Rel s0) ?_ ?_
  · exact keep_adjRun k0
  · extract_lets +onlyGivenNames -merge -underBinder x1
    try clear_value x1
    extract_lets +onlyGivenNames -merge -underBinder x2
    have h3 : Rel s0 x2 := ite_keep (P := Rel s0) (keep_takeVariant (keep_takeNoted k0)) k0
    clear_value x2
    extract_lets +onlyGivenNames -merge -underBinder x4 x5 x6 x7
    try clear_value x4 x5 x6 x7
    refine ite_keep (P := Rel s0) ?_ ?_
    · extract_lets +onlyGivenNames -merge -underBinder x8
      have h9 : Rel s0 x8 := keep_adjRun h3
      clear_value x8
      exact ite_keep (P := Rel s0) (keep_commitEpoch h9) h9
    · exact keep_adjRun (keep_squashEpoch h3)

theorem keep_endTrick {s0 : State} {a0 a1 a2 s} (k0 : Rel s0 s) :
    Rel s0 (endTrick a0 a1 a2 s) := by
  unfold endTrick
  extract_lets +onlyGivenNames -merge -underBinder x0
  have h1 : Rel s0 x0 := keep_squashAll k0
  clear_value x0
  extract_lets +onlyGivenNames -merge -underBinder x2
  have h3 : Rel s0 x2 := keep_adjDie h1
  clear_value x2
  exact keep_adjRun h3

theorem keep_dropWalker {s0 : State} {a0 a1 a2 s} (k0 : Rel s0 s) :
    Rel s0 (dropWalker a0 a1 a2 s) := by
  unfold dropWalker
  extract_lets +onlyGivenNames -merge -underBinder x0 x1
  try clear_value x0 x1
  extract_lets +onlyGivenNames -merge -underBinder x2
  have h3 : Rel s0 x2 := keep_countSkips k0
  clear_value x2
  extract_lets +onlyGivenNames -merge -underBinder x4
  have h5 : Rel s0 x4 := ite_keep (P := Rel s0) h3 (keep_adjFacts h3)
  clear_value x4
  exact keep_adjDie h5

theorem keep_endOnDie {s0 : State} {a0 a1 a2 s} (k0 : Rel s0 s) :
    Rel s0 (endOnDie a0 a1 a2 s) := by
  unfold endOnDie
  extract_lets +onlyGivenNames -merge -underBinder x0
  have h1 : Rel s0 x0 := keep_dropWalker k0
  clear_value x0
  refine ite_keep (P := Rel s0) ?_ ?_
  · exact keep_adjStream h1
  · extract_lets +onlyGivenNames -merge -underBinder x2
    try clear_value x2
    extract_lets +onlyGivenNames -merge -underBinder x3
    have h4 : Rel s0 x3 := by
      unfold x3
      refine keep_forEach ?_ ?_
      · intro a5 a6 h7
        exact keep_setToken h7
      · exact h1
    clear_value x3
    extract_lets +onlyGivenNames -merge -underBinder x8
    have h9 : Rel s0 x8 := keep_adjCtx h4
    clear_value x8
    extract_lets +onlyGivenNames -merge -underBinder x10
    have h11 : Rel s0 x10 := keep_nextLap h9
    clear_value x10
    exact keep_adjChunk h11

theorem keep_leaveStart {s0 : State} {a0 s} (k0 : Rel s0 s) :
    Rel s0 (leaveStart a0 s) := by
  unfold leaveStart
  exact keep_adjWalker k0

theorem keep_layerEnds {s0 : State} {a0 a1 a2 s} (k0 : Rel s0 s) :
    Rel s0 (layerEnds a0 a1 a2 s) := by
  unfold layerEnds
  exact keep_adjRun k0

theorem keep_finishWord {s0 : State} {a0 a1 a2 a3 a4 s} (k0 : Rel s0 s) :
    Rel s0 (finishWord a0 a1 a2 a3 a4 s) := by
  unfold finishWord
  extract_lets +onlyGivenNames -merge -underBinder x0
  try clear_value x0
  refine ite_keep (P := Rel s0) ?_ ?_
  · exact k0
  · extract_lets +onlyGivenNames -merge -underBinder x1
    have h2 : Rel s0 x1 := keep_resolveSelect k0
    clear_value x1
    extract_lets +onlyGivenNames -merge -underBinder x3
    have h4 : Rel s0 x3 := keep_leaveStart (keep_adjRun h2)
    clear_value x3
    extract_lets +onlyGivenNames -merge -underBinder x5
    have h6 : Rel s0 x5 := ite_keep (P := Rel s0) (keep_layerEnds h4) h4
    clear_value x5
    refine ite_keep (P := Rel s0) ?_ ?_
    · extract_lets +onlyGivenNames -merge -underBinder x7
      try clear_value x7
      extract_lets +onlyGivenNames -merge -underBinder x8
      have h9 : Rel s0 x8 := keep_endTrick h6
      clear_value x8
      exact ite_keep (P := Rel s0) h9 (keep_endOnDie h9)
    · refine ite_keep (P := Rel s0) ?_ ?_
      · extract_lets +onlyGivenNames -merge -underBinder x10
        have h11 : Rel s0 x10 := keep_endTrick h6
        clear_value x10
        exact ite_keep (P := Rel s0) (keep_endOnDie h11) h11
      · exact h6

theorem keep_endEarly {s0 : State} {a0 a1 s} (k0 : Rel s0 s) :
    Rel s0 (endEarly a0 a1 s) := by
  unfold endEarly
  exact keep_endOnDie (keep_endTrick k0)

theorem keep_meetBarrier {s0 : State} {a0 a1 a2 a3 a4 s} (k0 : Rel s0 s) :
    PFst (Rel s0) (meetBarrier a0 a1 a2 a3 a4 s) := by
  unfold meetBarrier
  extract_lets +onlyGivenNames -merge -underBinder x0
  try clear_value x0
  refine ite_keep (P := (PFst (Rel s0))) ?_ ?_
  · exact fst_keep (P := Rel s0) k0
  · refine ite_keep (P := (PFst (Rel s0))) ?_ ?_
    · exact fst_keep (P := Rel s0) (keep_adjRun k0)
    · exact fst_keep (P := Rel s0) (keep_stall (keep_adjRun k0))

theorem keep_showSeq {s0 : State} {a0 a1 a2 s} (k0 : Rel s0 s) :
    Rel s0 (showSeq a0 a1 a2 s) := by
  unfold showSeq
  extract_lets +onlyGivenNames -merge -underBinder x0
  try clear_value x0
  exact keep_setF (keep_setF k0)

theorem keep_ownError {s0 : State} {a0 a1 a2 a3 s} (k0 : Rel s0 s) :
    PFst (Rel s0) (ownError a0 a1 a2 a3 s) := by
  unfold ownError
  extract_lets +onlyGivenNames -merge -underBinder x0
  have h1 : Rel s0 x0 := keep_fabError k0
  clear_value x0
  extract_lets +onlyGivenNames -merge -underBinder x2
  try clear_value x2
  exact fst_keep (P := Rel s0) (ite_keep (P := Rel s0) (keep_dummyFail h1) h1)

theorem keep_runExecs {s0 : State} {a0 a1 a2 a3 a4 a5 s} (k0 : Rel s0 s) :
    Rel s0 (runExecs a0 a1 a2 a3 a4 a5 s) := by
  unfold runExecs
  extract_lets +onlyGivenNames -merge -underBinder x0
  try clear_value x0
  split
  · rename_i y1 q2
    have h3 : Rel s0 y1 := by
      exact of_eq (P := (PFst (Rel s0))) q2 (keep_execAll k0)
    exact keep_finishWord h3
  · rename_i y4 q5
    have h6 : Rel s0 y4 := by
      exact of_eq (P := (PFst (Rel s0))) q5 (keep_execAll k0)
    exact h6
  · rename_i y7 q8
    have h9 : Rel s0 y7 := by
      exact of_eq (P := (PFst (Rel s0))) q8 (keep_execAll k0)
    exact ite_keep (P := Rel s0) (keep_endEarly h9) h9

theorem keep_runWord {s0 : State} {a0 a1 a2 a3 s} (k0 : Rel s0 s) :
    Rel s0 (runWord a0 a1 a2 a3 s) := by
  unfold runWord
  split
  · refine ite_keep (P := Rel s0) ?_ ?_
    · exact keep_endEarly k0
    · extract_lets +onlyGivenNames -merge -underBinder x0
      try clear_value x0
      split
      · exact k0
      · extract_lets +onlyGivenNames -merge -underBinder x1
        have h2 : (PFst (Rel s0)) x1 := keep_fetchWord k0
        clear_value x1
        refine ite_keep (P := Rel s0) ?_ ?_
        · show (PFst (Rel s0)) _
          exact h2
        · extract_lets +onlyGivenNames -merge -underBinder x3
          have h4 : (PFst (Rel s0)) x3 := by
            unfold x3
            refine keep_meetBarrier ?_
            refine keep_runAhead ?_
            show (PFst (Rel s0)) _
            exact h2
          clear_value x3
          extract_lets +onlyGivenNames -merge -underBinder x5
          try clear_value x5
          refine ite_keep (P := Rel s0) ?_ ?_
          · show (PFst (Rel s0)) _
            exact h4
          · extract_lets +onlyGivenNames -merge -underBinder x6
            have h7 : (PFst (Rel s0)) x6 := by
              unfold x6
              refine keep_ownError ?_
              show (PFst (Rel s0)) _
              exact h4
            clear_value x6
            refine ite_keep (P := Rel s0) ?_ ?_
            · show (PFst (Rel s0)) _
              exact h7
            · refine keep_followLayers ?_
              refine keep_runExecs ?_
              show (PFst (Rel s0)) _
              exact h7
  · exact k0

theorem keep_seqStep {s0 : State} {a0 a1 s} (k0 : Rel s0 s) :
    Rel s0 (seqStep a0 a1 s) := by
  unfold seqStep
  split
  · exact keep_showSeq (keep_runWord k0)
  · exact k0

theorem keep_barrierPass {s0 : State} {a0 a1 s} (k0 : Rel s0 s) :
    Rel s0 (barrierPass a0 a1 s) := by
  unfold barrierPass
  split
  · split
    · refine ite_keep (P := Rel s0) ?_ ?_
      · refine keep_forEach ?_ ?_
        · intro a0 a1 h2
          exact keep_setB (keep_adjRun h2)
        · exact k0
      · exact k0
    · exact k0
  · exact k0

theorem keep_adjThread {s0 : State} {a0 a1 a2 s} (k0 : Rel s0 s) :
    Rel s0 (adjThread a0 a1 a2 s) := by
  unfold adjThread
  exact keep_adjDie k0

theorem keep_dropThread {s0 : State} {a0 a1 s} (k0 : Rel s0 s) :
    Rel s0 (dropThread a0 a1 s) := by
  unfold dropThread
  exact keep_adjDie k0

theorem keep_landBytes {s0 : State} {a0 a1 a2 a3 s} (k0 : Rel s0 s) :
    Rel s0 (landBytes a0 a1 a2 a3 s) := by
  unfold landBytes
  split
  · exact keep_adjEpoch k0
  · exact keep_store k0

theorem keep_landPlaneRow {s0 : State} {a0 a1 s} (k0 : Rel s0 s) :
    Rel s0 (landPlaneRow a0 a1 s) := by
  unfold landPlaneRow
  extract_lets +onlyGivenNames -merge -underBinder x0 x1
  try clear_value x0 x1
  extract_lets +onlyGivenNames -merge -underBinder x2
  have h3 : Rel s0 x2 := by
    unfold x2
    refine keep_forEach ?_ ?_
    · intro a4 a5 h6
      exact keep_landBytes h6
    · exact k0
  clear_value x2
  exact keep_adjThread h3

theorem keep_takeWait {s0 : State} {a0 a1 s} (k0 : Rel s0 s) :
    Rel s0 (takeWait a0 a1 s) := by
  unfold takeWait
  refine ite_keep (P := Rel s0) ?_ ?_
  · exact k0
  · extract_lets +onlyGivenNames -merge -underBinder x0
    have h1 : Rel s0 x0 := keep_takeToken k0
    clear_value x0
    extract_lets +onlyGivenNames -merge -underBinder x2
    have h3 : Rel s0 x2 := ite_keep (P := Rel s0) (keep_adjEpoch h1) h1
    clear_value x2
    exact keep_adjThread h3

theorem keep_landThread {s0 : State} {a0 a1 s} (k0 : Rel s0 s) :
    Rel s0 (landThread a0 a1 s) := by
  unfold landThread
  refine ite_keep (P := Rel s0) ?_ ?_
  · refine foldl_keep (P := Rel s0) ?_ ?_
    · exact k0
    · intro a0 h1 a2
      split
      · exact keep_landPlaneRow h1
      · exact h1
  · extract_lets +onlyGivenNames -merge -underBinder x3
    try clear_value x3
    refine keep_forEach ?_ ?_
    · intro a4 a5 h6
      split
      · refine keep_forEach ?_ ?_
        · intro a7 a8 h9
          exact keep_landBytes h9
        · exact h6
    · exact k0

theorem keep_threadToken {s0 : State} {a0 a1 s} (k0 : Rel s0 s) :
    Rel s0 (threadToken a0 a1 s) := by
  unfold threadToken
  refine ite_keep (P := Rel s0) ?_ ?_
  · exact k0
  · split
    · exact keep_adjEpoch k0
    · exact keep_tokenAdd k0

theorem keep_endThread {s0 : State} {a0 a1 s} (k0 : Rel s0 s) :
    Rel s0 (endThread a0 a1 s) := by
  unfold endThread
  exact ite_keep (P := Rel s0) (keep_adjThread k0) (keep_dropThread k0)

theorem keep_fetchDone {s0 : State} {a0 a1 a2 s} (k0 : Rel s0 s) :
    Rel s0 (fetchDone a0 a1 a2 s) := by
  unfold fetchDone
  split
  · exact k0
  · refine ite_keep (P := Rel s0) ?_ ?_
    · exact k0
    · refine ite_keep (P := Rel s0) ?_ ?_
      · exact ite_keep (P := Rel s0) (keep_dropThread (keep_landThread k0)) (keep_dropThread k0)
      · extract_lets +onlyGivenNames -merge -underBinder x0
        have h1 : Rel s0 x0 := keep_touchRanges (keep_senseRanges k0)
        clear_value x0
        split
        · split
          · exact keep_endThread (keep_adjEpoch h1)
          · exact keep_readFault (keep_dropThread h1)
        · extract_lets +onlyGivenNames -merge -underBinder x2
          have h3 : Rel s0 x2 := keep_landThread (keep_takeWait h1)
          clear_value x2
          exact ite_keep (P := Rel s0) k0 (keep_endThread (keep_threadToken h3))

theorem keep_rowLanded {s0 : State} {a0 a1 s} (k0 : Rel s0 s) :
    Rel s0 (rowLanded a0 a1 s) := by
  unfold rowLanded
  split
  · exact k0
  · refine ite_keep (P := Rel s0) ?_ ?_
    · exact k0
    · extract_lets +onlyGivenNames -merge -underBinder x0
      have h1 : Rel s0 x0 := keep_takeWait k0
      clear_value x0
      split
      · extract_lets +onlyGivenNames -merge -underBinder x2
        have h3 : Rel s0 x2 := keep_landPlaneRow h1
        clear_value x2
        exact ite_keep (P := Rel s0) k0 h3
      · exact h1

theorem keep_cheapChoice {s0 : State} {a0 s} (k0 : Rel s0 s) :
    Rel s0 (cheapChoice a0 s) := by
  unfold cheapChoice
  split
  · split
    · extract_lets +onlyGivenNames -merge -underBinder x0
      try clear_value x0
      split
      · exact k0
      · extract_lets +onlyGivenNames -merge -underBinder x1
        try clear_value x1
        split
        · exact k0
        · refine ite_keep (P := Rel s0) ?_ ?_
          · exact k0
          · extract_lets +onlyGivenNames -merge -underBinder x2
            have h3 : Rel s0 x2 := keep_openEpoch k0
            clear_value x2
            exact keep_adjDie (keep_adjCtx h3)
    · exact k0
  · exact k0

theorem keep_landOnDie {s0 : State} {a0 s} (k0 : Rel s0 s) :
    Rel s0 (landOnDie a0 s) := by
  unfold landOnDie
  extract_lets +onlyGivenNames -merge -underBinder x0
  have h1 : Rel s0 x0 := by
    unfold x0
    refine keep_forEach ?_ ?_
    · intro a2 a3 h4
      split
      · exact keep_store h4
    · exact k0
  clear_value x0
  exact ite_keep (P := Rel s0) h1 (keep_tokenAdd h1)

/-! ### MemTiers -/

theorem keep_takePool {s0 : State} {a0 s} (k0 : Rel s0 s) :
    POpt (PSnd (Rel s0)) (takePool a0 s) := by
  unfold takePool
  refine map_any (Q := (PSnd (Rel s0))) ?_
  intro a0
  exact snd_keep (P := Rel s0) (keep_setTiers k0)

theorem keep_releasePlace {s0 : State} {a0 a1 s} (k0 : Rel s0 s) :
    Rel s0 (releasePlace a0 a1 s) := by
  unfold releasePlace
  split
  · exact k0
  · exact keep_leaveFrame k0
  · exact ite_keep (P := Rel s0) k0 (keep_setTiers k0)

theorem keep_movePages {s0 : State} {a0 a1 s} (k0 : Rel s0 s) :
    Rel s0 (movePages a0 a1 s) := by
  unfold movePages
  extract_lets +onlyGivenNames -merge -underBinder x0
  try clear_value x0
  extract_lets +onlyGivenNames -merge -underBinder x1
  have h2 : Rel s0 x1 := keep_store k0
  clear_value x1
  refine keep_forEach ?_ ?_
  · intro a3 a4 h5
    exact keep_poisonAt h5
  · exact h2

theorem keep_startMove {s0 : State} {a0 a1 a2 s} (k0 : Rel s0 s) :
    Rel s0 (startMove a0 a1 a2 s) := by
  unfold startMove
  extract_lets +onlyGivenNames -merge -underBinder x0
  try clear_value x0
  exact keep_setTiers k0

theorem keep_requestDone {s0 : State} {a0 s} (k0 : Rel s0 s) :
    Rel s0 (requestDone a0 s) := by
  unfold requestDone
  extract_lets +onlyGivenNames -merge -underBinder x0 x1
  try clear_value x0
  have h2 : Rel s0 x1 := keep_setTiers k0
  clear_value x1
  exact ite_keep (P := Rel s0) h2 (keep_tokenAdd h2)

theorem keep_pageInPlace {s0 : State} {a0 s} (k0 : Rel s0 s) :
    Rel s0 (pageInPlace a0 s) := by
  unfold pageInPlace
  extract_lets +onlyGivenNames -merge -underBinder x0 x1
  try clear_value x0
  have h2 : Rel s0 x1 := keep_setTiers k0
  clear_value x1
  split
  · exact ite_keep (P := Rel s0) (keep_requestDone h2) h2
  · exact h2

theorem keep_movePage {s0 : State} {a0 a1 a2 a3 a4 a5 s} (k0 : Rel s0 s) :
    Rel s0 (movePage a0 a1 a2 a3 a4 a5 s) := by
  unfold movePage
  refine ite_keep (P := Rel s0) ?_ ?_
  · exact keep_pageInPlace k0
  · split
    · exact keep_startMove k0
    · split
      · rename_i y0 y1 q2
        have h3 : Rel s0 y1 := by
          exact of_eq_somePair (P := (PSnd (Rel s0))) q2 (keep_takeFrame k0)
        exact keep_startMove h3
      · exact k0
    · split
      · rename_i y4 y5 q6
        have h7 : Rel s0 y5 := by
          exact of_eq_somePair (P := (PSnd (Rel s0))) q6 (keep_takePool k0)
        exact keep_startMove h7
      · exact k0

theorem keep_refuseMove {s0 : State} {a0 a1 a2 a3 a4 s} (k0 : Rel s0 s) :
    Rel s0 (refuseMove a0 a1 a2 a3 a4 s) := by
  unfold refuseMove
  extract_lets +onlyGivenNames -merge -underBinder x0
  have h1 : Rel s0 x0 := keep_memEvent k0
  clear_value x0
  exact ite_keep (P := Rel s0) h1 (keep_tokenAdd h1)

theorem keep_serveOne {s0 : State} {a0 s} (k0 : Rel s0 s) :
    POpt (Rel s0) (serveOne a0 s) := by
  unfold serveOne
  split
  · exact none_keep
  · split
    · refine ite_keep (P := (POpt (Rel s0))) ?_ ?_
      · exact none_keep
      · extract_lets +onlyGivenNames -merge -underBinder x0 x1
        try clear_value x0
        have h2 : Rel s0 x1 := keep_setTiers k0
        clear_value x1
        split
        · exact some_keep (P := Rel s0) h2
        · split
          · exact some_keep (P := Rel s0) h2
          · refine ite_keep (P := (POpt (Rel s0))) ?_ ?_
            · exact some_keep (P := Rel s0) (keep_refuseMove h2)
            · extract_lets +onlyGivenNames -merge -underBinder x3 x4 x5 x6
              try clear_value x3 x4 x5
              have h7 : Rel s0 x6 := keep_setTiers h2
              clear_value x6
              refine some_keep (P := Rel s0) ?_
              refine keep_forEach ?_ ?_
              · intro a8 a9 h10
                split
                · exact keep_movePage h10
              · exact h7

theorem keep_serveRequests {s0 : State} {d n s} (k0 : Rel s0 s) : Rel s0 (serveRequests d n s) := by
  induction n generalizing s with
  | zero => exact k0
  | succ n ih =>
    unfold serveRequests
    split
    · rename_i e
      exact ih (of_eq_some e (keep_serveOne k0))
    · exact k0

theorem keep_landRequest {s0 : State} {a0 a1 a2 a3 s} (k0 : Rel s0 s) :
    Rel s0 (landRequest a0 a1 a2 a3 s) := by
  unfold landRequest
  extract_lets +onlyGivenNames -merge -underBinder x0 x1
  try clear_value x0
  have h2 : Rel s0 x1 := keep_setTiers k0
  clear_value x1
  exact keep_serveRequests h2

theorem keep_moveDone {s0 : State} {a0 a1 s} (k0 : Rel s0 s) :
    Rel s0 (moveDone a0 a1 s) := by
  unfold moveDone
  split
  · exact k0
  · split
    · exact keep_setTiers k0
    · refine ite_keep (P := Rel s0) ?_ ?_
      · exact k0
      · extract_lets +onlyGivenNames -merge -underBinder x0
        have h1 : Rel s0 x0 := keep_senseObj k0
        clear_value x0
        extract_lets +onlyGivenNames -merge -underBinder x2
        have h3 : Rel s0 x2 := keep_movePages h1
        clear_value x2
        extract_lets +onlyGivenNames -merge -underBinder x4 x5
        try clear_value x4
        have h6 : Rel s0 x5 := keep_setTiers h3
        clear_value x5
        extract_lets +onlyGivenNames -merge -underBinder x7
        have h8 : Rel s0 x7 := keep_releasePlace h6
        clear_value x7
        extract_lets +onlyGivenNames -merge -underBinder x9
        have h10 : Rel s0 x9 := by
          unfold x9
          refine keep_forEach ?_ ?_
          · intro a11 a12 h13
            split
            · exact keep_writeObj h13
          · exact h8
        clear_value x9
        extract_lets +onlyGivenNames -merge -underBinder x14
        have h15 : Rel s0 x14 := by
          unfold x14
          split
          · exact keep_pageInPlace h10
          · exact h10
        clear_value x14
        refine keep_drainDecided ?_
        refine foldl_keep (P := Rel s0) ?_ ?_
        · exact h15
        · intro a16 h17 a18
          exact keep_serveRequests h17

theorem keep_spill {s0 : State} {d n s} (k0 : Rel s0 s) : Rel s0 (spill d n s) := by
  induction n generalizing s with
  | zero => exact k0
  | succ n ih =>
    unfold spill
    split
    · exact k0
    · split
      · rename_i e
        exact ih (keep_startMove (of_eq_somePair (P := PSnd (Rel s0)) e (keep_takePool k0)))
      · exact k0

theorem keep_pageTo {s0 : State} {a0 a1 a2 s} (k0 : Rel s0 s) :
    Rel s0 (pageTo a0 a1 a2 s) := by
  unfold pageTo
  extract_lets +onlyGivenNames -merge -underBinder x0
  have h1 : Rel s0 x0 := keep_movePages k0
  clear_value x0
  exact keep_releasePlace (keep_setTiers h1)

theorem keep_freeByMove {s0 : State} {a0 a1 s} (k0 : Rel s0 s) :
    POpt (PSnd (Rel s0)) (freeByMove a0 a1 s) := by
  unfold freeByMove
  split
  · exact none_keep
  · split
    · exact none_keep
    · refine ite_keep (P := (POpt (PSnd (Rel s0)))) ?_ ?_
      · exact none_keep
      · refine bind_keep (P := (PSnd (Rel s0))) (Q := (PSnd (Rel s0))) ?_ ?_
        · exact keep_takePool k0
        · intro a0 h1
          split
          · rename_i y2 y3
            have h5 : Rel s0 y3 := of_fvar h1
            exact keep_takeFrame (keep_pageTo h5)

theorem keep_placeT1Room {s0 : State} {home job s} (k0 : Rel s0 s) : POpt (PSnd (Rel s0)) (placeT1Room home job s) := by
  unfold placeT1Room
  refine orElse_keep (P := PSnd (Rel s0)) (keep_placeT1 k0) fun _ x e => ?_
  obtain ⟨d, -, e⟩ := List.exists_of_findSome?_eq_some e
  exact map_keep (P := PSnd (Rel s0)) (Q := PSnd (Rel s0)) (keep_freeByMove k0) (fun _ h => snd_keep (P := Rel s0) h) x e

theorem keep_takeFrameRoom {s0 : State} {a0 a1 s} (k0 : Rel s0 s) :
    POpt (PSnd (Rel s0)) (takeFrameRoom a0 a1 s) := by
  unfold takeFrameRoom
  refine orElse_keep (P := (PSnd (Rel s0))) ?_ ?_
  · exact keep_takeFrame k0
  · intro a0
    exact keep_freeByMove k0

theorem keep_bringBack {s0 : State} {a0 s} (k0 : Rel s0 s) :
    Rel s0 (bringBack a0 s) := by
  unfold bringBack
  split
  · exact keep_setTiers k0
  · refine ite_keep (P := Rel s0) ?_ ?_
    · exact k0
    · split
      · rename_i y0 y1 q2
        have h3 : Rel s0 y1 := by
          exact of_eq_somePair (P := (PSnd (Rel s0))) q2 (keep_takeFrame k0)
        exact keep_startMove h3
      · exact k0

theorem keep_sweep {s0 : State} {s} (k0 : Rel s0 s) :
    Rel s0 (sweep s) := by
  unfold sweep
  extract_lets +onlyGivenNames -merge -underBinder x0 x1
  try clear_value x0
  have h2 : Rel s0 x1 := keep_setTiers k0
  clear_value x1
  extract_lets +onlyGivenNames -merge -underBinder x3
  have h4 : Rel s0 x3 := by
    unfold x3
    refine keep_forEach ?_ ?_
    · intro a5 a6 h7
      exact keep_bringBack h7
    · exact h2
  clear_value x3
  refine keep_forEach ?_ ?_
  · intro a8 a9 h10
    extract_lets +onlyGivenNames -merge -underBinder x11
    try clear_value x11
    exact ite_keep (P := Rel s0) h10 (keep_spill h10)
  · exact h4

theorem keep_segmentLanded {s0 : State} {a0 s} (k0 : Rel s0 s) :
    Rel s0 (segmentLanded a0 s) := by
  unfold segmentLanded
  split
  · exact k0
  · split
    · extract_lets +onlyGivenNames -merge -underBinder x0
      try clear_value x0
      extract_lets +onlyGivenNames -merge -underBinder x1
      have h2 : Rel s0 x1 := by
        unfold x1
        refine keep_forEach ?_ ?_
        · intro a3 a4 h5
          split
          · extract_lets +onlyGivenNames -merge -underBinder x6
            try clear_value x6
            split
            · extract_lets +onlyGivenNames -merge -underBinder x7
              have h8 : Rel s0 x7 := keep_movePages h5
              clear_value x7
              exact keep_setTiers h8
            · exact h5
        · exact k0
      clear_value x1
      extract_lets +onlyGivenNames -merge -underBinder x9
      have h10 : Rel s0 x9 := keep_adjWindow h2
      clear_value x9
      extract_lets +onlyGivenNames -merge -underBinder x11
      have h12 : Rel s0 x11 := keep_tokenAdd h10
      clear_value x11
      exact keep_startCopies (keep_watchWindows h12)
    · exact k0

theorem keep_signalVariant {s0 : State} {a0 s} (k0 : Rel s0 s) :
    Rel s0 (signalVariant a0 s) := by
  unfold signalVariant
  refine ite_keep (P := Rel s0) ?_ ?_
  · exact k0
  · extract_lets +onlyGivenNames -merge -underBinder x0
    have h1 : Rel s0 x0 := keep_adjWindow k0
    clear_value x0
    refine keep_forEach ?_ ?_
    · intro a2 a3 h4
      exact keep_tokenAdd h4
    · exact h1

theorem keep_segmentFailed {s0 : State} {a0 a1 s} (k0 : Rel s0 s) :
    Rel s0 (segmentFailed a0 a1 s) := by
  unfold segmentFailed
  extract_lets +onlyGivenNames -merge -underBinder x0
  try clear_value x0
  extract_lets +onlyGivenNames -merge -underBinder x1
  have h2 : Rel s0 x1 := keep_hostError k0
  clear_value x1
  extract_lets +onlyGivenNames -merge -underBinder x3
  have h4 : Rel s0 x3 := keep_memEvent h2
  clear_value x3
  refine ite_keep (P := Rel s0) ?_ ?_
  · extract_lets +onlyGivenNames -merge -underBinder x5
    have h6 : Rel s0 x5 := keep_adjWindow h4
    clear_value x5
    exact ite_keep (P := Rel s0) h6 (keep_signalVariant h6)
  · extract_lets +onlyGivenNames -merge -underBinder x7
    have h8 : Rel s0 x7 := keep_adjWindow h4
    clear_value x7
    refine ite_keep (P := Rel s0) ?_ ?_
    · exact keep_endAtBoundary h8
    · extract_lets +onlyGivenNames -merge -underBinder x9
      have h10 : Rel s0 x9 := by
        unfold x9
        refine keep_forEach ?_ ?_
        · intro a11 a12 h13
          exact keep_unplaceSeg h13
        · exact h8
      clear_value x9
      exact keep_retireWindow (keep_adjWindow h10)

theorem keep_segmentReadFailed {s0 : State} {a0 s} (k0 : Rel s0 s) :
    Rel s0 (segmentReadFailed a0 s) := by
  unfold segmentReadFailed
  split
  · exact k0
  · split
    · exact k0
    · exact ite_keep (P := Rel s0) (keep_adjWindow k0) (keep_startCopies (keep_segmentFailed k0))

theorem keep_threadFailed {s0 : State} {a0 a1 s} (k0 : Rel s0 s) :
    Rel s0 (threadFailed a0 a1 s) := by
  unfold threadFailed
  extract_lets +onlyGivenNames -merge -underBinder x0
  try clear_value x0
  extract_lets +onlyGivenNames -merge -underBinder x1
  have h2 : Rel s0 x1 := keep_hostError (keep_dropThread k0)
  clear_value x1
  refine ite_keep (P := Rel s0) ?_ ?_
  · exact h2
  · refine ite_keep (P := Rel s0) ?_ ?_
    · exact keep_dummyFail h2
    · split
      · exact ite_keep (P := Rel s0) h2 (keep_signalVariant h2)
      · exact keep_endAtBoundary h2

theorem keep_failT2Reads {s0 : State} {s} (k0 : Rel s0 s) :
    Rel s0 (failT2Reads s) := by
  unfold failT2Reads
  extract_lets +onlyGivenNames -merge -underBinder x0
  have h1 : Rel s0 x0 := by
    unfold x0
    refine keep_forEach ?_ ?_
    · intro a2 a3 h4
      split
      · exact keep_segmentFailed h4
      · exact h4
    · exact k0
  clear_value x0
  refine keep_forEach ?_ ?_
  · intro a5 a6 h7
    refine keep_forEach ?_ ?_
    · intro a8 a9 h10
      exact keep_threadFailed h10
    · exact h7
  · exact h1

theorem keep_scrub {s0 : State} {a0 a1 a2 s} (k0 : Rel s0 s) :
    Rel s0 (scrub a0 a1 a2 s) := by
  unfold scrub
  split
  · exact k0
  · exact keep_reportCe k0
  · exact keep_reportUe k0

theorem keep_execMigrationSweep {s0 : State} {s} (k0 : Rel s0 s) :
    PNext (Rel s0) (execMigrationSweep s) := by
  unfold execMigrationSweep
  refine next_keep ?_
  refine keep_onlyIf ?_ ?_
  · intro a0 h1
    exact keep_sweep h1
  · exact k0

theorem keep_execPatrolScrub {s0 : State} {a0 a1 a2 s} (k0 : Rel s0 s) :
    PNext (Rel s0) (execPatrolScrub a0 a1 a2 s) := by
  unfold execPatrolScrub
  refine next_keep ?_
  refine keep_onlyIf ?_ ?_
  · intro a0 h1
    exact keep_scrub h1
  · exact k0

theorem keep_execRecalibration {s0 : State} {a0 s} (k0 : Rel s0 s) :
    PNext (Rel s0) (execRecalibration a0 s) := by
  unfold execRecalibration
  exact next_keep k0

/-! ### Attach -/

theorem keep_pwrEvent {s0 : State} {a0 a1 s} (k0 : Rel s0 s) :
    Rel s0 (pwrEvent a0 a1 s) := by
  unfold pwrEvent
  exact keep_postEvent k0

theorem keep_limEvent {s0 : State} {a0 a1 s} (k0 : Rel s0 s) :
    Rel s0 (limEvent a0 a1 s) := by
  unfold limEvent
  exact keep_postEvent k0

theorem keep_setPower {s0 : State} {a0 s} (k0 : Rel s0 s) :
    Rel s0 (setPower a0 s) := by
  unfold setPower
  exact rel_upd k0

theorem keep_setLim {s0 : State} {a0 s} (k0 : Rel s0 s) :
    Rel s0 (setLim a0 s) := by
  unfold setLim
  exact rel_upd k0

theorem keep_setDieLim {s0 : State} {a0 a1 s} (k0 : Rel s0 s) :
    Rel s0 (setDieLim a0 a1 s) := by
  unfold setDieLim
  exact keep_setLim k0

theorem keep_adjDieLim {s0 : State} {a0 a1 s} (k0 : Rel s0 s) :
    Rel s0 (adjDieLim a0 a1 s) := by
  unfold adjDieLim
  exact keep_setDieLim k0

theorem keep_setSlots {s0 : State} {a0 a1 s} (k0 : Rel s0 s) :
    Rel s0 (setSlots a0 a1 s) := by
  unfold setSlots
  exact keep_setF k0

theorem keep_accrue {s0 : State} {a0 s} (k0 : Rel s0 s) :
    Rel s0 (accrue a0 s) := by
  unfold accrue
  extract_lets +onlyGivenNames -merge -underBinder x0
  have h1 : Rel s0 x0 := by
    unfold x0
    split
    · extract_lets +onlyGivenNames -merge -underBinder x2
      try clear_value x2
      exact keep_setLim k0
    · exact k0
  clear_value x0
  exact keep_adjDieLim h1

theorem keep_restDie {s0 : State} {a0 s} (k0 : Rel s0 s) :
    Rel s0 (restDie a0 s) := by
  unfold restDie
  exact keep_setSlots (keep_adjDieLim (keep_accrue k0))

theorem keep_accountIdle {s0 : State} {a0 s} (k0 : Rel s0 s) :
    Rel s0 (accountIdle a0 s) := by
  unfold accountIdle
  extract_lets +onlyGivenNames -merge -underBinder x0
  try clear_value x0
  split
  · exact keep_setDieLim k0
  · exact keep_setDieLim k0
  · exact k0

theorem keep_accountGangs {s0 : State} {s} (k0 : Rel s0 s) :
    Rel s0 (accountGangs s) := by
  unfold accountGangs
  extract_lets +onlyGivenNames -merge -underBinder x0 x1 x2 x3
  try clear_value x0 x1 x2 x3
  exact keep_setLim k0

theorem keep_account {s0 : State} {s} (k0 : Rel s0 s) :
    Rel s0 (account s) := by
  unfold account
  refine keep_accountGangs ?_
  refine keep_forEach ?_ ?_
  · intro a0 a1 h2
    exact keep_accountIdle h2
  · exact k0

theorem keep_resetEvent {s0 : State} {a0 a1 s} (k0 : Rel s0 s) :
    Rel s0 (resetEvent a0 a1 s) := by
  unfold resetEvent
  extract_lets +onlyGivenNames -merge -underBinder x0
  try clear_value x0
  extract_lets +onlyGivenNames -merge -underBinder x1
  have h2 : Rel s0 x1 := keep_logEvent k0
  clear_value x1
  refine ite_keep (P := Rel s0) ?_ ?_
  · split
    · rename_i y3 y4 q5
      have h6 : Rel s0 y3 := by
        exact of_eq (P := (PFst (Rel s0))) q5 (keep_eventOnCq0 h2)
      exact ite_keep (P := Rel s0) (keep_setCqLost h6) h6
  · exact rel_upd h2

theorem keep_dropHost {s0 : State} {s} (k0 : Rel s0 s) :
    Rel s0 (dropHost s) := by
  unfold dropHost
  extract_lets +onlyGivenNames -merge -underBinder x0 x1 x2 x3 x4
  try clear_value x0 x1 x2 x3
  have h5 : Rel s0 x4 := rel_upd k0
  clear_value x4
  refine keep_drainDecided ?_
  refine keep_forEach ?_ ?_
  · intro a6 a7 h8
    exact keep_loseCpl h8
  · exact keep_resetRegs h5

theorem keep_linkReset {s0 : State} {s} (k0 : Rel s0 s) :
    Rel s0 (linkReset s) := by
  unfold linkReset
  exact keep_resetEvent (keep_startCopies (keep_failT2Reads (keep_dropHost k0)))

theorem keep_assertPerst {s0 : State} {a0 s} (k0 : Rel s0 s) :
    Rel s0 (assertPerst a0 s) := by
  unfold assertPerst
  split
  · exact keep_setPower k0
  · exact k0

/-! ### Hold -/

theorem keep_adjItem {s0 : State} {a0 a1 a2 s} (k0 : Rel s0 s) :
    Rel s0 (adjItem a0 a1 a2 s) := by
  unfold adjItem
  exact keep_adjStream k0

theorem keep_dropItem {s0 : State} {a0 a1 s} (k0 : Rel s0 s) :
    Rel s0 (dropItem a0 a1 s) := by
  unfold dropItem
  exact keep_adjStream k0

theorem keep_cleLine {s0 : State} {a0 a1 a2 a3 s} (k0 : Rel s0 s) :
    Rel s0 (cleLine a0 a1 a2 a3 s) := by
  unfold cleLine
  refine ite_keep (P := Rel s0) ?_ ?_
  · exact k0
  · refine ite_keep (P := Rel s0) ?_ ?_
    · exact ite_keep (P := Rel s0) (keep_queueCommit k0) (keep_discardSetpoint k0)
    · refine ite_keep (P := Rel s0) ?_ ?_
      · refine keep_forEach ?_ ?_
        · intro a0 a1 h2
          exact ite_keep (P := Rel s0) (keep_policyEntry h2) (keep_discardSetpoint h2)
        · exact k0
      · exact keep_discardSetpoint k0

theorem keep_reportLost {s0 : State} {a0 a1 a2 s} (k0 : Rel s0 s) :
    Rel s0 (reportLost a0 a1 a2 s) := by
  unfold reportLost
  exact ite_keep (P := Rel s0) (keep_memEvent k0) k0

theorem keep_landHubLine {s0 : State} {a0 a1 a2 a3 s} (k0 : Rel s0 s) :
    Rel s0 (landHubLine a0 a1 a2 a3 s) := by
  unfold landHubLine
  refine ite_keep (P := Rel s0) ?_ ?_
  · exact keep_fusSend k0
  · refine ite_keep (P := Rel s0) ?_ ?_
    · exact keep_planSend k0
    · exact ite_keep (P := Rel s0) (keep_cleLine k0) (ite_keep (P := Rel s0) (keep_landRequest k0) k0)

theorem keep_discardHeld {s0 : State} {a0 a1 a2 a3 s} (k0 : Rel s0 s) :
    Rel s0 (discardHeld a0 a1 a2 a3 s) := by
  unfold discardHeld
  refine ite_keep (P := Rel s0) ?_ ?_
  · exact keep_postToken k0
  · refine ite_keep (P := Rel s0) ?_ ?_
    · refine keep_forEach ?_ ?_
      · intro a0 a1 h2
        exact keep_refreshChan h2
      · exact k0
    · exact k0

theorem keep_takeHubLine {s0 : State} {a0 a1 a2 a3 s} (k0 : Rel s0 s) :
    POpt (Rel s0) (takeHubLine a0 a1 a2 a3 s) := by
  unfold takeHubLine
  refine ite_keep (P := (POpt (Rel s0))) ?_ ?_
  · exact some_keep (P := Rel s0) (keep_landHubLine k0)
  · split
    · exact none_keep
    · refine ite_keep (P := (POpt (Rel s0))) ?_ ?_
      · exact some_keep (P := Rel s0) (ite_keep (P := Rel s0) (keep_discardHeld k0) (keep_landHubLine k0))
      · exact ite_keep (P := (POpt (Rel s0))) none_keep (some_keep (P := Rel s0) (keep_setSafe k0))

theorem keep_takeHubLines {s0 : State} {d st off bs s} (k0 : Rel s0 s) : PFst (Rel s0) (takeHubLines d st off bs s) := by
  induction bs generalizing off s with
  | nil => exact k0
  | cons b bs ih =>
    unfold takeHubLines
    split
    · exact k0
    · rename_i e
      exact ih (of_eq_some e (keep_takeHubLine k0))

theorem keep_releaseHeld {s0 : State} {a0 a1 s} (k0 : Rel s0 s) :
    Rel s0 (releaseHeld a0 a1 s) := by
  unfold releaseHeld
  extract_lets +onlyGivenNames -merge -underBinder x0 x1 x2
  try clear_value x0 x1
  have h3 : Rel s0 x2 := keep_setSafe k0
  clear_value x2
  refine keep_forEach ?_ ?_
  · intro a4 a5 h6
    exact ite_keep (P := Rel s0) (keep_discardHeld h6) (keep_landHubLine h6)
  · exact h3

theorem keep_arrive {s0 : State} {a0 s} (k0 : Rel s0 s) :
    Rel s0 (arrive a0 s) := by
  unfold arrive
  split
  · exact k0
  · extract_lets +onlyGivenNames -merge -underBinder x0
    have h1 : ∀ a2, Rel s0 a2 → Rel s0 (x0 a2) := by
      unfold x0
      intro a2 h3
      exact rel_upd h3
    clear_value x0
    refine ite_keep (P := Rel s0) ?_ ?_
    · exact k0
    · refine ite_keep (P := Rel s0) ?_ ?_
      · refine keep_landOnDie ?_
        refine h1 _ ?_
        · exact k0
      · refine ite_keep (P := Rel s0) ?_ ?_
        · refine h1 _ ?_
          · exact k0
        · split
          · rename_i y4 y5 q6
            have h7 : Rel s0 y4 := by
              exact of_eq (P := (PFst (Rel s0))) q6 (keep_takeHubLines k0)
            extract_lets +onlyGivenNames -merge -underBinder x8
            have h9 : Rel s0 x8 := keep_reportLost h7
            clear_value x8
            refine ite_keep (P := Rel s0) ?_ ?_
            · refine h1 _ ?_
              · exact h9
            · exact rel_upd h9

theorem keep_refusePolicy {s0 : State} {a0 a1 a2 a3 a4 s} (k0 : Rel s0 s) :
    Rel s0 (refusePolicy a0 a1 a2 a3 a4 s) := by
  unfold refusePolicy
  extract_lets +onlyGivenNames -merge -underBinder x0
  have h1 : Rel s0 x0 := by
    unfold x0
    refine keep_forEach ?_ ?_
    · intro a2 a3 h4
      exact keep_refreshChan h4
    · exact k0
  clear_value x0
  extract_lets +onlyGivenNames -merge -underBinder x5
  have h6 : Rel s0 x5 := keep_cleEvent (keep_incF h1)
  clear_value x5
  extract_lets +onlyGivenNames -merge -underBinder x7
  try clear_value x7
  extract_lets +onlyGivenNames -merge -underBinder x8
  have h9 : Rel s0 x8 := keep_adjItem h6
  clear_value x8
  split
  · exact ite_keep (P := Rel s0) (keep_markRing (keep_countFault h9)) h9
  · exact h9

theorem keep_decideCommit {s0 : State} {a0 s} (k0 : Rel s0 s) :
    Rel s0 (decideCommit a0 s) := by
  unfold decideCommit
  extract_lets +onlyGivenNames -merge -underBinder x0
  have h1 : Rel s0 x0 := keep_dropCommit k0
  clear_value x0
  split
  · split
    · exact keep_refusePolicy h1
    · exact keep_exchangeHalves h1
  · extract_lets +onlyGivenNames -merge -underBinder x2
    have h3 : Rel s0 x2 := keep_exchangeHalves h1
    clear_value x2
    split
    · exact keep_completeOrWait h3
    · exact h3
  · exact keep_exchangeHalves h1
  · exact keep_exchangeHalves h1

theorem keep_setpointCommit {s0 : State} {a0 s} (k0 : Rel s0 s) :
    Rel s0 (setpointCommit a0 s) := by
  unfold setpointCommit
  split
  · exact ite_keep (P := Rel s0) (keep_decideCommit k0) k0
  · exact k0

theorem keep_openFrame {s0 : State} {a0 a1 a2 s} (k0 : Rel s0 s) :
    Rel s0 (openFrame a0 a1 a2 s) := by
  unfold openFrame
  split
  · exact keep_openStage k0
  · exact k0

theorem keep_endFrame {s0 : State} {a0 a1 s} (k0 : Rel s0 s) :
    Rel s0 (endFrame a0 a1 s) := by
  unfold endFrame
  extract_lets +onlyGivenNames -merge -underBinder x0
  have h1 : Rel s0 x0 := keep_adjStream (keep_adjItem k0)
  clear_value x0
  extract_lets +onlyGivenNames -merge -underBinder x2
  have h3 : Rel s0 x2 := by
    unfold x2
    split
    · extract_lets +onlyGivenNames -merge -underBinder x4
      try clear_value x4
      split
      · rename_i y5 y6 q7
        have h8 : Rel s0 y5 := by
          exact of_eq (P := (PFst (Rel s0))) q7 (keep_endStage h1)
        exact ite_keep (P := Rel s0) (keep_adjItem h8) h8
    · exact h1
  clear_value x2
  extract_lets +onlyGivenNames -merge -underBinder x9
  have h10 : Rel s0 x9 := by
    unfold x9
    split
    · exact keep_releaseHeld h3
    · exact h3
  clear_value x9
  extract_lets +onlyGivenNames -merge -underBinder x11
  have h12 : Rel s0 x11 := by
    unfold x11
    split
    · split
      · exact keep_openFrame h10
      · exact h10
    · exact h10
  clear_value x11
  exact keep_startCopies h12

theorem keep_completeFor {s0 : State} {a0 a1 a2 s} (k0 : Rel s0 s) :
    Rel s0 (completeFor a0 a1 a2 s) := by
  unfold completeFor
  exact ite_keep (P := Rel s0) (keep_complete k0) (keep_completeOrWait k0)

theorem keep_completeChunk {s0 : State} {a0 a1 s} (k0 : Rel s0 s) :
    Rel s0 (completeChunk a0 a1 s) := by
  unfold completeChunk
  split
  · exact k0
  · split
    · extract_lets +onlyGivenNames -merge -underBinder x0
      try clear_value x0
      split
      · rename_i y1 y2 q3
        have h4 : Rel s0 y2 := by
          exact of_eq (P := (PSnd (Rel s0))) q3 (ite_keep (P := (PSnd (Rel s0))) (keep_freeBytes k0) (snd_keep (P := Rel s0) k0))
        split
        · rename_i y5 y6 q7
          have h8 : Rel s0 y6 := by
            exact of_eq (P := (PSnd (Rel s0))) q7 (ite_keep (P := (PSnd (Rel s0))) (keep_makeOutput h4) (snd_keep (P := Rel s0) h4))
          extract_lets +onlyGivenNames -merge -underBinder x9
          try clear_value x9
          extract_lets +onlyGivenNames -merge -underBinder x10
          have h11 : Rel s0 x10 := ite_keep (P := Rel s0) (keep_countMismatch h8) h8
          clear_value x10
          exact keep_completeFor (keep_dropItem h11)
    · exact keep_dropItem k0

theorem keep_finishStream {s0 : State} {a0 s} (k0 : Rel s0 s) :
    Rel s0 (finishStream a0 s) := by
  unfold finishStream
  split
  · exact k0
  · extract_lets +onlyGivenNames -merge -underBinder x0
    have h1 : Rel s0 x0 := by
      unfold x0
      split
      · exact keep_endFrame k0
      · exact k0
    clear_value x0
    split
    · exact ite_keep (P := Rel s0) (keep_completeChunk h1) h1
    · exact h1

theorem keep_finishChunks {s0 : State} {s} (k0 : Rel s0 s) :
    Rel s0 (finishChunks s) := by
  unfold finishChunks
  refine keep_forEach ?_ ?_
  · intro a0 a1 h2
    exact keep_finishStream h2
  · exact k0

end Sys2Proof.Machine
end

