-- ==== Sys2Proof/Laws/KeepSafety.lean ====
section
/-!
SUPPORT. What every change of state keeps: restarts, domains, transitions and what follows any step.
-/
namespace Sys2Proof.Machine
open Sys2Proof

set_option Elab.async false

/-! ### Restart -/

theorem keep_setJobBit {s0 : State} {a0 a1 a2 s} (k0 : Rel s0 s) :
    Rel s0 (setJobBit a0 a1 a2 s) := by
  unfold setJobBit
  exact keep_setF k0

theorem keep_zeroBanks {s0 : State} {a0 a1 s} (k0 : Rel s0 s) :
    Rel s0 (zeroBanks a0 a1 s) := by
  unfold zeroBanks
  exact keep_adjDie (rel_upd k0)

theorem keep_zeroStream {s0 : State} {a0 s} (k0 : Rel s0 s) :
    Rel s0 (zeroStream a0 s) := by
  unfold zeroStream
  refine keep_forEach ?_ ?_
  · intro a0 a1 h2
    exact keep_zeroBanks h2
  · exact k0

theorem keep_stopTricks {s0 : State} {a0 s} (k0 : Rel s0 s) :
    Rel s0 (stopTricks a0 s) := by
  unfold stopTricks
  refine keep_forEach ?_ ?_
  · intro a0 a1 h2
    extract_lets +onlyGivenNames -merge -underBinder x3
    have h4 : Rel s0 x3 := by
      unfold x3
      split
      · refine ite_keep (P := Rel s0) ?_ ?_
        · split
          · exact keep_endTrick h2
          · exact keep_endTrick h2
          · exact keep_adjDie h2
        · exact h2
      · exact h2
    clear_value x3
    exact keep_adjDie h4
  · exact k0

theorem keep_dropIncrements {s0 : State} {a0 s} (k0 : Rel s0 s) :
    Rel s0 (dropIncrements a0 s) := by
  unfold dropIncrements
  extract_lets +onlyGivenNames -merge -underBinder x0
  try clear_value x0
  extract_lets +onlyGivenNames -merge -underBinder x1
  have h2 : Rel s0 x1 := by
    unfold x1
    refine keep_forEach ?_ ?_
    · intro a3 a4 h5
      exact keep_adjDie h5
    · exact k0
  clear_value x1
  extract_lets +onlyGivenNames -merge -underBinder x6
  have h7 : Rel s0 x6 := rel_upd h2
  clear_value x6
  extract_lets +onlyGivenNames -merge -underBinder x8 x9
  try clear_value x8 x9
  exact keep_setTiers h7

theorem keep_dropEngineWork {s0 : State} {a0 a1 s} (k0 : Rel s0 s) :
    Rel s0 (dropEngineWork a0 a1 s) := by
  unfold dropEngineWork
  extract_lets +onlyGivenNames -merge -underBinder x0 x1 x2 x3
  try clear_value x0 x1 x2
  have h4 : Rel s0 x3 := keep_addF (keep_setFus k0)
  clear_value x3
  extract_lets +onlyGivenNames -merge -underBinder x5 x6
  try clear_value x5
  have h7 : Rel s0 x6 := keep_setSafe h4
  clear_value x6
  extract_lets +onlyGivenNames -merge -underBinder x8 x9
  try clear_value x8
  have h10 : Rel s0 x9 := keep_setCle h7
  clear_value x9
  extract_lets +onlyGivenNames -merge -underBinder x11
  have h12 : Rel s0 x11 := by
    unfold x11
    refine keep_forEach ?_ ?_
    · intro a13 a14 h15
      extract_lets +onlyGivenNames -merge -underBinder x16
      try clear_value x16
      exact ite_keep (P := Rel s0) (keep_refreshChan h15) h15
    · exact h10
  clear_value x11
  split
  · exact ite_keep (P := Rel s0) (keep_abortCycle h12) h12
  · exact h12

theorem keep_endDesc {s0 : State} {a0 a1 s} (k0 : Rel s0 s) :
    Rel s0 (endDesc a0 a1 s) := by
  unfold endDesc
  extract_lets +onlyGivenNames -merge -underBinder x0
  try clear_value x0
  exact keep_completeFor k0

theorem keep_abortDescs {s0 : State} {a0 a1 s} (k0 : Rel s0 s) :
    Rel s0 (abortDescs a0 a1 s) := by
  unfold abortDescs
  extract_lets +onlyGivenNames -merge -underBinder x0
  have h1 : Rel s0 x0 := by
    unfold x0
    refine keep_forEach ?_ ?_
    · intro a2 a3 h4
      exact keep_endDesc h4
    · exact k0
  clear_value x0
  refine keep_forEach ?_ ?_
  · intro a5 a6 h7
    exact keep_adjStream h7
  · exact h1

theorem keep_stopJob {s0 : State} {a0 s} (k0 : Rel s0 s) :
    Rel s0 (stopJob a0 s) := by
  unfold stopJob
  extract_lets +onlyGivenNames -merge -underBinder x0
  have h1 : Rel s0 x0 := keep_dropIncrements (keep_stopTricks k0)
  clear_value x0
  extract_lets +onlyGivenNames -merge -underBinder x2
  have h3 : Rel s0 x2 := keep_abortDescs (keep_dropEngineWork h1)
  clear_value x2
  extract_lets +onlyGivenNames -merge -underBinder x4
  have h5 : Rel s0 x4 := by
    unfold x4
    refine keep_forEach ?_ ?_
    · intro a6 a7 h8
      exact keep_dropStage h8
    · exact h3
  clear_value x4
  refine keep_forEach ?_ ?_
  · intro a9 a10 h11
    exact keep_adjStream h11
  · exact h5

theorem keep_rebuiltWindow {s0 : State} {a0 s} (k0 : Rel s0 s) :
    Rel s0 (rebuiltWindow a0 s) := by
  unfold rebuiltWindow
  extract_lets +onlyGivenNames -merge -underBinder x0
  have h1 : Rel s0 x0 := by
    unfold x0
    refine keep_forEach ?_ ?_
    · intro a2 a3 h4
      exact keep_unplaceSeg h4
    · exact k0
  clear_value x0
  exact keep_retireWindow (keep_adjWindow h1)

theorem keep_rebuiltDie {s0 : State} {a0 a1 s} (k0 : Rel s0 s) :
    Rel s0 (rebuiltDie a0 a1 s) := by
  unfold rebuiltDie
  extract_lets +onlyGivenNames -merge -underBinder x0 x1 x2 x3
  try clear_value x0 x1 x2 x3
  exact keep_setDie k0

theorem keep_refillPage {s0 : State} {j p s} (k0 : Rel s0 s) : PFst (Rel s0) (refillPage j p s) := by
  unfold refillPage
  split
  · split
    · rename_i e
      exact keep_leaveFrame (keep_setTiers (keep_movePages (of_eq_somePair (P := PSnd (Rel s0)) e (keep_placeT1 k0))))
    · exact k0
  · exact k0

theorem keep_refillPages {s0 : State} {a0 s} (k0 : Rel s0 s) :
    Rel s0 (refillPages a0 s) := by
  unfold refillPages
  refine keep_forEach ?_ ?_
  · intro a0 a1 h2
    show (PFst (Rel s0)) _
    exact keep_refillPage h2
  · exact k0

theorem keep_rebuildJob {s0 : State} {a0 s} (k0 : Rel s0 s) :
    Rel s0 (rebuildJob a0 s) := by
  unfold rebuildJob
  split
  · exact k0
  · extract_lets +onlyGivenNames -merge -underBinder x0
    have h1 : Rel s0 x0 := by
      unfold x0
      refine keep_forEach ?_ ?_
      · intro a2 a3 h4
        exact keep_setStream (keep_zeroStream h4)
      · exact k0
    clear_value x0
    extract_lets +onlyGivenNames -merge -underBinder x5
    have h6 : Rel s0 x5 := by
      unfold x5
      refine keep_forEach ?_ ?_
      · intro a7 a8 h9
        exact keep_rebuiltWindow h9
      · exact h1
    clear_value x5
    extract_lets +onlyGivenNames -merge -underBinder x10
    have h11 : Rel s0 x10 := by
      unfold x10
      refine keep_forEach ?_ ?_
      · intro a12 a13 h14
        exact keep_rebuiltDie h14
      · exact h6
    clear_value x10
    exact keep_startCopies (keep_refillPages h11)

theorem keep_jobReset {s0 : State} {a0 a1 s} (k0 : Rel s0 s) :
    Rel s0 (jobReset a0 a1 s) := by
  unfold jobReset
  extract_lets +onlyGivenNames -merge -underBinder x0
  have h1 : Rel s0 x0 := keep_rebuildJob (keep_stopJob k0)
  clear_value x0
  extract_lets +onlyGivenNames -merge -underBinder x2
  have h3 : Rel s0 x2 := keep_adjJob h1
  clear_value x2
  exact keep_showFault (keep_setJobBit (keep_setJobBit (keep_resetEvent h3)))

theorem keep_safeHusk {s0 : State} {a0 s} (k0 : Rel s0 s) :
    Rel s0 (safeHusk a0 s) := by
  unfold safeHusk
  exact ite_keep (P := Rel s0) (keep_enterHusk k0) (ite_keep (P := Rel s0) (keep_enterHusk (keep_clampReport k0)) k0)

theorem keep_holdJob {s0 : State} {a0 s} (k0 : Rel s0 s) :
    Rel s0 (holdJob a0 s) := by
  unfold holdJob
  extract_lets +onlyGivenNames -merge -underBinder x0
  have h1 : Rel s0 x0 := keep_adjJob (keep_stopJob k0)
  clear_value x0
  exact keep_showFault (keep_safeEvent (keep_setJobBit h1))

theorem keep_enterSafe {s0 : State} {a0 a1 s} (k0 : Rel s0 s) :
    Rel s0 (enterSafe a0 a1 s) := by
  unfold enterSafe
  split
  · exact k0
  · extract_lets +onlyGivenNames -merge -underBinder x0
    have h1 : Rel s0 x0 := keep_incF k0
    clear_value x0
    extract_lets +onlyGivenNames -merge -underBinder x2
    have h3 : ∀ a4, Rel s0 a4 → Rel s0 (x2 a4) := by
      unfold x2
      intro a4 h5
      extract_lets +onlyGivenNames -merge -underBinder x6
      have h7 : Rel s0 x6 := keep_safeHusk (keep_safeEvent h5)
      clear_value x6
      extract_lets +onlyGivenNames -merge -underBinder x8
      try clear_value x8
      extract_lets +onlyGivenNames -merge -underBinder x9
      have h10 : Rel s0 x9 := keep_adjJob h7
      clear_value x9
      exact ite_keep (P := Rel s0) (keep_holdJob h10) (keep_jobReset h10)
    clear_value x2
    split
    · refine h3 _ ?_
      · exact h1
    · refine h3 _ ?_
      · exact h1
    · exact h1
    · exact h1

theorem keep_actOnCauses {s0 : State} {s} (k0 : Rel s0 s) :
    Rel s0 (actOnCauses s) := by
  unfold actOnCauses
  refine keep_forEach ?_ ?_
  · intro a0 a1 h2
    exact keep_enterSafe h2
  · exact rel_upd k0

theorem keep_clearDummy {s0 : State} {a0 a1 s} (k0 : Rel s0 s) :
    Rel s0 (clearDummy a0 a1 s) := by
  unfold clearDummy
  exact keep_adjStream k0

theorem keep_dummyCompare {s0 : State} {a0 a1 s} (k0 : Rel s0 s) :
    Rel s0 (dummyCompare a0 a1 s) := by
  unfold dummyCompare
  split
  · exact k0
  · refine ite_keep (P := Rel s0) ?_ ?_
    · exact k0
    · split
      · exact k0
      · extract_lets +onlyGivenNames -merge -underBinder x0 x1
        try clear_value x0 x1
        extract_lets +onlyGivenNames -merge -underBinder x2
        have h3 : Rel s0 x2 := keep_touchRanges (keep_senseRanges k0)
        clear_value x2
        extract_lets +onlyGivenNames -merge -underBinder x4 x5
        try clear_value x4 x5
        refine ite_keep (P := Rel s0) ?_ ?_
        · extract_lets +onlyGivenNames -merge -underBinder x6
          have h7 : Rel s0 x6 := by
            unfold x6
            split
            · exact keep_incF h3
            · exact h3
          clear_value x6
          exact keep_clearDummy h7
        · extract_lets +onlyGivenNames -merge -underBinder x8
          have h9 : Rel s0 x8 := by
            unfold x8
            split
            · exact ite_keep (P := Rel s0) h3 (keep_readFault h3)
            · exact ite_keep (P := Rel s0) h3 (keep_dummyFail h3)
          clear_value x8
          exact keep_clearDummy h9

theorem keep_trackReady {s0 : State} {a0 s} (k0 : Rel s0 s) :
    Rel s0 (trackReady a0 s) := by
  unfold trackReady
  split
  · exact k0
  · refine ite_keep (P := Rel s0) ?_ ?_
    · exact k0
    · split
      · extract_lets +onlyGivenNames -merge -underBinder x0 x1
        try clear_value x0 x1
        exact keep_adjStream k0
      · exact keep_adjStream k0
      · exact k0

theorem keep_dummyOverdue {s0 : State} {a0 s} (k0 : Rel s0 s) :
    Rel s0 (dummyOverdue a0 s) := by
  unfold dummyOverdue
  split
  · exact k0
  · exact ite_keep (P := Rel s0) (keep_raiseCause k0) k0

theorem keep_restartComplete {s0 : State} {a0 s} (k0 : Rel s0 s) :
    Rel s0 (restartComplete a0 s) := by
  unfold restartComplete
  split
  · exact k0
  · split
    · refine ite_keep (P := Rel s0) ?_ ?_
      · exact k0
      · extract_lets +onlyGivenNames -merge -underBinder x0
        have h1 : Rel s0 x0 := by
          unfold x0
          refine keep_forEach ?_ ?_
          · intro a2 a3 h4
            exact keep_adjStream h4
          · exact k0
        clear_value x0
        extract_lets +onlyGivenNames -merge -underBinder x5
        have h6 : Rel s0 x5 := keep_adjJob h1
        clear_value x5
        extract_lets +onlyGivenNames -merge -underBinder x7
        have h8 : Rel s0 x7 := by
          unfold x7
          refine keep_forEach ?_ ?_
          · intro a9 a10 h11
            exact keep_setF h11
          · exact h6
        clear_value x7
        extract_lets +onlyGivenNames -merge -underBinder x12 x13 x14
        try clear_value x12 x13
        have h15 : Rel s0 x14 := keep_setTiers h8
        clear_value x14
        extract_lets +onlyGivenNames -merge -underBinder x16
        have h17 : Rel s0 x16 := keep_safeEvent (keep_setJobBit h15)
        clear_value x16
        extract_lets +onlyGivenNames -merge -underBinder x18
        have h19 : Rel s0 x18 := by
          unfold x18
          refine keep_forEach ?_ ?_
          · intro a20 a21 h22
            split
            · exact keep_completeOrWait h22
            · exact h22
          · exact h17
        clear_value x18
        exact keep_showFault h19
    · exact k0
    · exact k0
    · exact k0

/-! ### Guarantee -/

theorem keep_setBounds {s0 : State} {s} (k0 : Rel s0 s) : Rel s0 (setBounds s) := by
  refine rel_streams k0 (mapMap_wf fun p => ?_)
  obtain ⟨n, x⟩ := p
  simp only
  split
  · rfl
  · rfl

theorem keep_recheck {s0 : State} {s} (k0 : Rel s0 s) : Rel s0 (recheck s) :=
  keep_setBounds (rel_streams k0 (mapMap_wf fun _ => rfl))

/-! ### Domains -/

theorem keep_setDomain {s0 : State} {d x s} (k0 : Rel s0 s) : Rel s0 (setDomain d x s) :=
  rel_domains k0 List.length_set

theorem keep_endSession {s0 : State} {r s} (k0 : Rel s0 s) : Rel s0 (endSession r s) := by
  unfold endSession
  refine ite_keep (P := Rel s0) k0 (keep_postEvent (rel_sec k0 fuses_same))

theorem keep_resetBlock {s0 : State} {a0 s} (k0 : Rel s0 s) :
    Rel s0 (resetBlock a0 s) := by
  unfold resetBlock
  exact keep_resetRegs k0

theorem keep_loseAcc {s0 : State} {a0 a1 a2 s} (k0 : Rel s0 s) :
    Rel s0 (loseAcc a0 a1 a2 s) := by
  unfold loseAcc
  exact rel_upd k0

theorem keep_wipe {s0 : State} {a0 a1 s} (k0 : Rel s0 s) :
    Rel s0 (wipe a0 a1 s) := by
  unfold wipe
  exact keep_dropExps (keep_cleanLines (keep_zeroMem k0))

theorem keep_loseQuad {s0 : State} {a0 a1 a2 s} (k0 : Rel s0 s) :
    Rel s0 (loseQuad a0 a1 a2 s) := by
  unfold loseQuad
  extract_lets +onlyGivenNames -merge -underBinder x0
  try clear_value x0
  extract_lets +onlyGivenNames -merge -underBinder x1
  have h2 : Rel s0 x1 := keep_loseAcc k0
  clear_value x1
  extract_lets +onlyGivenNames -merge -underBinder x3
  have h4 : Rel s0 x3 := by
    unfold x3
    refine keep_forEach ?_ ?_
    · intro a5 a6 h7
      extract_lets +onlyGivenNames -merge -underBinder x8
      have h9 : Rel s0 x8 := keep_zeroMem (keep_zeroMem h7)
      clear_value x8
      extract_lets +onlyGivenNames -merge -underBinder x10
      have h11 : Rel s0 x10 := ite_keep (P := Rel s0) h9 (keep_wipe h9)
      clear_value x10
      exact ite_keep (P := Rel s0) h11 (keep_zeroMem h11)
    · exact h2
  clear_value x3
  exact keep_adjDie h4

theorem keep_loseSeq {s0 : State} {a0 a1 s} (k0 : Rel s0 s) :
    Rel s0 (loseSeq a0 a1 s) := by
  unfold loseSeq
  extract_lets +onlyGivenNames -merge -underBinder x0
  have h1 : Rel s0 x0 := keep_adjDie (keep_wipe k0)
  clear_value x0
  exact ite_keep (P := Rel s0) h1 (keep_wipe h1)

theorem keep_loseT1 {s0 : State} {a0 s} (k0 : Rel s0 s) :
    Rel s0 (loseT1 a0 s) := by
  unfold loseT1
  extract_lets +onlyGivenNames -merge -underBinder x0 x1
  try clear_value x0 x1
  extract_lets +onlyGivenNames -merge -underBinder x2
  have h3 : Rel s0 x2 := keep_zeroMem k0
  clear_value x2
  exact rel_upd h3

theorem keep_loseFus {s0 : State} {a0 s} (k0 : Rel s0 s) :
    Rel s0 (loseFus a0 s) := by
  unfold loseFus
  extract_lets +onlyGivenNames -merge -underBinder x0 x1 x2
  try clear_value x0 x1
  have h3 : Rel s0 x2 := keep_setFus k0
  clear_value x2
  extract_lets +onlyGivenNames -merge -underBinder x4
  have h5 : Rel s0 x4 := ite_keep (P := Rel s0) h3 (keep_zeroMem h3)
  clear_value x4
  extract_lets +onlyGivenNames -merge -underBinder x6 x7
  try clear_value x6
  have h8 : Rel s0 x7 := ite_keep (P := Rel s0) h5 (keep_setTables (keep_zeroMem h5))
  clear_value x7
  extract_lets +onlyGivenNames -merge -underBinder x9
  have h10 : Rel s0 x9 := ite_keep (P := Rel s0) h8 (keep_zeroMem (keep_zeroMem h8))
  clear_value x9
  exact keep_zeroMem h10

theorem keep_dropPlans {s0 : State} {s} (k0 : Rel s0 s) :
    Rel s0 (dropPlans s) := by
  unfold dropPlans
  extract_lets +onlyGivenNames -merge -underBinder x0 x1 x2
  try clear_value x0 x1
  have h3 : Rel s0 x2 := keep_setPlan k0
  clear_value x2
  refine keep_forEach ?_ ?_
  · intro a4 a5 h6
    exact keep_completeId h6
  · exact h3

theorem keep_losePlan {s0 : State} {a0 s} (k0 : Rel s0 s) :
    Rel s0 (losePlan a0 s) := by
  unfold losePlan
  extract_lets +onlyGivenNames -merge -underBinder x0 x1 x2
  try clear_value x0
  have h3 : Rel s0 x1 := keep_setTables k0
  clear_value x1
  have h4 : Rel s0 x2 := ite_keep (P := Rel s0) k0 (keep_setB (keep_zeroMem h3))
  clear_value x2
  extract_lets +onlyGivenNames -merge -underBinder x5 x6 x7
  try clear_value x5
  have h8 : Rel s0 x6 := keep_setTables h4
  clear_value x6
  have h9 : Rel s0 x7 := ite_keep (P := Rel s0) h4 (keep_zeroMem (keep_zeroMem h8))
  clear_value x7
  extract_lets +onlyGivenNames -merge -underBinder x10 x11
  try clear_value x10
  have h12 : Rel s0 x11 := ite_keep (P := Rel s0) h9 (keep_setPlan (keep_setB (keep_zeroMem h9)))
  clear_value x11
  extract_lets +onlyGivenNames -merge -underBinder x13
  have h14 : Rel s0 x13 := ite_keep (P := Rel s0) h12 (keep_setF h12)
  clear_value x13
  exact keep_zeroMem (keep_zeroMem (keep_zeroMem h14))

theorem keep_loseCle {s0 : State} {s} (k0 : Rel s0 s) :
    Rel s0 (loseCle s) := by
  unfold loseCle
  extract_lets +onlyGivenNames -merge -underBinder x0 x1 x2
  try clear_value x0 x1
  have h3 : Rel s0 x2 := keep_setCle k0
  clear_value x2
  exact keep_setTables h3

theorem keep_loseDomain {s0 : State} {d x k s} (k0 : Rel s0 s) : Rel s0 (loseDomain d x k s) := by
  unfold loseDomain
  extract_lets +onlyGivenNames -merge -underBinder off
  split
  · exact ite_keep (P := Rel s0) (keep_loseQuad k0) (ite_keep (P := Rel s0) (keep_loseSeq k0)
      (ite_keep (P := Rel s0) (ite_keep (P := Rel s0) (keep_loseT1 k0) k0) k0))
  · split
    · exact keep_zeroMem (rel_sec k0 fuses_same)
    · exact ite_keep (P := Rel s0) (keep_zeroMem (keep_setSafe k0)) k0
    · exact ite_keep (P := Rel s0) (keep_setTime k0) k0
    · exact ite_keep (P := Rel s0) (keep_loseCle k0) k0
    · exact keep_loseFus k0
    · exact keep_losePlan k0
    · exact keep_setProg (keep_zeroMem (keep_zeroMem k0))
    · exact keep_zeroMem (keep_setTime k0)
    · exact rel_upd k0
    · exact k0

theorem keep_leaveOn {s0 : State} {a0 s} (k0 : Rel s0 s) :
    Rel s0 (leaveOn a0 s) := by
  unfold leaveOn
  extract_lets +onlyGivenNames -merge -underBinder x0 x1
  try clear_value x0
  have h2 : Rel s0 x1 := ite_keep (P := Rel s0) (keep_linkReset (keep_setPower (keep_setB k0))) k0
  clear_value x1
  split
  · exact keep_endSession h2
  · exact keep_endSession h2
  · extract_lets +onlyGivenNames -merge -underBinder x3 x4 x5
    try clear_value x3 x4
    have h6 : Rel s0 x5 := keep_setF (keep_setSafe h2)
    clear_value x5
    exact keep_showFault (ite_keep (P := Rel s0) (keep_showOutputs h6) h6)
  · exact keep_setTime (keep_endPulses h2)
  · extract_lets +onlyGivenNames -merge -underBinder x7
    have h8 : Rel s0 x7 := by
      unfold x7
      refine keep_forEach ?_ ?_
      · intro a9 a10 h11
        exact keep_restDie h11
      · exact h2
    clear_value x7
    exact ite_keep (P := Rel s0) (keep_enterHoldover h8) h8
  · exact keep_dropPlans h2
  · exact keep_saveNow h2
  · split
    · exact ite_keep (P := Rel s0) (keep_restDie h2) h2
    · exact h2

/-! ### Transit -/

theorem keep_setRail {s0 : State} {a0 a1 s} (k0 : Rel s0 s) :
    Rel s0 (setRail a0 a1 s) := by
  unfold setRail
  exact keep_setPower k0

theorem keep_requestRail {s0 : State} {a0 a1 s} (k0 : Rel s0 s) :
    Rel s0 (requestRail a0 a1 s) := by
  unfold requestRail
  extract_lets +onlyGivenNames -merge -underBinder x0
  try clear_value x0
  exact ite_keep (P := Rel s0) k0 (keep_emit (keep_setRail k0))

theorem keep_setTrans {s0 : State} {a0 s} (k0 : Rel s0 s) :
    Rel s0 (setTrans a0 s) := by
  unfold setTrans
  exact keep_setPower k0

theorem keep_adjTrans {s0 : State} {a0 s} (k0 : Rel s0 s) :
    Rel s0 (adjTrans a0 s) := by
  unfold adjTrans
  exact keep_setTrans k0

theorem keep_beginMove {s0 : State} {a0 a1 a2 s} (k0 : Rel s0 s) :
    Rel s0 (beginMove a0 a1 a2 s) := by
  unfold beginMove
  extract_lets +onlyGivenNames -merge -underBinder x0
  try clear_value x0
  extract_lets +onlyGivenNames -merge -underBinder x1
  have h2 : Rel s0 x1 := ite_keep (P := Rel s0) (keep_leaveOn k0) k0
  clear_value x1
  exact keep_adjTrans (keep_setDomain h2)

theorem keep_startTemps {s0 : State} {a0 s} (k0 : Rel s0 s) :
    Rel s0 (startTemps a0 s) := by
  unfold startTemps
  extract_lets +onlyGivenNames -merge -underBinder x0
  try clear_value x0
  refine keep_forEach ?_ ?_
  · intro a1 a2 h3
    split
    · exact h3
    · refine ite_keep (P := Rel s0) ?_ ?_
      · exact h3
      · extract_lets +onlyGivenNames -merge -underBinder x4
        try clear_value x4
        exact keep_beginMove (keep_adjTrans h3)
  · exact k0

theorem keep_failDomain {s0 : State} {a0 a1 s} (k0 : Rel s0 s) :
    Rel s0 (failDomain a0 a1 s) := by
  unfold failDomain
  extract_lets +onlyGivenNames -merge -underBinder x0
  try clear_value x0
  extract_lets +onlyGivenNames -merge -underBinder x1
  have h2 : Rel s0 x1 := keep_setDomain (ite_keep (P := Rel s0) (keep_loseDomain k0) k0)
  clear_value x1
  extract_lets +onlyGivenNames -merge -underBinder x3
  have h4 : Rel s0 x3 := keep_adjTrans h2
  clear_value x3
  exact keep_pwrEvent h4

theorem keep_failTemp {s0 : State} {a0 s} (k0 : Rel s0 s) :
    Rel s0 (failTemp a0 s) := by
  unfold failTemp
  extract_lets +onlyGivenNames -merge -underBinder x0 x1
  try clear_value x0 x1
  split
  · exact k0
  · extract_lets +onlyGivenNames -merge -underBinder x2
    have h3 : Rel s0 x2 := by
      unfold x2
      split
      · exact keep_setDomain k0
      · exact k0
    clear_value x2
    extract_lets +onlyGivenNames -merge -underBinder x4
    have h5 : Rel s0 x4 := keep_adjTrans h3
    clear_value x4
    exact ite_keep (P := Rel s0) (keep_failDomain h5) h5

theorem keep_failDead {s0 : State} {s} (k0 : Rel s0 s) :
    Rel s0 (failDead s) := by
  unfold failDead
  split
  · exact k0
  · extract_lets +onlyGivenNames -merge -underBinder x0
    try clear_value x0
    extract_lets +onlyGivenNames -merge -underBinder x1
    have h2 : Rel s0 x1 := by
      unfold x1
      refine keep_forEach ?_ ?_
      · intro a3 a4 h5
        split
        · exact ite_keep (P := Rel s0) (keep_failDomain h5) h5
        · exact h5
      · exact k0
    clear_value x1
    refine keep_forEach ?_ ?_
    · intro a6 a7 h8
      split
      · exact ite_keep (P := Rel s0) (keep_failDomain h8) h8
      · exact h8
    · exact h2

theorem keep_requestRails {s0 : State} {s} (k0 : Rel s0 s) :
    Rel s0 (requestRails s) := by
  unfold requestRails
  split
  · exact k0
  · extract_lets +onlyGivenNames -merge -underBinder x0 x1 x2
    try clear_value x0 x1 x2
    refine keep_forEach ?_ ?_
    · intro a3 a4 h5
      extract_lets +onlyGivenNames -merge -underBinder x6
      try clear_value x6
      refine ite_keep (P := Rel s0) ?_ ?_
      · exact h5
      · extract_lets +onlyGivenNames -merge -underBinder x7
        try clear_value x7
        exact ite_keep (P := Rel s0) (keep_requestRail h5) h5
    · exact k0

theorem keep_restoreTemps {s0 : State} {s} (k0 : Rel s0 s) :
    Rel s0 (restoreTemps s) := by
  unfold restoreTemps
  split
  · exact k0
  · refine keep_forEach ?_ ?_
    · intro a0 a1 h2
      exact keep_beginMove h2
    · exact k0

theorem keep_startMoves {s0 : State} {s} (k0 : Rel s0 s) :
    Rel s0 (startMoves s) := by
  unfold startMoves
  split
  · exact k0
  · extract_lets +onlyGivenNames -merge -underBinder x0
    have h1 : Rel s0 x0 := by
      unfold x0
      refine keep_forEach ?_ ?_
      · intro a2 a3 h4
        exact keep_startTemps h4
      · exact k0
    clear_value x0
    refine keep_forEach ?_ ?_
    · intro a5 a6 h7
      split
      · exact ite_keep (P := Rel s0) (keep_beginMove h7) h7
      · exact h7
    · exact h1

theorem keep_endTransition {s0 : State} {a0 s} (k0 : Rel s0 s) :
    Rel s0 (endTransition a0 s) := by
  unfold endTransition
  extract_lets +onlyGivenNames -merge -underBinder x0
  have h1 : Rel s0 x0 := keep_setTrans k0
  clear_value x0
  extract_lets +onlyGivenNames -merge -underBinder x2
  have h3 : Rel s0 x2 := ite_keep (P := Rel s0) (keep_pwrEvent h1) h1
  clear_value x2
  split
  · exact h3
  · split
    · exact keep_completeId h3
    · exact keep_completeId h3

theorem keep_settleRails {s0 : State} {s} (k0 : Rel s0 s) :
    Rel s0 (settleRails s) := by
  unfold settleRails
  refine ite_keep (P := Rel s0) ?_ ?_
  · exact k0
  · refine keep_forEach ?_ ?_
    · intro a0 a1 h2
      exact keep_requestRail h2
    · exact k0

theorem keep_advanceOnce {s0 : State} {s} (k0 : Rel s0 s) :
    Rel s0 (advanceOnce s) := by
  unfold advanceOnce
  exact keep_startMoves (keep_restoreTemps (keep_requestRails (keep_failDead k0)))

theorem keep_advance {s0 : State} {s} (k0 : Rel s0 s) :
    Rel s0 (advance s) := by
  unfold advance
  split
  · exact k0
  · extract_lets +onlyGivenNames -merge -underBinder x0
    have h1 : Rel s0 x0 := keep_advanceOnce k0
    clear_value x0
    split
    · exact h1
    · exact ite_keep (P := Rel s0) (keep_settleRails (keep_endTransition h1)) h1

/-! ### Settle -/

theorem keep_freeStage {s0 : State} {a0 s} (k0 : Rel s0 s) :
    Rel s0 (freeStage a0 s) := by
  unfold freeStage
  exact keep_setF (keep_setR (keep_setSafe k0))

theorem keep_dropStreamWork {s0 : State} {a0 s} (k0 : Rel s0 s) :
    Rel s0 (dropStreamWork a0 s) := by
  unfold dropStreamWork
  extract_lets +onlyGivenNames -merge -underBinder x0
  have h1 : Rel s0 x0 := by
    unfold x0
    refine keep_forEach ?_ ?_
    · intro a2 a3 h4
      exact keep_adjDie h4
    · exact k0
  clear_value x0
  extract_lets +onlyGivenNames -merge -underBinder x5
  have h6 : Rel s0 x5 := rel_upd h1
  clear_value x5
  extract_lets +onlyGivenNames -merge -underBinder x7
  have h8 : Rel s0 x7 := by
    unfold x7
    refine keep_forEach ?_ ?_
    · intro a9 a10 h11
      refine keep_forEach ?_ ?_
      · intro a12 a13 h14
        exact keep_unplaceSeg h14
      · exact h11
    · exact h6
  clear_value x7
  extract_lets +onlyGivenNames -merge -underBinder x15 x16
  try clear_value x15
  have h17 : Rel s0 x16 := keep_setTiers h8
  clear_value x16
  extract_lets +onlyGivenNames -merge -underBinder x18 x19
  try clear_value x18
  have h20 : Rel s0 x19 := keep_setSafe h17
  clear_value x19
  exact keep_setCle h20

theorem keep_stopRunning {s0 : State} {a0 s} (k0 : Rel s0 s) :
    Rel s0 (stopRunning a0 s) := by
  unfold stopRunning
  refine keep_forEach ?_ ?_
  · intro a0 a1 h2
    split
    · exact ite_keep (P := Rel s0) (keep_endTrick h2) h2
    · exact h2
  · exact k0

theorem keep_reclampStages {s0 : State} {s a1} (k0 : Rel s0 s) (k1 : Rel s0 a1) :
    Rel s0 (reclampStages s a1) := by
  unfold reclampStages
  refine keep_forEach ?_ ?_
  · intro a0 a1 h2
    extract_lets +onlyGivenNames -merge -underBinder x3
    try clear_value x3
    exact ite_keep (P := Rel s0) (keep_clampReport h2) h2
  · exact k1

theorem keep_freeStream {s0 : State} {st s} (k0 : Rel s0 s) : Rel s0 (freeStream st s) := by
  unfold freeStream
  split
  · exact k0
  · extract_lets +onlyGivenNames -merge -underBinder x1 x2 x3 x4
    have h1 : Rel s0 x1 := keep_stopRunning k0
    have h2 : Rel s0 x2 := by
      unfold x2
      split
      · exact keep_freeStage h1
      · exact h1
    have h3 : Rel s0 x3 := keep_dropStreamWork (keep_zeroStream h2)
    have h4 : Rel s0 x4 := rel_streams h3 (mapErase_wf _)
    exact keep_reclampStages h4 (keep_setBounds h4)

theorem keep_freeMemory {s0 : State} {a0 s} (k0 : Rel s0 s) :
    Rel s0 (freeMemory a0 s) := by
  unfold freeMemory
  extract_lets +onlyGivenNames -merge -underBinder x0
  try clear_value x0
  extract_lets +onlyGivenNames -merge -underBinder x1
  have h2 : Rel s0 x1 := by
    unfold x1
    refine keep_forEach ?_ ?_
    · intro a3 a4 h5
      exact keep_leaveFrame h5
    · exact k0
  clear_value x1
  extract_lets +onlyGivenNames -merge -underBinder x6
  try clear_value x6
  exact keep_setTiers h2

theorem keep_freeJob {s0 : State} {j s} (k0 : Rel s0 s) : Rel s0 (freeJob j s) := by
  unfold freeJob
  extract_lets +onlyGivenNames -merge -underBinder x1 x2 x3 x4
  have h1 : Rel s0 x1 := by
    unfold x1
    split
    · exact ite_keep (P := Rel s0) (keep_abortCycle k0) k0
    · exact k0
  have h4 : Rel s0 x4 :=
    keep_dropCache (keep_freeMemory (keep_forEach (fun _ _ h => keep_freeStream h) (keep_stopFeedOf (keep_stopIntakes h1))))
  clear_value x4
  exact keep_drainDecided (keep_showFault (keep_setJobBit (keep_setJobBit (rel_jobs h4 (mapErase_wf _)))))

theorem keep_retireNow {s0 : State} {a0 a1 a2 s} (k0 : Rel s0 s) :
    Rel s0 (retireNow a0 a1 a2 s) := by
  unfold retireNow
  extract_lets +onlyGivenNames -merge -underBinder x0
  try clear_value x0
  extract_lets +onlyGivenNames -merge -underBinder x1
  have h2 : Rel s0 x1 := keep_freeStream k0
  clear_value x1
  split
  · exact keep_completeFor h2
  · exact h2

theorem keep_settleRetire {s0 : State} {st n s} (k0 : Rel s0 s) : Rel s0 (settleRetire st n s) := by
  induction n generalizing s with
  | zero => exact k0
  | succ n ih =>
    unfold settleRetire
    split
    · exact k0
    · split
      · exact k0
      · refine ite_keep (P := Rel s0) (keep_retireNow k0) (ite_keep (P := Rel s0) (ih (keep_dropItem ?_)) k0)
        split
        · exact keep_completeFor k0
        · exact k0

theorem keep_settleUnload {s0 : State} {a0 s} (k0 : Rel s0 s) :
    Rel s0 (settleUnload a0 s) := by
  unfold settleUnload
  split
  · refine ite_keep (P := Rel s0) ?_ ?_
    · exact k0
    · extract_lets +onlyGivenNames -merge -underBinder x0
      have h1 : Rel s0 x0 := keep_freeJob k0
      clear_value x0
      refine keep_forEach ?_ ?_
      · intro a2 a3 h4
        split
        · exact keep_completeOrWait h4
        · exact h4
      · exact h1
  · exact k0

theorem keep_settleJobs {s0 : State} {s} (k0 : Rel s0 s) :
    Rel s0 (settleJobs s) := by
  unfold settleJobs
  extract_lets +onlyGivenNames -merge -underBinder x0
  have h1 : Rel s0 x0 := by
    unfold x0
    refine keep_forEach ?_ ?_
    · intro a2 a3 h4
      exact keep_settleRetire h4
    · exact k0
  clear_value x0
  refine keep_forEach ?_ ?_
  · intro a5 a6 h7
    exact keep_settleUnload h7
  · exact h1

theorem keep_releaseItem {s0 : State} {a0 a1 a2 a3 s} (k0 : Rel s0 s) :
    Rel s0 (releaseItem a0 a1 a2 a3 s) := by
  unfold releaseItem
  extract_lets +onlyGivenNames -merge -underBinder x0
  have h1 : Rel s0 x0 := keep_adjItem k0
  clear_value x0
  extract_lets +onlyGivenNames -merge -underBinder x2
  have h3 : Rel s0 x2 := by
    unfold x2
    split
    · extract_lets +onlyGivenNames -merge -underBinder x4
      try clear_value x4
      split
      · exact ite_keep (P := Rel s0) (keep_openFrame h1) h1
      · exact h1
    · exact h1
  clear_value x2
  extract_lets +onlyGivenNames -merge -underBinder x5 x6
  try clear_value x5 x6
  exact ite_keep (P := Rel s0) (keep_adjStream h3) h3

theorem keep_releaseStream {s0 : State} {a0 s} (k0 : Rel s0 s) :
    Rel s0 (releaseStream a0 s) := by
  unfold releaseStream
  split
  · exact k0
  · refine ite_keep (P := Rel s0) ?_ ?_
    · exact k0
    · refine keep_forEach ?_ ?_
      · intro a0 a1 h2
        exact keep_releaseItem h2
      · exact k0

theorem keep_settleRound {s0 : State} {s} (k0 : Rel s0 s) :
    Rel s0 (settleRound s) := by
  unfold settleRound
  extract_lets +onlyGivenNames -merge -underBinder x0
  have h1 : Rel s0 x0 := keep_settleJobs (keep_finishChunks (keep_actOnCauses k0))
  clear_value x0
  extract_lets +onlyGivenNames -merge -underBinder x2
  have h3 : Rel s0 x2 := by
    unfold x2
    refine keep_forEach ?_ ?_
    · intro a4 a5 h6
      exact keep_trackReady h6
    · exact h1
  clear_value x2
  refine keep_forEach ?_ ?_
  · intro a7 a8 h9
    exact keep_releaseStream h9
  · exact h3

theorem keep_settle {s0 : State} {s} (k0 : Rel s0 s) :
    Rel s0 (settle s) := by
  unfold settle
  exact keep_refuseFenced (keep_openGates (keep_account (keep_advance (keep_actOnCauses (keep_settleRound k0)))))

/-! ### Arrivals -/

theorem keep_settled {s0 : State} {a0 a1 s} (k0 : ∀ z0, Rel s0 z0 → Rel s0 (a1 z0)) (k1 : Rel s0 s) :
    PNext (Rel s0) (settled a0 a1 s) := by
  unfold settled
  refine next_keep ?_
  refine keep_onlyIf ?_ ?_
  · intro a0 h1
    refine keep_settle ?_
    refine k0 _ ?_
    · exact h1
  · exact k1

theorem keep_execPageMoveDone {s0 : State} {a0 a1 s} (k0 : Rel s0 s) :
    PNext (Rel s0) (execPageMoveDone a0 a1 s) := by
  unfold execPageMoveDone
  refine keep_settled ?_ ?_
  · intro a0 h1
    exact keep_moveDone h1
  · exact k0

theorem keep_execSegmentLanded {s0 : State} {a0 s} (k0 : Rel s0 s) :
    PNext (Rel s0) (execSegmentLanded a0 s) := by
  unfold execSegmentLanded
  refine keep_settled ?_ ?_
  · intro a0 h1
    exact keep_segmentLanded h1
  · exact k0

theorem keep_execSegmentReadFailed {s0 : State} {a0 s} (k0 : Rel s0 s) :
    PNext (Rel s0) (execSegmentReadFailed a0 s) := by
  unfold execSegmentReadFailed
  refine keep_settled ?_ ?_
  · intro a0 h1
    exact keep_segmentReadFailed h1
  · exact k0

theorem keep_variantSignal {s0 : State} {a0 s} (k0 : Rel s0 s) :
    Rel s0 (variantSignal a0 s) := by
  unfold variantSignal
  split
  · exact ite_keep (P := Rel s0) (keep_signalVariant k0) k0
  · exact k0

theorem keep_execVariantSignal {s0 : State} {a0 s} (k0 : Rel s0 s) :
    PNext (Rel s0) (execVariantSignal a0 s) := by
  unfold execVariantSignal
  refine keep_settled ?_ ?_
  · intro a0 h1
    exact keep_variantSignal h1
  · exact k0

theorem keep_execDieLinkArrival {s0 : State} {a0 s} (k0 : Rel s0 s) :
    PNext (Rel s0) (execDieLinkArrival a0 s) := by
  unfold execDieLinkArrival
  refine keep_settled ?_ ?_
  · intro a0 h1
    exact keep_arrive h1
  · exact k0

theorem keep_sendLine {s0 : State} {a0 a1 a2 a3 s} (k0 : Rel s0 s) :
    Rel s0 (sendLine a0 a1 a2 a3 s) := by
  unfold sendLine
  exact getD_keep (P := Rel s0) (keep_takeHubLine k0) k0

theorem keep_execMoveRequest {s0 : State} {a0 a1 a2 a3 s} (k0 : Rel s0 s) :
    PNext (Rel s0) (execMoveRequest a0 a1 a2 a3 s) := by
  unfold execMoveRequest
  refine keep_settled ?_ ?_
  · intro a0 h1
    exact keep_sendLine h1
  · exact k0

theorem keep_execPost {s0 : State} {a0 a1 a2 a3 s} (k0 : Rel s0 s) :
    PNext (Rel s0) (execPost a0 a1 a2 a3 s) := by
  unfold execPost
  refine keep_settled ?_ ?_
  · intro a0 h1
    exact keep_sendLine h1
  · exact k0

theorem keep_execMapCommit {s0 : State} {a0 a1 a2 a3 s} (k0 : Rel s0 s) :
    PNext (Rel s0) (execMapCommit a0 a1 a2 a3 s) := by
  unfold execMapCommit
  refine keep_settled ?_ ?_
  · intro a0 h1
    exact keep_sendLine h1
  · exact k0

theorem keep_execSetpointEntry {s0 : State} {a0 a1 a2 a3 s} (k0 : Rel s0 s) :
    PNext (Rel s0) (execSetpointEntry a0 a1 a2 a3 s) := by
  unfold execSetpointEntry
  refine keep_settled ?_ ?_
  · intro a0 h1
    exact keep_policyEntry h1
  · exact k0

theorem keep_execSetpointCommit {s0 : State} {a0 s} (k0 : Rel s0 s) :
    PNext (Rel s0) (execSetpointCommit a0 s) := by
  unfold execSetpointCommit
  refine keep_settled ?_ ?_
  · intro a0 h1
    exact keep_setpointCommit h1
  · exact k0

theorem keep_execFusionClose {s0 : State} {a0 s} (k0 : Rel s0 s) :
    PNext (Rel s0) (execFusionClose a0 s) := by
  unfold execFusionClose
  refine keep_settled ?_ ?_
  · intro a0 h1
    exact keep_fusionClose h1
  · exact k0

theorem keep_execFusionResult {s0 : State} {s} (k0 : Rel s0 s) :
    PNext (Rel s0) (execFusionResult s) := by
  unfold execFusionResult
  refine keep_settled ?_ ?_
  · intro a0 h1
    exact keep_fusionResult h1
  · exact k0

theorem keep_execPlanRequest {s0 : State} {a0 s} (k0 : Rel s0 s) :
    PNext (Rel s0) (execPlanRequest a0 s) := by
  unfold execPlanRequest
  refine ite_keep (P := (PNext (Rel s0))) ?_ ?_
  · exact next_keep k0
  · refine keep_beginPrime ?_ ?_
    · intro a0 a1 h2
      exact keep_planRequest h2
    · exact k0

theorem keep_execPlanCycleStart {s0 : State} {a0 a1 s} (k0 : Rel s0 s) :
    PNext (Rel s0) (execPlanCycleStart a0 a1 s) := by
  unfold execPlanCycleStart
  refine keep_settled ?_ ?_
  · intro a0 h1
    exact keep_planStart h1
  · exact k0

theorem keep_execPlanBudget {s0 : State} {s} (k0 : Rel s0 s) :
    PNext (Rel s0) (execPlanBudget s) := by
  unfold execPlanBudget
  refine keep_settled ?_ ?_
  · intro a0 h1
    exact keep_planBudget h1
  · exact k0

theorem keep_execPlanResult {s0 : State} {s} (k0 : Rel s0 s) :
    PNext (Rel s0) (execPlanResult s) := by
  unfold execPlanResult
  refine keep_settled ?_ ?_
  · intro a0 h1
    exact keep_planResult h1
  · exact k0

theorem keep_execOccIntake {s0 : State} {s} (k0 : Rel s0 s) :
    PNext (Rel s0) (execOccIntake s) := by
  unfold execOccIntake
  refine keep_settled ?_ ?_
  · intro a0 h1
    exact keep_occIntake h1
  · exact k0

theorem keep_execFeedBatch {s0 : State} {s} (k0 : Rel s0 s) :
    PNext (Rel s0) (execFeedBatch s) := by
  unfold execFeedBatch
  refine keep_settled ?_ ?_
  · intro a0 h1
    exact keep_feedBatch h1
  · exact k0

theorem keep_lateChunk {s0 : State} {a0 s} (k0 : Rel s0 s) :
    Rel s0 (lateChunk a0 s) := by
  unfold lateChunk
  refine ite_keep (P := Rel s0) ?_ ?_
  · exact k0
  · extract_lets +onlyGivenNames -merge -underBinder x0
    try clear_value x0
    split
    · exact keep_adjItem k0
    · exact k0

theorem keep_execStageLate {s0 : State} {a0 s} (k0 : Rel s0 s) :
    PNext (Rel s0) (execStageLate a0 s) := by
  unfold execStageLate
  refine keep_settled ?_ ?_
  · intro a0 h1
    exact keep_lateStage (keep_lateChunk h1)
  · exact k0

theorem keep_missStage {s0 : State} {a0 s} (k0 : Rel s0 s) :
    Rel s0 (missStage a0 s) := by
  unfold missStage
  exact keep_pushRing (keep_countFault (keep_adjStage k0))

theorem keep_execStageMiss {s0 : State} {a0 s} (k0 : Rel s0 s) :
    PNext (Rel s0) (execStageMiss a0 s) := by
  unfold execStageMiss
  refine keep_settled ?_ ?_
  · intro a0 h1
    exact keep_missStage h1
  · exact k0

theorem keep_execDummyCompare {s0 : State} {a0 a1 s} (k0 : Rel s0 s) :
    PNext (Rel s0) (execDummyCompare a0 a1 s) := by
  unfold execDummyCompare
  refine keep_settled ?_ ?_
  · intro a0 h1
    exact keep_dummyCompare h1
  · exact k0

theorem keep_execDummyOverdue {s0 : State} {a0 s} (k0 : Rel s0 s) :
    PNext (Rel s0) (execDummyOverdue a0 s) := by
  unfold execDummyOverdue
  refine keep_settled ?_ ?_
  · intro a0 h1
    exact keep_dummyOverdue h1
  · exact k0

theorem keep_execRestartComplete {s0 : State} {a0 s} (k0 : Rel s0 s) :
    PNext (Rel s0) (execRestartComplete a0 s) := by
  unfold execRestartComplete
  refine keep_settled ?_ ?_
  · intro a0 h1
    exact keep_restartComplete h1
  · exact k0

theorem keep_execLinkReset {s0 : State} {a0 s} (k0 : Rel s0 s) :
    PNext (Rel s0) (execLinkReset a0 s) := by
  unfold execLinkReset
  refine keep_settled ?_ ?_
  · intro a0 h1
    exact keep_linkReset h1
  · exact keep_assertPerst k0

/-! ### Triggers -/

theorem keep_triggerMiss {s0 : State} {a0 s} (k0 : Rel s0 s) :
    Rel s0 (triggerMiss a0 s) := by
  unfold triggerMiss
  extract_lets +onlyGivenNames -merge -underBinder x0
  have h1 : Rel s0 x0 := keep_postEvent (keep_incF k0)
  clear_value x0
  extract_lets +onlyGivenNames -merge -underBinder x2
  have h3 : Rel s0 x2 := keep_adjStream h1
  clear_value x2
  split
  · exact keep_adjStage h3
  · exact h3

theorem keep_fireStream {s0 : State} {a0 a1 s} (k0 : Rel s0 s) :
    Rel s0 (fireStream a0 a1 s) := by
  unfold fireStream
  split
  · exact k0
  · split
    · exact keep_triggerMiss k0
    · exact keep_adjStream (keep_releaseItem k0)

theorem keep_fireTrigger {s0 : State} {a0 a1 s} (k0 : Rel s0 s) :
    Rel s0 (fireTrigger a0 a1 s) := by
  unfold fireTrigger
  extract_lets +onlyGivenNames -merge -underBinder x0
  try clear_value x0
  extract_lets +onlyGivenNames -merge -underBinder x1
  have h2 : Rel s0 x1 := keep_latchSnapshots k0
  clear_value x1
  extract_lets +onlyGivenNames -merge -underBinder x3
  have h4 : Rel s0 x3 := by
    unfold x3
    refine keep_forEach ?_ ?_
    · intro a5 a6 h7
      exact keep_fireStream h7
    · exact h2
  clear_value x3
  exact ite_keep (P := Rel s0) (keep_cleFire h4) h4

theorem keep_fireGenerator {s0 : State} {a0 s} (k0 : Rel s0 s) :
    Rel s0 (fireGenerator a0 s) := by
  unfold fireGenerator
  extract_lets +onlyGivenNames -merge -underBinder x0
  try clear_value x0
  exact keep_fireTrigger (keep_genFire k0)

theorem keep_afterStep {s0 : State} {a0 a1} (k0 : (PFst (Rel s0)) a1) :
    Rel s0 (afterStep a0 a1) := by
  unfold afterStep
  extract_lets +onlyGivenNames -merge -underBinder x0
  have h1 : Rel s0 x0 := by
    unfold x0
    refine ite_keep (P := Rel s0) ?_ ?_
    · show (PFst (Rel s0)) _
      exact k0
    · refine keep_fusStep ?_
      show (PFst (Rel s0)) _
      exact k0
  clear_value x0
  refine keep_forEach ?_ ?_
  · intro a2 a3 h4
    exact keep_fireTrigger h4
  · exact h1

theorem keep_execGeneratorFiring {s0 : State} {a0 s} (k0 : Rel s0 s) :
    PNext (Rel s0) (execGeneratorFiring a0 s) := by
  unfold execGeneratorFiring
  refine keep_settled ?_ ?_
  · intro a0 h1
    exact keep_fireGenerator h1
  · exact k0

theorem keep_execSyncMessage {s0 : State} {a0 s} (k0 : Rel s0 s) :
    PNext (Rel s0) (execSyncMessage a0 s) := by
  unfold execSyncMessage
  refine keep_settled ?_ ?_
  · intro a0 h1
    exact keep_afterStep (keep_syncMeasured h1)
  · exact k0

theorem keep_execTimeAccept {s0 : State} {s} (k0 : Rel s0 s) :
    PNext (Rel s0) (execTimeAccept s) := by
  unfold execTimeAccept
  refine keep_settled ?_ ?_
  · intro a0 h1
    exact keep_afterStep (keep_acceptStep h1)
  · exact k0

theorem keep_captureEdge {s0 : State} {a0 a1 s} (k0 : Rel s0 s) :
    Rel s0 (captureEdge a0 a1 s) := by
  unfold captureEdge
  exact ite_keep (P := Rel s0) (keep_fireTrigger (keep_recordEdge k0)) k0

theorem keep_execSensorSample {s0 : State} {a0 a1 a2 a3 s} (k0 : Rel s0 s) :
    PNext (Rel s0) (execSensorSample a0 a1 a2 a3 s) := by
  unfold execSensorSample
  refine keep_settled ?_ ?_
  · intro a0 h1
    exact keep_takeSample h1
  · exact k0

theorem keep_execSpiAssertion {s0 : State} {a0 a1 s} (k0 : Rel s0 s) :
    PNext (Rel s0) (execSpiAssertion a0 a1 s) := by
  unfold execSpiAssertion
  refine keep_settled ?_ ?_
  · intro a0 h1
    exact keep_spiAssert h1
  · exact k0

theorem keep_writeSnapshot {s0 : State} {a0 s} (k0 : Rel s0 s) :
    Rel s0 (writeSnapshot a0 s) := by
  unfold writeSnapshot
  split
  · exact k0
  · exact keep_landSnapshot (keep_setCle k0)

theorem keep_execSnapshot {s0 : State} {a0 s} (k0 : Rel s0 s) :
    PNext (Rel s0) (execSnapshot a0 s) := by
  unfold execSnapshot
  refine keep_settled ?_ ?_
  · intro a0 h1
    exact keep_writeSnapshot h1
  · exact k0

end Sys2Proof.Machine
end

