-- ==== Sys2Proof/Laws/KeepWork.lean ====
section
/-!
SUPPORT. What every change of state keeps: loads, jobs, the Dealer, table writes, power and resets.
-/
namespace Sys2Proof.Machine
open Sys2Proof

set_option Elab.async false

/-! ### Load -/

theorem keep_beginSettled {s0 : State} {a0 a1 a2 s} (k0 : ∀ z0, ∀ z1, Rel s0 z1 → Rel s0 (a2 z0 z1)) (k1 : Rel s0 s) :
    PNext (Rel s0) (beginSettled a0 a1 a2 s) := by
  unfold beginSettled
  split
  · exact next_keep k1
  · split
    · exact next_keep (keep_refuseFenced (keep_refuseFormat k1))
    · refine next_keep ?_
      refine keep_settle ?_
      refine k0 _ _ ?_
      · exact keep_markStarted k1

theorem keep_placeSeq {s0 : State} {home job n bytes ps s} (k0 : Rel s0 s) :
    POpt (PSnd (Rel s0)) (placeSeq home job n bytes ps s) := by
  induction n generalizing bytes ps s with
  | zero => exact some_keep (P := PSnd (Rel s0)) k0
  | succ n ih =>
    unfold placeSeq
    split
    · rename_i e
      exact ih (keep_store (of_eq_somePair (P := PSnd (Rel s0)) e (keep_placeT1Room k0)))
    · exact none_keep

theorem keep_placeSection {s0 : State} {a0 a1 a2 s} (k0 : Rel s0 s) :
    POpt (Rel s0) (placeSection a0 a1 a2 s) := by
  unfold placeSection
  refine map_keep (P := (PSnd (Rel s0))) (Q := (Rel s0)) ?_ ?_
  · exact keep_placeSeq k0
  · intro a0 h1
    split
    · rename_i y2 y3
      have h5 : Rel s0 y3 := of_fvar h1
      exact keep_adjJob h5

theorem keep_placeOf {s0 : State} {a0 a1 a2 s} (k0 : Rel s0 s) :
    POpt (PSnd (Rel s0)) (placeOf a0 a1 a2 s) := by
  unfold placeOf
  extract_lets +onlyGivenNames -merge -underBinder x0
  have h1 : ∀ a2, Rel s0 a2 → (POpt (PSnd (Rel s0))) (x0 a2) := by
    unfold x0
    intro a2 h3
    refine map_keep (P := (PSnd (Rel s0))) (Q := (PSnd (Rel s0))) ?_ ?_
    · exact keep_takePool h3
    · intro a4 h5
      split
      · rename_i y6 y7
        have h9 : Rel s0 y7 := of_fvar h5
        exact snd_keep (P := Rel s0) h9
  clear_value x0
  split
  · exact keep_placeT1Room k0
  · refine h1 _ ?_
    · exact k0
  · refine ite_keep (P := (POpt (PSnd (Rel s0)))) ?_ ?_
    · exact keep_placeT1Room k0
    · refine orElse_keep (P := (PSnd (Rel s0))) ?_ ?_
      · exact keep_placeT1 k0
      · intro a10
        refine h1 _ ?_
        · exact k0

theorem keep_placePage {s0 : State} {a0 a1 a2 a3 s} (k0 : Rel s0 s) :
    POpt (Rel s0) (placePage a0 a1 a2 a3 s) := by
  unfold placePage
  extract_lets +onlyGivenNames -merge -underBinder x0 x1
  try clear_value x0 x1
  split
  · exact none_keep
  · rename_i y2 y3 q4
    have h5 : Rel s0 y3 := by
      exact of_eq_somePair (P := (PSnd (Rel s0))) q4 (keep_placeOf k0)
    extract_lets +onlyGivenNames -merge -underBinder x6
    have h7 : Rel s0 x6 := keep_store h5
    clear_value x6
    extract_lets +onlyGivenNames -merge -underBinder x8 x9
    try clear_value x8
    have h10 : Rel s0 x9 := keep_setTiers h7
    clear_value x9
    extract_lets +onlyGivenNames -merge -underBinder x11
    have h12 : Rel s0 x11 := by
      unfold x11
      split
      · exact ite_keep (P := Rel s0) (keep_setTiers h10) h10
      · exact h10
      · exact h10
    clear_value x11
    refine ite_keep (P := (POpt (Rel s0))) ?_ ?_
    · exact some_keep (P := Rel s0) h12
    · refine map_keep (P := (PSnd (Rel s0))) (Q := (Rel s0)) ?_ ?_
      · exact keep_takePool h12
      · intro a13 h14
        split
        · rename_i y15 y16
          have h18 : Rel s0 y16 := of_fvar h14
          exact keep_setTiers (keep_store h18)

theorem keep_placePages {s0 : State} {job o bytes n i s} (k0 : Rel s0 s) : POpt (Rel s0) (placePages job o bytes n i s) := by
  induction n generalizing i s with
  | zero => exact some_keep k0
  | succ n ih =>
    unfold placePages
    split
    · rename_i e
      exact ih (of_eq_some e (keep_placePage k0))
    · exact none_keep

theorem keep_takeFrames {s0 : State} {die job n fs s} (k0 : Rel s0 s) : POpt (PSnd (Rel s0)) (takeFrames die job n fs s) := by
  induction n generalizing fs s with
  | zero => exact some_keep (P := PSnd (Rel s0)) k0
  | succ n ih =>
    unfold takeFrames
    split
    · rename_i e
      exact ih (of_eq_somePair (P := PSnd (Rel s0)) e (keep_takeFrameRoom k0))
    · exact none_keep

theorem keep_makeWindow {s0 : State} {a0 a1 a2 a3 a4 s} (k0 : Rel s0 s) :
    POpt (Rel s0) (makeWindow a0 a1 a2 a3 a4 s) := by
  unfold makeWindow
  refine map_keep (P := (PSnd (Rel s0))) (Q := (Rel s0)) ?_ ?_
  · exact keep_takeFrames k0
  · intro a0 h1
    split
    · rename_i y2 y3
      have h5 : Rel s0 y3 := of_fvar h1
      extract_lets +onlyGivenNames -merge -underBinder x6
      try clear_value x6
      exact keep_setTiers h5

theorem keep_placePinned {s0 : State} {a0 a1 a2 s} (k0 : Rel s0 s) :
    Rel s0 (placePinned a0 a1 a2 s) := by
  unfold placePinned
  refine keep_forEach ?_ ?_
  · intro a0 a1 h2
    exact keep_store h2
  · exact k0

theorem keep_placeObject {s0 : State} {a0 a1 a2 a3 a4 a5 s} (k0 : Rel s0 s) :
    POpt (Rel s0) (placeObject a0 a1 a2 a3 a4 a5 s) := by
  unfold placeObject
  refine ite_keep (P := (POpt (Rel s0))) ?_ ?_
  · exact some_keep (P := Rel s0) (keep_placePinned k0)
  · split
    · exact none_keep
    · rename_i y0 q1
      have h2 : Rel s0 y0 := by
        exact of_eq_some (P := Rel s0) q1 (keep_placePages k0)
      exact ite_keep (P := (POpt (Rel s0))) (keep_makeWindow h2) (some_keep (P := Rel s0) h2)

theorem keep_allPlaced {α : Type} {s0 : State} {f : α → State → Option State} {l s} (k0 : ∀ x t, Rel s0 t → POpt (Rel s0) (f x t))
    (k1 : Rel s0 s) : POpt (Rel s0) (allPlaced f l s) := by
  induction l generalizing s with
  | nil => exact some_keep k1
  | cons x l ih =>
    unfold allPlaced
    split
    · rename_i e
      exact ih (of_eq_some e (k0 _ _ k1))
    · exact none_keep

theorem keep_createStream {s0 : State} {a0 a1 s} (k0 : Rel s0 s) :
    Rel s0 (createStream a0 a1 s) := by
  unfold createStream
  split
  · exact k0
  · extract_lets +onlyGivenNames -merge -underBinder x0 x1
    try clear_value x0 x1
    exact keep_setStream k0

theorem keep_bindStage {s0 : State} {a0 s} (k0 : Rel s0 s) :
    Rel s0 (bindStage a0 s) := by
  unfold bindStage
  split
  · refine ite_keep (P := Rel s0) ?_ ?_
    · exact k0
    · extract_lets +onlyGivenNames -merge -underBinder x0
      have h1 : Rel s0 x0 := keep_setF (keep_setF (keep_setB k0))
      clear_value x0
      extract_lets +onlyGivenNames -merge -underBinder x2
      have h3 : Rel s0 x2 := keep_setF (keep_setF h1)
      clear_value x2
      exact keep_setF h3
  · exact k0

theorem keep_placeJob {s0 : State} {a0 a1 a2 s} (k0 : Rel s0 s) :
    POpt (Rel s0) (placeJob a0 a1 a2 s) := by
  unfold placeJob
  extract_lets +onlyGivenNames -merge -underBinder x0 x1
  try clear_value x0 x1
  extract_lets +onlyGivenNames -merge -underBinder x2
  have h3 : ∀ a4, ∀ a5, Rel s0 a5 → (POpt (Rel s0)) (x2 a4 a5) := by
    unfold x2
    intro a4 a5 h6
    refine keep_allPlaced ?_ ?_
    · intro a7 a8 h9
      exact keep_placeObject h9
    · exact h6
  clear_value x2
  split
  · exact none_keep
  · rename_i y10 q11
    have h12 : Rel s0 y10 := by
      refine of_eq_some (P := Rel s0) q11 ?_
      refine keep_allPlaced ?_ ?_
      · intro a13 a14 h15
        exact keep_placeSection h15
      · exact keep_setJob k0
    refine bind_keep (P := Rel s0) (Q := (Rel s0)) ?_ ?_
    · refine h3 _ _ ?_
      · exact h12
    · intro a16 h17
      refine h3 _ _ ?_
      · exact h17

theorem keep_createStreams {s0 : State} {a0 a1 s} (k0 : Rel s0 s) :
    Rel s0 (createStreams a0 a1 s) := by
  unfold createStreams
  extract_lets +onlyGivenNames -merge -underBinder x0
  try clear_value x0
  extract_lets +onlyGivenNames -merge -underBinder x1
  have h2 : Rel s0 x1 := by
    unfold x1
    refine keep_recheck ?_
    refine keep_forEach ?_ ?_
    · intro a3 a4 h5
      exact keep_createStream h5
    · exact k0
  clear_value x1
  refine keep_startCopies ?_
  refine keep_forEach ?_ ?_
  · intro a6 a7 h8
    exact keep_bindStage h8
  · exact h2

theorem keep_metList {s0 : State} {a0 a1 a2 s} (k0 : Rel s0 s) :
    Rel s0 (metList a0 a1 a2 s) := by
  unfold metList
  extract_lets +onlyGivenNames -merge -underBinder x0
  try clear_value x0
  exact ite_keep (P := Rel s0) k0 (keep_meetInput k0)

theorem keep_refuseLoad {s0 : State} {a0 a1 s} (k0 : Rel s0 s) :
    Rel s0 (refuseLoad a0 a1 s) := by
  unfold refuseLoad
  exact keep_completeOrWait k0

theorem keep_loadImage {s0 : State} {a0 a1 a2 s} (k0 : Rel s0 s) :
    Rel s0 (loadImage a0 a1 a2 s) := by
  unfold loadImage
  extract_lets +onlyGivenNames -merge -underBinder x0 x1 x2 x3
  try clear_value x0 x1 x2 x3
  split
  · exact keep_refuseLoad k0
  · split
    · exact keep_refuseLoad (ite_keep (P := Rel s0) (keep_setB k0) k0)
    · split
      · exact keep_refuseLoad k0
      · split
        · exact keep_refuseLoad k0
        · rename_i y4 q5
          have h6 : Rel s0 y4 := by
            exact of_eq_some (P := Rel s0) q5 (keep_placeJob k0)
          exact keep_done (keep_createStreams h6)

theorem keep_jobLoad {s0 : State} {a0 a1 a2 s} (k0 : Rel s0 s) :
    Rel s0 (jobLoad a0 a1 a2 s) := by
  unfold jobLoad
  refine keep_withInput ?_ ?_
  · intro a0 a1 h2
    extract_lets +onlyGivenNames -merge -underBinder x3
    have h4 : Rel s0 x3 := keep_metList h2
    clear_value x3
    split
    · exact keep_loadImage h4
    · exact keep_refuseLoad h4
    · exact keep_inputFailed h4
  · exact k0

theorem keep_execJobLoad {s0 : State} {a0 a1 a2 s} (k0 : Rel s0 s) :
    PNext (Rel s0) (execJobLoad a0 a1 a2 s) := by
  unfold execJobLoad
  refine keep_beginSettled ?_ ?_
  · intro a0 a1 h2
    exact keep_jobLoad h2
  · exact k0

/-! ### Jobs -/

theorem keep_pushItem {s0 : State} {a0 a1 s} (k0 : Rel s0 s) :
    Rel s0 (pushItem a0 a1 s) := by
  unfold pushItem
  exact keep_adjStream k0

theorem keep_onStream {s0 : State} {a0 a1 s} (k0 : ∀ z0, ∀ z1, ∀ z2, Rel s0 z2 → Rel s0 (a1 z0 z1 z2)) (k1 : Rel s0 s) :
    Rel s0 (onStream a0 a1 s) := by
  unfold onStream
  extract_lets +onlyGivenNames -merge -underBinder x0
  try clear_value x0
  split
  · exact k1
  · extract_lets +onlyGivenNames -merge -underBinder x1
    try clear_value x1
    split
    · exact keep_completeFor k1
    · exact keep_completeFor k1
    · refine k0 _ _ _ ?_
      · exact k1

theorem keep_onLive {s0 : State} {a0 a1 s} (k0 : ∀ z0, ∀ z1, ∀ z2, Rel s0 z2 → Rel s0 (a1 z0 z1 z2)) (k1 : Rel s0 s) :
    Rel s0 (onLive a0 a1 s) := by
  unfold onLive
  refine keep_onStream ?_ ?_
  · intro a0 a1 a2 h3
    refine ite_keep (P := Rel s0) ?_ ?_
    · exact keep_refuseFormat h3
    · refine k0 _ _ _ ?_
      · exact h3
  · exact k1

theorem keep_chunk {s0 : State} {a0 s} (k0 : Rel s0 s) :
    Rel s0 (chunk a0 s) := by
  unfold chunk
  refine keep_onLive ?_ ?_
  · intro a0 a1 a2 h3
    exact ite_keep (P := Rel s0) (keep_refuseFormat h3) (keep_pushItem h3)
  · exact k0

theorem keep_execChunk {s0 : State} {a0 s} (k0 : Rel s0 s) :
    PNext (Rel s0) (execChunk a0 s) := by
  unfold execChunk
  refine keep_beginSettled ?_ ?_
  · intro a0 a1 h2
    exact keep_chunk h2
  · exact k0

theorem keep_chunkTriggered {s0 : State} {a0 s} (k0 : Rel s0 s) :
    Rel s0 (chunkTriggered a0 s) := by
  unfold chunkTriggered
  refine keep_onLive ?_ ?_
  · intro a0 a1 a2 h3
    extract_lets +onlyGivenNames -merge -underBinder x4
    try clear_value x4
    refine ite_keep (P := Rel s0) ?_ ?_
    · exact keep_refuseFormat h3
    · refine ite_keep (P := Rel s0) ?_ ?_
      · exact keep_refuseFormat h3
      · exact ite_keep (P := Rel s0) (keep_refuseFormat h3) (keep_pushItem (ite_keep (P := Rel s0) h3 (keep_adjStream h3)))
  · exact k0

theorem keep_execChunkTriggered {s0 : State} {a0 s} (k0 : Rel s0 s) :
    PNext (Rel s0) (execChunkTriggered a0 s) := by
  unfold execChunkTriggered
  refine keep_beginSettled ?_ ?_
  · intro a0 a1 h2
    exact keep_chunkTriggered h2
  · exact k0

theorem keep_closeFrame {s0 : State} {a0 a1 s} (k0 : Rel s0 s) :
    Rel s0 (closeFrame a0 a1 s) := by
  unfold closeFrame
  split
  · extract_lets +onlyGivenNames -merge -underBinder x0
    try clear_value x0
    exact ite_keep (P := Rel s0) (keep_dropStage k0) k0
  · exact k0

theorem keep_reopenFrame {s0 : State} {a0 s} (k0 : Rel s0 s) :
    Rel s0 (reopenFrame a0 s) := by
  unfold reopenFrame
  split
  · refine ite_keep (P := Rel s0) ?_ ?_
    · exact k0
    · split
      · exact keep_openFrame k0
      · exact k0
  · exact k0

theorem keep_endItem {s0 : State} {a0 a1 a2 s} (k0 : Rel s0 s) :
    Rel s0 (endItem a0 a1 a2 s) := by
  unfold endItem
  split
  · exact k0
  · extract_lets +onlyGivenNames -merge -underBinder x0
    have h1 : Rel s0 x0 := keep_dropItem (keep_closeFrame k0)
    clear_value x0
    extract_lets +onlyGivenNames -merge -underBinder x2
    have h3 : Rel s0 x2 := by
      unfold x2
      split
      · exact keep_completeFor h1
      · exact h1
    clear_value x2
    exact keep_reopenFrame h3

theorem keep_endItems {s0 : State} {a0 a1 a2 s} (k0 : Rel s0 s) :
    Rel s0 (endItems a0 a1 a2 s) := by
  unfold endItems
  refine keep_forEach ?_ ?_
  · intro a0 a1 h2
    exact keep_endItem h2
  · exact k0

theorem keep_cancel {s0 : State} {a0 s} (k0 : Rel s0 s) :
    Rel s0 (cancel a0 s) := by
  unfold cancel
  refine keep_onStream ?_ ?_
  · intro a0 a1 a2 h3
    extract_lets +onlyGivenNames -merge -underBinder x4 x5 x6
    try clear_value x4 x5 x6
    refine keep_done ?_
    refine keep_forEach ?_ ?_
    · intro a7 a8 h9
      exact keep_completeFor h9
    · exact keep_endItems h3
  · exact k0

theorem keep_execCancel {s0 : State} {a0 s} (k0 : Rel s0 s) :
    PNext (Rel s0) (execCancel a0 s) := by
  unfold execCancel
  refine keep_beginSettled ?_ ?_
  · intro a0 a1 h2
    exact keep_cancel h2
  · exact k0

theorem keep_queueSwap {s0 : State} {a0 a1 a2 a3 s} (k0 : ∀ z0, ∀ z1, Rel s0 z1 → Rel s0 (a3 z0 z1)) (k1 : Rel s0 s) :
    Rel s0 (queueSwap a0 a1 a2 a3 s) := by
  unfold queueSwap
  refine keep_onLive ?_ ?_
  · intro a0 a1 a2 h3
    extract_lets +onlyGivenNames -merge -underBinder x4
    try clear_value x4
    refine ite_keep (P := Rel s0) ?_ ?_
    · exact keep_refuseFormat h3
    · refine ite_keep (P := Rel s0) ?_ ?_
      · exact keep_refuseFormat h3
      · refine keep_pushItem ?_
        refine k0 _ _ ?_
        · exact h3
  · exact k1

theorem keep_execStreamSwap {s0 : State} {a0 a1 s} (k0 : Rel s0 s) :
    PNext (Rel s0) (execStreamSwap a0 a1 s) := by
  unfold execStreamSwap
  refine keep_beginSettled ?_ ?_
  · intro a0 a1 h2
    refine keep_queueSwap ?_ ?_
    · intro a3 a4 h5
      exact h5
    · exact h2
  · exact k0

theorem keep_execStreamSwapForced {s0 : State} {a0 a1 s} (k0 : Rel s0 s) :
    PNext (Rel s0) (execStreamSwapForced a0 a1 s) := by
  unfold execStreamSwapForced
  refine keep_beginSettled ?_ ?_
  · intro a0 a1 h2
    refine keep_queueSwap ?_ ?_
    · intro a3 a4 h5
      exact keep_endItems h5
    · exact h2
  · exact k0

theorem keep_loadWords {s0 : State} {a0 a1 s} (k0 : Rel s0 s) :
    Rel s0 (loadWords a0 a1 s) := by
  unfold loadWords
  exact rel_upd k0

theorem keep_loadState {s0 : State} {a0 a1 s} (k0 : Rel s0 s) :
    Rel s0 (loadState a0 a1 s) := by
  unfold loadState
  exact keep_loadWords (keep_zeroStream k0)

theorem keep_afterSwap {s0 : State} {a0 s} (k0 : Rel s0 s) :
    Rel s0 (afterSwap a0 s) := by
  unfold afterSwap
  exact keep_adjStream k0

theorem keep_doSwap {s0 : State} {a0 a1 s} (k0 : Rel s0 s) :
    Rel s0 (doSwap a0 a1 s) := by
  unfold doSwap
  split
  · extract_lets +onlyGivenNames -merge -underBinder x0
    have h1 : Rel s0 x0 := keep_openInput (keep_dropItem k0)
    clear_value x0
    split
    · split
      · rename_i y2 y3 q4
        have h5 : Rel s0 y3 := by
          exact of_eq (P := (PSnd (Rel s0))) q4 (keep_makeOutput h1)
        exact keep_completeFor (keep_afterSwap (keep_loadState h5))
    · exact keep_inputFailed h1
  · exact k0

theorem keep_execStreamRetire {s0 : State} {a0 s} (k0 : Rel s0 s) :
    PNext (Rel s0) (execStreamRetire a0 s) := by
  unfold execStreamRetire
  refine keep_beginSettled ?_ ?_
  · intro a0 a1 h2
    refine keep_onLive ?_ ?_
    · intro a3 a4 a5 h6
      exact keep_pushItem (keep_adjStream h6)
    · exact h2
  · exact k0

theorem keep_unloadJob {s0 : State} {a0 a1 a2 s} (k0 : Rel s0 s) :
    Rel s0 (unloadJob a0 a1 a2 s) := by
  unfold unloadJob
  extract_lets +onlyGivenNames -merge -underBinder x0
  have h1 : Rel s0 x0 := by
    unfold x0
    refine keep_forEach ?_ ?_
    · intro a2 a3 h4
      exact keep_adjStream (keep_endItems h4)
    · exact k0
  clear_value x0
  extract_lets +onlyGivenNames -merge -underBinder x5
  have h6 : ∀ a7, ∀ a8, Rel s0 a8 → Rel s0 (x5 a7 a8) := by
    unfold x5
    intro a7 a8 h9
    exact keep_adjJob h9
  clear_value x5
  split
  · refine h6 _ _ ?_
    · exact h1
  · refine h6 _ _ ?_
    · exact h1
  · extract_lets +onlyGivenNames -merge -underBinder x10
    have h11 : Rel s0 x10 := keep_setJobBit h1
    clear_value x10
    extract_lets +onlyGivenNames -merge -underBinder x12
    have h13 : Rel s0 x12 := by
      unfold x12
      refine keep_forEach ?_ ?_
      · intro a14 a15 h16
        exact keep_completeId h16
      · exact h11
    clear_value x12
    refine keep_showFault ?_
    refine h6 _ _ ?_
    · exact h13
  · refine keep_showFault ?_
    refine h6 _ _ ?_
    · exact keep_setJobBit h1

theorem keep_execJobUnload {s0 : State} {a0 s} (k0 : Rel s0 s) :
    PNext (Rel s0) (execJobUnload a0 s) := by
  unfold execJobUnload
  refine keep_beginSettled ?_ ?_
  · intro a0 a1 h2
    extract_lets +onlyGivenNames -merge -underBinder x3
    try clear_value x3
    split
    · exact keep_refuseFormat h2
    · exact keep_unloadJob h2
  · exact k0

theorem keep_restartJob {s0 : State} {a0 a1 a2 s} (k0 : Rel s0 s) :
    Rel s0 (restartJob a0 a1 a2 s) := by
  unfold restartJob
  extract_lets +onlyGivenNames -merge -underBinder x0
  have h1 : ∀ a2, Rel s0 a2 → Rel s0 (x0 a2) := by
    unfold x0
    intro a2 h3
    exact keep_jobReset (ite_keep (P := Rel s0) (keep_enterHusk h3) h3)
  clear_value x0
  split
  · exact keep_adjJob k0
  · refine h1 _ ?_
    · exact k0
  · refine h1 _ ?_
    · exact k0
  · refine h1 _ ?_
    · exact k0

theorem keep_execJobRestart {s0 : State} {a0 s} (k0 : Rel s0 s) :
    PNext (Rel s0) (execJobRestart a0 s) := by
  unfold execJobRestart
  refine keep_beginSettled ?_ ?_
  · intro a0 a1 h2
    extract_lets +onlyGivenNames -merge -underBinder x3
    try clear_value x3
    split
    · exact keep_refuseFormat h2
    · exact keep_restartJob h2
  · exact k0

/-! ### Dealer -/

theorem keep_freeScratch {s0 : State} {d s} (k0 : Rel s0 s) : Rel s0 (freeScratch d s) :=
  rel_mem (b := { s with freeCtr := s.freeCtr + 1 }) (rel_upd k0) (memRefill_wf _ _ _)

theorem keep_beginTrick {s0 : State} {a0 a1 a2 s} (k0 : Rel s0 s) :
    Rel s0 (beginTrick a0 a1 a2 s) := by
  unfold beginTrick
  extract_lets +onlyGivenNames -merge -underBinder x0 x1 x2
  try clear_value x0 x1 x2
  extract_lets +onlyGivenNames -merge -underBinder x3
  have h4 : Rel s0 x3 := ite_keep (P := Rel s0) (keep_invalidateHalves (keep_freeScratch k0)) k0
  clear_value x3
  extract_lets +onlyGivenNames -merge -underBinder x5 x6
  have h7 : Rel s0 x5 := keep_zeroBanks h4
  clear_value x5
  have h8 : Rel s0 x6 := ite_keep (P := Rel s0) h4 (keep_adjDie (rel_upd h7))
  clear_value x6
  extract_lets +onlyGivenNames -merge -underBinder x9 x10 x11 x12
  try clear_value x9 x10 x11 x12
  exact keep_adjDie h8

theorem keep_writeParams {s0 : State} {a0 a1 a2 a3 s} (k0 : Rel s0 s) :
    Rel s0 (writeParams a0 a1 a2 a3 s) := by
  unfold writeParams
  split
  · exact ite_keep (P := Rel s0) (keep_store k0) k0
  · exact k0

theorem keep_startChunk {s0 : State} {a0 a1 s} (k0 : Rel s0 s) :
    Rel s0 (startChunk a0 a1 s) := by
  unfold startChunk
  split
  · extract_lets +onlyGivenNames -merge -underBinder x0
    have h1 : Rel s0 x0 := keep_adjItem k0
    clear_value x0
    extract_lets +onlyGivenNames -merge -underBinder x2
    have h3 : Rel s0 x2 := keep_adjStream h1
    clear_value x2
    refine keep_forEach ?_ ?_
    · intro a4 a5 h6
      exact keep_adjDie (keep_writeParams h6)
    · exact h3
  · exact k0

theorem keep_runItem {s0 : State} {a0 a1 a2 a3 s} (k0 : Rel s0 s) :
    Rel s0 (runItem a0 a1 a2 a3 s) := by
  unfold runItem
  extract_lets +onlyGivenNames -merge -underBinder x0
  have h1 : Rel s0 x0 := by
    unfold x0
    split
    · exact keep_startChunk k0
    · exact keep_adjStream (keep_adjItem k0)
    · exact k0
  clear_value x0
  exact keep_beginTrick h1

theorem keep_startDummy {s0 : State} {a0 a1 a2 s} (k0 : Rel s0 s) :
    Rel s0 (startDummy a0 a1 a2 s) := by
  unfold startDummy
  split
  · exact k0
  · extract_lets +onlyGivenNames -merge -underBinder x0
    try clear_value x0
    extract_lets +onlyGivenNames -merge -underBinder x1
    have h2 : Rel s0 x1 := keep_adjStream k0
    clear_value x1
    refine keep_forEach ?_ ?_
    · intro a3 a4 h5
      extract_lets +onlyGivenNames -merge -underBinder x6
      have h7 : Rel s0 x6 := by
        unfold x6
        refine keep_forEach ?_ ?_
        · intro a8 a9 h10
          exact keep_setToken h10
        · exact h5
      clear_value x6
      extract_lets +onlyGivenNames -merge -underBinder x11
      have h12 : Rel s0 x11 := keep_store h7
      clear_value x11
      exact keep_adjDie h12
    · exact h2

theorem keep_runDummy {s0 : State} {a0 a1 a2 s} (k0 : Rel s0 s) :
    Rel s0 (runDummy a0 a1 a2 s) := by
  unfold runDummy
  exact keep_beginTrick (ite_keep (P := Rel s0) k0 (keep_startDummy k0))

theorem keep_markJumped {s0 : State} {a0 s} (k0 : Rel s0 s) :
    Rel s0 (markJumped a0 s) := by
  unfold markJumped
  split
  · exact keep_adjStream k0
  · exact k0

theorem keep_clearGang {s0 : State} {a0 s} (k0 : Rel s0 s) :
    Rel s0 (clearGang a0 s) := by
  unfold clearGang
  refine keep_forEach ?_ ?_
  · intro a0 a1 h2
    exact keep_adjDie h2
  · exact k0

theorem keep_tryGang {s0 : State} {a0 s} (k0 : Rel s0 s) :
    Rel s0 (tryGang a0 s) := by
  unfold tryGang
  split
  · exact k0
  · refine ite_keep (P := Rel s0) ?_ ?_
    · exact k0
    · extract_lets +onlyGivenNames -merge -underBinder x0
      try clear_value x0
      refine keep_forEach ?_ ?_
      · intro a1 a2 h3
        split
        · extract_lets +onlyGivenNames -merge -underBinder x4
          try clear_value x4
          exact keep_runItem h3
      · exact keep_clearGang k0

theorem keep_serve {s0 : State} {a0 a1 s} (k0 : Rel s0 s) :
    Rel s0 (serve a0 a1 s) := by
  unfold serve
  split
  · exact k0
  · refine ite_keep (P := Rel s0) ?_ ?_
    · split
      · exact keep_runItem k0
      · exact k0
    · refine keep_tryGang ?_
      refine keep_forEach ?_ ?_
      · intro a0 a1 h2
        exact keep_adjDie h2
      · exact k0

theorem keep_endSwap {s0 : State} {a0 s} (k0 : Rel s0 s) :
    Rel s0 (endSwap a0 s) := by
  unfold endSwap
  split
  · extract_lets +onlyGivenNames -merge -underBinder x0
    have h1 : Rel s0 x0 := keep_adjDie k0
    clear_value x0
    extract_lets +onlyGivenNames -merge -underBinder x2
    have h3 : Rel s0 x2 := keep_adjRun h1
    clear_value x2
    extract_lets +onlyGivenNames -merge -underBinder x4
    have h5 : Rel s0 x4 := keep_adjStream h3
    clear_value x4
    split
    · split
      · exact ite_keep (P := Rel s0) (keep_doSwap h5) h5
      · exact h5
    · exact h5
  · exact k0

theorem keep_chooseFlexible {s0 : State} {a0 s} (k0 : Rel s0 s) :
    Rel s0 (chooseFlexible a0 s) := by
  unfold chooseFlexible
  split
  · exact keep_serve k0
  · split
    · exact keep_runDummy k0
    · exact k0

theorem keep_chooseHeld {s0 : State} {a0 s} (k0 : Rel s0 s) :
    Rel s0 (chooseHeld a0 s) := by
  unfold chooseHeld
  split
  · exact keep_chooseFlexible k0
  · exact ite_keep (P := Rel s0) (keep_tryGang k0) (keep_chooseFlexible (keep_clearGang k0))

theorem keep_choose {s0 : State} {a0 s} (k0 : Rel s0 s) :
    Rel s0 (choose a0 s) := by
  unfold choose
  split
  · exact keep_runItem k0
  · extract_lets +onlyGivenNames -merge -underBinder x0 x1
    try clear_value x0 x1
    split
    · refine ite_keep (P := Rel s0) ?_ ?_
      · split
        · exact keep_runItem k0
        · exact k0
      · extract_lets +onlyGivenNames -merge -underBinder x2
        have h3 : Rel s0 x2 := keep_markJumped k0
        clear_value x2
        exact keep_runDummy h3
    · split
      · exact keep_runItem k0
      · split
        · exact keep_runItem k0
        · exact keep_chooseHeld k0

theorem keep_trickBoundary {s0 : State} {a0 s} (k0 : Rel s0 s) :
    Rel s0 (trickBoundary a0 s) := by
  unfold trickBoundary
  extract_lets +onlyGivenNames -merge -underBinder x0
  have h1 : Rel s0 x0 := keep_endSwap k0
  clear_value x0
  exact ite_keep (P := Rel s0) h1 (keep_choose h1)

theorem keep_readChunkInput {s0 : State} {a0 a1 a2 s} (k0 : Rel s0 s) :
    Rel s0 (readChunkInput a0 a1 a2 s) := by
  unfold readChunkInput
  split
  · exact k0
  · refine ite_keep (P := Rel s0) ?_ ?_
    · exact k0
    · extract_lets +onlyGivenNames -merge -underBinder x0
      have h1 : Rel s0 x0 := keep_openInput k0
      clear_value x0
      split
      · exact keep_endChunk (keep_noteT0 h1)
      · exact h1
      · exact h1

theorem keep_readStarted {s0 : State} {a0 s a2} (k0 : Rel s0 s) (k1 : Rel s0 a2) :
    Rel s0 (readStarted a0 s a2) := by
  unfold readStarted
  refine keep_forEach ?_ ?_
  · intro a0 a1 h2
    split
    · exact ite_keep (P := Rel s0) h2 (keep_readChunkInput h2)
    · exact h2
  · exact k1

theorem keep_execTrickBoundary {s0 : State} {a0 a1 s} (k0 : Rel s0 s) :
    PNext (Rel s0) (execTrickBoundary a0 a1 s) := by
  unfold execTrickBoundary
  refine keep_settled ?_ ?_
  · intro a0 h1
    exact keep_readStarted h1 (keep_trickBoundary h1)
  · exact k0

theorem keep_trickOverrun {s0 : State} {a0 s} (k0 : Rel s0 s) :
    Rel s0 (trickOverrun a0 s) := by
  unfold trickOverrun
  split
  · exact k0
  · exact k0
  · split
    · exact k0
    · extract_lets +onlyGivenNames -merge -underBinder x0
      have h1 : Rel s0 x0 := keep_adjDie k0
      clear_value x0
      extract_lets +onlyGivenNames -merge -underBinder x2
      have h3 : Rel s0 x2 := keep_incF (keep_endTrick h1)
      clear_value x2
      exact keep_raiseCause (keep_postEvent h3)

theorem keep_execTrickOverrun {s0 : State} {a0 s} (k0 : Rel s0 s) :
    PNext (Rel s0) (execTrickOverrun a0 s) := by
  unfold execTrickOverrun
  refine keep_settled ?_ ?_
  · intro a0 h1
    exact keep_trickOverrun h1
  · exact k0

theorem keep_dummyForced {s0 : State} {a0 s} (k0 : Rel s0 s) :
    Rel s0 (dummyForced a0 s) := by
  unfold dummyForced
  split
  · exact k0
  · exact ite_keep (P := Rel s0) (keep_adjStream k0) k0

theorem keep_execDummyForcedPoint {s0 : State} {a0 s} (k0 : Rel s0 s) :
    PNext (Rel s0) (execDummyForcedPoint a0 s) := by
  unfold execDummyForcedPoint
  refine keep_settled ?_ ?_
  · intro a0 h1
    exact keep_dummyForced h1
  · exact k0

theorem keep_execSequenceWord {s0 : State} {a0 a1 s} (k0 : Rel s0 s) :
    PNext (Rel s0) (execSequenceWord a0 a1 s) := by
  unfold execSequenceWord
  refine keep_settled ?_ ?_
  · intro a0 h1
    exact keep_seqStep h1
  · exact k0

theorem keep_execBarrierPass {s0 : State} {a0 s} (k0 : Rel s0 s) :
    PNext (Rel s0) (execBarrierPass a0 s) := by
  unfold execBarrierPass
  refine keep_settled ?_ ?_
  · intro a0 h1
    exact keep_barrierPass (keep_barrierPass h1)
  · exact k0

theorem keep_execFetchThreadDone {s0 : State} {a0 a1 a2 s} (k0 : Rel s0 s) :
    PNext (Rel s0) (execFetchThreadDone a0 a1 a2 s) := by
  unfold execFetchThreadDone
  refine keep_settled ?_ ?_
  · intro a0 h1
    exact keep_fetchDone h1
  · exact k0

theorem keep_execPendingRowLanded {s0 : State} {a0 a1 s} (k0 : Rel s0 s) :
    PNext (Rel s0) (execPendingRowLanded a0 a1 s) := by
  unfold execPendingRowLanded
  refine keep_settled ?_ ?_
  · intro a0 h1
    exact keep_rowLanded h1
  · exact k0

theorem keep_execCheapPathChoice {s0 : State} {a0 s} (k0 : Rel s0 s) :
    PNext (Rel s0) (execCheapPathChoice a0 s) := by
  unfold execCheapPathChoice
  refine keep_settled ?_ ?_
  · intro a0 h1
    exact keep_cheapChoice h1
  · exact k0

theorem keep_execPageStep {s0 : State} {a0 a1 s} (k0 : Rel s0 s) :
    PNext (Rel s0) (execPageStep a0 a1 s) := by
  unfold execPageStep
  refine keep_settled ?_ ?_
  · intro a0 h1
    exact keep_pageStep h1
  · exact k0

theorem keep_linkFailed {s0 : State} {a0 a1 a2 s} (k0 : Rel s0 s) :
    Rel s0 (linkFailed a0 a1 a2 s) := by
  unfold linkFailed
  extract_lets +onlyGivenNames -merge -underBinder x0
  try clear_value x0
  extract_lets +onlyGivenNames -merge -underBinder x1
  have h2 : Rel s0 x1 := by
    unfold x1
    refine keep_forEach ?_ ?_
    · intro a3 a4 h5
      split
      · exact keep_adjDie (keep_setB h5)
    · exact k0
  clear_value x1
  extract_lets +onlyGivenNames -merge -underBinder x6
  have h7 : Rel s0 x6 := keep_postEvent h2
  clear_value x6
  refine keep_forEach ?_ ?_
  · intro a8 a9 h10
    exact keep_raiseCause h10
  · exact h7

theorem keep_execLinkFailed {s0 : State} {a0 a1 a2 s} (k0 : Rel s0 s) :
    PNext (Rel s0) (execLinkFailed a0 a1 a2 s) := by
  unfold execLinkFailed
  refine keep_settled ?_ ?_
  · intro a0 h1
    exact keep_linkFailed h1
  · exact k0

theorem keep_execDieLinkReplay {s0 : State} {a0 a1 s} (k0 : Rel s0 s) :
    PNext (Rel s0) (execDieLinkReplay a0 a1 s) := by
  unfold execDieLinkReplay
  refine next_keep ?_
  refine keep_onlyIf ?_ ?_
  · intro a0 h1
    exact keep_incF (keep_setB h1)
  · exact k0

/-! ### TableWrite -/

theorem keep_startEngine {s0 : State} {a0 s} (k0 : Rel s0 s) :
    Rel s0 (startEngine a0 s) := by
  unfold startEngine
  split
  · exact ite_keep (P := Rel s0) (keep_planActivate k0) k0
  · exact keep_queueActivation k0
  · exact k0

theorem keep_tableWrite {s0 : State} {a0 a1 s} (k0 : Rel s0 s) :
    Rel s0 (tableWrite a0 a1 s) := by
  unfold tableWrite
  split
  · refine ite_keep (P := Rel s0) ?_ ?_
    · exact keep_refuseFormat k0
    · refine keep_withInput ?_ ?_
      · intro a0 a1 h2
        extract_lets +onlyGivenNames -merge -underBinder x3
        try clear_value x3
        refine ite_keep (P := Rel s0) ?_ ?_
        · exact keep_refuseFormat h2
        · refine ite_keep (P := Rel s0) ?_ ?_
          · exact keep_refuseFormat h2
          · refine ite_keep (P := Rel s0) ?_ ?_
            · exact keep_refuseFormat h2
            · extract_lets +onlyGivenNames -merge -underBinder x4
              try clear_value x4
              exact keep_startEngine (keep_offerTable h2)
      · exact k0

theorem keep_treeWriteOf {s0 : State} {a0 a1 s} (k0 : Rel s0 s) :
    Rel s0 (treeWriteOf a0 a1 s) := by
  unfold treeWriteOf
  refine keep_withInput ?_ ?_
  · intro a0 a1 h2
    exact keep_treeWrite h2
  · exact k0

theorem keep_setpointWrite {s0 : State} {a0 a1 s} (k0 : Rel s0 s) :
    Rel s0 (setpointWrite a0 a1 s) := by
  unfold setpointWrite
  refine keep_withInput ?_ ?_
  · intro a0 a1 h2
    refine ite_keep (P := Rel s0) ?_ ?_
    · exact keep_refuseFormat h2
    · refine ite_keep (P := Rel s0) ?_ ?_
      · exact keep_refuseFormat h2
      · refine keep_queueCommit ?_
        refine keep_forEach ?_ ?_
        · intro a3 a4 h5
          exact keep_hostEntry h5
        · exact h2
  · exact k0

theorem keep_execTableWrite {s0 : State} {a0 a1 s} (k0 : Rel s0 s) :
    PNext (Rel s0) (execTableWrite a0 a1 s) := by
  unfold execTableWrite
  refine ite_keep (P := (PNext (Rel s0))) ?_ ?_
  · refine keep_beginSettled ?_ ?_
    · intro a0 a1 h2
      exact keep_tableWrite h2
    · exact k0
  · exact next_keep k0

theorem keep_execTreeWrite {s0 : State} {a0 a1 s} (k0 : Rel s0 s) :
    PNext (Rel s0) (execTreeWrite a0 a1 s) := by
  unfold execTreeWrite
  refine ite_keep (P := (PNext (Rel s0))) ?_ ?_
  · refine keep_beginSettled ?_ ?_
    · intro a0 a1 h2
      exact keep_treeWriteOf h2
    · exact k0
  · exact next_keep k0

theorem keep_execSetpointWrite {s0 : State} {a0 a1 s} (k0 : Rel s0 s) :
    PNext (Rel s0) (execSetpointWrite a0 a1 s) := by
  unfold execSetpointWrite
  refine ite_keep (P := (PNext (Rel s0))) ?_ ?_
  · refine keep_beginSettled ?_ ?_
    · intro a0 a1 h2
      exact keep_setpointWrite h2
    · exact k0
  · exact next_keep k0

/-! ### Power -/

theorem keep_keepMap {s0 : State} {s a1} (k0 : Rel s0 s) (k1 : Rel s0 a1) :
    Rel s0 (keepMap s a1) := by
  unfold keepMap
  extract_lets +onlyGivenNames -merge -underBinder x0
  have h1 : Rel s0 x0 := keep_setF k1
  clear_value x0
  extract_lets +onlyGivenNames -merge -underBinder x2
  have h3 : Rel s0 x2 := keep_setB h1
  clear_value x2
  extract_lets +onlyGivenNames -merge -underBinder x4
  have h5 : Rel s0 x4 := keep_setF h3
  clear_value x4
  extract_lets +onlyGivenNames -merge -underBinder x6
  have h7 : Rel s0 x6 := keep_setB h5
  clear_value x6
  exact keep_setF h7

theorem keep_comeOn {s0 : State} {a0 a1 s} (k0 : Rel s0 s) :
    Rel s0 (comeOn a0 a1 s) := by
  unfold comeOn
  extract_lets +onlyGivenNames -merge -underBinder x0
  have h1 : Rel s0 x0 := k0
  clear_value x0
  extract_lets +onlyGivenNames -merge -underBinder x2
  have h3 : Rel s0 x2 := ite_keep (P := Rel s0) k0 (keep_resetBlock k0)
  clear_value x2
  extract_lets +onlyGivenNames -merge -underBinder x4 x5
  try clear_value x4
  have h6 : Rel s0 x5 := rel_upd h3
  clear_value x5
  split
  · refine ite_keep (P := Rel s0) ?_ ?_
    · extract_lets +onlyGivenNames -merge -underBinder x7
      try clear_value x7
      exact keep_setF (keep_restDie h6)
    · exact ite_keep (P := Rel s0) (keep_zeroMem h6) h6
  · split
    · exact keep_afterStep (keep_timeReload h6)
    · refine keep_forEach ?_ ?_
      · intro a8 a9 h10
        exact keep_toProbing h10
      · exact h6
    · exact keep_setLim h6
    · exact keep_showPlan (keep_keepMap h1 h6)
    · exact keep_setB (ite_keep (P := Rel s0) (keep_restoreAxes h6) h6)
    · exact h6

theorem keep_driveWakeN {s0 : State} {s} (k0 : Rel s0 s) :
    Rel s0 (driveWakeN s) := by
  unfold driveWakeN
  exact ite_keep (P := Rel s0) (keep_emit (keep_setPower k0)) k0

theorem keep_startTransition {s0 : State} {a0 s} (k0 : Rel s0 s) :
    Rel s0 (startTransition a0 s) := by
  unfold startTransition
  exact keep_advance (keep_setTrans k0)

theorem keep_runPowerState {s0 : State} {a0 s} (k0 : Rel s0 s) :
    Rel s0 (runPowerState a0 s) := by
  unfold runPowerState
  extract_lets +onlyGivenNames -merge -underBinder x0 x1 x2
  try clear_value x0 x1 x2
  refine ite_keep (P := Rel s0) ?_ ?_
  · exact keep_done k0
  · split
    · exact keep_refuseFormat k0
    · extract_lets +onlyGivenNames -merge -underBinder x3 x4 x5
      try clear_value x3 x4
      have h6 : Rel s0 x5 := ite_keep (P := Rel s0) (keep_setPower (keep_done k0)) k0
      clear_value x5
      exact keep_startTransition h6

theorem keep_execPowerState {s0 : State} {a0 s} (k0 : Rel s0 s) :
    PNext (Rel s0) (execPowerState a0 s) := by
  unfold execPowerState
  extract_lets +onlyGivenNames -merge -underBinder x0 x1
  try clear_value x0 x1
  refine ite_keep (P := (PNext (Rel s0))) ?_ ?_
  · exact next_keep k0
  · refine keep_beginSettled ?_ ?_
    · intro a2 a3 h4
      exact ite_keep (P := Rel s0) (keep_runPowerState h4) (keep_refuseFormat h4)
    · exact k0

theorem keep_startWake {s0 : State} {s} (k0 : Rel s0 s) :
    Rel s0 (startWake s) := by
  unfold startWake
  extract_lets +onlyGivenNames -merge -underBinder x0
  have h1 : Rel s0 x0 := keep_pwrEvent k0
  clear_value x0
  split
  · extract_lets +onlyGivenNames -merge -underBinder x2
    have h3 : Rel s0 x2 := by
      unfold x2
      refine keep_forEach ?_ ?_
      · intro a4 a5 h6
        exact keep_pwrEvent h6
      · exact h1
    clear_value x2
    exact keep_startTransition h3

theorem keep_fireWake {s0 : State} {a0 s} (k0 : Rel s0 s) :
    Rel s0 (fireWake a0 s) := by
  unfold fireWake
  refine ite_keep (P := Rel s0) ?_ ?_
  · exact k0
  · extract_lets +onlyGivenNames -merge -underBinder x0
    have h1 : Rel s0 x0 := keep_setF k0
    clear_value x0
    exact ite_keep (P := Rel s0) (keep_setB h1) (keep_startWake h1)

theorem keep_fireAlarm {s0 : State} {s} (k0 : Rel s0 s) :
    Rel s0 (fireAlarm s) := by
  unfold fireAlarm
  exact keep_fireWake (keep_setPower k0)

theorem keep_alarmWrite {s0 : State} {a0 a1 s} (k0 : Rel s0 s) :
    Rel s0 (alarmWrite a0 a1 s) := by
  unfold alarmWrite
  extract_lets +onlyGivenNames -merge -underBinder x0
  have h1 : Rel s0 x0 := keep_setR k0
  clear_value x0
  extract_lets +onlyGivenNames -merge -underBinder x2 x3
  try clear_value x2
  have h4 : Rel s0 x3 := keep_setPower h1
  clear_value x3
  exact ite_keep (P := Rel s0) (keep_fireAlarm h4) h4

theorem keep_execWakeSource {s0 : State} {a0 s} (k0 : Rel s0 s) :
    PNext (Rel s0) (execWakeSource a0 s) := by
  unfold execWakeSource
  refine keep_settled ?_ ?_
  · intro a0 h1
    exact ite_keep (P := Rel s0) (keep_fireAlarm h1) (keep_fireWake h1)
  · exact k0

theorem keep_execAlarm {s0 : State} {s} (k0 : Rel s0 s) :
    PNext (Rel s0) (execAlarm s) := by
  unfold execAlarm
  refine keep_settled ?_ ?_
  · intro a0 h1
    exact keep_fireAlarm h1
  · exact k0

theorem keep_execWakeReplay {s0 : State} {s} (k0 : Rel s0 s) :
    PNext (Rel s0) (execWakeReplay s) := by
  unfold execWakeReplay
  refine keep_settled ?_ ?_
  · intro a0 h1
    exact keep_startWake (keep_setB h1)
  · exact k0

theorem keep_perstHigh {s0 : State} {s} (k0 : Rel s0 s) :
    Rel s0 (perstHigh s) := by
  unfold perstHigh
  extract_lets +onlyGivenNames -merge -underBinder x0 x1
  try clear_value x0
  have h2 : Rel s0 x1 := keep_setPower k0
  clear_value x1
  extract_lets +onlyGivenNames -merge -underBinder x3 x4
  try clear_value x3
  have h5 : Rel s0 x4 := ite_keep (P := Rel s0) (keep_emit (keep_setPower h2)) h2
  clear_value x4
  exact keep_fireWake h5

theorem keep_execPerstNDeassert {s0 : State} {s} (k0 : Rel s0 s) :
    PNext (Rel s0) (execPerstNDeassert s) := by
  unfold execPerstNDeassert
  refine keep_settled ?_ ?_
  · intro a0 h1
    exact keep_perstHigh h1
  · exact k0

theorem keep_edgeIn {s0 : State} {a0 a1 s} (k0 : Rel s0 s) :
    Rel s0 (edgeIn a0 a1 s) := by
  unfold edgeIn
  extract_lets +onlyGivenNames -merge -underBinder x0
  try clear_value x0
  extract_lets +onlyGivenNames -merge -underBinder x1
  have h2 : Rel s0 x1 := ite_keep (P := Rel s0) (keep_captureEdge k0) k0
  clear_value x1
  exact ite_keep (P := Rel s0) (keep_fireWake h2) h2

theorem keep_execCaptureEdge {s0 : State} {a0 a1 s} (k0 : Rel s0 s) :
    PNext (Rel s0) (execCaptureEdge a0 a1 s) := by
  unfold execCaptureEdge
  refine keep_settled ?_ ?_
  · intro a0 h1
    exact keep_edgeIn h1
  · exact k0

theorem keep_arriveDomain {s0 : State} {a0 a1 a2 a3 s} (k0 : Rel s0 s) :
    Rel s0 (arriveDomain a0 a1 a2 a3 s) := by
  unfold arriveDomain
  split
  · exact k0
  · extract_lets +onlyGivenNames -merge -underBinder x0
    have h1 : Rel s0 x0 := keep_setDomain k0
    clear_value x0
    extract_lets +onlyGivenNames -merge -underBinder x2 x3
    have h4 : Rel s0 x2 := keep_comeOn h1
    clear_value x2
    have h5 : Rel s0 x3 := by
      unfold x3
      exact ite_keep (P := Rel s0) h1 (ite_keep (P := Rel s0) (ite_keep (P := Rel s0) (keep_driveWakeN h4) h4) (keep_loseDomain h1))
    clear_value x3
    exact keep_adjTrans h5

theorem keep_podsFailed {s0 : State} {a0 s} (k0 : Rel s0 s) :
    Rel s0 (podsFailed a0 s) := by
  unfold podsFailed
  split
  · rename_i y0 y1 q2
    have h3 : Rel s0 y1 := by
      exact of_eq (P := (PSnd (Rel s0))) q2 (keep_freeNat k0)
    extract_lets +onlyGivenNames -merge -underBinder x4
    have h5 : Rel s0 x4 := by
      unfold x4
      refine keep_forEach ?_ ?_
      · intro a6 a7 h8
        exact keep_setB (keep_setB h8)
      · exact h3
    clear_value x4
    extract_lets +onlyGivenNames -merge -underBinder x9
    have h10 : Rel s0 x9 := keep_setB h5
    clear_value x9
    exact keep_memEvent h10

theorem keep_missDomain {s0 : State} {a0 a1 a2 s} (k0 : Rel s0 s) :
    Rel s0 (missDomain a0 a1 a2 s) := by
  unfold missDomain
  refine ite_keep (P := Rel s0) ?_ ?_
  · exact keep_failTemp k0
  · extract_lets +onlyGivenNames -merge -underBinder x0
    have h1 : Rel s0 x0 := by
      unfold x0
      split
      · exact ite_keep (P := Rel s0) (keep_podsFailed k0) k0
      · exact k0
    clear_value x0
    exact keep_failDomain h1

theorem keep_domainDone {s0 : State} {a0 a1 s} (k0 : Rel s0 s) :
    Rel s0 (domainDone a0 a1 s) := by
  unfold domainDone
  split
  · exact k0
  · exact keep_advance (ite_keep (P := Rel s0) (keep_arriveDomain k0) (keep_missDomain k0))

theorem keep_execDomainTransitionDone {s0 : State} {a0 a1 s} (k0 : Rel s0 s) :
    PNext (Rel s0) (execDomainTransitionDone a0 a1 s) := by
  unfold execDomainTransitionDone
  refine keep_settled ?_ ?_
  · intro a0 h1
    exact keep_domainDone h1
  · exact k0

theorem keep_riseDie {s0 : State} {a0 s} (k0 : Rel s0 s) :
    Rel s0 (riseDie a0 s) := by
  unfold riseDie
  extract_lets +onlyGivenNames -merge -underBinder x0 x1
  try clear_value x0
  have h2 : Rel s0 x1 := ite_keep (P := Rel s0) (keep_setLim k0) k0
  clear_value x1
  split
  · exact ite_keep (P := Rel s0) (keep_adjDieLim h2) h2
  · exact h2

theorem keep_railAck {s0 : State} {a0 s} (k0 : Rel s0 s) :
    Rel s0 (railAck a0 s) := by
  unfold railAck
  split
  · exact k0
  · extract_lets +onlyGivenNames -merge -underBinder x0
    have h1 : Rel s0 x0 := keep_setRail k0
    clear_value x0
    extract_lets +onlyGivenNames -merge -underBinder x2 x3
    try clear_value x2
    have h4 : Rel s0 x3 := ite_keep (P := Rel s0) (keep_riseDie h1) (keep_setLim h1)
    clear_value x3
    exact keep_settleRails (keep_advance h4)

theorem keep_execAvsResponse {s0 : State} {a0 s} (k0 : Rel s0 s) :
    PNext (Rel s0) (execAvsResponse a0 s) := by
  unfold execAvsResponse
  refine keep_settled ?_ ?_
  · intro a0 h1
    exact keep_railAck h1
  · exact k0

theorem keep_failRail {s0 : State} {a0 s} (k0 : Rel s0 s) :
    Rel s0 (failRail a0 s) := by
  unfold failRail
  extract_lets +onlyGivenNames -merge -underBinder x0 x1
  try clear_value x0
  have h2 : Rel s0 x1 := keep_setRail k0
  clear_value x1
  extract_lets +onlyGivenNames -merge -underBinder x3
  have h4 : Rel s0 x3 := keep_setF h2
  clear_value x3
  extract_lets +onlyGivenNames -merge -underBinder x5
  have h6 : Rel s0 x5 := keep_pwrEvent h4
  clear_value x5
  exact ite_keep (P := Rel s0) (keep_adjDieLim h6) h6

theorem keep_railTimeout {s0 : State} {a0 s} (k0 : Rel s0 s) :
    Rel s0 (railTimeout a0 s) := by
  unfold railTimeout
  split
  · exact k0
  · refine ite_keep (P := Rel s0) ?_ ?_
    · exact k0
    · exact ite_keep (P := Rel s0) (keep_incF (keep_emit (keep_setRail k0))) (keep_settleRails (keep_advance (keep_failRail k0)))

theorem keep_execAvsTimeout {s0 : State} {a0 s} (k0 : Rel s0 s) :
    PNext (Rel s0) (execAvsTimeout a0 s) := by
  unfold execAvsTimeout
  refine keep_settled ?_ ?_
  · intro a0 h1
    exact keep_railTimeout h1
  · exact k0

theorem keep_pllFailed {s0 : State} {a0 s} (k0 : Rel s0 s) :
    Rel s0 (pllFailed a0 s) := by
  unfold pllFailed
  split
  · exact k0
  · refine keep_advance ?_
    refine keep_forEach ?_ ?_
    · intro a0 a1 h2
      exact keep_missDomain h2
    · exact k0

theorem keep_execPllLockTimeout {s0 : State} {a0 s} (k0 : Rel s0 s) :
    PNext (Rel s0) (execPllLockTimeout a0 s) := by
  unfold execPllLockTimeout
  refine keep_settled ?_ ?_
  · intro a0 h1
    exact keep_pllFailed h1
  · exact k0

/-! ### Boot -/

theorem keep_setUpd {s0 : State} {a0 s} (k0 : Rel s0 s) :
    Rel s0 (setUpd a0 s) := by
  unfold setUpd
  exact rel_upd k0

theorem keep_setSlot {s0 : State} {a0 a1 s} (k0 : Rel s0 s) :
    Rel s0 (setSlot a0 a1 s) := by
  unfold setSlot
  exact keep_setUpd k0

theorem keep_setSlotState {s0 : State} {a0 a1 s} (k0 : Rel s0 s) :
    Rel s0 (setSlotState a0 a1 s) := by
  unfold setSlotState
  exact keep_setSlot k0

theorem keep_writeRecord {s0 : State} {s} (k0 : Rel s0 s) :
    Rel s0 (writeRecord s) := by
  unfold writeRecord
  exact keep_setUpd k0

theorem keep_raiseEpoch {s0 : State} {e s} (k0 : Rel s0 s) : Rel s0 (raiseEpoch e s) := by
  unfold raiseEpoch
  split
  · exact k0
  · rename_i h
    refine keep_forEach (fun k t ht => ?_)
      (rel_sec k0 ⟨Nat.le_refl _, id, Nat.le_of_lt (Nat.lt_of_not_le h), fun _ x => x, fun _ x => x, fun _ _ x => x⟩)
    exact ite_keep (P := Rel s0) (keep_setSlotState ht) ht

theorem keep_completeEpoch {s0 : State} {s} (k0 : Rel s0 s) :
    Rel s0 (completeEpoch s) := by
  unfold completeEpoch
  split
  · exact k0
  · exact keep_writeRecord (keep_setUpd (keep_raiseEpoch k0))

theorem keep_tryBoot {s0 : State} {n k r s} (k0 : Rel s0 s) : PSnd (PSnd (Rel s0)) (tryBoot n k r s) := by
  induction n generalizing k r s with
  | zero => exact k0
  | succ n ih =>
    unfold tryBoot
    exact ite_keep (P := PSnd (PSnd (Rel s0))) (ite_keep (P := PSnd (PSnd (Rel s0))) k0 (ih (keep_setSlotState k0))) (ih k0)

theorem keep_bootSlot {s0 : State} {a0 s} (k0 : Rel s0 s) :
    Rel s0 (bootSlot a0 s) := by
  unfold bootSlot
  extract_lets +onlyGivenNames -merge -underBinder x0
  try clear_value x0
  extract_lets +onlyGivenNames -merge -underBinder x1
  have h2 : Rel s0 x1 := ite_keep (P := Rel s0) (keep_setSlotState k0) k0
  clear_value x1
  exact keep_writeRecord (keep_setUpd h2)

theorem keep_updEvent {s0 : State} {a0 a1 s} (k0 : Rel s0 s) :
    Rel s0 (updEvent a0 a1 s) := by
  unfold updEvent
  exact keep_postEvent k0

theorem keep_secEvent {s0 : State} {a0 a1 s} (k0 : Rel s0 s) :
    Rel s0 (secEvent a0 a1 s) := by
  unfold secEvent
  exact keep_postEvent k0

theorem keep_fallbackEvent {s0 : State} {a0 a1 s} (k0 : Rel s0 s) :
    Rel s0 (fallbackEvent a0 a1 s) := by
  unfold fallbackEvent
  split
  · exact keep_updEvent k0
  · split
    · rename_i y0 y1 q2
      have h3 : Rel s0 y1 := by
        exact of_eq (P := (PSnd (Rel s0))) q2 (keep_freeNat k0)
      exact keep_updEvent h3

theorem keep_bootRom {s0 : State} {s} (k0 : Rel s0 s) :
    Rel s0 (bootRom s) := by
  unfold bootRom
  extract_lets +onlyGivenNames -merge -underBinder x0
  have h1 : Rel s0 x0 := keep_completeEpoch k0
  clear_value x0
  extract_lets +onlyGivenNames -merge -underBinder x2 x3
  try clear_value x2 x3
  extract_lets +onlyGivenNames -merge -underBinder x4
  have h5 : Rel s0 x4 := ite_keep (P := Rel s0) (keep_setSlotState h1) h1
  clear_value x4
  split
  · rename_i y6 y7 y8 q9
    have h10 : Rel s0 y8 := by
      exact of_eq (P := (PSnd (PSnd (Rel s0)))) q9 (keep_tryBoot h5)
    split
    · exact ite_keep (P := Rel s0) (keep_bootSlot h10) (keep_fallbackEvent (keep_bootSlot h10))
    · exact keep_updEvent (keep_setUpd h10)

/-! ### Resets -/

theorem keep_coldPins {s0 : State} {s} (k0 : Rel s0 s) :
    Rel s0 (coldPins s) := by
  unfold coldPins
  extract_lets +onlyGivenNames -merge -underBinder x0
  have h1 : Rel s0 x0 := ite_keep (P := Rel s0) (keep_emit (keep_emit k0)) k0
  clear_value x0
  exact ite_keep (P := Rel s0) (keep_emit h1) h1

theorem keep_lowPins {s0 : State} {s} (k0 : Rel s0 s) :
    Rel s0 (lowPins s) := by
  unfold lowPins
  extract_lets +onlyGivenNames -merge -underBinder x0
  have h1 : Rel s0 x0 := ite_keep (P := Rel s0) (keep_emit (keep_emit k0)) k0
  clear_value x0
  exact ite_keep (P := Rel s0) h1 (keep_emit h1)

theorem keep_logSessionEnd {s0 : State} {s} (k0 : Rel s0 s) :
    Rel s0 (logSessionEnd s) := by
  unfold logSessionEnd
  exact ite_keep (P := Rel s0) k0 (keep_logEvent k0)

theorem keep_halted {s0 : State} {s} (k0 : Rel s0 s) : Rel s0 (halted s) :=
  ⟨k0.pending, k0.tx, ⟨k0.fuses.1, k0.fuses.2, k0.fuses.3, k0.fuses.4, k0.fuses.5, k0.fuses.6⟩,
    fun c => ⟨memFilter_wf _ (k0.canon c).mem, ((keep_resetRegs (Rel.refl s)).canon (k0.canon c)).regs, rfl, rfl, rfl, rfl⟩⟩

theorem keep_stopModule {s0 : State} {a0 s} (k0 : Rel s0 s) :
    Rel s0 (stopModule a0 s) := by
  unfold stopModule
  extract_lets +onlyGivenNames -merge -underBinder x0
  have h1 : Rel s0 x0 := keep_lowPins (keep_endPulses (keep_logSessionEnd k0))
  clear_value x0
  refine keep_forEach ?_ ?_
  · intro a2 a3 h4
    exact keep_showRetired h4
  · exact keep_incF (keep_setF (keep_halted h1))

theorem keep_release {s0 : State} {s} (k0 : Rel s0 s) :
    Rel s0 (release s) := by
  unfold release
  exact rel_upd k0

theorem keep_pinHostSel {s0 : State} {a0 s} (k0 : Rel s0 s) :
    Rel s0 (pinHostSel a0 s) := by
  unfold pinHostSel
  exact keep_setPower k0

theorem keep_sampleHost {s0 : State} {s} (k0 : Rel s0 s) :
    Rel s0 (sampleHost s) := by
  unfold sampleHost
  exact keep_setB k0

theorem keep_moduleReset {s0 : State} {a0 s} (k0 : Rel s0 s) :
    Rel s0 (moduleReset a0 s) := by
  unfold moduleReset
  exact keep_release (keep_sampleHost (keep_stopModule k0))

theorem keep_mrstFalls {s0 : State} {s} (k0 : Rel s0 s) :
    Rel s0 (mrstFalls s) := by
  unfold mrstFalls
  extract_lets +onlyGivenNames -merge -underBinder x0 x1
  try clear_value x0
  have h2 : Rel s0 x1 := keep_setPower k0
  clear_value x1
  exact ite_keep (P := Rel s0) h2 (keep_stopModule h2)

theorem keep_mrstRises {s0 : State} {a0 s} (k0 : Rel s0 s) :
    Rel s0 (mrstRises a0 s) := by
  unfold mrstRises
  extract_lets +onlyGivenNames -merge -underBinder x0 x1
  try clear_value x0
  have h2 : Rel s0 x1 := keep_setPower k0
  clear_value x1
  exact ite_keep (P := Rel s0) h2 (ite_keep (P := Rel s0) (keep_setPower h2) (keep_release (keep_sampleHost h2)))

theorem keep_releaseCool {s0 : State} {s} (k0 : Rel s0 s) :
    Rel s0 (releaseCool s) := by
  unfold releaseCool
  exact ite_keep (P := Rel s0) (keep_release (keep_sampleHost (keep_setPower k0))) k0

theorem keep_execMrstNRelease {s0 : State} {a0 s} (k0 : Rel s0 s) :
    PNext (Rel s0) (execMrstNRelease a0 s) := by
  unfold execMrstNRelease
  refine next_keep ?_
  refine keep_onlyIf ?_ ?_
  · intro a0 h1
    exact keep_mrstRises h1
  · exact k0

theorem keep_execPwrReset {s0 : State} {a0 a1 s} (k0 : Rel s0 s) :
    PNext (Rel s0) (execPwrReset a0 a1 s) := by
  unfold execPwrReset
  refine next_keep ?_
  refine keep_onlyIf ?_ ?_
  · intro a0 h1
    exact keep_moduleReset (ite_keep (P := Rel s0) (keep_saveNow (keep_pinHostSel h1)) (keep_pinHostSel h1))
  · exact k0

theorem keep_coldState {s0 : State} {p s} (k0 : Rel s0 s) : Rel s0 (coldState p s) := by
  unfold coldState
  refine keep_forEach (fun _ _ h => keep_setB (keep_setB h)) ?_
  exact ⟨k0.pending, k0.tx, ⟨k0.fuses.1, k0.fuses.2, k0.fuses.3, k0.fuses.4, k0.fuses.5, k0.fuses.6⟩,
    fun c => ⟨memFilter_wf _ (k0.canon c).mem, ((keep_resetRegs (Rel.refl s)).canon (k0.canon c)).regs, rfl, rfl, rfl, rfl⟩⟩

theorem keep_coldStart {s0 : State} {a0 a1 s} (k0 : Rel s0 s) :
    Rel s0 (coldStart a0 a1 s) := by
  unfold coldStart
  extract_lets +onlyGivenNames -merge -underBinder x0
  have h1 : Rel s0 x0 := keep_coldState (keep_coldPins k0)
  clear_value x0
  exact keep_sampleHost (keep_setPower h1)

theorem keep_execColdReset {s0 : State} {a0 a1 a2 s} (k0 : Rel s0 s) :
    PNext (Rel s0) (execColdReset a0 a1 a2 s) := by
  unfold execColdReset
  refine next_keep ?_
  refine keep_onlyIf ?_ ?_
  · intro a0 h1
    exact keep_coldStart h1
  · exact k0

theorem keep_dropSupply {s0 : State} {a0 s} (k0 : Rel s0 s) :
    Rel s0 (dropSupply a0 s) := by
  unfold dropSupply
  extract_lets +onlyGivenNames -merge -underBinder x0
  have h1 : Rel s0 x0 := keep_coldState (keep_coldPins k0)
  clear_value x0
  exact keep_setPower h1

theorem keep_execLockout {s0 : State} {a0 s} (k0 : Rel s0 s) :
    PNext (Rel s0) (execLockout a0 s) := by
  unfold execLockout
  refine next_keep ?_
  refine keep_onlyIf ?_ ?_
  · intro a0 h1
    exact keep_dropSupply h1
  · exact k0

theorem keep_execOvervoltageShutdown {s0 : State} {s} (k0 : Rel s0 s) :
    PNext (Rel s0) (execOvervoltageShutdown s) := by
  unfold execOvervoltageShutdown
  refine next_keep ?_
  refine keep_onlyIf ?_ ?_
  · intro a0 h1
    exact keep_dropSupply h1
  · exact k0

theorem keep_execSurge {s0 : State} {a0 s} (k0 : Rel s0 s) :
    PNext (Rel s0) (execSurge a0 s) := by
  unfold execSurge
  refine ite_keep (P := (PNext (Rel s0))) ?_ ?_
  · exact fault_keep
  · refine keep_settled ?_ ?_
    · intro a0 h1
      exact keep_pwrEvent h1
    · exact k0

theorem keep_startDomain {s0 : State} {a0 s} (k0 : Rel s0 s) :
    Rel s0 (startDomain a0 s) := by
  unfold startDomain
  extract_lets +onlyGivenNames -merge -underBinder x0
  try clear_value x0
  exact keep_comeOn (keep_setDomain k0)

theorem keep_startPods {s0 : State} {a0 a1 s} (k0 : Rel s0 s) :
    Rel s0 (startPods a0 a1 s) := by
  unfold startPods
  refine ite_keep (P := Rel s0) ?_ ?_
  · exact keep_podsFailed k0
  · refine keep_forEach ?_ ?_
    · intro a0 a1 h2
      exact keep_setB (keep_setB h2)
    · exact k0

theorem keep_startDomains {s0 : State} {a0 s} (k0 : Rel s0 s) :
    Rel s0 (startDomains a0 s) := by
  unfold startDomains
  extract_lets +onlyGivenNames -merge -underBinder x0
  try clear_value x0
  extract_lets +onlyGivenNames -merge -underBinder x1
  have h2 : Rel s0 x1 := by
    unfold x1
    refine ite_keep (P := Rel s0) ?_ ?_
    · exact k0
    · refine keep_forEach ?_ ?_
      · intro a3 a4 h5
        exact keep_startPods h5
      · exact k0
  clear_value x1
  extract_lets +onlyGivenNames -merge -underBinder x6
  try clear_value x6
  extract_lets +onlyGivenNames -merge -underBinder x7
  have h8 : Rel s0 x7 := by
    unfold x7
    refine keep_forEach ?_ ?_
    · intro a9 a10 h11
      exact keep_startDomain h11
    · exact h2
  clear_value x7
  extract_lets +onlyGivenNames -merge -underBinder x12
  have h13 : Rel s0 x12 := by
    unfold x12
    refine keep_forEach ?_ ?_
    · intro a14 a15 h16
      exact keep_pwrEvent h16
    · exact h8
  clear_value x12
  refine keep_forEach ?_ ?_
  · intro a17 a18 h19
    exact ite_keep (P := Rel s0) h19 (keep_loseDomain (keep_setDomain h19))
  · exact h13

theorem keep_startRail {s0 : State} {a0 a1 s} (k0 : Rel s0 s) :
    Rel s0 (startRail a0 a1 s) := by
  unfold startRail
  exact ite_keep (P := Rel s0) k0 (keep_emit (keep_setRail k0))

theorem keep_startRails {s0 : State} {s} (k0 : Rel s0 s) :
    Rel s0 (startRails s) := by
  unfold startRails
  refine keep_startRail ?_
  refine keep_forEach ?_ ?_
  · intro a0 a1 h2
    exact keep_startRail h2
  · exact k0

theorem keep_ready {s0 : State} {a0 s} (k0 : Rel s0 s) :
    Rel s0 (ready a0 s) := by
  unfold ready
  extract_lets +onlyGivenNames -merge -underBinder x0
  have h1 : Rel s0 x0 := keep_startRails (keep_startDomains (keep_bootRom k0))
  clear_value x0
  extract_lets +onlyGivenNames -merge -underBinder x2
  have h3 : Rel s0 x2 := keep_setB (rel_upd h1)
  clear_value x2
  exact keep_showFault (keep_pwrEvent h3)

theorem keep_execFwReady {s0 : State} {a0 s} (k0 : Rel s0 s) :
    PNext (Rel s0) (execFwReady a0 s) := by
  unfold execFwReady
  refine keep_settled ?_ ?_
  · intro a0 h1
    exact keep_ready h1
  · exact k0

theorem keep_startAttach {s0 : State} {s} (k0 : Rel s0 s) :
    Rel s0 (startAttach s) := by
  unfold startAttach
  extract_lets +onlyGivenNames -merge -underBinder x0
  have h1 : ∀ a2, ∀ a3, Rel s0 a3 → Rel s0 (x0 a2 a3) := by
    unfold x0
    intro a2 a3 h4
    exact ite_keep (P := Rel s0) h4 (keep_startDomain h4)
  clear_value x0
  refine h1 _ _ ?_
  · refine h1 _ _ ?_
    · exact k0

theorem keep_linkUp {s0 : State} {s} (k0 : Rel s0 s) :
    Rel s0 (linkUp s) := by
  unfold linkUp
  extract_lets +onlyGivenNames -merge -underBinder x0
  have h1 : Rel s0 x0 := ite_keep (P := Rel s0) (keep_startAttach k0) k0
  clear_value x0
  exact ite_keep (P := Rel s0) (keep_setB h1) h1

theorem keep_execHostLinkUp {s0 : State} {s} (k0 : Rel s0 s) :
    PNext (Rel s0) (execHostLinkUp s) := by
  unfold execHostLinkUp
  refine next_keep ?_
  refine keep_onlyIf ?_ ?_
  · intro a0 h1
    exact keep_linkUp h1
  · exact k0

end Sys2Proof.Machine
end

