-- ==== Sys2Proof/Laws/KeepModule.lean ====
section
/-!
SUPPORT. What every change of state keeps: the limiter, margins, security, updates, the connectors, BAR0 and debug.
-/
namespace Sys2Proof.Machine
open Sys2Proof

set_option Elab.async false

/-! ### Limiter -/

theorem keep_fallTo {s0 : State} {a0 a1 a2 s} (k0 : Rel s0 s) :
    Rel s0 (fallTo a0 a1 a2 s) := by
  unfold fallTo
  extract_lets +onlyGivenNames -merge -underBinder x0
  have h1 : Rel s0 x0 := keep_adjDieLim (keep_accrue k0)
  clear_value x0
  exact ite_keep (P := Rel s0) h1 (keep_requestRail h1)

theorem keep_dropSlot {s0 : State} {a0 a1 s} (k0 : Rel s0 s) :
    Rel s0 (dropSlot a0 a1 s) := by
  unfold dropSlot
  exact keep_setSlots (keep_adjDieLim (keep_accrue k0))

theorem keep_rise {s0 : State} {a0 s} (k0 : Rel s0 s) :
    Rel s0 (rise a0 s) := by
  unfold rise
  extract_lets +onlyGivenNames -merge -underBinder x0 x1
  try clear_value x0 x1
  exact ite_keep (P := Rel s0) (keep_adjDieLim (keep_accrue k0)) (keep_requestRail (keep_adjDieLim k0))

theorem keep_addSlot {s0 : State} {a0 s} (k0 : Rel s0 s) :
    Rel s0 (addSlot a0 s) := by
  unfold addSlot
  exact keep_setSlots (keep_accrue k0)

theorem keep_showCap {s0 : State} {s} (k0 : Rel s0 s) :
    Rel s0 (showCap s) := by
  unfold showCap
  exact keep_setF k0

theorem keep_takeReading {s0 : State} {a0 s} (k0 : Rel s0 s) :
    Rel s0 (takeReading a0 s) := by
  unfold takeReading
  extract_lets +onlyGivenNames -merge -underBinder x0 x1
  try clear_value x0
  have h2 : Rel s0 x1 := keep_setLim k0
  clear_value x1
  extract_lets +onlyGivenNames -merge -underBinder x3
  have h4 : Rel s0 x3 := keep_setF (keep_setF h2)
  clear_value x3
  exact keep_setF (keep_setF h4)

theorem keep_takeIdle {s0 : State} {a0 s} (k0 : Rel s0 s) :
    PSnd (Rel s0) (takeIdle a0 s) := by
  unfold takeIdle
  extract_lets +onlyGivenNames -merge -underBinder x0 x1
  try clear_value x0 x1
  exact snd_keep (P := Rel s0) (keep_setDieLim k0)

theorem keep_takeBid {s0 : State} {a0 s} (k0 : Rel s0 s) :
    Rel s0 (takeBid a0 s) := by
  unfold takeBid
  split
  · rename_i y0 y1 q2
    have h3 : Rel s0 y1 := by
      exact of_eq (P := (PSnd (Rel s0))) q2 (keep_takeIdle (keep_accrue k0))
    extract_lets +onlyGivenNames -merge -underBinder x4 x5
    try clear_value x4 x5
    exact keep_adjDieLim h3

theorem keep_thermalCeiling {s0 : State} {a0 s} (k0 : Rel s0 s) :
    Rel s0 (thermalCeiling a0 s) := by
  unfold thermalCeiling
  extract_lets +onlyGivenNames -merge -underBinder x0
  try clear_value x0
  refine ite_keep (P := Rel s0) ?_ ?_
  · extract_lets +onlyGivenNames -merge -underBinder x1
    have h2 : Rel s0 x1 := keep_setDieLim k0
    clear_value x1
    exact ite_keep (P := Rel s0) (keep_dropSlot h2) h2
  · split
    · exact ite_keep (P := Rel s0) (keep_setDieLim k0) k0
    · exact k0

theorem keep_clearWaits {s0 : State} {s} (k0 : Rel s0 s) :
    Rel s0 (clearWaits s) := by
  unfold clearWaits
  exact keep_setLim k0

theorem keep_raiseBalance {s0 : State} {a0 a1 s} (k0 : Rel s0 s) :
    Rel s0 (raiseBalance a0 a1 s) := by
  unfold raiseBalance
  exact ite_keep (P := Rel s0) (keep_adjDieLim k0) (ite_keep (P := Rel s0) (keep_adjDieLim k0) k0)

theorem keep_lowerBalance {s0 : State} {a0 a1 a2 s} (k0 : Rel s0 s) :
    Rel s0 (lowerBalance a0 a1 a2 s) := by
  unfold lowerBalance
  exact ite_keep (P := Rel s0) (keep_adjDieLim k0) k0

theorem keep_takeStretch {s0 : State} {a0 s} (k0 : Rel s0 s) :
    PSnd (Rel s0) (takeStretch a0 s) := by
  unfold takeStretch
  extract_lets +onlyGivenNames -merge -underBinder x0 x1
  try clear_value x0 x1
  exact snd_keep (P := Rel s0) (keep_setDieLim k0)

theorem keep_stepDown {s0 : State} {a0 a1 a2 s} (k0 : Rel s0 s) :
    Rel s0 (stepDown a0 a1 a2 s) := by
  unfold stepDown
  extract_lets +onlyGivenNames -merge -underBinder x0 x1 x2 x3 x4 x5
  try clear_value x0 x1 x2 x3 x4 x5
  exact ite_keep (P := Rel s0) (keep_fallTo k0) (ite_keep (P := Rel s0) (keep_fallTo k0) k0)

theorem keep_checkPoints {s0 : State} {a0 s} (k0 : Rel s0 s) :
    Rel s0 (checkPoints a0 s) := by
  unfold checkPoints
  extract_lets +onlyGivenNames -merge -underBinder x0
  try clear_value x0
  refine ite_keep (P := Rel s0) ?_ ?_
  · extract_lets +onlyGivenNames -merge -underBinder x1 x2
    try clear_value x1
    have h3 : Rel s0 x2 := keep_limEvent (keep_setLim k0)
    clear_value x2
    refine keep_forEach ?_ ?_
    · intro a4 a5 h6
      exact keep_raiseCause h6
    · exact h3
  · exact ite_keep (P := Rel s0) (keep_setLim k0) k0

theorem keep_boundDie {s0 : State} {a0 a1 s} (k0 : Rel s0 s) :
    Rel s0 (boundDie a0 a1 s) := by
  unfold boundDie
  extract_lets +onlyGivenNames -merge -underBinder x0
  have h1 : Rel s0 x0 := keep_checkPoints k0
  clear_value x0
  split
  · rename_i y2 y3 q4
    have h5 : Rel s0 y3 := by
      exact of_eq (P := (PSnd (Rel s0))) q4 (keep_takeStretch h1)
    extract_lets +onlyGivenNames -merge -underBinder x6
    have h7 : Rel s0 x6 := ite_keep (P := Rel s0) (keep_limEvent h5) h5
    clear_value x6
    exact keep_stepDown h7

theorem keep_shed {s0 : State} {a0 a1 a2 s} (k0 : Rel s0 s) :
    PSnd (Rel s0) (shed a0 a1 a2 s) := by
  unfold shed
  exact ite_keep (P := (PSnd (Rel s0))) (snd_keep (P := Rel s0) (keep_fallTo k0)) (snd_keep (P := Rel s0) (keep_dropSlot k0))

theorem keep_shedAll {s0 : State} {r reason ns x} (k0 : PSnd (PSnd (Rel s0)) x) : PSnd (PSnd (Rel s0)) (shedAll r reason ns x) := by
  induction ns generalizing x with
  | nil => exact k0
  | cons n ns ih =>
    obtain ⟨need, k, s⟩ := x
    unfold shedAll
    refine ite_keep (P := PSnd (PSnd (Rel s0))) ?_ (ih k0)
    split
    rename_i e
    exact ih (of_eq (P := PSnd (Rel s0)) e (keep_shed k0))

theorem keep_raiseAll {s0 : State} {r ns x} (k0 : PSnd (Rel s0) x) : PSnd (Rel s0) (raiseAll r ns x) := by
  induction ns generalizing x with
  | nil => exact k0
  | cons n ns ih =>
    obtain ⟨spare, s⟩ := x
    unfold raiseAll
    exact ite_keep (P := PSnd (Rel s0)) (ih (keep_addSlot k0)) (ite_keep (P := PSnd (Rel s0)) (ih (keep_rise k0)) (ih k0))

theorem keep_capReached {s0 : State} {s} (k0 : Rel s0 s) :
    Rel s0 (capReached s) := by
  unfold capReached
  exact ite_keep (P := Rel s0) (keep_limEvent (keep_setB k0)) k0

theorem keep_capLoop {s0 : State} {a0 a1 s} (k0 : Rel s0 s) :
    Rel s0 (capLoop a0 a1 s) := by
  unfold capLoop
  extract_lets +onlyGivenNames -merge -underBinder x0 x1 x2
  try clear_value x0 x1 x2
  extract_lets +onlyGivenNames -merge -underBinder x3
  have h4 : Rel s0 x3 := keep_capReached k0
  clear_value x3
  refine ite_keep (P := Rel s0) ?_ ?_
  · extract_lets +onlyGivenNames -merge -underBinder x5
    try clear_value x5
    split
    · rename_i y6 y7 y8 q9
      have h10 : Rel s0 y8 := by
        exact of_eq (P := (PSnd (PSnd (Rel s0)))) q9 (keep_shedAll (snd_keep (P := (PSnd (Rel s0))) (snd_keep (P := Rel s0) h4)))
      exact ite_keep (P := Rel s0) (keep_limEvent (keep_setB h10)) h10
  · show (PSnd (Rel s0)) _
    exact keep_raiseAll (snd_keep (P := Rel s0) h4)

theorem keep_serveFloor {s0 : State} {a0 s} (k0 : Rel s0 s) :
    Rel s0 (serveFloor a0 s) := by
  unfold serveFloor
  refine ite_keep (P := Rel s0) ?_ ?_
  · exact k0
  · extract_lets +onlyGivenNames -merge -underBinder x0
    have h1 : Rel s0 x0 := ite_keep (P := Rel s0) (keep_setSlots (keep_accrue k0)) k0
    clear_value x0
    exact ite_keep (P := Rel s0) (keep_rise h1) h1

theorem keep_showFloor {s0 : State} {a0 s} (k0 : Rel s0 s) :
    Rel s0 (showFloor a0 s) := by
  unfold showFloor
  extract_lets +onlyGivenNames -merge -underBinder x0 x1 x2 x3
  try clear_value x0 x1 x2 x3
  exact ite_keep (P := Rel s0) (keep_limEvent (keep_setF k0)) (ite_keep (P := Rel s0) (keep_setF k0) k0)

theorem keep_decidePrime {s0 : State} {a0 a1 s} (k0 : Rel s0 s) :
    Rel s0 (decide' a0 a1 s) := by
  unfold decide'
  extract_lets +onlyGivenNames -merge -underBinder x0
  have h1 : Rel s0 x0 := by
    unfold x0
    refine keep_forEach ?_ ?_
    · intro a2 a3 h4
      exact keep_boundDie h4
    · exact k0
  clear_value x0
  extract_lets +onlyGivenNames -merge -underBinder x5
  have h6 : Rel s0 x5 := by
    unfold x5
    refine keep_forEach ?_ ?_
    · intro a7 a8 h9
      exact keep_serveFloor h9
    · exact h1
  clear_value x5
  exact keep_capLoop h6

theorem keep_decision {s0 : State} {a0 s} (k0 : Rel s0 s) :
    Rel s0 (decision a0 s) := by
  unfold decision
  extract_lets +onlyGivenNames -merge -underBinder x0
  have h1 : Rel s0 x0 := keep_showCap (keep_takeReading (keep_account k0))
  clear_value x0
  extract_lets +onlyGivenNames -merge -underBinder x2
  have h3 : Rel s0 x2 := by
    unfold x2
    refine keep_forEach ?_ ?_
    · intro a4 a5 h6
      exact keep_takeBid h6
    · exact h1
  clear_value x2
  extract_lets +onlyGivenNames -merge -underBinder x7
  have h8 : Rel s0 x7 := by
    unfold x7
    refine keep_forEach ?_ ?_
    · intro a9 a10 h11
      exact keep_thermalCeiling h11
    · exact h3
  clear_value x7
  extract_lets +onlyGivenNames -merge -underBinder x12
  try clear_value x12
  extract_lets +onlyGivenNames -merge -underBinder x13
  have h14 : Rel s0 x13 := by
    unfold x13
    refine keep_forEach ?_ ?_
    · intro a15 a16 h17
      exact keep_raiseBalance h17
    · exact h8
  clear_value x13
  extract_lets +onlyGivenNames -merge -underBinder x18
  have h19 : Rel s0 x18 := keep_decidePrime h14
  clear_value x18
  extract_lets +onlyGivenNames -merge -underBinder x20
  try clear_value x20
  extract_lets +onlyGivenNames -merge -underBinder x21
  have h22 : Rel s0 x21 := by
    unfold x21
    refine keep_forEach ?_ ?_
    · intro a23 a24 h25
      exact keep_lowerBalance h25
    · exact h14
  clear_value x21
  extract_lets +onlyGivenNames -merge -underBinder x26
  have h27 : Rel s0 x26 := keep_decidePrime (keep_clearWaits h22)
  clear_value x26
  refine keep_forEach ?_ ?_
  · intro a28 a29 h30
    exact keep_showFloor h30
  · exact h27

theorem keep_execLimiterDecision {s0 : State} {a0 s} (k0 : Rel s0 s) :
    PNext (Rel s0) (execLimiterDecision a0 s) := by
  unfold execLimiterDecision
  refine keep_settled ?_ ?_
  · intro a0 h1
    exact keep_decision h1
  · exact k0

theorem keep_droopDie {s0 : State} {a0 s} (k0 : Rel s0 s) :
    Rel s0 (droopDie a0 s) := by
  unfold droopDie
  exact ite_keep (P := Rel s0) k0 (keep_adjDieLim (keep_accrue k0))

theorem keep_execDroop {s0 : State} {a0 s} (k0 : Rel s0 s) :
    PNext (Rel s0) (execDroop a0 s) := by
  unfold execDroop
  refine keep_settled ?_ ?_
  · intro a0 h1
    exact keep_droopDie h1
  · exact k0

theorem keep_endDroop {s0 : State} {a0 s} (k0 : Rel s0 s) :
    Rel s0 (endDroop a0 s) := by
  unfold endDroop
  exact keep_adjDieLim (keep_accrue k0)

theorem keep_execSupplyRecovered {s0 : State} {a0 s} (k0 : Rel s0 s) :
    PNext (Rel s0) (execSupplyRecovered a0 s) := by
  unfold execSupplyRecovered
  refine keep_settled ?_ ?_
  · intro a0 h1
    exact keep_endDroop h1
  · exact k0

theorem keep_batteryIs {s0 : State} {a0 s} (k0 : Rel s0 s) :
    Rel s0 (batteryIs a0 s) := by
  unfold batteryIs
  exact ite_keep (P := Rel s0) k0 (keep_limEvent (keep_showCap (keep_setB k0)))

theorem keep_execBatteryLow {s0 : State} {a0 s} (k0 : Rel s0 s) :
    PNext (Rel s0) (execBatteryLow a0 s) := by
  unfold execBatteryLow
  refine keep_settled ?_ ?_
  · intro a0 h1
    exact keep_batteryIs h1
  · exact k0

theorem keep_tripGoals {s0 : State} {a0 s} (k0 : Rel s0 s) :
    Rel s0 (tripGoals a0 s) := by
  unfold tripGoals
  split
  · exact k0
  · extract_lets +onlyGivenNames -merge -underBinder x0
    have h1 : Rel s0 x0 := keep_adjTrans k0
    clear_value x0
    refine keep_forEach ?_ ?_
    · intro a2 a3 h4
      extract_lets +onlyGivenNames -merge -underBinder x5
      have h6 : Rel s0 x5 := keep_adjTrans h4
      clear_value x5
      exact ite_keep (P := Rel s0) (keep_adjTrans h6) (keep_pwrEvent (keep_adjTrans h6))
    · exact h1

theorem keep_cutDomain {s0 : State} {a0 s} (k0 : Rel s0 s) :
    Rel s0 (cutDomain a0 s) := by
  unfold cutDomain
  split
  · exact k0
  · exact keep_setDomain (keep_loseDomain (keep_leaveOn k0))
  · exact keep_setDomain (keep_loseDomain k0)
  · exact keep_setDomain (keep_loseDomain k0)

theorem keep_parkMem {s0 : State} {a0 s} (k0 : Rel s0 s) :
    Rel s0 (parkMem a0 s) := by
  unfold parkMem
  extract_lets +onlyGivenNames -merge -underBinder x0
  try clear_value x0
  split
  · exact keep_setDomain k0
  · split
    · exact keep_setDomain k0
    · exact k0
  · exact k0
  · exact k0

theorem keep_tripDie {s0 : State} {a0 s} (k0 : Rel s0 s) :
    Rel s0 (tripDie a0 s) := by
  unfold tripDie
  extract_lets +onlyGivenNames -merge -underBinder x0 x1
  try clear_value x0 x1
  extract_lets +onlyGivenNames -merge -underBinder x2
  have h3 : Rel s0 x2 := by
    unfold x2
    refine keep_forEach ?_ ?_
    · intro a4 a5 h6
      exact keep_cutDomain h6
    · exact k0
  clear_value x2
  extract_lets +onlyGivenNames -merge -underBinder x7
  have h8 : Rel s0 x7 := keep_parkMem h3
  clear_value x7
  extract_lets +onlyGivenNames -merge -underBinder x9
  have h10 : Rel s0 x9 := by
    unfold x9
    refine keep_forEach ?_ ?_
    · intro a11 a12 h13
      exact keep_cutDomain h13
    · exact h8
  clear_value x9
  extract_lets +onlyGivenNames -merge -underBinder x14
  have h15 : Rel s0 x14 := keep_tripGoals h10
  clear_value x14
  extract_lets +onlyGivenNames -merge -underBinder x16
  have h17 : Rel s0 x16 := keep_setF h15
  clear_value x16
  extract_lets +onlyGivenNames -merge -underBinder x18
  have h19 : Rel s0 x18 := keep_limEvent h17
  clear_value x18
  refine keep_forEach ?_ ?_
  · intro a20 a21 h22
    exact keep_raiseCause h22
  · exact h19

theorem keep_hardStep {s0 : State} {a0 s} (k0 : Rel s0 s) :
    Rel s0 (hardStep a0 s) := by
  unfold hardStep
  extract_lets +onlyGivenNames -merge -underBinder x0
  try clear_value x0
  extract_lets +onlyGivenNames -merge -underBinder x1
  have h2 : Rel s0 x1 := keep_adjDieLim k0
  clear_value x1
  extract_lets +onlyGivenNames -merge -underBinder x3
  have h4 : Rel s0 x3 := by
    unfold x3
    refine ite_keep (P := Rel s0) ?_ ?_
    · exact keep_adjDieLim (keep_fallTo h2)
    · exact ite_keep (P := Rel s0) (keep_adjDieLim (keep_dropSlot h2)) (keep_adjDieLim h2)
  clear_value x3
  exact keep_showFloor h4

theorem keep_sampleDie {s0 : State} {a0 a1 s} (k0 : Rel s0 s) :
    Rel s0 (sampleDie a0 a1 s) := by
  unfold sampleDie
  extract_lets +onlyGivenNames -merge -underBinder x0 x1 x2
  try clear_value x0 x1 x2
  extract_lets +onlyGivenNames -merge -underBinder x3
  have h4 : Rel s0 x3 := keep_setDieLim k0
  clear_value x3
  exact ite_keep (P := Rel s0) (keep_tripDie h4) (ite_keep (P := Rel s0) (keep_hardStep h4) h4)

theorem keep_tripHub {s0 : State} {s} (k0 : Rel s0 s) : Rel s0 (tripHub s) := by
  unfold tripHub
  extract_lets +onlyGivenNames -merge -underBinder x1 x2 x3 x4 x5
  have h1 : Rel s0 x1 := ite_keep (P := Rel s0) k0 (keep_logEvent k0)
  have h4 : Rel s0 x4 := keep_halted (keep_lowPins (keep_endPulses (keep_logEvent h1)))
  refine keep_setF (keep_setF ?_)
  exact ⟨h4.pending, h4.tx, ⟨h4.fuses.1, h4.fuses.2, h4.fuses.3, h4.fuses.4, h4.fuses.5, h4.fuses.6⟩,
    fun c => ⟨memFilter_wf _ (h4.canon c).mem, (h4.canon c).regs, (h4.canon c).jobs, (h4.canon c).streams, rfl, (h4.canon c).dies⟩⟩

theorem keep_sampleHub {s0 : State} {a0 s} (k0 : Rel s0 s) :
    Rel s0 (sampleHub a0 s) := by
  unfold sampleHub
  extract_lets +onlyGivenNames -merge -underBinder x0 x1 x2 x3
  try clear_value x0 x1 x2
  have h4 : Rel s0 x3 := keep_setLim k0
  clear_value x3
  extract_lets +onlyGivenNames -merge -underBinder x5
  have h6 : Rel s0 x5 := ite_keep (P := Rel s0) (keep_limEvent h4) h4
  clear_value x5
  exact ite_keep (P := Rel s0) (keep_tripHub h6) h6

theorem keep_showTemps {s0 : State} {a0 s} (k0 : Rel s0 s) :
    Rel s0 (showTemps a0 s) := by
  unfold showTemps
  exact keep_setF k0

theorem keep_thermalSample {s0 : State} {a0 s} (k0 : Rel s0 s) :
    Rel s0 (thermalSample a0 s) := by
  unfold thermalSample
  extract_lets +onlyGivenNames -merge -underBinder x0
  have h1 : Rel s0 x0 := keep_showTemps k0
  clear_value x0
  extract_lets +onlyGivenNames -merge -underBinder x2
  have h3 : Rel s0 x2 := by
    unfold x2
    refine ite_keep (P := Rel s0) ?_ ?_
    · refine keep_forEach ?_ ?_
      · intro a4 a5 h6
        exact keep_sampleDie h6
      · exact h1
    · exact h1
  clear_value x2
  exact keep_releaseCool (keep_sampleHub h3)

theorem keep_execThermalSample {s0 : State} {a0 s} (k0 : Rel s0 s) :
    PNext (Rel s0) (execThermalSample a0 s) := by
  unfold execThermalSample
  refine keep_settled ?_ ?_
  · intro a0 h1
    exact keep_thermalSample h1
  · exact k0

theorem keep_storePolicy {s0 : State} {a0 s} (k0 : Rel s0 s) :
    Rel s0 (storePolicy a0 s) := by
  unfold storePolicy
  extract_lets +onlyGivenNames -merge -underBinder x0
  have h1 : Rel s0 x0 := ite_keep (P := Rel s0) (keep_setF (keep_setF k0)) k0
  clear_value x0
  extract_lets +onlyGivenNames -merge -underBinder x2
  have h3 : Rel s0 x2 := ite_keep (P := Rel s0) (keep_setF h1) h1
  clear_value x2
  extract_lets +onlyGivenNames -merge -underBinder x4
  have h5 : Rel s0 x4 := ite_keep (P := Rel s0) (keep_setF h3) h3
  clear_value x4
  extract_lets +onlyGivenNames -merge -underBinder x6
  have h7 : Rel s0 x6 := ite_keep (P := Rel s0) (keep_setF h5) h5
  clear_value x6
  extract_lets +onlyGivenNames -merge -underBinder x8
  have h9 : Rel s0 x8 := ite_keep (P := Rel s0) (keep_setF h7) h7
  clear_value x8
  extract_lets +onlyGivenNames -merge -underBinder x10
  have h11 : Rel s0 x10 := ite_keep (P := Rel s0) (keep_setF (keep_setF h9)) h9
  clear_value x10
  exact keep_showCap h11

theorem keep_runPolicy {s0 : State} {a0 s} (k0 : Rel s0 s) :
    Rel s0 (runPolicy a0 s) := by
  unfold runPolicy
  extract_lets +onlyGivenNames -merge -underBinder x0 x1 x2
  try clear_value x0 x1 x2
  extract_lets +onlyGivenNames -merge -underBinder x3
  have h4 : Rel s0 x3 := keep_storePolicy k0
  clear_value x3
  extract_lets +onlyGivenNames -merge -underBinder x5
  have h6 : Rel s0 x5 := ite_keep (P := Rel s0) (keep_clampReport h4) h4
  clear_value x5
  extract_lets +onlyGivenNames -merge -underBinder x7
  have h8 : Rel s0 x7 := ite_keep (P := Rel s0) (keep_clampReport h6) h6
  clear_value x7
  extract_lets +onlyGivenNames -merge -underBinder x9
  try clear_value x9
  exact keep_completeOrWait h8

theorem keep_execPowerPolicy {s0 : State} {a0 s} (k0 : Rel s0 s) :
    PNext (Rel s0) (execPowerPolicy a0 s) := by
  unfold execPowerPolicy
  refine keep_beginSettled ?_ ?_
  · intro a0 a1 h2
    exact ite_keep (P := Rel s0) (keep_runPolicy h2) (keep_refuseFormat h2)
  · exact k0

/-! ### Margins -/

theorem keep_setGuard {s0 : State} {a0 a1 a2 s} (k0 : Rel s0 s) :
    Rel s0 (setGuard a0 a1 a2 s) := by
  unfold setGuard
  exact keep_setR k0

theorem keep_withdraw {s0 : State} {a0 a1 s} (k0 : Rel s0 s) :
    Rel s0 (withdraw a0 a1 s) := by
  unfold withdraw
  exact ite_keep (P := Rel s0) k0 (keep_hltEvent (keep_setF k0))

theorem keep_withdrawFrom {s0 : State} {a0 a1 s} (k0 : Rel s0 s) :
    Rel s0 (withdrawFrom a0 a1 s) := by
  unfold withdrawFrom
  extract_lets +onlyGivenNames -merge -underBinder x0 x1
  try clear_value x0 x1
  extract_lets +onlyGivenNames -merge -underBinder x2
  have h3 : Rel s0 x2 := by
    unfold x2
    refine keep_forEach ?_ ?_
    · intro a4 a5 h6
      exact keep_withdraw h6
    · exact k0
  clear_value x2
  extract_lets +onlyGivenNames -merge -underBinder x7
  have h8 : Rel s0 x7 := ite_keep (P := Rel s0) (keep_hltEvent h3) h3
  clear_value x7
  exact ite_keep (P := Rel s0) (keep_fallTo h8) h8

theorem keep_followGuard {s0 : State} {a0 s} (k0 : Rel s0 s) :
    Rel s0 (followGuard a0 s) := by
  unfold followGuard
  extract_lets +onlyGivenNames -merge -underBinder x0
  try clear_value x0
  exact ite_keep (P := Rel s0) k0 (keep_requestRail (keep_setLim k0))

theorem keep_replanDie {s0 : State} {a0 s} (k0 : Rel s0 s) :
    Rel s0 (replanDie a0 s) := by
  unfold replanDie
  extract_lets +onlyGivenNames -merge -underBinder x0
  try clear_value x0
  extract_lets +onlyGivenNames -merge -underBinder x1
  have h2 : Rel s0 x1 := rel_upd k0
  clear_value x1
  extract_lets +onlyGivenNames -merge -underBinder x3 x4
  try clear_value x3 x4
  extract_lets +onlyGivenNames -merge -underBinder x5
  have h6 : Rel s0 x5 := by
    unfold x5
    refine keep_forEach ?_ ?_
    · intro a7 a8 h9
      exact keep_hltEvent h9
    · exact h2
  clear_value x5
  extract_lets +onlyGivenNames -merge -underBinder x10 x11 x12 x13
  try clear_value x10 x11 x12 x13
  extract_lets +onlyGivenNames -merge -underBinder x14
  have h15 : Rel s0 x14 := by
    unfold x14
    refine keep_forEach ?_ ?_
    · intro a16 a17 h18
      exact keep_setGuard h18
    · exact h6
  clear_value x14
  extract_lets +onlyGivenNames -merge -underBinder x19
  try clear_value x19
  extract_lets +onlyGivenNames -merge -underBinder x20
  have h21 : Rel s0 x20 := by
    unfold x20
    split
    · exact keep_withdrawFrom h15
    · exact h15
  clear_value x20
  extract_lets +onlyGivenNames -merge -underBinder x22
  have h23 : Rel s0 x22 := keep_followGuard h21
  clear_value x22
  exact keep_hltEvent h23

theorem keep_setDue {s0 : State} {a0 s} (k0 : Rel s0 s) :
    Rel s0 (setDue a0 s) := by
  unfold setDue
  exact keep_setB (keep_setProg k0)

theorem keep_replanAll {s0 : State} {a0 s} (k0 : Rel s0 s) :
    Rel s0 (replanAll a0 s) := by
  unfold replanAll
  extract_lets +onlyGivenNames -merge -underBinder x0
  try clear_value x0
  extract_lets +onlyGivenNames -merge -underBinder x1
  have h2 : Rel s0 x1 := keep_setDue k0
  clear_value x1
  refine keep_forEach ?_ ?_
  · intro a3 a4 h5
    exact keep_replanDie h5
  · exact h2

theorem keep_replan {s0 : State} {s} (k0 : Rel s0 s) :
    Rel s0 (replan s) := by
  unfold replan
  exact keep_replanAll (keep_setProg k0)

theorem keep_execReplanPeriod {s0 : State} {s} (k0 : Rel s0 s) :
    PNext (Rel s0) (execReplanPeriod s) := by
  unfold execReplanPeriod
  refine keep_settled ?_ ?_
  · intro a0 h1
    exact ite_keep (P := Rel s0) (keep_replan h1) (ite_keep (P := Rel s0) (keep_replanAll h1) h1)
  · exact k0

theorem keep_hltCtrlWrite {s0 : State} {a0 a1 s} (k0 : Rel s0 s) :
    Rel s0 (hltCtrlWrite a0 a1 s) := by
  unfold hltCtrlWrite
  extract_lets +onlyGivenNames -merge -underBinder x0
  have h1 : Rel s0 x0 := keep_setR k0
  clear_value x0
  extract_lets +onlyGivenNames -merge -underBinder x2 x3
  try clear_value x2 x3
  extract_lets +onlyGivenNames -merge -underBinder x4
  have h5 : Rel s0 x4 := ite_keep (P := Rel s0) (keep_resetAxis h1) h1
  clear_value x4
  extract_lets +onlyGivenNames -merge -underBinder x6
  have h7 : Rel s0 x6 := ite_keep (P := Rel s0) (keep_keepAxis h5) h5
  clear_value x6
  exact ite_keep (P := Rel s0) (keep_replan h7) h7

theorem keep_execReplan {s0 : State} {a0 s} (k0 : Rel s0 s) :
    PNext (Rel s0) (execReplan a0 s) := by
  unfold execReplan
  refine keep_settled ?_ ?_
  · intro a0 h1
    exact keep_hltCtrlWrite h1
  · exact k0

theorem keep_execAxisReset {s0 : State} {a0 s} (k0 : Rel s0 s) :
    PNext (Rel s0) (execAxisReset a0 s) := by
  unfold execAxisReset
  refine keep_settled ?_ ?_
  · intro a0 h1
    exact keep_hltCtrlWrite h1
  · exact k0

theorem keep_execAxisKeep {s0 : State} {a0 s} (k0 : Rel s0 s) :
    PNext (Rel s0) (execAxisKeep a0 s) := by
  unfold execAxisKeep
  refine keep_settled ?_ ?_
  · intro a0 h1
    exact keep_hltCtrlWrite h1
  · exact k0

/-! ### Security -/

theorem keep_setSec {s0 : State} {x s} (k0 : Rel s0 s) (k1 : FusesKept s { s with sec := x } := by exact fuses_same) :
    Rel s0 (setSec x s) :=
  rel_sec k0 k1

theorem keep_respond {s0 : State} {a0 s} (k0 : Rel s0 s) :
    Rel s0 (respond a0 s) := by
  unfold respond
  exact keep_wrMem k0

theorem keep_endCmd {s0 : State} {a0 s} (k0 : Rel s0 s) :
    Rel s0 (endCmd a0 s) := by
  unfold endCmd
  exact keep_setF (keep_setSec k0)

theorem keep_startCmd {s0 : State} {a0 s} (k0 : Rel s0 s) :
    Rel s0 (startCmd a0 s) := by
  unfold startCmd
  exact ite_keep (P := Rel s0) k0 (ite_keep (P := Rel s0) (keep_setSec k0) (keep_setF k0))

theorem keep_fusesProgram {s0 : State} {s} (k0 : Rel s0 s) :
    PSnd (Rel s0) (fusesProgram s) := by
  unfold fusesProgram
  exact snd_keep (P := Rel s0) (rel_upd k0)

theorem keep_outcome {s0 : State} {a b c f s} (k0 : a = true → ∀ t, t.sec = s.sec → Rel s0 t → Rel s0 (f t)) (k1 : Rel s0 s) :
    Rel s0 (outcome a b c f s) := by
  unfold outcome
  split
  · exact keep_endCmd k1
  · rename_i ha
    refine ite_keep (P := Rel s0) (keep_endCmd k1) (ite_keep (P := Rel s0) (keep_endCmd k1) ?_)
    exact ite_keep (P := Rel s0) (keep_endCmd (k0 (by simpa using ha) _ rfl (rel_upd k1))) (keep_endCmd (rel_upd k1))

theorem keep_getIdentity {s0 : State} {s} (k0 : Rel s0 s) :
    Rel s0 (getIdentity s) := by
  unfold getIdentity
  exact keep_endCmd (keep_respond k0)

theorem keep_execGetIdentity {s0 : State} {s} (k0 : Rel s0 s) :
    PNext (Rel s0) (execGetIdentity s) := by
  unfold execGetIdentity
  refine keep_settled ?_ ?_
  · intro a0 h1
    exact keep_getIdentity h1
  · exact k0

theorem keep_claim {s0 : State} {s} (k0 : Rel s0 s) : Rel s0 (claim s) := by
  unfold claim
  extract_lets +onlyGivenNames -merge -underBinder x1 x2 x3
  refine keep_outcome (fun a t e h => ?_) k0
  have h1 : s.sec.lifecycle = 1 := by simpa using a
  refine keep_secEvent (keep_secEvent (keep_setSec h ⟨?_, fun _ => Nat.le_succ 2, Nat.le_refl _, fun _ x => x, fun _ x => x, fun _ _ x => x⟩))
  simp [e, h1]

theorem keep_execClaim {s0 : State} {s} (k0 : Rel s0 s) :
    PNext (Rel s0) (execClaim s) := by
  unfold execClaim
  refine keep_settled ?_ ?_
  · intro a0 h1
    exact keep_claim h1
  · exact k0

theorem keep_addOwnerKey {s0 : State} {s} (k0 : Rel s0 s) : Rel s0 (addOwnerKey s) := by
  unfold addOwnerKey
  extract_lets +onlyGivenNames -merge -underBinder x1 x2 x3
  refine keep_outcome (fun _ t _ h => ?_) k0
  exact keep_secEvent (keep_setSec h)

theorem keep_execAddOwnerKey {s0 : State} {s} (k0 : Rel s0 s) :
    PNext (Rel s0) (execAddOwnerKey s) := by
  unfold execAddOwnerKey
  refine keep_settled ?_ ?_
  · intro a0 h1
    exact keep_addOwnerKey h1
  · exact k0

theorem keep_revokeOwnerKey {s0 : State} {s} (k0 : Rel s0 s) : Rel s0 (revokeOwnerKey s) := by
  unfold revokeOwnerKey
  extract_lets +onlyGivenNames -merge -underBinder x1 x2
  refine keep_outcome (fun _ t _ h => ?_) k0
  refine ite_keep (P := Rel s0) h (keep_secEvent (keep_setSec h ?_))
  exact ⟨Nat.le_refl _, id, Nat.le_refl _, fun _ x => x, fun _ x => x, fun i _ x => putBits_one_keeps x⟩

theorem keep_execRevokeOwnerKey {s0 : State} {s} (k0 : Rel s0 s) :
    PNext (Rel s0) (execRevokeOwnerKey s) := by
  unfold execRevokeOwnerKey
  refine keep_settled ?_ ?_
  · intro a0 h1
    exact keep_revokeOwnerKey h1
  · exact k0

theorem keep_setOwnerCfg {s0 : State} {s} (k0 : Rel s0 s) : Rel s0 (setOwnerCfg s) := by
  unfold setOwnerCfg
  extract_lets +onlyGivenNames -merge -underBinder x1 x2
  refine keep_outcome (fun _ t _ h => keep_setSec h ?_) k0
  exact ⟨Nat.le_refl _, id, Nat.le_refl _, fun _ x => x, fun i x => by simp [x], fun _ _ x => x⟩

theorem keep_execSetOwnerCfg {s0 : State} {s} (k0 : Rel s0 s) :
    PNext (Rel s0) (execSetOwnerCfg s) := by
  unfold execSetOwnerCfg
  refine keep_settled ?_ ?_
  · intro a0 h1
    exact keep_setOwnerCfg h1
  · exact k0

theorem keep_endUpdate {s0 : State} {s} (k0 : Rel s0 s) : Rel s0 (endUpdate s) := by
  unfold endUpdate
  split
  · exact k0
  · exact keep_writeRecord (keep_setUpd (keep_setSlotState k0))

theorem keep_returnEffect {s0 : State} {s} (k0 : Rel s0 s) (k1 : s.sec.lifecycle ≤ 3) : Rel s0 (returnEffect s) := by
  unfold returnEffect
  extract_lets +onlyGivenNames -merge -underBinder x0 x1 x2 x3 x4 x5 x6 x7
  have g (s1 : State) (h : Rel s1 s) : Rel s1 x7 := by
    have h0 : Rel s1 x0 := keep_endUpdate (keep_endSession h)
    have h2 : Rel s1 x2 := keep_setSec h0
      ⟨Nat.le_refl _, id, Nat.le_refl _, fun _ x => x, fun _ x => x, fun i hi _ => fifteen_bits i hi⟩
    have h3 : Rel s1 x3 := keep_forEach (fun _ _ h => keep_zeroMem (keep_zeroMem h)) h2
    exact keep_setProg (keep_setTiers h3)
  have l : x7.sec.lifecycle ≤ 3 := (g s (Rel.refl s)).fuses.legal k1
  refine keep_secEvent (keep_setSec (g s0 k0) ?_)
  exact ⟨l, fun _ => Nat.le_refl 3, Nat.le_refl _, fun _ x => x, fun _ x => x, fun _ _ x => x⟩

theorem keep_returnCmd {s0 : State} {s} (k0 : Rel s0 s) : Rel s0 (returnCmd s) := by
  unfold returnCmd
  extract_lets +onlyGivenNames -merge -underBinder x1 x2
  have h : Rel s0 x2 := by
    refine keep_outcome (fun a t e h => ?_) k0
    refine keep_returnEffect h ?_
    simp only [Bool.and_eq_true, beq_iff_eq] at a
    rw [e, a.1]
    decide
  exact ite_keep (P := Rel s0) (keep_moduleReset h) h

theorem keep_execReturnLifecycle {s0 : State} {a0 s} (k0 : Rel s0 s) :
    PNext (Rel s0) (execReturnLifecycle a0 s) := by
  unfold execReturnLifecycle
  refine keep_settled ?_ ?_
  · intro a0 h1
    exact keep_returnCmd (keep_pinHostSel h1)
  · exact k0

theorem keep_debugChallenge {s0 : State} {s} (k0 : Rel s0 s) :
    Rel s0 (debugChallenge s) := by
  unfold debugChallenge
  refine ite_keep (P := Rel s0) ?_ ?_
  · exact keep_endCmd k0
  · refine ite_keep (P := Rel s0) ?_ ?_
    · exact keep_endCmd k0
    · split
      · rename_i y0 y1 q2
        have h3 : Rel s0 y1 := by
          exact of_eq (P := (PSnd (Rel s0))) q2 (keep_freeBytes k0)
        exact keep_endCmd (keep_respond (keep_setSec h3))

theorem keep_execDebugChallenge {s0 : State} {s} (k0 : Rel s0 s) :
    PNext (Rel s0) (execDebugChallenge s) := by
  unfold execDebugChallenge
  refine keep_settled ?_ ?_
  · intro a0 h1
    exact keep_debugChallenge h1
  · exact k0

theorem keep_responseFails {s0 : State} {s} (k0 : Rel s0 s) :
    Rel s0 (responseFails s) := by
  unfold responseFails
  extract_lets +onlyGivenNames -merge -underBinder x0
  try clear_value x0
  extract_lets +onlyGivenNames -merge -underBinder x1 x2
  have h3 : Rel s0 x2 := keep_secEvent (keep_setSec k0)
  clear_value x2
  extract_lets +onlyGivenNames -merge -underBinder x4 x5
  have h6 : Rel s0 x5 := ite_keep (P := Rel s0) (keep_secEvent (keep_setSec h3)) h3
  clear_value x5
  exact keep_endCmd h6

theorem keep_debugResponse {s0 : State} {s} (k0 : Rel s0 s) :
    Rel s0 (debugResponse s) := by
  unfold debugResponse
  extract_lets +onlyGivenNames -merge -underBinder x0 x1 x2 x3
  try clear_value x0 x1 x2 x3
  refine ite_keep (P := Rel s0) ?_ ?_
  · exact keep_endCmd k0
  · refine ite_keep (P := Rel s0) ?_ ?_
    · exact keep_endCmd k0
    · refine ite_keep (P := Rel s0) ?_ ?_
      · exact keep_endCmd k0
      · extract_lets +onlyGivenNames -merge -underBinder x4
        try clear_value x4
        extract_lets +onlyGivenNames -merge -underBinder x5 x6
        have h7 : Rel s0 x6 := keep_setSec k0
        clear_value x6
        refine ite_keep (P := Rel s0) ?_ ?_
        · exact keep_responseFails h7
        · extract_lets +onlyGivenNames -merge -underBinder x8 x9
          have h10 : Rel s0 x9 := keep_setSec h7
          clear_value x9
          exact keep_endCmd (keep_secEvent h10)

theorem keep_execDebugResponse {s0 : State} {s} (k0 : Rel s0 s) :
    PNext (Rel s0) (execDebugResponse s) := by
  unfold execDebugResponse
  refine keep_settled ?_ ?_
  · intro a0 h1
    exact keep_debugResponse h1
  · exact k0

theorem keep_execDebugClose {s0 : State} {s} (k0 : Rel s0 s) :
    PNext (Rel s0) (execDebugClose s) := by
  unfold execDebugClose
  refine keep_settled ?_ ?_
  · intro a0 h1
    exact keep_endCmd (keep_endSession h1)
  · exact k0

theorem keep_execDebugCtrlClose {s0 : State} {s} (k0 : Rel s0 s) :
    PNext (Rel s0) (execDebugCtrlClose s) := by
  unfold execDebugCtrlClose
  refine keep_settled ?_ ?_
  · intro a0 h1
    exact keep_endSession h1
  · exact k0

theorem keep_execDebugExpiry {s0 : State} {s} (k0 : Rel s0 s) :
    PNext (Rel s0) (execDebugExpiry s) := by
  unfold execDebugExpiry
  refine keep_settled ?_ ?_
  · intro a0 h1
    exact keep_endSession h1
  · exact k0

/-! ### Update -/

theorem keep_openUpdate {s0 : State} {a0 s} (k0 : Rel s0 s) :
    Rel s0 (openUpdate a0 s) := by
  unfold openUpdate
  extract_lets +onlyGivenNames -merge -underBinder x0
  try clear_value x0
  extract_lets +onlyGivenNames -merge -underBinder x1
  have h2 : Rel s0 x1 := keep_writeRecord (keep_zeroMem (keep_setSlot k0))
  clear_value x1
  exact keep_setUpd h2

theorem keep_updateHeader {s0 : State} {a0 a1 s} (k0 : Rel s0 s) :
    Rel s0 (updateHeader a0 a1 s) := by
  unfold updateHeader
  refine keep_withInput ?_ ?_
  · intro a0 a1 h2
    split
    · exact keep_completeOrWait h2
    · exact keep_done (keep_openUpdate h2)
  · exact k0

theorem keep_execUpdateHeader {s0 : State} {a0 a1 s} (k0 : Rel s0 s) :
    PNext (Rel s0) (execUpdateHeader a0 a1 s) := by
  unfold execUpdateHeader
  refine ite_keep (P := (PNext (Rel s0))) ?_ ?_
  · exact next_keep k0
  · refine keep_beginSettled ?_ ?_
    · intro a0 a1 h2
      exact keep_updateHeader h2
    · exact k0

theorem keep_programBody {s0 : State} {a0 a1 s} (k0 : Rel s0 s) :
    Rel s0 (programBody a0 a1 s) := by
  unfold programBody
  extract_lets +onlyGivenNames -merge -underBinder x0
  have h1 : Rel s0 x0 := keep_wrMem k0
  clear_value x0
  exact keep_setUpd h1

theorem keep_updateBody {s0 : State} {a0 a1 s} (k0 : Rel s0 s) :
    Rel s0 (updateBody a0 a1 s) := by
  unfold updateBody
  split
  · exact keep_refuseFormat k0
  · extract_lets +onlyGivenNames -merge -underBinder x0
    try clear_value x0
    refine ite_keep (P := Rel s0) ?_ ?_
    · exact keep_refuseFormat k0
    · refine keep_withInput ?_ ?_
      · intro a1 a2 h3
        exact keep_done (keep_programBody h3)
      · exact k0

theorem keep_execUpdateBody {s0 : State} {a0 a1 s} (k0 : Rel s0 s) :
    PNext (Rel s0) (execUpdateBody a0 a1 s) := by
  unfold execUpdateBody
  refine ite_keep (P := (PNext (Rel s0))) ?_ ?_
  · exact next_keep k0
  · refine keep_beginSettled ?_ ?_
    · intro a0 a1 h2
      exact keep_updateBody h2
    · exact k0

theorem keep_commitSlot {s0 : State} {a0 s} (k0 : Rel s0 s) :
    Rel s0 (commitSlot a0 s) := by
  unfold commitSlot
  extract_lets +onlyGivenNames -merge -underBinder x0
  have h1 : Rel s0 x0 := keep_setSlotState (keep_wrMem k0)
  clear_value x0
  extract_lets +onlyGivenNames -merge -underBinder x2 x3
  try clear_value x2
  have h4 : Rel s0 x3 := keep_writeRecord (keep_setUpd h1)
  clear_value x3
  exact keep_updEvent h4

theorem keep_updateCommit {s0 : State} {a0 s} (k0 : Rel s0 s) :
    Rel s0 (updateCommit a0 s) := by
  unfold updateCommit
  split
  · exact keep_refuseFormat k0
  · refine ite_keep (P := Rel s0) ?_ ?_
    · exact keep_done (keep_endUpdate k0)
    · refine ite_keep (P := Rel s0) ?_ ?_
      · exact keep_refuseFormat k0
      · exact ite_keep (P := Rel s0) (keep_done (keep_commitSlot k0)) (keep_completeOrWait (keep_endUpdate k0))

theorem keep_execUpdateCommit {s0 : State} {a0 s} (k0 : Rel s0 s) :
    PNext (Rel s0) (execUpdateCommit a0 s) := by
  unfold execUpdateCommit
  refine ite_keep (P := (PNext (Rel s0))) ?_ ?_
  · exact next_keep k0
  · refine keep_beginSettled ?_ ?_
    · intro a0 a1 h2
      exact keep_updateCommit h2
    · exact k0

theorem keep_hostConsents {s0 : State} {s} (k0 : Rel s0 s) :
    Rel s0 (hostConsents s) := by
  unfold hostConsents
  exact keep_setUpd k0

theorem keep_execHostOk {s0 : State} {s} (k0 : Rel s0 s) :
    PNext (Rel s0) (execHostOk s) := by
  unfold execHostOk
  refine next_keep ?_
  refine keep_onlyIf ?_ ?_
  · intro a0 h1
    exact keep_hostConsents h1
  · exact k0

theorem keep_confirmSlot {s0 : State} {s} (k0 : Rel s0 s) : Rel s0 (confirmSlot s) := by
  unfold confirmSlot
  extract_lets +onlyGivenNames -merge -underBinder x0 x1 x2 x3 x4 x5
  have h5 : Rel s0 x5 := keep_writeRecord (keep_setSlotState (keep_setUpd k0))
  extract_lets +onlyGivenNames -merge -underBinder x6 x7 x8
  have h7 : Rel s0 x7 := keep_completeEpoch (keep_setSec h5
    ⟨Nat.le_refl _, id, Nat.le_refl _, fun i x => by simp [x], fun _ x => x, fun _ _ x => x⟩)
  exact ite_keep (P := Rel s0) (keep_updEvent (keep_updEvent h7)) (keep_updEvent h7)

theorem keep_execConfirm {s0 : State} {s} (k0 : Rel s0 s) :
    PNext (Rel s0) (execConfirm s) := by
  unfold execConfirm
  refine keep_settled ?_ ?_
  · intro a0 h1
    exact keep_confirmSlot h1
  · exact k0

theorem keep_watchdog {s0 : State} {s} (k0 : Rel s0 s) :
    Rel s0 (watchdog s) := by
  unfold watchdog
  extract_lets +onlyGivenNames -merge -underBinder x0
  try clear_value x0
  extract_lets +onlyGivenNames -merge -underBinder x1
  have h2 : Rel s0 x1 := keep_setSlotState k0
  clear_value x1
  extract_lets +onlyGivenNames -merge -underBinder x3 x4
  try clear_value x3
  have h5 : Rel s0 x4 := keep_writeRecord (keep_setUpd h2)
  clear_value x4
  extract_lets +onlyGivenNames -merge -underBinder x6
  have h7 : Rel s0 x6 := keep_updEvent h5
  clear_value x6
  exact ite_keep (P := Rel s0) (keep_moduleReset h7) h7

theorem keep_execHealthWatchdog {s0 : State} {a0 s} (k0 : Rel s0 s) :
    PNext (Rel s0) (execHealthWatchdog a0 s) := by
  unfold execHealthWatchdog
  refine keep_settled ?_ ?_
  · intro a0 h1
    exact keep_watchdog (keep_pinHostSel h1)
  · exact k0

theorem keep_trigger {s0 : State} {a0 s} (k0 : Rel s0 s) :
    Rel s0 (trigger a0 s) := by
  unfold trigger
  split
  · exact keep_mrstFalls k0
  · exact keep_watchdog k0
  · exact keep_moduleReset k0
  · exact keep_returnCmd k0

theorem keep_execModuleReset {s0 : State} {a0 a1 s} (k0 : Rel s0 s) :
    PNext (Rel s0) (execModuleReset a0 a1 s) := by
  unfold execModuleReset
  refine keep_settled ?_ ?_
  · intro a0 h1
    exact keep_trigger (keep_pinHostSel h1)
  · exact k0

/-! ### Electric -/

theorem keep_raiseLine {s0 : State} {a0 a1 s} (k0 : Rel s0 s) :
    Rel s0 (raiseLine a0 a1 s) := by
  unfold raiseLine
  extract_lets +onlyGivenNames -merge -underBinder x0
  have h1 : Rel s0 x0 := keep_setR k0
  clear_value x0
  extract_lets +onlyGivenNames -merge -underBinder x2 x3
  try clear_value x2
  have h4 : Rel s0 x3 := ite_keep (P := Rel s0) (rel_upd h1) h1
  clear_value x3
  exact keep_jpEvent (keep_incF h4)

theorem keep_classify {s0 : State} {a0 a1 s} (k0 : Rel s0 s) :
    Rel s0 (classify a0 a1 s) := by
  unfold classify
  extract_lets +onlyGivenNames -merge -underBinder x0
  try clear_value x0
  refine keep_forEach ?_ ?_
  · intro a1 a2 h3
    extract_lets +onlyGivenNames -merge -underBinder x4 x5
    try clear_value x4 x5
    exact ite_keep (P := Rel s0) (keep_raiseLine h3) (ite_keep (P := Rel s0) (keep_setR h3) h3)
  · exact k0

theorem keep_execLineClassify {s0 : State} {a0 a1 s} (k0 : Rel s0 s) :
    PNext (Rel s0) (execLineClassify a0 a1 s) := by
  unfold execLineClassify
  refine keep_settled ?_ ?_
  · intro a0 h1
    exact keep_classify h1
  · exact k0

theorem keep_retest {s0 : State} {a0 a1 s} (k0 : Rel s0 s) :
    Rel s0 (retest a0 a1 s) := by
  unfold retest
  exact ite_keep (P := Rel s0) (rel_upd k0) (keep_setB (rel_upd k0))

theorem keep_execTxShortRetest {s0 : State} {a0 a1 s} (k0 : Rel s0 s) :
    PNext (Rel s0) (execTxShortRetest a0 a1 s) := by
  unfold execTxShortRetest
  refine next_keep ?_
  refine keep_onlyIf ?_ ?_
  · intro a0 h1
    exact keep_retest h1
  · exact k0

theorem keep_execEthernetLinkChange {s0 : State} {a0 a1 s} (k0 : Rel s0 s) :
    PNext (Rel s0) (execEthernetLinkChange a0 a1 s) := by
  unfold execEthernetLinkChange
  refine next_keep ?_
  refine keep_onlyIf ?_ ?_
  · intro a0 h1
    exact keep_setR h1
  · exact k0

theorem keep_SP_put {s0 : State} {a0 a1 a2 s} (k0 : Rel s0 s) :
    Rel s0 (SP.put a0 a1 a2 s) := by
  unfold SP.put
  exact keep_setF k0

theorem keep_setSpwr {s0 : State} {a0 a1 s} (k0 : Rel s0 s) :
    Rel s0 (setSpwr a0 a1 s) := by
  unfold setSpwr
  exact rel_upd k0

theorem keep_adjSpwr {s0 : State} {a0 a1 s} (k0 : Rel s0 s) :
    Rel s0 (adjSpwr a0 a1 s) := by
  unfold adjSpwr
  exact keep_setSpwr k0

theorem keep_switchOn {s0 : State} {a0 s} (k0 : Rel s0 s) :
    Rel s0 (switchOn a0 s) := by
  unfold switchOn
  extract_lets +onlyGivenNames -merge -underBinder x0
  try clear_value x0
  exact ite_keep (P := Rel s0) (keep_SP_put (keep_adjSpwr k0)) (keep_SP_put (keep_adjSpwr k0))

theorem keep_switchOff {s0 : State} {a0 s} (k0 : Rel s0 s) :
    Rel s0 (switchOff a0 s) := by
  unfold switchOff
  exact keep_SP_put (keep_SP_put k0)

theorem keep_spwrEvent {s0 : State} {a0 a1 s} (k0 : Rel s0 s) :
    Rel s0 (spwrEvent a0 a1 s) := by
  unfold spwrEvent
  exact keep_pwrEvent k0

theorem keep_afterTrip {s0 : State} {a0 a1 s} (k0 : Rel s0 s) :
    Rel s0 (afterTrip a0 a1 s) := by
  unfold afterTrip
  extract_lets +onlyGivenNames -merge -underBinder x0 x1 x2
  try clear_value x0 x1 x2
  extract_lets +onlyGivenNames -merge -underBinder x3
  have h4 : Rel s0 x3 := keep_switchOff k0
  clear_value x3
  extract_lets +onlyGivenNames -merge -underBinder x5 x6
  have h7 : Rel s0 x5 := keep_SP_put h4
  clear_value x5
  have h8 : Rel s0 x6 := ite_keep (P := Rel s0) (keep_spwrEvent (keep_SP_put h4)) (ite_keep (P := Rel s0) h7 (keep_spwrEvent h7))
  clear_value x6
  exact ite_keep (P := Rel s0) (keep_spwrEvent (keep_SP_put (keep_adjSpwr h8))) (keep_adjSpwr h8)

theorem keep_execSensorOutputTrip {s0 : State} {a0 s} (k0 : Rel s0 s) :
    PNext (Rel s0) (execSensorOutputTrip a0 s) := by
  unfold execSensorOutputTrip
  refine keep_settled ?_ ?_
  · intro a0 h1
    exact keep_afterTrip h1
  · exact k0

theorem keep_execBackfeed {s0 : State} {a0 s} (k0 : Rel s0 s) :
    PNext (Rel s0) (execBackfeed a0 s) := by
  unfold execBackfeed
  refine keep_settled ?_ ?_
  · intro a0 h1
    exact keep_afterTrip h1
  · exact k0

theorem keep_execSensorOutputRetry {s0 : State} {a0 s} (k0 : Rel s0 s) :
    PNext (Rel s0) (execSensorOutputRetry a0 s) := by
  unfold execSensorOutputRetry
  refine next_keep ?_
  refine keep_onlyIf ?_ ?_
  · intro a0 h1
    exact keep_switchOn (keep_adjSpwr h1)
  · exact k0

theorem keep_execSensorOutputOpen {s0 : State} {a0 s} (k0 : Rel s0 s) :
    PNext (Rel s0) (execSensorOutputOpen a0 s) := by
  unfold execSensorOutputOpen
  refine next_keep ?_
  refine keep_onlyIf ?_ ?_
  · intro a0 h1
    exact keep_SP_put h1
  · exact k0

theorem keep_applySpwr {s0 : State} {a0 a1 s} (k0 : Rel s0 s) :
    Rel s0 (applySpwr a0 a1 s) := by
  unfold applySpwr
  extract_lets +onlyGivenNames -merge -underBinder x0
  try clear_value x0
  refine ite_keep (P := Rel s0) ?_ ?_
  · exact keep_SP_put (keep_adjSpwr (keep_switchOff k0))
  · refine ite_keep (P := Rel s0) ?_ ?_
    · exact keep_adjSpwr (keep_switchOff k0)
    · refine ite_keep (P := Rel s0) ?_ ?_
      · exact ite_keep (P := Rel s0) k0 (ite_keep (P := Rel s0) (keep_adjSpwr k0) (keep_SP_put (keep_setR k0)))
      · exact ite_keep (P := Rel s0) k0 (keep_switchOn k0)

theorem keep_spwrCfgWrite {s0 : State} {a0 a1 s} (k0 : Rel s0 s) :
    Rel s0 (spwrCfgWrite a0 a1 s) := by
  unfold spwrCfgWrite
  extract_lets +onlyGivenNames -merge -underBinder x0
  have h1 : Rel s0 x0 := k0
  clear_value x0
  extract_lets +onlyGivenNames -merge -underBinder x2
  have h3 : Rel s0 x2 := keep_setR k0
  clear_value x2
  refine keep_forEach ?_ ?_
  · intro a4 a5 h6
    exact keep_applySpwr h6
  · exact h3

theorem keep_execPwrSpwrCfgWrite {s0 : State} {a0 s} (k0 : Rel s0 s) :
    PNext (Rel s0) (execPwrSpwrCfgWrite a0 s) := by
  unfold execPwrSpwrCfgWrite
  refine next_keep ?_
  refine keep_onlyIf ?_ ?_
  · intro a0 h1
    exact keep_spwrCfgWrite h1
  · exact k0

/-! ### HostPort -/

theorem keep_execRingEnable {s0 : State} {a0 s} (k0 : Rel s0 s) :
    PNext (Rel s0) (execRingEnable a0 s) := by
  unfold execRingEnable
  refine next_keep ?_
  refine keep_onlyIf ?_ ?_
  · intro a0 h1
    exact keep_ringCfgWrite h1
  · exact k0

theorem keep_execRingDisable {s0 : State} {a0 s} (k0 : Rel s0 s) :
    PNext (Rel s0) (execRingDisable a0 s) := by
  unfold execRingDisable
  refine next_keep ?_
  refine keep_onlyIf ?_ ?_
  · intro a0 h1
    exact keep_ringCfgWrite h1
  · exact k0

theorem keep_execSubmissionTailWrite {s0 : State} {a0 a1 s} (k0 : Rel s0 s) :
    PNext (Rel s0) (execSubmissionTailWrite a0 a1 s) := by
  unfold execSubmissionTailWrite
  refine next_keep ?_
  refine keep_onlyIf ?_ ?_
  · intro a0 h1
    exact keep_setTail h1
  · exact k0

theorem keep_execCompletionHeadWrite {s0 : State} {a0 a1 s} (k0 : Rel s0 s) :
    PNext (Rel s0) (execCompletionHeadWrite a0 a1 s) := by
  unfold execCompletionHeadWrite
  refine next_keep ?_
  refine keep_onlyIf ?_ ?_
  · intro a0 h1
    exact keep_setHead h1
  · exact k0

theorem keep_execDoorbellInvalidWrite {s0 : State} {a0 a1 s} (k0 : Rel s0 s) :
    PNext (Rel s0) (execDoorbellInvalidWrite a0 a1 s) := by
  unfold execDoorbellInvalidWrite
  refine next_keep ?_
  refine keep_onlyIf ?_ ?_
  · intro a0 h1
    exact keep_doorbellError h1
  · exact k0

theorem keep_passSeq {s0 : State} {s} (k0 : Rel s0 s) :
    Rel s0 (passSeq s) := by
  unfold passSeq
  exact rel_upd k0

theorem keep_discardPush {s0 : State} {a0 s} (k0 : Rel s0 s) :
    Rel s0 (discardPush a0 s) := by
  unfold discardPush
  exact keep_hostError k0

theorem keep_takePush {s0 : State} {a0 s} (k0 : Rel s0 s) :
    Rel s0 (takePush a0 s) := by
  unfold takePush
  extract_lets +onlyGivenNames -merge -underBinder x0 x1 x2 x3
  try clear_value x0 x1 x2
  have h4 : Rel s0 x3 := rel_upd k0
  clear_value x3
  exact keep_setSq h4

theorem keep_ringPush {s0 : State} {a0 s} (k0 : Rel s0 s) :
    Rel s0 (ringPush a0 s) := by
  unfold ringPush
  refine ite_keep (P := Rel s0) ?_ ?_
  · exact keep_discardPush (keep_passSeq k0)
  · refine ite_keep (P := Rel s0) ?_ ?_
    · exact ite_keep (P := Rel s0) (keep_takePush (keep_passSeq k0)) k0
    · extract_lets +onlyGivenNames -merge -underBinder x0
      try clear_value x0
      extract_lets +onlyGivenNames -merge -underBinder x1
      have h2 : Rel s0 x1 := keep_discardPush (keep_passSeq k0)
      clear_value x1
      exact ite_keep (P := Rel s0) (keep_stopRing h2) h2

theorem keep_execRingPush {s0 : State} {a0 s} (k0 : Rel s0 s) :
    PNext (Rel s0) (execRingPush a0 s) := by
  unfold execRingPush
  refine next_keep ?_
  refine keep_onlyIf ?_ ?_
  · intro a0 h1
    exact keep_ringPush h1
  · exact k0

theorem keep_dataPush {s0 : State} {a0 s} (k0 : Rel s0 s) :
    Rel s0 (dataPush a0 s) := by
  unfold dataPush
  exact ite_keep (P := Rel s0) (keep_hostWriteObj (keep_passSeq k0)) (keep_discardPush (keep_passSeq k0))

theorem keep_execDataPush {s0 : State} {a0 s} (k0 : Rel s0 s) :
    PNext (Rel s0) (execDataPush a0 s) := by
  unfold execDataPush
  refine next_keep ?_
  refine keep_onlyIf ?_ ?_
  · intro a0 h1
    exact keep_dataPush h1
  · exact k0

theorem keep_cqHead {s0 : State} {a0 s} (k0 : Rel s0 s) :
    Rel s0 (cqHead a0 s) := by
  unfold cqHead
  exact ite_keep (P := Rel s0) (keep_moveHead (keep_passSeq k0)) (keep_discardPush (keep_passSeq k0))

theorem keep_execCqHead {s0 : State} {a0 s} (k0 : Rel s0 s) :
    PNext (Rel s0) (execCqHead a0 s) := by
  unfold execCqHead
  refine next_keep ?_
  refine keep_onlyIf ?_ ?_
  · intro a0 h1
    exact keep_cqHead h1
  · exact k0

theorem keep_sendCompletions {s0 : State} {a0 s} (k0 : Rel s0 s) :
    Rel s0 (sendCompletions a0 s) := by
  unfold sendCompletions
  extract_lets +onlyGivenNames -merge -underBinder x0 x1
  try clear_value x0 x1
  extract_lets +onlyGivenNames -merge -underBinder x2
  have h3 : Rel s0 x2 := keep_emit (keep_setCq k0)
  clear_value x2
  refine keep_forEach ?_ ?_
  · intro a4 a5 h6
    exact keep_freePush h6
  · exact h3

theorem keep_execCompletionMessage {s0 : State} {a0 s} (k0 : Rel s0 s) :
    PNext (Rel s0) (execCompletionMessage a0 s) := by
  unfold execCompletionMessage
  refine next_keep ?_
  refine keep_onlyIf ?_ ?_
  · intro a0 h1
    exact keep_sendCompletions h1
  · exact k0

theorem keep_itemHostFault {s0 : State} {a0 a1 a2 a3 s} (k0 : Rel s0 s) :
    Rel s0 (itemHostFault a0 a1 a2 a3 s) := by
  unfold itemHostFault
  refine ite_keep (P := Rel s0) ?_ ?_
  · exact k0
  · extract_lets +onlyGivenNames -merge -underBinder x0
    have h1 : Rel s0 x0 := keep_dmaError k0
    clear_value x0
    extract_lets +onlyGivenNames -merge -underBinder x2
    try clear_value x2
    refine ite_keep (P := Rel s0) ?_ ?_
    · exact keep_adjItem h1
    · extract_lets +onlyGivenNames -merge -underBinder x3
      try clear_value x3
      extract_lets +onlyGivenNames -merge -underBinder x4
      have h5 : Rel s0 x4 := keep_dropItem (keep_closeFrame h1)
      clear_value x4
      exact keep_reopenFrame (keep_completeFor h5)

theorem keep_otherHostFault {s0 : State} {a0 a1 s} (k0 : Rel s0 s) :
    Rel s0 (otherHostFault a0 a1 s) := by
  unfold otherHostFault
  extract_lets +onlyGivenNames -merge -underBinder x0 x1 x2
  try clear_value x0 x1 x2
  exact ite_keep (P := Rel s0) (keep_completeOrWait (keep_dmaError k0)) k0

theorem keep_hostAccessFailed {s0 : State} {a0 a1 s} (k0 : Rel s0 s) :
    Rel s0 (hostAccessFailed a0 a1 s) := by
  unfold hostAccessFailed
  split
  · exact k0
  · refine ite_keep (P := Rel s0) ?_ ?_
    · exact k0
    · split
      · exact ite_keep (P := Rel s0) k0 (keep_itemHostFault k0)
      · exact keep_otherHostFault k0

theorem keep_execHostMemoryAccessFailed {s0 : State} {a0 a1 s} (k0 : Rel s0 s) :
    PNext (Rel s0) (execHostMemoryAccessFailed a0 a1 s) := by
  unfold execHostMemoryAccessFailed
  refine keep_settled ?_ ?_
  · intro a0 h1
    exact keep_hostAccessFailed h1
  · exact k0

/-! ### Bar -/

theorem keep_readReg {s0 : State} {a0 s} (k0 : Rel s0 s) :
    PSnd (Rel s0) (readReg a0 s) := by
  unfold readReg
  exact ite_keep (P := (PSnd (Rel s0))) (keep_readCap k0) (snd_keep (P := Rel s0) k0)

theorem keep_msixWrite {s0 : State} {a0 a1 s} (k0 : Rel s0 s) :
    Rel s0 (msixWrite a0 a1 s) := by
  unfold msixWrite
  refine keep_forEach ?_ ?_
  · intro a0 a1 h2
    extract_lets +onlyGivenNames -merge -underBinder x3
    try clear_value x3
    refine ite_keep (P := Rel s0) ?_ ?_
    · exact h2
    · extract_lets +onlyGivenNames -merge -underBinder x4 x5
      try clear_value x4 x5
      exact keep_msixEntryWrite h2
  · exact k0

theorem keep_plausWrite {s0 : State} {a0 a1 s} (k0 : Rel s0 s) :
    Rel s0 (plausWrite a0 a1 s) := by
  unfold plausWrite
  extract_lets +onlyGivenNames -merge -underBinder x0 x1 x2 x3 x4 x5
  try clear_value x0 x1 x2 x3 x4 x5
  refine ite_keep (P := Rel s0) ?_ ?_
  · exact keep_wrMem k0
  · extract_lets +onlyGivenNames -merge -underBinder x6
    try clear_value x6
    extract_lets +onlyGivenNames -merge -underBinder x7
    have h8 : Rel s0 x7 := keep_wrMem k0
    clear_value x7
    exact ite_keep (P := Rel s0) (keep_clampReport h8) h8

theorem keep_gateWrite {s0 : State} {a0 a1 s} (k0 : Rel s0 s) :
    Rel s0 (gateWrite a0 a1 s) := by
  unfold gateWrite
  extract_lets +onlyGivenNames -merge -underBinder x0 x1
  try clear_value x0 x1
  exact ite_keep (P := Rel s0) k0 (keep_wrMem k0)

theorem keep_winWrite {s0 : State} {a0 a1 a2 s} (k0 : Rel s0 s) :
    Rel s0 (winWrite a0 a1 a2 s) := by
  unfold winWrite
  split
  · exact ite_keep (P := Rel s0) k0 (keep_msixWrite k0)
  · exact keep_gateWrite k0
  · exact keep_axisParamWrite k0
  · exact keep_plausWrite k0
  · exact keep_wrMem k0
  · exact k0
  · exact k0
  · exact k0

theorem keep_storeReg {s0 : State} {a0 a1 a2 s} (k0 : Rel s0 s) :
    Rel s0 (storeReg a0 a1 a2 s) := by
  unfold storeReg
  split
  · exact keep_setR k0
  · exact k0

theorem keep_timeCtrlWrite {s0 : State} {a0 a1 s} (k0 : Rel s0 s) :
    Rel s0 (timeCtrlWrite a0 a1 s) := by
  unfold timeCtrlWrite
  extract_lets +onlyGivenNames -merge -underBinder x0
  have h1 : Rel s0 x0 := keep_storeReg k0
  clear_value x0
  exact ite_keep (P := Rel s0) (keep_afterStep (keep_acceptStep h1)) h1

theorem keep_qbvCtrlWrite {s0 : State} {a0 a1 s} (k0 : Rel s0 s) :
    Rel s0 (qbvCtrlWrite a0 a1 s) := by
  unfold qbvCtrlWrite
  refine keep_forEach ?_ ?_
  · intro a0 a1 h2
    exact keep_qbvRequest h2
  · exact keep_storeReg k0

theorem keep_cleCtrlWrite {s0 : State} {a0 a1 s} (k0 : Rel s0 s) :
    Rel s0 (cleCtrlWrite a0 a1 s) := by
  unfold cleCtrlWrite
  extract_lets +onlyGivenNames -merge -underBinder x0
  have h1 : Rel s0 x0 := keep_storeReg k0
  clear_value x0
  extract_lets +onlyGivenNames -merge -underBinder x2
  have h3 : Rel s0 x2 := ite_keep (P := Rel s0) (keep_enterHusk h1) h1
  clear_value x2
  exact ite_keep (P := Rel s0) (keep_huskExit h3) h3

theorem keep_jpCtrlWrite {s0 : State} {a0 a1 s} (k0 : Rel s0 s) :
    Rel s0 (jpCtrlWrite a0 a1 s) := by
  unfold jpCtrlWrite
  extract_lets +onlyGivenNames -merge -underBinder x0
  have h1 : Rel s0 x0 := keep_storeReg k0
  clear_value x0
  exact ite_keep (P := Rel s0) (keep_reenableDrive h1) h1

theorem keep_ethCfgWrite {s0 : State} {a0 a1 s} (k0 : Rel s0 s) :
    Rel s0 (ethCfgWrite a0 a1 s) := by
  unfold ethCfgWrite
  extract_lets +onlyGivenNames -merge -underBinder x0 x1
  try clear_value x0 x1
  exact keep_setR k0

theorem keep_marginWrite {s0 : State} {a0 a1 s} (k0 : Rel s0 s) :
    Rel s0 (marginWrite a0 a1 s) := by
  unfold marginWrite
  refine keep_forEach ?_ ?_
  · intro a0 a1 h2
    exact keep_followGuard h2
  · exact keep_setR k0

theorem keep_feedWrite {s0 : State} {a0 a1 a2 s} (k0 : Rel s0 s) :
    Rel s0 (feedWrite a0 a1 a2 s) := by
  unfold feedWrite
  exact keep_storeReg (keep_setProg k0)

theorem keep_safeCtrlWrite {s0 : State} {a0 a1 s} (k0 : Rel s0 s) :
    Rel s0 (safeCtrlWrite a0 a1 s) := by
  unfold safeCtrlWrite
  extract_lets +onlyGivenNames -merge -underBinder x0
  have h1 : Rel s0 x0 := keep_storeReg k0
  clear_value x0
  extract_lets +onlyGivenNames -merge -underBinder x2
  have h3 : Rel s0 x2 := ite_keep (P := Rel s0) (keep_armOutputs h1) h1
  clear_value x2
  exact ite_keep (P := Rel s0) (keep_dropOutputs h3) h3

theorem keep_stageCfgWrite {s0 : State} {a0 a1 s} (k0 : Rel s0 s) :
    Rel s0 (stageCfgWrite a0 a1 s) := by
  unfold stageCfgWrite
  extract_lets +onlyGivenNames -merge -underBinder x0 x1 x2 x3
  try clear_value x0 x1 x2 x3
  extract_lets +onlyGivenNames -merge -underBinder x4
  have h5 : Rel s0 x4 := keep_setR k0
  clear_value x4
  extract_lets +onlyGivenNames -merge -underBinder x6 x7
  try clear_value x6 x7
  exact ite_keep (P := Rel s0) (keep_clampReport h5) h5

theorem keep_secCmdWrite {s0 : State} {a0 a1 s} (k0 : Rel s0 s) :
    Rel s0 (secCmdWrite a0 a1 s) := by
  unfold secCmdWrite
  extract_lets +onlyGivenNames -merge -underBinder x0
  have h1 : Rel s0 x0 := keep_storeReg k0
  clear_value x0
  exact ite_keep (P := Rel s0) (keep_startCmd h1) h1

theorem keep_poolWrite {s0 : State} {a0 a1 a2 s} (k0 : Rel s0 s) :
    Rel s0 (poolWrite a0 a1 a2 s) := by
  unfold poolWrite
  exact ite_keep (P := Rel s0) k0 (ite_keep (P := Rel s0) (keep_setB k0) (keep_storeReg k0))

theorem keep_pwrResetWrite {s0 : State} {a0 a1 s} (k0 : Rel s0 s) :
    Rel s0 (pwrResetWrite a0 a1 s) := by
  unfold pwrResetWrite
  exact ite_keep (P := Rel s0) (keep_moduleReset (ite_keep (P := Rel s0) (keep_saveNow k0) k0)) k0

theorem keep_regWrite {s0 : State} {a0 a1 a2 s} (k0 : Rel s0 s) :
    Rel s0 (regWrite a0 a1 a2 s) := by
  unfold regWrite
  split
  · exact keep_ringBaseWrite k0
  · exact keep_ringCfgWrite k0
  · exact keep_poolWrite k0
  · exact keep_poolWrite k0
  · exact keep_timeCtrlWrite k0
  · exact keep_genStartWrite k0
  · exact keep_genCfgWrite k0
  · exact keep_qbvCtrlWrite k0
  · exact keep_fusCtrlWrite k0
  · exact ite_keep (P := Rel s0) k0 (keep_storeReg k0)
  · exact keep_plnWriterWrite k0
  · exact keep_cleCtrlWrite k0
  · exact keep_jpCtrlWrite k0
  · exact keep_ethCfgWrite k0
  · exact keep_hltCtrlWrite k0
  · exact keep_marginWrite k0
  · exact keep_feedWrite k0
  · exact keep_feedWrite k0
  · exact keep_alarmWrite k0
  · exact keep_pwrResetWrite k0
  · exact keep_spwrCfgWrite k0
  · exact keep_safeCtrlWrite k0
  · exact keep_stageCfgWrite k0
  · exact keep_secCmdWrite k0
  · exact ite_keep (P := Rel s0) (keep_endSession k0) k0
  · exact ite_keep (P := Rel s0) (keep_hostConsents k0) k0
  · exact keep_storeReg k0

theorem keep_targetWrite {s0 : State} {a0 a1 a2 s} (k0 : Rel s0 s) :
    Rel s0 (targetWrite a0 a1 a2 s) := by
  unfold targetWrite
  split
  · exact keep_regWrite k0
  · exact keep_winWrite k0
  · exact k0
  · exact k0

theorem keep_noteAccess {s0 : State} {a0 a1 s} (k0 : Rel s0 s) :
    Rel s0 (noteAccess a0 a1 s) := by
  unfold noteAccess
  exact keep_incF (keep_setF (keep_setF (keep_setB k0)))

theorem keep_barWrite {s0 : State} {a0 a1 s} (k0 : Rel s0 s) :
    Rel s0 (barWrite a0 a1 s) := by
  unfold barWrite
  refine ite_keep (P := Rel s0) ?_ ?_
  · exact k0
  · split
    · exact keep_noteAccess k0
    · exact keep_noteAccess k0
    · exact ite_keep (P := Rel s0) (keep_targetWrite k0) (keep_noteAccess k0)
    · exact ite_keep (P := Rel s0) (keep_targetWrite k0) (keep_noteAccess k0)

theorem keep_setSample {s0 : State} {a0 a1 s} (k0 : Rel s0 s) :
    Rel s0 (setSample a0 a1 s) := by
  unfold setSample
  exact rel_upd k0

theorem keep_readHalf {s0 : State} {a0 a1 a2 s} (k0 : Rel s0 s) :
    PSnd (Rel s0) (readHalf a0 a1 a2 s) := by
  unfold readHalf
  extract_lets +onlyGivenNames -merge -underBinder x0
  try clear_value x0
  refine ite_keep (P := (PSnd (Rel s0))) ?_ ?_
  · split
    · rename_i y1 y2 q3
      have h4 : Rel s0 y2 := by
        exact of_eq (P := (PSnd (Rel s0))) q3 (keep_readReg k0)
      exact snd_keep (P := Rel s0) (keep_setSample h4)
  · extract_lets +onlyGivenNames -merge -underBinder x5
    try clear_value x5
    exact snd_keep (P := Rel s0) (keep_setSample k0)

theorem keep_targetRead {s0 : State} {a0 a1 a2 s} (k0 : Rel s0 s) :
    PSnd (Rel s0) (targetRead a0 a1 a2 s) := by
  unfold targetRead
  split
  · exact keep_readHalf k0
  · exact snd_keep (P := Rel s0) (keep_setSample k0)
  · exact snd_keep (P := Rel s0) (keep_setSample k0)
  · exact snd_keep (P := Rel s0) (keep_setSample k0)

theorem keep_barRead {s0 : State} {a0 s} (k0 : Rel s0 s) :
    PSnd (Rel s0) (barRead a0 s) := by
  unfold barRead
  extract_lets +onlyGivenNames -merge -underBinder x0
  have h1 : ∀ a2, Rel s0 a2 → (PSnd (Rel s0)) (x0 a2) := by
    unfold x0
    intro a2 h3
    exact snd_keep (P := Rel s0) (keep_setSample h3)
  clear_value x0
  refine ite_keep (P := (PSnd (Rel s0))) ?_ ?_
  · refine h1 _ ?_
    · exact k0
  · extract_lets +onlyGivenNames -merge -underBinder x4
    try clear_value x4
    split
    · refine h1 _ ?_
      · exact keep_noteAccess k0
    · refine h1 _ ?_
      · exact keep_noteAccess k0
    · refine ite_keep (P := (PSnd (Rel s0))) ?_ ?_
      · exact keep_targetRead k0
      · refine h1 _ ?_
        · exact keep_noteAccess k0
    · refine ite_keep (P := (PSnd (Rel s0))) ?_ ?_
      · exact keep_targetRead k0
      · refine h1 _ ?_
        · exact keep_noteAccess k0

theorem keep_execRegisterWrite {s0 : State} {a0 a1 s} (k0 : Rel s0 s) :
    PNext (Rel s0) (execRegisterWrite a0 a1 s) := by
  unfold execRegisterWrite
  refine keep_settled ?_ ?_
  · intro a0 h1
    exact keep_barWrite h1
  · exact k0

theorem keep_readWords {s0 : State} {k off acc s} (k0 : Rel s0 s) : PSnd (Rel s0) (readWords k off acc s) := by
  induction k generalizing off acc s with
  | zero => exact k0
  | succ k ih =>
    unfold readWords
    split
    rename_i e
    exact ih (of_eq (P := PSnd (Rel s0)) e (keep_barRead k0))

theorem keep_writeWords {s0 : State} {k off bs s} (k0 : Rel s0 s) : Rel s0 (writeWords k off bs s) := by
  induction k generalizing off bs s with
  | zero => exact k0
  | succ k ih => exact ih (keep_barWrite k0)

theorem keep_regReadRequest {s0 : State} {a0 a1 a2 s} (k0 : Rel s0 s) :
    Rel s0 (regReadRequest a0 a1 a2 s) := by
  unfold regReadRequest
  refine ite_keep (P := Rel s0) ?_ ?_
  · split
    · rename_i y0 y1 q2
      have h3 : Rel s0 y1 := by
        exact of_eq (P := (PSnd (Rel s0))) q2 (keep_readWords k0)
      exact keep_emit h3
  · exact keep_emit k0

theorem keep_execRegRead {s0 : State} {a0 a1 a2 s} (k0 : Rel s0 s) :
    PNext (Rel s0) (execRegRead a0 a1 a2 s) := by
  unfold execRegRead
  refine next_keep ?_
  refine keep_onlyIf ?_ ?_
  · intro a0 h1
    exact keep_regReadRequest h1
  · exact k0

theorem keep_regWriteRequest {s0 : State} {a0 a1 a2 a3 s} (k0 : Rel s0 s) :
    Rel s0 (regWriteRequest a0 a1 a2 a3 s) := by
  unfold regWriteRequest
  exact ite_keep (P := Rel s0) (keep_writeWords k0) (keep_emit k0)

theorem keep_execRegWrite {s0 : State} {a0 a1 a2 a3 s} (k0 : Rel s0 s) :
    PNext (Rel s0) (execRegWrite a0 a1 a2 a3 s) := by
  unfold execRegWrite
  refine keep_settled ?_ ?_
  · intro a0 h1
    exact keep_regWriteRequest h1
  · exact k0

/-! ### Debug -/

theorem keep_deselect {s0 : State} {s} (k0 : Rel s0 s) :
    Rel s0 (deselect s) := by
  unfold deselect
  exact keep_setSec k0

theorem keep_noteStatus {s0 : State} {a0 s} (k0 : Rel s0 s) :
    Rel s0 (noteStatus a0 s) := by
  unfold noteStatus
  exact ite_keep (P := Rel s0) k0 (ite_keep (P := Rel s0) (keep_setB k0) (ite_keep (P := Rel s0) (keep_setB k0) k0))

theorem keep_barRequest {s0 : State} {a0 a1 a2 a3 s} (k0 : Rel s0 s) :
    PSnd (PSnd (Rel s0)) (barRequest a0 a1 a2 a3 s) := by
  unfold barRequest
  extract_lets +onlyGivenNames -merge -underBinder x0 x1 x2
  try clear_value x0 x1 x2
  refine ite_keep (P := (PSnd (PSnd (Rel s0)))) ?_ ?_
  · exact snd_keep (P := (PSnd (Rel s0))) (snd_keep (P := Rel s0) k0)
  · refine ite_keep (P := (PSnd (PSnd (Rel s0)))) ?_ ?_
    · split
      · rename_i y3 y4 q5
        have h6 : Rel s0 y4 := by
          exact of_eq (P := (PSnd (Rel s0))) q5 (keep_freeNat k0)
        exact snd_keep (P := (PSnd (Rel s0))) (snd_keep (P := Rel s0) (keep_targetWrite h6))
    · split
      · rename_i y7 y8 q9
        have h10 : Rel s0 y8 := by
          exact of_eq (P := (PSnd (Rel s0))) q9 (keep_targetRead k0)
        exact snd_keep (P := (PSnd (Rel s0))) (snd_keep (P := Rel s0) h10)

theorem keep_objRequest {s0 : State} {a0 a1 a2 s} (k0 : Rel s0 s) :
    PSnd (PSnd (Rel s0)) (objRequest a0 a1 a2 s) := by
  unfold objRequest
  extract_lets +onlyGivenNames -merge -underBinder x0 x1
  try clear_value x0 x1
  refine ite_keep (P := (PSnd (PSnd (Rel s0)))) ?_ ?_
  · exact snd_keep (P := (PSnd (Rel s0))) (snd_keep (P := Rel s0) k0)
  · refine ite_keep (P := (PSnd (PSnd (Rel s0)))) ?_ ?_
    · split
      · rename_i y2 y3 q4
        have h5 : Rel s0 y3 := by
          exact of_eq (P := (PSnd (Rel s0))) q4 (keep_freeNat k0)
        exact snd_keep (P := (PSnd (Rel s0))) (snd_keep (P := Rel s0) (keep_hostWriteObj h5))
    · extract_lets +onlyGivenNames -merge -underBinder x6
      have h7 : Rel s0 x6 := keep_touchPages (keep_senseObj k0)
      clear_value x6
      split
      · split
        · rename_i y8 y9 q10
          have h11 : Rel s0 y9 := by
            exact of_eq (P := (PSnd (Rel s0))) q10 (keep_freeNat (keep_noteT0 h7))
          exact snd_keep (P := (PSnd (Rel s0))) (snd_keep (P := Rel s0) h11)
      · exact snd_keep (P := (PSnd (Rel s0))) (snd_keep (P := Rel s0) h7)

theorem keep_openRequest {s0 : State} {s} (k0 : Rel s0 s) :
    PSnd (PSnd (Rel s0)) (openRequest s) := by
  unfold openRequest
  split
  · rename_i y0 y1 q2
    have h3 : Rel s0 y1 := by
      exact of_eq (P := (PSnd (Rel s0))) q2 (keep_freeNat k0)
    split
    · rename_i y4 y5 q6
      have h7 : Rel s0 y5 := by
        exact of_eq (P := (PSnd (Rel s0))) q6 (keep_freeNat h3)
      exact snd_keep (P := (PSnd (Rel s0))) (snd_keep (P := Rel s0) h7)

theorem keep_takeRequest {s0 : State} {a0 a1 a2 a3 a4 s} (k0 : Rel s0 s) :
    PSnd (PSnd (Rel s0)) (takeRequest a0 a1 a2 a3 a4 s) := by
  unfold takeRequest
  refine ite_keep (P := (PSnd (PSnd (Rel s0)))) ?_ ?_
  · exact snd_keep (P := (PSnd (Rel s0))) (snd_keep (P := Rel s0) k0)
  · refine ite_keep (P := (PSnd (PSnd (Rel s0)))) ?_ ?_
    · exact keep_openRequest k0
    · refine ite_keep (P := (PSnd (PSnd (Rel s0)))) ?_ ?_
      · exact ite_keep (P := (PSnd (PSnd (Rel s0)))) (keep_barRequest k0) (keep_openRequest k0)
      · refine ite_keep (P := (PSnd (PSnd (Rel s0)))) ?_ ?_
        · exact snd_keep (P := (PSnd (Rel s0))) (snd_keep (P := Rel s0) k0)
        · split
          · exact keep_objRequest k0
          · refine ite_keep (P := (PSnd (PSnd (Rel s0)))) ?_ ?_
            · exact snd_keep (P := (PSnd (Rel s0))) (snd_keep (P := Rel s0) k0)
            · exact keep_openRequest k0

theorem keep_answer {s0 : State} {a0 a1 a2 a3 a4 s} (k0 : Rel s0 s) :
    PSnd (Rel s0) (answer a0 a1 a2 a3 a4 s) := by
  unfold answer
  extract_lets +onlyGivenNames -merge -underBinder x0
  try clear_value x0
  refine ite_keep (P := (PSnd (Rel s0))) ?_ ?_
  · exact snd_keep (P := Rel s0) (keep_noteStatus k0)
  · split
    · rename_i y1 y2 y3 q4
      have h5 : Rel s0 y3 := by
        exact of_eq (P := (PSnd (PSnd (Rel s0)))) q4 (keep_takeRequest k0)
      exact snd_keep (P := Rel s0) (keep_noteStatus h5)

theorem keep_scanRequest {s0 : State} {a0 a1 a2 a3 s} (k0 : Rel s0 s) :
    Rel s0 (scanRequest a0 a1 a2 a3 s) := by
  unfold scanRequest
  extract_lets +onlyGivenNames -merge -underBinder x0
  try clear_value x0
  split
  · rename_i y1 y2 q3
    have h4 : Rel s0 y2 := by
      exact of_eq (P := (PSnd (Rel s0))) q3 (keep_answer (keep_emit (keep_deselect k0)))
    exact keep_setSec h4

theorem keep_answerAll {s0 : State} {bs acc ecc s} (k0 : Rel s0 s) : PSnd (Rel s0) (answerAll bs acc ecc s) := by
  induction bs generalizing acc ecc s with
  | nil => exact k0
  | cons b bs ih =>
    unfold answerAll
    split
    rename_i e
    exact ih (of_eq (P := PSnd (Rel s0)) e (keep_answer k0))

theorem keep_usbRecords {s0 : State} {a0 a1 s} (k0 : Rel s0 s) :
    Rel s0 (usbRecords a0 a1 s) := by
  unfold usbRecords
  split
  · rename_i y0 y1 q2
    have h3 : Rel s0 y1 := by
      exact of_eq (P := (PSnd (Rel s0))) q2 (keep_answerAll k0)
    exact keep_emit h3

theorem keep_execXact {s0 : State} {a0 a1 s} (k0 : Rel s0 s) :
    PNext (Rel s0) (execXact a0 a1 s) := by
  unfold execXact
  refine ite_keep (P := (PNext (Rel s0))) ?_ ?_
  · refine keep_settled ?_ ?_
    · intro a0 h1
      exact keep_scanRequest h1
    · exact k0
  · refine keep_settled ?_ ?_
    · intro a2 h3
      exact keep_usbRecords h3
    · exact k0

theorem keep_execTapMailbox {s0 : State} {a0 s} (k0 : Rel s0 s) :
    PNext (Rel s0) (execTapMailbox a0 s) := by
  unfold execTapMailbox
  refine keep_settled ?_ ?_
  · intro a0 h1
    exact keep_scanRequest h1
  · exact k0

theorem keep_execTapIdcode {s0 : State} {s} (k0 : Rel s0 s) :
    PNext (Rel s0) (execTapIdcode s) := by
  unfold execTapIdcode
  refine next_keep ?_
  refine keep_onlyIf ?_ ?_
  · intro a0 h1
    exact keep_emit (keep_deselect h1)
  · exact k0

theorem keep_execTapDomains {s0 : State} {s} (k0 : Rel s0 s) :
    PNext (Rel s0) (execTapDomains s) := by
  unfold execTapDomains
  refine next_keep ?_
  refine keep_onlyIf ?_ ?_
  · intro a0 h1
    exact keep_emit (keep_deselect h1)
  · exact k0

theorem keep_execTapBypass {s0 : State} {a0 s} (k0 : Rel s0 s) :
    PNext (Rel s0) (execTapBypass a0 s) := by
  unfold execTapBypass
  refine next_keep ?_
  refine keep_onlyIf ?_ ?_
  · intro a0 h1
    exact keep_emit (keep_deselect h1)
  · exact k0

theorem keep_sample {s0 : State} {a0 s} (k0 : Rel s0 s) :
    Rel s0 (sample a0 s) := by
  unfold sample
  extract_lets +onlyGivenNames -merge -underBinder x0
  have h1 : Rel s0 x0 := keep_deselect k0
  clear_value x0
  exact ite_keep (P := Rel s0) (keep_emit h1) (keep_noteStatus h1)

theorem keep_execTapSample {s0 : State} {a0 s} (k0 : Rel s0 s) :
    PNext (Rel s0) (execTapSample a0 s) := by
  unfold execTapSample
  refine next_keep ?_
  refine keep_onlyIf ?_ ?_
  · intro a0 h1
    exact keep_sample h1
  · exact k0

theorem keep_extest {s0 : State} {a0 s} (k0 : Rel s0 s) :
    Rel s0 (extest a0 s) := by
  unfold extest
  refine ite_keep (P := Rel s0) ?_ ?_
  · exact keep_noteStatus k0
  · exact ite_keep (P := Rel s0) k0 (ite_keep (P := Rel s0) k0 (keep_dropOutputs (keep_setSec k0)))

theorem keep_execTapExtest {s0 : State} {a0 s} (k0 : Rel s0 s) :
    PNext (Rel s0) (execTapExtest a0 s) := by
  unfold execTapExtest
  refine next_keep ?_
  refine keep_onlyIf ?_ ?_
  · intro a0 h1
    exact keep_extest h1
  · exact k0

/-! ### Ticks -/

theorem keep_tickOnTime {s0 : State} {s} (k0 : Rel s0 s) :
    Rel s0 (tickOnTime s) := by
  unfold tickOnTime
  exact ite_keep (P := Rel s0) (keep_setProg k0) k0

theorem keep_idle {s0 : State} {s} (k0 : Rel s0 s) :
    Rel s0 (idle s) := by
  unfold idle
  exact ite_keep (P := Rel s0) k0 (keep_tickOnTime (keep_tick k0))

end Sys2Proof.Machine
end

