-- ==== Sys2Proof/Laws/Settle.lean ====
section
/-!
SUPPORT. What each shared form of a meaning answers: a guarded change, a guarded change that settles, and an opcode that begins; and
what settles in a quiet state: nothing.
-/
namespace Sys2Proof.Machine
open Sys2Proof

set_option Elab.async false

/-! ### Forms -/

/-- A guarded change whose guard holds. -/
theorem settled_of (f : State → State) {c : Bool} {s : State} (h : c = true) : settled c f s = .next (settle (f s)) := by
  rw [settled, h, onlyIf, if_pos rfl]

/-- A guarded change whose guard fails changes nothing. -/
theorem settled_not (f : State → State) {c : Bool} {s : State} (h : c = false) : settled c f s = .next s := by
  rw [settled, h, onlyIf, if_neg (by simp)]

/-- An opcode that begins takes its effect. -/
theorem begin_of {id op : Nat} {c : Consumed} {s : State} (h : Accepted id op c s) (f : Consumed → State → State) :
    begin' id op f s = .next (refuseFenced (f c (markStarted id s))) := by
  simp [begin', h.1, h.2]

/-- An opcode that begins takes its effect, and what follows. -/
theorem beginSettled_of {id op : Nat} {c : Consumed} {s : State} (h : Accepted id op c s) (f : Consumed → State → State) :
    beginSettled id op f s = .next (settle (f c (markStarted id s))) := by
  simp [beginSettled, h.1, h.2]

/-- A malformed descriptor is refused. -/
theorem begin_refused {id op e : Nat} {c : Consumed} {s : State} (h : canBegin id op s = some c) (k : formatError c s = some e)
    (f : Consumed → State → State) : begin' id op f s = .next (refuseFenced (refuseFormat c e 0 s)) := by
  simp [begin', h, k]

theorem beginSettled_refused {id op e : Nat} {c : Consumed} {s : State} (h : canBegin id op s = some c) (k : formatError c s = some e)
    (f : Consumed → State → State) : beginSettled id op f s = .next (refuseFenced (refuseFormat c e 0 s)) := by
  simp [beginSettled, h, k]

/-- What a descriptor that can begin is. -/
theorem canBegin_some {id op : Nat} {c : Consumed} {s : State} (h : canBegin id op s = some c) :
    running s = true ∧ consumedById id s = some c ∧ fld c.desc 0 8 = op ∧ c.started = false ∧ fenceOpen c s = true := by
  unfold canBegin at h
  split at h
  · cases h
  · rename_i hr
    split at h
    · cases h
    · rename_i c' hc
      split at h
      · rename_i hg
        cases h
        simp only [Bool.and_eq_true, decide_eq_true_eq, Bool.not_eq_true'] at hg
        exact ⟨by simpa using hr, hc, hg.1.1.1.1.1, hg.1.1.1.1.2, hg.1.1.1.2⟩
      · cases h

@[simp] theorem forEach_nil {α : Type} (f : α → State → State) (s : State) : forEach [] f s = s := rfl
@[simp] theorem forEach_cons {α : Type} (x : α) (l : List α) (f : α → State → State) (s : State) :
    forEach (x :: l) f s = forEach l f (f x s) := rfl

/-- A fold of changes of which each leaves one state alone leaves it alone. -/
theorem forEach_same {α : Type} (l : List α) (f : α → State → State) (s : State) (h : ∀ x ∈ l, f x s = s) : forEach l f s = s := by
  induction l with
  | nil => rfl
  | cons x l ih =>
    rw [forEach_cons, h x (by simp)]
    exact ih fun y hy => h y (by simp [hy])

/-! ### Quiet states -/

/-- Where no consumed descriptor has an opcode that is refused, none is. -/
theorem refuseFenced_none {s : State} (h : ∀ c ∈ s.host.consumed, badOp c s = none) : refuseFenced s = s := by
  unfold refuseFenced
  refine forEach_same _ _ _ fun c _ => ?_
  split
  · rename_i k hk
    unfold refuseUnknown
    rw [h k (List.mem_of_find?_eq_some hk)]
  · rfl

theorem openGates_none {s : State} (h : s.time.gated = []) : openGates s = s := by
  unfold openGates
  rw [h]
  rfl

theorem actOnCauses_none {s : State} (h : s.causes = []) : actOnCauses s = s := by
  unfold actOnCauses
  rw [h, forEach_nil, ← h]

theorem account_quiet {s : State} (h : Quiet s) : account s = s := by
  obtain ⟨_, hs, _, _, _, _, hd⟩ := h
  have h1 : forEach (List.range 4) accountIdle s = s := by
    refine forEach_same _ _ _ fun n hn => ?_
    have := hd n (List.mem_range.1 hn)
    unfold accountIdle
    cases hr : (dieOf n s).running <;> cases hi : (dieLim n s).idleFrom <;> simp_all
  unfold account
  rw [h1]
  have hg : gangStreams s = [] := by simp [gangStreams, hs]
  unfold accountGangs
  rw [hg]
  rfl

theorem settleRound_quiet {s : State} (h : Quiet s) : settleRound s = s := by
  obtain ⟨hc, hs, hj, _, _, _, _⟩ := h
  have h1 : actOnCauses s = s := actOnCauses_none hc
  have h2 : finishChunks s = s := by simp [finishChunks, hs]
  have h3 : settleJobs s = s := by
    unfold settleJobs
    simp only [hs, List.map_nil, forEach_nil]
    refine forEach_same _ _ _ fun j _ => ?_
    simp [settleUnload, phaseOf, jobOf, hj, mapGet]
  unfold settleRound
  simp only [h1, h2, h3, hs, List.map_nil, forEach_nil]

/-- Nothing follows from a quiet state. -/
theorem settle_quiet {s : State} (h : Quiet s) : settle s = s := by
  unfold settle
  rw [settleRound_quiet h]
  have h1 : actOnCauses s = s := actOnCauses_none h.causes
  have h2 : advance s = s := by simp [advance, h.trans]
  rw [h1, h2, account_quiet h, openGates_none h.gated, refuseFenced_none h.ops]

/-- A guarded change whose guard holds and whose outcome is quiet answers that outcome. -/
theorem settled_quiet (f : State → State) {c : Bool} {s : State} (h : c = true) (q : Quiet (f s)) : settled c f s = .next (f s) := by
  rw [settled_of f h, settle_quiet q]

end Sys2Proof.Machine
end

