-- ==== Sys2Proof/WellFormed.lean ====
section
/-!
DEFINITION. Which commands can be sent at all: what their rows say of the operands beyond what their types bound. A command that
fails it still has a meaning; no sender can form it.
-/
namespace Sys2Proof

/-- A push message holds its 32-byte header, and fits a transfer of a body of 256 descriptors and 1 MiB (Table HST-7, R62). -/
def messageOk (m : List Byte) : Bool := decide (32 ≤ m.length) && decide (m.length ≤ 32 + 256 * 64 + 2 ^ 20)

/-- The place of an error is a core store or staging (R118), or a byte of the words that one refill of the sequence cache reads (R121). -/
def errorOk : FabError → Bool
  | .clean => true
  | .t0Corrected core => decide (core < 48) || core == 255
  | .t0Uncorrectable core => decide (core < 48) || core == 255
  | .accParity _ _ => true
  | .refillCorrected offset => decide (offset < 8192)
  | .refillUncorrectable offset => decide (offset < 8192)

/-- Well-formedness of a command: a write stays inside BAR0 (R495) and brings the bytes that its request announces (R35); the row's
own bit is set in a register write that is a row (R39, R249, R333, R350, R356); a doorbell that R40 accepts is no invalid one; messages,
samples and scans have their lengths (R62, R383, R395, R453). -/
def Instr.wf : Instr → Bool
  | .registerWrite off bytes => !bytes.isEmpty && decide (off + bytes.length ≤ 2 ^ 20)
  | .regRead _ _ _ => true
  | .regWrite _ _ wLength bytes => bytes.length == wLength.toNat
  | .ringEnable value => value.getLsbD 0
  | .ringDisable value => !value.getLsbD 0
  | .submissionTailWrite _ _ => true
  | .completionHeadWrite _ _ => true
  | .doorbellInvalidWrite off len => decide (1 ≤ len) && !((len == 4 || len == 8) && (off.toNat % 16 == 0 || (off.toNat % 16 == 8 && decide (off.toNat / 16 < 256))))
  | .descriptorRead _ _ => true
  | .nop _ => true
  | .chunk _ => true
  | .chunkTriggered _ => true
  | .jobLoad _ _ _ => true
  | .jobUnload _ => true
  | .streamRetire _ => true
  | .streamSwap _ _ => true
  | .streamSwapForced _ _ => true
  | .cancel _ => true
  | .jobRestart _ => true
  | .tableWrite _ _ => true
  | .treeWrite _ _ => true
  | .setpointWrite _ _ => true
  | .planRequest _ => true
  | .powerState _ => true
  | .powerPolicy _ => true
  | .updateHeader _ _ => true
  | .updateBody _ _ => true
  | .updateCommit _ => true
  | .holdingQueueDrain _ => true
  | .cqStall _ => true
  | .coalTime _ => true
  | .msixUnmask _ => true
  | .ringPush message => messageOk message
  | .dataPush message => messageOk message
  | .cqHead message => messageOk message
  | .completionMessage _ => true
  | .linkReset _ => true
  | .perstNDeassert => true
  | .trickBoundary _ _ => true
  | .trickOverrun _ => true
  | .sequenceWord _ error => errorOk error
  | .barrierPass _ => true
  | .fetchThreadDone _ _ _ => true
  | .cheapPathChoice _ => true
  | .dieLinkArrival _ => true
  | .linkFailed _ _ _ => true
  | .pageStep _ _ => true
  | .dummyCompare _ _ => true
  | .dummyOverdue _ => true
  | .moveRequest _ _ _ _ => true
  | .pageMoveDone _ _ => true
  | .migrationSweep => true
  | .segmentLanded _ => true
  | .segmentReadFailed _ => true
  | .variantSignal _ => true
  | .patrolScrub _ _ _ => true
  | .recalibration _ => true
  | .syncMessage _ => true
  | .syncTimeout => true
  | .timeAccept => true
  | .generatorFiring _ => true
  | .generatorEnable value => value.getLsbD 0
  | .generatorDisable value => !value.getLsbD 0
  | .captureEdge _ _ => true
  | .timeCapDataRead => true
  | .qbvChange _ => true
  | .qbvListSwitch _ => true
  | .sensorSample _ _ _ _ => true
  | .spiAssertion _ _ => true
  | .sensorSilent _ => true
  | .post _ _ _ _ => true
  | .fusionClose _ => true
  | .fusionResult => true
  | .tableActivation => true
  | .fusionEnable _ => true
  | .planCycleStart _ _ => true
  | .planBudget => true
  | .planResult => true
  | .mapCommit _ _ _ _ => true
  | .occIntake => true
  | .feedback _ _ => true
  | .deadlineMiss _ => true
  | .ident _ _ => true
  | .reenable value => value.getLsbD 16
  | .setpointEntry _ _ _ _ => true
  | .setpointCommit _ => true
  | .snapshot _ => true
  | .huskEnter => true
  | .huskExit => true
  | .cleFault cause => cause == 1 || cause == 2
  | .lineClassify _ _ => true
  | .txShortRetest _ _ => true
  | .healthPass _ => true
  | .hourlyHistory => true
  | .prognosticsSave _ => true
  | .feedBatch => true
  | .axisReset value => value.getLsbD 2
  | .axisKeep value => value.getLsbD 3
  | .replan value => value.getLsbD 1
  | .replanPeriod => true
  | .wakeSource _ => true
  | .alarm => true
  | .wakeReplay => true
  | .domainTransitionDone _ _ => true
  | .avsResponse _ => true
  | .avsTimeout _ => true
  | .pllLockTimeout pll => decide (pll < 11)
  | .limiterDecision reading => reading.dies.length == 4 && reading.currentLimit.length == 4
  | .thermalSample temps => temps.length == 5 && temps.all fun t => decide (-128 ≤ t) && decide (t ≤ 127)
  | .droop _ => true
  | .batteryLow _ => true
  | .stageLate _ => true
  | .stageMiss _ => true
  | .restartComplete _ => true
  | .arm => true
  | .drop => true
  | .discrepancy _ => true
  | .testPulse _ _ => true
  | .getIdentity => true
  | .claim => true
  | .addOwnerKey => true
  | .revokeOwnerKey => true
  | .setOwnerCfg => true
  | .returnLifecycle _ => true
  | .debugChallenge => true
  | .debugResponse => true
  | .debugClose => true
  | .debugCtrlClose => true
  | .debugExpiry => true
  | .tapIdcode => true
  | .tapDomains => true
  | .tapMailbox request => request.length == 12
  | .tapSample _ => true
  | .tapExtest _ => true
  | .tapBypass _ => true
  | .xact request _ => request.length == 12 || (request.length % 16 == 0 && decide (16 ≤ request.length) && decide (request.length ≤ 1024))
  | .hostOk => true
  | .confirm => true
  | .healthWatchdog _ => true
  | .coldReset _ _ _ => true
  | .moduleReset _ _ => true
  | .pwrReset _ _ => true
  | .mrstNRelease _ => true
  | .fwReady _ => true
  | .lockout _ => true
  | .surge _ => true
  | .overvoltageShutdown => true
  | .sensorOutputTrip _ => true
  | .sensorOutputRetry _ => true
  | .backfeed _ => true
  | .pwrSpwrCfgWrite _ => true
  | .hostMemoryAccessFailed _ _ => true
  | .dieLinkReplay _ _ => true
  | .pendingRowLanded _ _ => true
  | .dummyForcedPoint _ => true
  | .supplyRecovered _ => true
  | .polarityCorrected _ => true
  | .hostLinkUp => true
  | .ethernetLinkChange _ _ => true
  | .sensorOutputOpen _ => true

end Sys2Proof
end

