-- ==== Sys2Proof/Tests/Slice0.lean ====
section
/-!
SUPPORT. Tests of the model on small states, and for every statement with hypotheses a witness: concrete states and operands that meet
them together, clause by clause, at boundary values where a clause has a range.
-/
namespace Sys2Proof.Tests
open Sys2Proof Sys2Proof.Machine

set_option Elab.async false

/-! ### States -/

/-- The module runs, every domain is on, and no die works: a quiet state over PCI Express. -/
def up : State :=
  { State.reset with
    phase := .running, domains := List.replicate 64 .on
    lim := { Limiter.reset with dies := List.replicate 4 { DieLim.reset with idleFrom := some 0 } } }

/-- The same over USB. -/
def usb : State := setB Fld.hostCtrlAttach 0 true up

/-- A domain is off. -/
def without (d : Nat) (s : State) : State := { s with domains := s.domains.set (d - 1) .off }

/-- A ring is active: kind 0 submission, 1 completion. -/
def active (kind i : Nat) (s : State) : State :=
  setF Fld.hostRingCfgDepthLog2 (ringIx kind i) 4 (setF Fld.hostRingCfgState (ringIx kind i) 1 s)

/-- A descriptor of an opcode, with further fields by place. -/
def desc (op : Nat) (rest : List (Nat × Nat) := []) : Desc := BitVec.ofNat 512 (op + (rest.map fun p => p.2 * 2 ^ p.1).sum)

/-- The consumed descriptor number 0 of submission ring 0. -/
def item (d : Desc) : Consumed := { id := 0, sq := 0, desc := d, msg := none, started := false, orphan := false }

/-- A state with that descriptor consumed and CQ0 active. -/
def taken (d : Desc) (s : State) : State := active 1 0 { s with host := { s.host with consumed := [item d] } }

/-- A command answers a next state that meets a test. -/
def after (c : Instr) (s : State) (p : State → Bool) : Bool :=
  match exec c s with
  | .next t => p t
  | .fault _ => false
  | .refused _ => false

/-- A command in front of the queue. -/
def first (c : Instr) (s : State) : State := s.withPending [c]


/-! ### Well-formedness: what its checks refuse -/

theorem test_wf_registerWrite : (Instr.registerWrite 0 []).wf = false ∧ (Instr.registerWrite (2 ^ 20 - 4) [0, 0, 0, 0, 0]).wf = false
    ∧ (Instr.registerWrite (2 ^ 20 - 4) [0, 0, 0, 0]).wf = true := by decide
theorem test_wf_regWrite : (Instr.regWrite 0 0 4 [0, 0, 0]).wf = false ∧ (Instr.regWrite 0 0 4 [0, 0, 0, 0]).wf = true := by decide
theorem test_wf_ringEnable : (Instr.ringEnable 2).wf = false ∧ (Instr.ringEnable 1).wf = true := by decide
theorem test_wf_ringDisable : (Instr.ringDisable 1).wf = false ∧ (Instr.ringDisable 2).wf = true := by decide
theorem test_wf_doorbell : (Instr.doorbellInvalidWrite 16 4).wf = false ∧ (Instr.doorbellInvalidWrite 8 8).wf = false
    ∧ (Instr.doorbellInvalidWrite 16 0).wf = false ∧ (Instr.doorbellInvalidWrite 16 2).wf = true ∧ (Instr.doorbellInvalidWrite 4104 4).wf = true := by decide
theorem test_wf_messages : (Instr.ringPush (List.replicate 31 0)).wf = false ∧ (Instr.dataPush (List.replicate 31 0)).wf = false
    ∧ (Instr.cqHead (List.replicate 31 0)).wf = false ∧ (Instr.cqHead (List.replicate 32 0)).wf = true := by decide
theorem test_wf_sequenceWord : (Instr.sequenceWord 0 (.t0Corrected 49)).wf = false ∧ (Instr.sequenceWord 0 (.t0Uncorrectable 254)).wf = false
    ∧ (Instr.sequenceWord 0 (.t0Corrected 47)).wf = true ∧ (Instr.sequenceWord 0 (.t0Uncorrectable 255)).wf = true
    ∧ (Instr.sequenceWord 0 (.refillCorrected 8192)).wf = false ∧ (Instr.sequenceWord 0 (.refillUncorrectable 8191)).wf = true := by decide
theorem test_wf_generator : (Instr.generatorEnable 0).wf = false ∧ (Instr.generatorDisable 1).wf = false := by decide
theorem test_wf_writes_with_a_bit : (Instr.reenable 0xFFFF).wf = false ∧ (Instr.axisReset 8).wf = false ∧ (Instr.axisKeep 4).wf = false
    ∧ (Instr.replan 1).wf = false ∧ (Instr.reenable 0x10000).wf = true := by decide
theorem test_wf_cleFault : (Instr.cleFault 0).wf = false ∧ (Instr.cleFault 3).wf = false ∧ (Instr.cleFault 2).wf = true := by decide
theorem test_wf_pll : (Instr.pllLockTimeout 11).wf = false ∧ (Instr.pllLockTimeout 10).wf = true := by decide
theorem test_wf_readings : (Instr.limiterDecision ⟨0, 0, 0, [0, 0, 0], [false, false, false, false]⟩).wf = false
    ∧ (Instr.limiterDecision ⟨0, 0, 0, [0, 0, 0, 0], [false]⟩).wf = false := by decide
theorem test_wf_temps : (Instr.thermalSample [0, 0, 0, 0]).wf = false ∧ (Instr.thermalSample [0, 0, 0, 0, 128]).wf = false
    ∧ (Instr.thermalSample [-128, 0, 0, 0, 127]).wf = true := by decide
theorem test_wf_scans : (Instr.tapMailbox (List.replicate 13 0)).wf = false ∧ (Instr.xact (List.replicate 20 0) .clean).wf = false
    ∧ (Instr.xact [] .clean).wf = false ∧ (Instr.xact (List.replicate 16 0) .clean).wf = true := by decide
theorem test_wf_scan_length : (Instr.xact (List.replicate 1040 0) .clean).wf = false ∧ (Instr.xact (List.replicate 1024 0) .clean).wf = true := by decide +kernel

/-! ### The step -/

theorem witness_StepRunsFrontCommand : (first (.recalibration 0) up).pending = [.recalibration 0] := rfl

theorem witness_EmptyQueueLetsTimePass : up.pending = [] ∧ up.phase ≠ .unpowered ∧ ({ up with phase := .unpowered } : State).phase = .unpowered := by
  decide
theorem witness_InvariantKept : Inv State.reset ∧ ∃ t, step (first (.recalibration 0) State.reset) = .next t :=
  ⟨⟨⟨rfl, rfl, rfl, rfl, rfl, rfl⟩, by decide⟩, _, rfl⟩
theorem witness_FusesOnlyBlow : ∃ t, step (first .huskExit up) = .next t := ⟨_, rfl⟩
theorem witness_OutputsAreHistory : ∃ t, exec (.regRead 0 0 4) usb = .next t ∧ t.tx.length = 1 := ⟨_, rfl, by decide⟩
theorem witness_UnpoweredIsInert : ({ up with phase := .unpowered } : State).phase = .unpowered
    ∧ (∀ mv sel low, Instr.surge 70000 ≠ .coldReset mv sel low) ∧ Instr.surge 70000 ≠ .linkReset .perstAsserted
    ∧ ∀ mv, Instr.surge 70000 = .surge mv → mv ≤ 70000 := by
  refine ⟨rfl, by simp, by simp, fun mv h => ?_⟩
  cases h
  decide
theorem witness_DataGranulesAndTheirCodes : 15 * 2 ^ 30 - 1 < 15 * 2 ^ 30 ∧ (dataPlace 3 (15 * 2 ^ 30 - 1)).pod = 15
    ∧ (dataPlace 0 0).codeSlot = 15 ∧ ¬ 15 * 2 ^ 30 < 15 * 2 ^ 30 := by decide
theorem test_idle_ticks : ∃ t, step State.reset = .next t ∧ t.clock = 2 := ⟨_, rfl, by decide⟩
theorem test_surge_faults : exec (.surge 70001) up = .fault .absoluteMaximum := rfl

/-! ### Registers -/

theorem witness_RegisterWriteByAccessCode : running up = true ∧ usbAttached up = false ∧ domOn (attachDomain up) up = true
    ∧ (natLe 8 5).length = 8 ∧ plainReg .memMigCfg = true ∧ regIx .memMigCfg up = some 0 ∧ domOn (regDomain .memMigCfg up) up = true := by decide
theorem witness_BadAccessesAreNoted : running up = true ∧ usbAttached up = false ∧ domOn (attachDomain up) up = true
    ∧ locate 0 3 = .badSize ∧ locate 0xFFFF8 8 = .unassigned ∧ locate (regOffset .safeCtrl) 4 = .reg .safeCtrl
    ∧ domOn (regDomain .safeCtrl (without Dom.safe up)) (without Dom.safe up) = false ∧ (∃ w, locate 0x58000 8 = .win w
    ∧ domOn (winDomain w (without Dom.eth up)) (without Dom.eth up) = false) :=
  ⟨by decide, by decide, by decide, by decide, by decide, by decide, by decide, _, rfl, by decide⟩
theorem witness_BadDoorbells : pcieOn up = true ∧ ((8 : BitVec 16).toNat % 16 = 8 ∧ ((8 : BitVec 16).toNat / 16 < 256))
    ∧ ((0x1008 : BitVec 16).toNat % 16 ≠ 0 ∧ ¬ ((0x1008 : BitVec 16).toNat % 16 = 8 ∧ (0x1008 : BitVec 16).toNat / 16 < 256))
    ∧ getB Fld.hostErrStatusDoorbell 0 up = false ∧ getB Fld.hostErrStatusDoorbell 0 (setB Fld.hostErrStatusDoorbell 0 true up) = true := by decide
theorem witness_UsbRegisterRequests : running usb = true ∧ usbAttached usb = true ∧ domOn (attachDomain usb) usb = true
    ∧ usbRequestOk 0 15 256 = true ∧ usbRequestOk 0 16 4 = false ∧ usbRequestOk 2 0 4 = false ∧ usbRequestOk 0 0 260 = false
    ∧ usbRequestOk 0 0 0 = false ∧ ([0, 0, 0, 0] : List Byte).length = (4 : BitVec 16).toNat := by decide

/-! ### Rings -/

/-- CQ0 selected, for RING_ENABLE and RING_DISABLE. -/
def cqSel : State := setF Fld.hostRingSelKind 0 1 up

theorem witness_RingsEnable : hostOn up = true ∧ selectedRing up = some (0, 0) ∧ ringState 0 0 (active 1 0 up) = 0
    ∧ selectedRing (active 1 0 up) = some (0, 0) ∧ ringState 1 0 (active 1 0 up) = 1 ∧ selectedRing cqSel = some (1, 0) ∧ ringState 1 0 cqSel = 0
    ∧ cqSel.host.owed = [] ∧ flag (0x401 : BitVec 64) 0 = true ∧ bitsAt (0x401 : BitVec 64).toNat 8 5 = 4
    ∧ bitsAt (0x1001 : BitVec 64).toNat 8 5 = 16 ∧ bitsAt (0x301 : BitVec 64).toNat 8 5 = 3 ∧ bitsAt (0x1101 : BitVec 64).toNat 8 5 = 17 := by decide
theorem witness_RingsDisable : hostOn up = true ∧ ringState 0 0 (active 0 0 up) = 1 ∧ selectedRing (active 0 0 up) = some (0, 0)
    ∧ flag (0x400 : BitVec 64) 0 = false ∧ bitsAt (getR .hostRingCfg (ringIx 0 0) (active 0 0 up)) 8 5 = 4
    ∧ selectedRing (active 1 0 cqSel) = some (1, 0) ∧ ringState 1 0 (active 1 0 cqSel) ≠ 0 ∧ cqInUse 0 (active 1 0 cqSel) = false
    ∧ cqInUse 0 (active 0 5 (active 1 0 cqSel)) = true := by decide
theorem witness_SubmissionTailRule : pcieOn (active 0 7 up) = true ∧ ringState 0 7 (active 0 7 up) = 1 ∧ ringState 0 7 up ≠ 1
    ∧ ((16 : BitVec 32) - (sqOf 7 (active 0 7 up)).tail).toNat
      ≤ ((sqOf 7 (active 0 7 up)).head + BitVec.ofNat 32 (ringDepth 0 7 (active 0 7 up)) - (sqOf 7 (active 0 7 up)).tail).toNat
    ∧ ¬ ((17 : BitVec 32) - (sqOf 7 (active 0 7 up)).tail).toNat
      ≤ ((sqOf 7 (active 0 7 up)).head + BitVec.ofNat 32 (ringDepth 0 7 (active 0 7 up)) - (sqOf 7 (active 0 7 up)).tail).toNat := by decide
theorem test_tail_of_depth_is_valid : after (.submissionTailWrite 7 16) (active 0 7 up) (fun t => (sqOf 7 t).tail == 16) = true := by decide +kernel
theorem test_tail_beyond_stops : after (.submissionTailWrite 7 17) (active 0 7 up) (fun t => ringState 0 7 t == 2) = true := by decide +kernel
theorem witness_CompletionHeadRule : pcieOn up = true ∧ ((0 : BitVec 32) - (cqOf 255 up).head).toNat ≤ ((cqOf 255 up).tail - (cqOf 255 up).head).toNat
    ∧ ¬ ((1 : BitVec 32) - (cqOf 255 up).head).toNat ≤ ((cqOf 255 up).tail - (cqOf 255 up).head).toNat := by decide

/-- One descriptor waits in ring 0. -/
def oneWaits : State := setSq 0 ⟨0, 1⟩ (active 0 0 (active 1 0 up))

theorem witness_ConsumptionInRingOrder : running oneWaits = true ∧ usbAttached oneWaits = false ∧ oneWaits.upd.recovery = false
    ∧ servedNow 0 oneWaits = true ∧ (pendingRings oneWaits).length ≤ 256 ∧ hasWork 0 oneWaits = true ∧ knownOps.contains (fld (desc 0x00) 0 8) = true := by decide +kernel
theorem witness_NopCompletesAsDone : canBegin 0 0 (taken (desc 0) up) = some (item (desc 0)) ∧ formatError (item (desc 0)) (taken (desc 0) up) = none
    ∧ usbAttached (taken (desc 0) up) = false ∧ roomAt (boundCq 0 (taken (desc 0) up)) (taken (desc 0) up) = .post
    ∧ flag (desc 0) 10 = false ∧ flag (desc 0) 11 = false := by decide +kernel
theorem test_nop_completes :
    after (.nop 0) (taken (desc 0) up) (fun t => (cqOf 0 t).tail == 1 && t.host.consumed.isEmpty) = true := by decide +kernel
theorem witness_HostCommandsTouchOnlyTheHost : hostCommand (.coalTime 0) = true ∧ ∃ t, exec (.coalTime 0) up = .next t := ⟨rfl, _, rfl⟩

/-- CQ0 has been full for CQ_TIMEOUT, and an entry waits for a message. -/
def stuck : State :=
  { setCq 0 { cqOf 0 up with tail := 16, fullSince := some 0, oldest := some 0, sinceMsg := 1 } (setF Fld.hostRingCfgCoalTime (ringIx 1 0) 1 (active 1 0 up)) with clock := 10 ^ 15 }

theorem witness_CompletionRingService : running stuck = true ∧ stallDue 0 stuck = true ∧ coalDue 0 stuck = true ∧ usbAttached stuck = false
    ∧ flag stuck.host.pba 0 = false ∧ flag ({ stuck.host with pba := 1 } : HostIf).pba 0 = true := by decide +kernel

/-! ### USB messages -/

/-- A push message: header and body. -/
def push (typ ring count dlen : Nat) (value : Nat) (body : List Byte) : List Byte :=
  natLe 2 0xA7C3 ++ natLe 1 1 ++ natLe 1 typ ++ natLe 4 (32 + body.length) ++ natLe 4 0 ++ natLe 2 ring ++ natLe 2 count ++ natLe 4 value
    ++ natLe 4 dlen ++ natLe 8 0 ++ body

/-- One descriptor for ring 0. -/
def onePush : List Byte := push 1 0 1 0 1 (List.replicate 64 0)

theorem witness_UsbMessages : usbOn (active 0 0 usb) = true ∧ PM.typ onePush = 1 ∧ ringPushOk onePush (active 0 0 usb) = true
    ∧ pushFits onePush (active 0 0 usb) = true ∧ ringPushOk onePush usb = false
    ∧ pushFits (push 1 0 65535 (2 ^ 31) 0 []) usb = false
    ∧ PM.typ (push 2 0 0 0 0 []) = 2 ∧ dataPushOk (push 2 0 0 0 0 []) usb = true ∧ dataPushOk (push 2 0 1 0 0 []) usb = false
    ∧ PM.typ (push 3 0 0 0 0 []) = 3 ∧ cqHeadOk (push 3 0 0 0 0 []) (active 1 0 usb) = true ∧ cqHeadOk (push 3 0 0 0 1 []) usb = false
    ∧ (cqOf 255 (setCq 255 { cqOf 255 usb with unsent := [([], ⟨0, ⟨0, 0, false, false, 0, 0, 0, 0, 0, 0, 0, 0, 0⟩, false, none, none⟩)] } usb)).unsent ≠ [] := by decide +kernel
theorem test_push_takes_the_tail :
    after (.ringPush onePush) (active 0 0 usb) (fun t => (sqOf 0 t).tail == 1 && t.host.seq == 1) = true := by decide +kernel

/-! ### Links and host memory -/

theorem witness_LinkEvents : running up = true ∧ causeApplies .hotReset up = true ∧ causeApplies .usbReset up = false
    ∧ ({ up with power := { up.power with perst := true } } : State).power.perst = true ∧ domOn (attachDomain up) up = true
    ∧ usbAttached usb = true ∧ up.power.perst = false := by decide

/-- A POWER_POLICY whose input lies in host memory. -/
def hostRead : Desc := desc 0x10 [(64, 2 ^ 62), (128, 4)]

theorem witness_HostMemoryFaults : running (taken hostRead up) = true ∧ consumedById 0 (taken hostRead up) = some (item hostRead)
    ∧ usesHost (item hostRead) false = true ∧ usesHost (item hostRead) true = false ∧ itemHome 0 (taken hostRead up) = none
    ∧ readsInput.contains (fld hostRead 0 8) = true ∧ canBegin 0 (fld hostRead 0 8) (taken hostRead up) = some (item hostRead)
    ∧ formatError (item hostRead) (taken hostRead up) = none := by decide +kernel

/-! ### Jobs and streams -/

/-- A stream of job 0 on die 0 with one bank. -/
def plain : Machine.Stream :=
  { job := 0, index := 0, cls := 1, triggered := false, safety := false, dies := 1, banks := 1, rate := 0, wcetNs := 0, dummyTricks := 0
    dummyUs := 0, sq := 0, boundUs := 0, checkedOp := 1, valid := true, phys := [(0, [2])], trigger := none, misses := 0, items := []
    retiring := false, ctx := [(0, freshCtx 0)]
    dummy := { lastStart := 0, point := 0, due := false, owed := false, started := false, ended := false, failed := false, pausedAt := none
               doneDies := [], ctx := [] }
    jumped := false, lastEnd := 0 }

/-- A job of one word on die 0. -/
def small : Job :=
  { imageId := 0, dieRecs := [⟨0, 0, 1, 1, 1, 0, 0⟩], streamBase := 0, streamCount := 1, seqs := [⟨0, [0], [], [0], []⟩], objs := [], dummies := []
    phase := .resident, safeTimes := [] }

/-- Job 0 with stream 0, and nothing else. -/
def busy (x : Machine.Stream) (s : State) : State := { s with jobs := [(0, small)], streams := [(0, x)] }

theorem witness_SettlingOnlyReleases : Steady (busy plain up) := by
  refine ⟨rfl, rfl, fun j ids h => ?_, fun st x h => ?_, by decide, rfl⟩
  · have : phaseOf j (busy plain up) = none ∨ phaseOf j (busy plain up) = some .resident := by
      simp only [phaseOf, jobOf, busy, mapGet]
      split
      · right; rfl
      · left; rfl
    rcases this with k | k <;> rw [k] at h <;> cases h
  · have : x = plain := by
      simp only [streamOf, busy, mapGet] at h
      split at h
      · exact (Option.some.inj h).symm
      · cases h
    subst this
    exact ⟨by decide, by decide, by decide⟩

/-- A descriptor that breaks the common rule: its stream does not exist. -/
theorem witness_MalformedDescriptorsAreRefused : canBegin 0 1 (taken (desc 1) up) = some (item (desc 1))
    ∧ formatError (item (desc 1)) (taken (desc 1) up) = some 0x0104
    ∧ (0x01, Instr.chunk 0) ∈ [(0x00, Instr.nop 0), (0x01, .chunk 0)] := by decide +kernel

/-- What `Accepted` asks, at a descriptor of ring 0. -/
abbrev Takes (op : Nat) (d : Desc) (s : State) : Prop := canBegin 0 op (taken d s) = some (item d) ∧ formatError (item d) (taken d s) = none

theorem witness_StreamWorkQueues : streamOf 0 (taken (desc 1) (busy plain up)) = some plain
    ∧ phaseOf 0 (taken (desc 1) (busy plain up)) = some .resident ∧ plain.retiring = false ∧ plain.triggered = false ∧ plain.banks ≠ 0
    ∧ Takes 0x01 (desc 0x01) (busy plain up) ∧ Takes 0x01 (desc 0x01) (busy { plain with triggered := true } up)
    ∧ Takes 0x02 (desc 0x02 [(288, 71)]) (busy { plain with triggered := true } up) ∧ arg (desc 0x02 [(288, 71)]) 36 1 < 72
    ∧ Takes 0x02 (desc 0x02) (busy plain up) ∧ Takes 0x13 (desc 0x13) (busy plain up) ∧ Takes 0x14 (desc 0x14) (busy plain up)
    ∧ Takes 0x13 (desc 0x13) (busy { plain with banks := 0 } up) ∧ Takes 0x14 (desc 0x14) (busy { plain with banks := 0 } up)
    ∧ Takes 0x13 (desc 0x13 [(64, 2 ^ 62), (128, 4)]) (busy plain up) ∧ inLen (desc 0x13 [(64, 2 ^ 62), (128, 4)]) ≠ stateSize plain
    ∧ inLen (desc 0x13) = 0 ∧ inLen (desc 0x13 [(64, 2 ^ 62), (128, 491520)]) = stateSize plain := by decide +kernel
theorem test_trigger_72_is_refused : after (.chunkTriggered 0) (taken (desc 0x02 [(288, 72)]) (busy { plain with triggered := true } up))
    (fun t => (cqOf 0 t).tail == 1 && (streamOf 0 t).all fun x => x.items.isEmpty) = true := by decide +kernel
theorem witness_WorkIsTakenBack : Takes 0x15 (desc 0x15) (busy { plain with items := [newItem 7 .chunk (.bytes [])] } up)
    ∧ phaseOf 0 (busy plain up) = some .resident ∧ unbegun 0 0 (markStarted 0 (taken (desc 0x15) (busy plain up))) = []
    ∧ Takes 0x12 (desc 0x12) (busy plain up) ∧ Takes 0x11 (desc 0x11) (busy plain up)
    ∧ jobOf 0 (taken (desc 0x11) (busy plain up)) = some small ∧ Takes 0x16 (desc 0x16) (busy plain up) ∧ Takes 0x11 (desc 0x11 [(24, 31)]) up
    ∧ jobOf 31 (taken (desc 0x11 [(24, 31)]) up) = none ∧ Takes 0x16 (desc 0x16 [(24, 31)]) up := by decide +kernel
/-- A load descriptor whose image of `n` bytes lies in host memory. -/
def loadOf (n : Nat) : Desc := desc 0x10 [(64, 2 ^ 62), (128, n)]
/-- An image without streams, unsigned, for a generation: a declaration, an empty CONTRACT, and a tier object of a MIN_RESIDENT. -/
def image (gen resident : Nat) : List Byte :=
  natLe 4 0x54564C49 ++ natLe 2 1 ++ natLe 2 gen ++ natLe 4 0 ++ natLe 4 128 ++ natLe 8 324 ++ natLe 8 7 ++ natLe 4 3 ++ natLe 4 128
    ++ List.replicate 88 0
    ++ natLe 8 0xFF01 ++ natLe 8 224 ++ natLe 8 36 ++ natLe 8 0
    ++ natLe 8 0xFF02 ++ natLe 8 260 ++ natLe 8 0 ++ natLe 8 0
    ++ natLe 8 0xFF04 ++ natLe 8 260 ++ natLe 8 64 ++ natLe 8 0
    ++ natLe 2 0 ++ natLe 2 1 ++ natLe 16 0 ++ natLe 8 65536 ++ natLe 8 0
    ++ natLe 8 1 ++ natLe 1 1 ++ natLe 3 0 ++ natLe 4 resident ++ List.replicate 48 0
/-- The state in which a load of it is checked. -/
def loading (gen resident : Nat) (s : State) : State :=
  openInput (item (loadOf 324)) (.bytes (image gen resident)) (markStarted 0 (taken (loadOf 324) s))
/-- The pods of every die have failed. -/
def noPods (s : State) : State := forEach [0, 4, 8, 12] (setB Fld.memPodStatusFailed · true) s
/-- What a binding list says, where it is not refused, and the DETAIL of a refusal. -/
def ringsOf : Binding → Option (List Nat)
  | .rings l => some l
  | .refused _ => none
  | .failed _ => none
def bindErr : Binding → Nat
  | .rings _ => 0
  | .refused e => e.2.1
  | .failed _ => 0

theorem witness_LoadChecksInOrder : Takes 0x10 (loadOf 324) up
    ∧ inputOf (item (loadOf 324)) (.bytes (image 4 0)) (loading 4 0 up) = .ok (image 4 0)
    ∧ ringsOf (bindings (item (loadOf 324)) (Img.streamCount (image 4 0)) .failed (loading 4 0 up)) = some []
    ∧ bindErr (bindings (item (desc 0x10 [(352, 2 ^ 63)])) 1 .failed up) = 0x0102
    ∧ (Img.layoutCheck [] 0).isSome = true ∧ Img.layoutCheck (image 4 0) 324 = none
    ∧ (Img.authCheck (image 3 0) (runningVersion up) up).isSome = true
    ∧ Img.authCheck (image 4 0) (runningVersion (loading 4 0 up)) (loading 4 0 up) = none
    ∧ (fitCheck 0 0 (Img.dieRecs (image 4 0)) [] [] (loading 4 0 (busy plain up))).isSome = true
    ∧ fitCheck 0 0 (Img.dieRecs (image 4 0)) [] [] (loading 4 0 up) = none
    ∧ (Chk.contentCheck (image 4 1) 0 (loading 4 1 up)).isSome = true
    ∧ Chk.contentCheck (image 4 0) 0 (loading 4 0 up) = none
    ∧ placeJob 0 0 (image 4 0) (loading 4 0 (noPods up)) = none
    ∧ (placeJob 0 0 (image 4 0) (loading 4 0 up)).isSome = true := by decide +kernel
/-- A write of version 1 of sensor table 0, with all its 64 bytes 0; a tree of one node. -/
def sensorWrite (ver : Nat) : Desc := desc 0x20 [(320, 1), (328, 1), (352, ver)]
def treeBytes : List Byte := natLe 2 0x7EE0 ++ natLe 2 1 ++ natLe 4 10 ++ List.replicate 12 0 ++ natLe 4 1 ++ List.replicate 40 0 ++ List.replicate 8 0
/-- The fusion table space holds one table of some bytes. -/
def tabled (l : List Byte) : State := { up with tables := { up.tables with active := [(tableKey 1 2 0, 1, l)] } }

theorem witness_TableWrites : Takes 0x20 (sensorWrite 1) up ∧ tableRow 0 (taken (sensorWrite 1) up) = 0
    ∧ 1 ≤ (tableForm (item (sensorWrite 1))).1 ∧ (tableForm (item (sensorWrite 1))).1 ≤ 3
    ∧ tableOk (item (sensorWrite 1)) (List.replicate 64 0) up = true ∧ tableOk (item (sensorWrite 1)) [] up = false
    ∧ versionOk (tableKey 1 1 0) 1 up = true
    ∧ versionOk (tableKey 1 1 0) 1 { up with tables := { up.tables with active := [(tableKey 1 1 0, 1, [])] } } = false
    ∧ tableFits (tableKey 1 1 0) 64 up = true ∧ tableRow 0 (taken (desc 0x20 [(320, 2), (328, 3)]) up) = 1
    ∧ Takes 0x20 (desc 0x20 [(320, 2), (328, 3)]) up ∧ getB Fld.plnWriterEn 0 up = false ∧ treeBytes.length = 64 + 8 * treeCount treeBytes
    ∧ treeFault treeBytes = none ∧ treeVersionOk 0 up = true ∧ Takes 0x20 (desc 0x20 [(320, 3), (328, 4)]) up
    ∧ tableRow 0 (taken (desc 0x20 [(320, 3), (328, 4)]) up) = 2 ∧ cleArgsOk (item (desc 0x20 [(320, 3), (328, 4)])) = true
    ∧ setpointsOk (List.replicate 16 0) = true ∧ setpointsOk [] = false := by decide +kernel
/-- 512 KiB of tables leave no room for 64 bytes more. -/
theorem test_full (l : List Byte) (h : l.length = 524288) : tableFits (tableKey 1 1 0) 64 (tabled l) = false := by
  simp [tableFits, fusTableSpace, tabled, tableEngine, tableKey, up, h]
  omega
theorem witness_TableTooLarge : ∃ s, tableFits (tableKey 1 1 0) 64 s = false := ⟨_, test_full (List.replicate 524288 0) List.length_replicate⟩
theorem witness_PlanRequestsQueue : Takes 0x21 (desc 0x21) up ∧ planOn (taken (desc 0x21) up) = true ∧ up.plan.queue.length < 64
    ∧ planOn (without Dom.plan up) = false ∧ Takes 0x21 (desc 0x21) (without Dom.plan up)
    ∧ 64 ≤ ({ up.plan with queue := List.replicate 64 0 } : Planner).queue.length := by decide +kernel

/-- POWER_STATE of TIME to on, and of PROG to off. -/
def powerOn : Desc := desc 0x30 [(320, 2 ^ 2), (384, 2)]
def powerOff : Desc := desc 0x30 [(320, 2 ^ 7), (384, 0)]

theorem witness_PowerStateRuns : Takes 0x30 powerOn up ∧ PS.ok (item powerOn) = true ∧ up.power.trans = none
    ∧ earlierPower 0 (taken powerOn up) = false ∧ getB Fld.pwrWakeStatusReplay 0 up = false ∧ restartBlocks (PS.mask (item powerOn)) up = false
    ∧ changedBy (PS.mask (item powerOn)) (codeState (PS.target (item powerOn))) up = []
    ∧ Takes 0x30 powerOff up ∧ PS.ok (item powerOff) = true
    ∧ changedBy (PS.mask (item powerOff)) (codeState (PS.target (item powerOff))) up ≠ [] := by decide +kernel
theorem witness_PowerStateFaults : powerFault (PS.mask (item (desc 0x30 [(320, 2 ^ 4), (384, 0)]))) .off 0 up ≠ none
    ∧ Takes 0x30 (desc 0x30 [(320, 2 ^ 4), (384, 0)]) up ∧ powerFault (PS.mask (item powerOff)) .off 0 up = none
    ∧ (changedBy (PS.mask (item powerOff)) .off up).contains (attachDomain up) = false
    ∧ (changedBy (2 ^ (attachDomain up - 1)) .off up).contains (attachDomain up) = true ∧ domOn (attachDomain up) up = true
    ∧ ({ up with power := { up.power with trans := some ⟨none, false, 0, [], [], [], 0, none⟩ } } : State).power.trans.isSome = true := by decide +kernel
theorem witness_PowerPolicyStores : Takes 0x31 (desc 0x31) up ∧ PP.ok (desc 0x31) = true ∧ floorClamped (desc 0x31) up = false
    ∧ Takes 0x31 (desc 0x31 [(336, 8), (384, 101)]) up ∧ PP.ok (desc 0x31 [(336, 8), (384, 101)]) = true
    ∧ PP.sets (desc 0x31 [(336, 8), (384, 101)]) 3 = true ∧ 100 < PP.throttle (desc 0x31 [(336, 8), (384, 101)])
    ∧ PP.ok (desc 0x31 [(336, 8), (384, 79)]) = false ∧ Takes 0x31 (desc 0x31 [(336, 8), (384, 79)]) up
    ∧ PP.ok (desc 0x31 [(336, 4), (368, 0x1111)]) = true
    ∧ floorClamped (desc 0x31 [(336, 4), (368, 0x1111)]) (busy { plain with cls := 0, rate := 1, checkedOp := 2 } up) = true := by decide +kernel

/-- An update session has opened on slot 1. -/
def updating : State := { up with upd := { up.upd with session := some ⟨1, List.replicate 512 0, 0⟩ } }

/-- The running slot is on trial since the start. -/
def trial : State :=
  { setB Fld.updCfgWdReset 0 false up with
    upd := { up.upd with slots := up.upd.slots.map (fun x => { x with state := 3 }), trialFrom := some 0, next := 1 }
    clock := 120000000000 }

theorem witness_UpdateSessionsAndTrials : earlierUpdate 0 (taken (desc 0x40) up) = false ∧ Takes 0x40 (desc 0x40) up
    ∧ inputOf (item (desc 0x40)) (.bytes []) (openInput (item (desc 0x40)) (.bytes []) (markStarted 0 (taken (desc 0x40) up))) = .ok []
    ∧ Takes 0x41 (desc 0x41) up ∧ up.upd.session = none ∧ Takes 0x41 (desc 0x41 [(320, 1)]) updating ∧ updating.upd.session.isSome = true
    ∧ arg (desc 0x41 [(320, 1)]) 40 4 ≠ 0
    ∧ Takes 0x42 (desc 0x42 [(320, 1)]) updating ∧ bitsAt (arg (desc 0x42 [(320, 1)]) 40 1) 0 1 = 1 ∧ Takes 0x42 (desc 0x42) updating
    ∧ 0 < FW.bodyLen (List.replicate 20 0 ++ [4, 0, 0, 0] ++ List.replicate 488 0) ∧ FW.bodyLen (List.replicate 512 0) ≤ 0
    ∧ domOn Dom.mgmt up = true ∧ domOn Dom.mgmt (without Dom.mgmt up) = false ∧ mayConfirm up = false
    ∧ trialOver trial = true ∧ trialOver { trial with clock := 119999999999 } = false ∧ getB Fld.updCfgWdReset 0 trial = false
    ∧ trial.upd.runningSlot < trial.upd.slots.length
    ∧ mayConfirm (active 1 0 { trial with clock := 119999999999 }) = true := by decide +kernel
theorem witness_UpdateBody : ∃ h, FW.bodyLen h = 4 ∧ Takes 0x41 (desc 0x41 [(64, 2 ^ 62), (128, 4)]) updating
    ∧ 0 + inLen (desc 0x41 [(64, 2 ^ 62), (128, 4)]) ≤ FW.bodyLen h
    ∧ inputOf (item (desc 0x41 [(64, 2 ^ 62), (128, 4)])) (.bytes [1, 2, 3, 4]) up = .ok [1, 2, 3, 4] :=
  ⟨List.replicate 20 0 ++ [4, 0, 0, 0] ++ List.replicate 488 0, by decide +kernel⟩

/-! ### The Dealer -/

/-- Die 0 with a changed record. -/
def die0 (f : Die → Die) (s : State) : State := adjDie 0 f s
/-- A chunk on stream 0 in a phase. -/
def chunkIn (p : ItemPhase) : Item := { newItem 0 .chunk (.bytes []) with phase := p }
/-- A CONTROL stream of a rate with an item. -/
def control (i : Item) : Machine.Stream := { plain with cls := 0, rate := 1, items := [i] }
/-- A SAFETY stream. -/
def safety : Machine.Stream := { plain with safety := true, dummyUs := 1000 }
/-- Stream 0 runs a chunk on die 0. -/
def running0 : State := die0 (fun y => { y with running := some (0, .chunk) }) (busy (control (chunkIn .started)) up)

theorem witness_DealerChoosesAtBoundaries : running running0 = true ∧ (dieOf 0 running0).running = some (0, .chunk)
    ∧ (dieOf 0 up).running = none ∧ dieReady 0 up = true ∧ dieLeaving 0 up = false ∧ up.lim.noPoint.contains 0 = false
    ∧ (startedGuaranteed 0 (busy (control (chunkIn .started)) up)).isSome = true
    ∧ (startedGuaranteed 0 (busy (control (chunkIn .released)) up)) = none
    ∧ (earliestGuaranteed 0 (busy (control (chunkIn .released)) up)).isSome = true
    ∧ dueDummy 0 (busy (control (chunkIn .released)) up) = none ∧ forcedSwap 0 (busy (control (chunkIn .released)) up) = none
    ∧ dieReady 0 (busy (control (chunkIn .released)) up) = true := by decide +kernel

/-- A due dummy frame beside a released guaranteed chunk, which a frame has or has not passed. -/
def dueAnd (jumped : Bool) : State :=
  busy { control (chunkIn .released) with jumped := jumped, safety := true, dummyUs := 1000, dummy := { safety.dummy with due := true } } up
/-- A swap that is forced, a flexible chunk, and a SAFETY stream with nothing due. -/
def forcing : State := busy { plain with items := [newItem 0 .forced (.bytes [])] } up
def flexing : State := busy { plain with items := [chunkIn .released] } up
def idling : State := { busy { safety with dummyUs := 1000000 } up with clock := 600000000 }

theorem witness_DealerDummiesAndSwaps :
    (dueDummy 0 (dueAnd false)).isSome = true ∧ startedGuaranteed 0 (dueAnd false) = none
    ∧ hasJumped (earliestGuaranteed 0 (dueAnd false)) (dueAnd false) = false
    ∧ (dueDummy 0 (dueAnd true)).isSome = true ∧ startedGuaranteed 0 (dueAnd true) = none
    ∧ (earliestGuaranteed 0 (dueAnd true)).isSome = true ∧ hasJumped (earliestGuaranteed 0 (dueAnd true)) (dueAnd true) = true
    ∧ startedGuaranteed 0 forcing = none ∧ dueDummy 0 forcing = none ∧ (forcedSwap 0 forcing).isSome = true
    ∧ startedGuaranteed 0 flexing = none ∧ dueDummy 0 flexing = none ∧ forcedSwap 0 flexing = none ∧ earliestGuaranteed 0 flexing = none
    ∧ (dieOf 0 flexing).gang = none ∧ pickFlexible 0 flexing = some 0
    ∧ startedGuaranteed 0 idling = none ∧ dueDummy 0 idling = none ∧ forcedSwap 0 idling = none ∧ earliestGuaranteed 0 idling = none
    ∧ (dieOf 0 idling).gang = none ∧ pickFlexible 0 idling = none ∧ (idleDummy 0 idling).isSome = true := by decide +kernel
theorem test_trick_begins : after (.trickBoundary 0 .clean) flexing (fun t => (dieOf 0 t).running == some (0, .chunk)) = true := by decide +kernel
theorem witness_TricksRunWordsOnOpenBanks : TrickKind.chunk ≠ .swap ∧ up.dies.length = 4 ∧ running running0 = true
    ∧ runningOn 0 running0 = some (0, false) ∧ runningOn 0 up = none ∧ (dieOf 0 running0).running = some (0, .chunk)
    ∧ streamOf 0 running0 = some (control (chunkIn .started)) ∧ running0.dies.length = 4 := by decide +kernel
theorem test_overrun : after (.trickOverrun 0) running0 (fun t => (dieOf 0 t).running == none && getF Fld.dlrStatsOverrun 0 t == 1) = true := by
  decide +kernel

/-- A thread of stream 0 that waits for nothing. -/
def thread : Thread := { id := 5, stream := 0, desc := 0, dummy := false, spec := none, waited := false, landed := 0, dropped := false, done := false }
def threads (t : Thread) : State := die0 (fun y => { y with threads := [t] }) running0

/-- Descriptors: of a thread that waits for a token, of 8 bytes of plane rows, and of a line at the start of job 0's objects. -/
def waiting : FetchDesc := 2 ^ 208
def planes : FetchDesc := 2 ^ 49 + 8 * 2 ^ 96
def oneLine : FetchDesc := 64 * 2 ^ 96
/-- Job 0 has a PINNED_T0 object of one line, and that line is poisoned. -/
def pinned (t : Thread) : State :=
  { threads t with jobs := [(0, { small with objs := [⟨0, 0, 64, 0, 0, true, true, false, false, 0, 0, 0, 1, 1, 0⟩] })] }
def poisoned (t : Thread) : State := poisonAt ((resolve 0 (pinned t)).getD 0) (pinned t)

theorem witness_FetchThreadsLand : running (threads thread) = true ∧ threadOf 0 5 (threads thread) = some thread ∧ thread.done = false
    ∧ mayWrite 0 thread (threads thread) = true ∧ threadPath 0 thread.desc (threads thread) = true ∧ thread.dropped = false
    ∧ threadErr 0 thread.desc (touchRanges (threadRanges thread.desc) (senseRanges (threadRanges thread.desc) .clean (threads thread))) = none
    ∧ threadOf 0 5 (threads { thread with dropped := true }) = some { thread with dropped := true }
    ∧ threadOf 0 5 (threads { thread with spec := some 0 }) = some { thread with spec := some 0 }
    ∧ slotsShort 0 (landThread 0 { thread with spec := some 0 } (threads { thread with spec := some 0 })) = false
    ∧ mayWrite 0 { thread with desc := waiting } (threads { thread with desc := waiting }) = false
    ∧ FD.planeRow planes = true ∧ 0 < planeRows8 planes ∧ threadErr 0 planes (threads { thread with desc := planes }) = none
    ∧ threadOf 0 5 (takeWait 0 { thread with desc := planes } (threads { thread with desc := planes })) = some { thread with desc := planes }
    ∧ (threadErr 0 oneLine (poisoned { thread with desc := oneLine })).isSome = true
    ∧ mayWrite 0 { thread with desc := oneLine } (poisoned { thread with desc := oneLine }) = true
    ∧ threadPath 0 oneLine (poisoned { thread with desc := oneLine }) = true := by decide +kernel

/-- A job of one word with a barrier. -/
def barrierJob : Job := { small with seqs := [⟨0, [0], [], [2 ^ 72 + 5 * 2 ^ 73], []⟩] }
/-- Stream 0 of that job, at the barrier. -/
def atBarrier : State :=
  { busy (control (chunkIn .started)) up with
    jobs := [(0, barrierJob)]
    streams := [(0, { control (chunkIn .started) with ctx := [(0, { freshCtx 0 with atBarrier := true })] })] }
/-- A walker of stream 0 at its first row, of a descriptor. -/
def walker (d : BitVec 1024) : Walker :=
  { stream := 0, dummy := false, desc := d, line := 0, row := 0, step := 0, chunkStep := 0, busy := 0, gated := 0, rowDone := true
    inRow := false, startWord := 0, fresh := false, m := [], pred := [], thr := [], skipping := false, verified := false, replay := false
    skipped := [], stopped := false, live := [] }
/-- One sequence, one head, one row: LEN_TABLE at 0, PAGE_LIST at 64, Q at 128 of job 0's objects, two buffers. -/
def attention : BitVec 1024 :=
  2 ^ 24 + 2 ^ 32 + 2 ^ 40 + 2 ^ 48 + 2 * 2 ^ 152 + 2 ^ 160 + 2 ^ 176 + 2 ^ 240 + 64 * 2 ^ 256 + 128 * 2 ^ 448 + 2 ^ 616 + 2 ^ 632
/-- Die 0 has that walker, with a length entry of one query and a key count, and a page entry. -/
def walking (kv page : Nat) : State :=
  let s := die0 (fun y => { y with walker := some (walker attention) }) running0
  store (t1Addr 0 0) (natLe 4 0 ++ natLe 4 1 ++ natLe 4 kv ++ natLe 52 0 ++ natLe 8 page)
    { s with
      jobs := [(0, { small with objs := [⟨0, 0, 65536, 1, 0, true, true, false, false, 0, 0, 0, 0, 0, 0⟩] })]
      tiers := { s.tiers with pages := [(0, .t1 0 0)] } }
/-- Its row, and its steps. -/
def itsRow : AttRow := ⟨0, 0, 0, 1⟩
/-- Stream 0 has entered the execution of its word on die 0. -/
def enteredWord : State :=
  { running0 with streams := [(0, { control (chunkIn .started) with ctx := [(0, { freshCtx 0 with entered := true })] })]
                  jobs := [(0, { small with seqs := [⟨0, [0], [], [7 * 2 ^ 236], []⟩] })] }

theorem witness_BarriersWalkersAndCheapPaths : (streamOf 0 atBarrier).isSome = true ∧ jobOfStream 0 atBarrier = some barrierJob
    ∧ ((streamOf 0 atBarrier).map fun x => (diesOf x).map fun k => barrierOf barrierJob (runCtx x k false) k) = some [some 5]
    ∧ ((streamOf 0 atBarrier).map fun x => (diesOf x).map fun k => barrierOf barrierJob (runCtx x k true) k) = some [none]
    ∧ (dieOf 0 atBarrier).walker = none ∧ walkerReady { walker attention with stopped := true } [none] = false
    ∧ (dieOf 0 (walking 1 32768)).walker = some (walker attention)
    ∧ walkerReady (walker attention) (rowSteps attention (some itsRow) (walking 1 32768)) = true
    ∧ walkerRow (walker (attention - 2 ^ 160)) up = none
    ∧ walkerReady (walker (attention - 2 ^ 160)) (rowSteps (attention - 2 ^ 160) none up) = true
    ∧ walkerRow (walker attention) (walking 1 32768) = some itsRow
    ∧ lenCheck attention (lenEntry attention 0 (walking 1 32768)) (walking 1 32768) = true
    ∧ rowSteps attention (some itsRow) (walking 1 32768) = [some 0]
    ∧ pageCheck 0 (pageEntryAt attention (lenEntry attention 0 (walking 1 32768)) 0 0)
        (pageEntry attention (lenEntry attention 0 (walking 1 32768)) 0 0 (walking 1 32768)) (walking 1 32768) = true
    ∧ pageCheck 0 (pageEntryAt attention (lenEntry attention 0 (walking 1 1)) 0 0)
        (pageEntry attention (lenEntry attention 0 (walking 1 1)) 0 0 (walking 1 1)) (walking 1 1) = false
    ∧ lenCheck attention (lenEntry attention 0 (walking 1 1)) (walking 1 1) = true
    ∧ walkerRow (walker attention) (walking 0 0) = some itsRow
    ∧ walkerReady (walker attention) (rowSteps attention (some itsRow) (walking 0 0)) = true
    ∧ lenCheck attention (lenEntry attention 0 (walking 0 0)) (walking 0 0) = false
    ∧ rangesErr 0 (stepReads attention (walker attention) itsRow (lenEntry attention 0 (walking 1 32768)) (some 0) (walking 1 32768))
        (touchRanges (stepReads attention (walker attention) itsRow (lenEntry attention 0 (walking 1 32768)) (some 0) (walking 1 32768))
          (walking 1 32768)) = none
    ∧ runningOn 0 up = none ∧ (dieOf 0 (die0 (fun y => { y with exact := true }) running0)).exact = true
    ∧ runningOn 0 enteredWord = some (0, false) ∧ ((streamOf 0 enteredWord).map fun x => (ctxOf x 0).entered) = some true
    ∧ ((jobOfStream 0 enteredWord).bind fun j => wordAt j 0 0) = some (7 * 2 ^ 236) := by decide +kernel

/-- A send of die 0 to a destination, number `n`. -/
def send (n dst : Nat) (drop : Bool) : Send := ⟨n, 0, 0, false, dst, 0, 0, [], drop⟩

/-- A plain line of stream 0 for the move window, and (below) for the post window, where a SAFETY chunk's lines are held. -/
def hubSend (addr : Nat) (lines : List (List Byte)) : Send := { send 0 4 false with addr := addr, lines := lines }

theorem witness_SendsArriveInOrder : up.sends.find? (fun x => x.id == 0) = none
    ∧ firstOnRoute (send 1 1 false) { up with sends := [send 0 1 false, send 1 1 false] } = false
    ∧ firstOnRoute (send 0 1 false) { up with sends := [send 0 1 false, send 1 1 false] } = true ∧ pathOpen 0 1 up = true
    ∧ firstOnRoute (send 0 4 true) { up with sends := [send 0 4 true] } = true ∧ pathOpen 0 4 up = true
    ∧ pathOpen 0 4 (die0 (fun y => { y with failedLinks := [2] }) up) = false
    ∧ firstOnRoute (hubSend 0xE00000 [[]]) { up with sends := [hubSend 0xE00000 [[]]] } = true
    ∧ (takeHubLines 0 0 0xE00000 [[]] up).2 = 1
    ∧ (takeHubLines 0 0 0x590000 [[]] { busy { safety with items := [chunkIn .started] } up with safe := { up.safe with held := List.replicate 256 ⟨0, 0, 0, 0, []⟩ } }).2 = 0
    ∧ (dieOf 0 up).failedLinks.contains 2 = false ∧ up.dies.length = 4
    ∧ (dieOf 0 (die0 (fun y => { y with failedLinks := [2] }) up)).failedLinks.contains 2 = true := by
  decide +kernel

/-- A SAFETY stream whose frame has ended, with a golden output of its job's dummy set. -/
def judged : State :=
  { busy { safety with dummy := { safety.dummy with ended := true } } up with
    jobs := [(0, { small with dummies := [⟨0, 0, 0, [0], 0, 0, 0, 64, 64, []⟩]
                              objs := [⟨0, 0, 65536, 1, 0, true, true, false, false, 0, 0, 0, 0, 0, 0⟩] })]
    tiers := { up.tiers with pages := [(0, .t1 0 0)] } }

theorem witness_DummyFramesAreJudged : streamOf 0 (busy safety up) = some safety ∧ safety.safety = true
    ∧ (0 ∈ diesOf safety ∧ forcedPoint safety 0 { busy safety up with clock := 1000000 } ≤ ({ busy safety up with clock := 1000000 } : State).clock)
    ∧ streamOf 0 (busy plain up) = some plain ∧ plain.safety = false
    ∧ inService safety (busy safety up) = true ∧ restartingJob safety (busy safety up) = false ∧ safety.dummy.started = false
    ∧ safety.dummy.lastStart + dummyNs safety < ({ busy safety up with clock := 1000001 } : State).clock
    ∧ ({ busy safety up with clock := 1000000 } : State).clock ≤ safety.dummy.lastStart + dummyNs safety
    ∧ safety.dummy.ended = false ∧ (dummyRec safety judged).isSome = true
    ∧ dummyRec safety judged = some ⟨0, 0, 0, [0], 0, 0, 0, 64, 64, []⟩ ∧ rangesErr 4 [(0, 64), (64, 64)] judged = none
    ∧ readObj 0 64 judged = readObj 64 64 judged ∧ readObj 0 64 (store (t1Addr 0 0) [1] judged) ≠ readObj 64 64 (store (t1Addr 0 0) [1] judged)
    := by decide +kernel

/-- Page 3 lies in T1 frame 0 of die 0 and a move takes it to T2 pool page 0. -/
def moving : State :=
  { up with tiers := { up.tiers with pages := [(3, .t1 0 0)], moves := [⟨7, 3, .t2 0, none, []⟩] } }

theorem witness_TiersMoveSweepAndScrub : up.tiers.moves.find? (fun x => x.id == 7) = none
    ∧ moving.tiers.moves.find? (fun x => x.id == 7) = some ⟨7, 3, .t2 0, none, []⟩
    ∧ mapGet moving.tiers.pages 3 = some (.t1 0 0) ∧ placeReachable (.t1 0 0) moving = true ∧ placeReachable (.t2 0) moving = true
    ∧ pathOpen (memHome (placeAddr (.t1 0 0))) (memHome (placeAddr (.t2 0))) moving = true
    ∧ moving.tiers.waiting = [] ∧ mapGet ({ moving.tiers with pages := [] } : Tiers).pages 3 = none
    ∧ placeReachable (.t1 0 0) (without (Dom.mem 0) moving) = false
    ∧ domOn Dom.mgmt up = true ∧ ({ up with clock := 10000000 } : State).tiers.lastSweep + 10000000 ≤ ({ up with clock := 10000000 } : State).clock
    ∧ ({ up with clock := 9999999 } : State).clock < up.tiers.lastSweep + 10000000
    ∧ scrubRuns 0 0 (setF Fld.memEccCfgScrubHours 0 1 up) = true ∧ scrubRuns 0 0 (setF Fld.memEccCfgScrubHours 0 0 up) = false := by decide +kernel

/-- A window of stream 0 that copies its only segment. -/
def window : Window :=
  { id := 3, job := 0, obj := 0, stream := 0, cyclic := false, varToken := 1, varWaitUs := 1, segs := [(0, 1, 0, 0, 0)], next := 1, copying := some 0
    landed := [], fails := 0, lap := 0, frames := [0], pos := 0, signalled := false, stopped := false, waitFrom := some 0 }
def windowed (w : Window) : State :=
  { busy (control (chunkIn .started)) up with
    tiers := { up.tiers with windows := [w] }
    clock := 1000
    jobs := [(0, { small with objs := [⟨0, 0, 65536, 1, 0, true, false, false, false, 0, 1, 0, 0, 0, 0⟩] })] }

theorem witness_WindowsFollowTheirSchedule : (windowed window).tiers.windows.find? (fun w => w.id == 3) = some window ∧ window.fails < 2
    ∧ 2 ≤ ({ window with fails := 2 } : Window).fails ∧ (winObj window (windowed window)).isSome = true
    ∧ ({ window with copying := none } : Window).copying = none ∧ variantDue window (windowed window) = true
    ∧ variantDue window { windowed window with clock := 999 } = false := by decide +kernel
/-! ### Time -/

/-- Synchronisation is on, in a state of the time base. -/
def syncing (n : Nat) : State := setF Fld.timePtpCfgPorts 0 1 (setB Fld.timeCtrlSyncEn 0 true (setF Fld.timeStatusState 0 n up))
/-- The same after two wide offsets. -/
def widened : State := { syncing 1 with time := { up.time with wide := 2 } }

theorem witness_TimeBaseStates : running (syncing 0) = true ∧ syncRuns (syncing 0) = true ∧ syncState (syncing 0) = 0 ∧ syncState (syncing 1) = 1
    ∧ syncState (syncing 2) = 2 ∧ (0 : Int) ≤ ((syncing 0).timeN : Int) + 200 ∧ withinJump 100 (syncing 2) = true
    ∧ withinJump 1000000001 (syncing 2) = false ∧ (200 : Int).natAbs ≤ 200 ∧ 2 ≤ widened.time.wide ∧ 200 < (201 : Int).natAbs
    ∧ syncState widened = 1 ∧ withinJump 201 widened = true ∧ withinJump 1000000001 widened = false ∧ withinJump 0 (syncing 1) = true
    ∧ timeOn up = true ∧ getB Fld.timeStatusRefused 0 (syncing 1) = false
    ∧ getB Fld.timeStatusRefused 0 (setB Fld.timeStatusRefused 0 true (syncing 2)) = true
    ∧ syncState (setB Fld.timeStatusRefused 0 true (syncing 2)) = 2 ∧ domOn Dom.mgmt (setB Fld.timeStatusRefused 0 true (syncing 2)) = true
    ∧ (0 : Int) ≤ ((syncing 2).timeN : Int) + (syncing 2).time.offset := by decide +kernel
/-- A SYNC_MESSAGE in FREE locks and moves the time base by the offset. -/
theorem test_sync_locks : after (.syncMessage ⟨500, false⟩) (syncing 0) (fun t => syncState t == 1 && t.timeN == 500) = true := by decide +kernel
/-- In HOLDOVER a jump beyond the threshold is refused. -/
theorem test_sync_refused : after (.syncMessage ⟨1000000001, false⟩) (syncing 2) (fun t => syncState t == 2 && t.timeN == 0) = true := by decide +kernel

/-- Generator 0 fires at 10. -/
def generator : State := { up with time := { up.time with gens := [(0, ⟨some 10, none⟩)], caps := [(0, [(5, true)])] }, timeN := 10 }

theorem witness_GeneratorsCapturesAndGateLists : timeOn generator = true ∧ (genOf 0 generator).next = some 10 ∧ 10 ≤ generator.timeN
    ∧ flag (1 : BitVec 64) 0 = true ∧ newF Fld.timeGenCfgEnable (getR .timeGenCfg 0 up) ≠ 1
    ∧ newF Fld.timeGenCfgEnable (writtenVal .timeGenCfg (getR .timeGenCfg 0 up) (2 ^ 64 - 1) 1) = 1
    ∧ newF Fld.timeGenCfgEnable (getR .timeGenCfg 0 (setR .timeGenCfg 0 1 up)) = 1
    ∧ newF Fld.timeGenCfgPeriod (writtenVal .timeGenCfg 1 (2 ^ 64 - 1) 1) = newF Fld.timeGenCfgPeriod 1
    ∧ newF Fld.timeGenCfgPeriod (writtenVal .timeGenCfg 1 (2 ^ 64 - 1) (2 ^ 32 + 1)) ≠ newF Fld.timeGenCfgPeriod 1
    ∧ flag (0 : BitVec 64) 0 = false ∧ newF Fld.timeGenCfgEnable (writtenVal .timeGenCfg 1 (2 ^ 64 - 1) 0) = 0
    ∧ capsOf 0 generator = [(5, true)] ∧ getF Fld.timeCtrlCapSel 0 generator = 0 ∧ capsOf 0 up = []
    ∧ edgeSelected 0 true (setF Fld.timeCapCfgEdge 0 1 up) = true ∧ edgeSelected 0 false (setF Fld.timeCapCfgEdge 0 1 up) = false
    ∧ domOn Dom.eth up = true ∧ mapGet ({ up.time with qbv := [(2, 1, 7)] } : TimeUnit).qbv 2 = some (1, 7)
    ∧ (7 : Nat) ≤ ({ up with timeN := 7 } : State).timeN ∧ ({ up with timeN := 6 } : State).timeN < 7 := by decide +kernel

/-! ### Fusion, planner, CLE -/

/-- An active table of an engine. -/
def table (key : Nat) (bytes : List Byte) (s : State) : State := { s with tables := { s.tables with active := mapSet s.tables.active key (1, bytes) } }

/-- Sensor 0 of a kind, silent after 1 ms. -/
def sensor (kind : Nat) : State := table (fusKey 1 0) (natLe 48 kind) (setR .fusCsiCfg 0 1 up)

theorem witness_SamplesReachTheirBuffers : intakeOn 0 (sensor 1) = true ∧ sampleTaken (sensorEntry 0 (sensor 1)) [[0, 0]] = true
    ∧ intakeOn 0 (sensor (3 + 0x1234 * 2 ^ 96)) = true
    ∧ sampleTaken (sensorEntry 0 (sensor (3 + 0x1234 * 2 ^ 96))) [List.replicate 12 0 ++ [0x12, 0x34]] = true
    ∧ intakeOn 0 (sensor 4) = true ∧ SE.kind (sensorEntry 0 (sensor 4)) = 4 ∧ spiDue 0 (sensor 4) = true
    ∧ (sensor 4).clock < (sensorOf 0 (adjSensor 0 (fun x => { x with spiEnd := 1 }) (sensor 4))).spiEnd
    ∧ (sensorOf 0 (sensor 4)).spiEnd ≤ (sensor 4).clock ∧ intakeOn 0 up = false ∧ silentDue 0 up = false
    ∧ silentDue 0 { adjSensor 0 (fun x => { x with count := 1 }) (sensor (1 + 2 ^ 320)) with clock := 10 ^ 9 } = true := by decide +kernel

/-- An instant 0 that closes at once. -/
def instants : State := setB Fld.fusCtrlEnable 0 true { up with fus := { up.fus with next := some 0, start := 1 }, timeN := 1000000000 }
/-- A result to issue. -/
def issued : State := { instants with fus := { instants.fus with issue := some ⟨0, [], [], [], 0, 0, 0, 0, 0, 0, 0⟩ } }

theorem witness_FusionInstants : fusOn up = true ∧ up.fus.next = none ∧ instants.fus.next = some 0 ∧ closeTime 0 instants ≤ instants.timeN
    ∧ ({ instants with timeN := 0 } : State).timeN < closeTime 0 { instants with timeN := 0 }
    ∧ issued.fus.issue.isSome = true ∧ instants.fus.issue = none ∧ closeTime 0 issued ≤ issued.timeN ∧ up.fus.issue = none
    ∧ getB Fld.fusCtrlEnable 0 up = false ∧ getB Fld.fusCtrlEnable 0 instants = true
    ∧ writtenVal .fusCtrl (getR .fusCtrl 0 up) (2 ^ 32 - 1) 1 % 2 = 1 ∧ getR .fusCtrl 0 up % 2 = 0
    ∧ writtenVal .fusCtrl (getR .fusCtrl 0 instants) (2 ^ 32 - 1) 0 % 2 = 0 ∧ getR .fusCtrl 0 instants % 2 = 1 := by decide +kernel

/-- A planning cycle that began at 0 with 5 us. -/
def cycle : PlanCycle :=
  { id := 9, map := ⟨0, none, none⟩, record := [], cfg := 0, job := 0, cands := [], brake := 0, start := 0, budget := 5000, bad := [], budgetOut := false }
def planning (c : PlanCycle) : State := { up with plan := { up.plan with cycle := some c }, clock := 5000 }
/-- A request waits, whose record of 64 bytes lies in host memory, with posture and class tables and one primitive. -/
def planDesc : Desc := desc 0x21 [(64, 2 ^ 62), (128, 64), (224, 576)]
def requested : State :=
  table (tableKey 2 1 0) [] (table (tableKey 2 2 0) (natLe 2 0 ++ natLe 2 1 ++ natLe 2 0)
    { taken planDesc up with
      plan := { up.plan with queue := [0] }
      jobs := [(0, { small with objs := [⟨0, 0, 65536, 1, 0, true, true, false, false, 0, 0, 0, 0, 0, 0⟩] })] })
/-- The same as the request is taken. -/
def requestTaken : State := openInput (item planDesc) (.bytes []) { requested with plan := { requested.plan with queue := [] } }
/-- An occupancy layer waits to be taken in. -/
def layered (s : State) : State := { s with plan := { s.plan with intake := some ⟨0, 0, 0, 1, 0, 0, 0, 0, 0⟩ } }

theorem witness_PlannerServesOneCycle : planOn up = true ∧ up.plan.queue = [] ∧ (planning cycle).plan.cycle.isSome = true
    ∧ planHeld { up with tables := { up.tables with pending := [⟨tableKey 2 0 0, 1, [], 0, false, false⟩] } } = true
    ∧ requested.plan.queue = [0] ∧ requested.plan.cycle = none ∧ planHeld requested = false ∧ consumedById 0 requested = some (item planDesc)
    ∧ inputOf (item planDesc) (.bytes []) requestTaken = .ok (List.replicate 64 0)
    ∧ inLen planDesc = 64 + 2 * rdLE (List.replicate 64 0) 18 2 ∧ 576 ≤ outLen planDesc
    ∧ requestFields planDesc (List.replicate 64 0) = true ∧ requestServes planDesc (List.replicate 64 0) requestTaken = true
    ∧ cycle.budgetOut = false ∧ cycle.start + cycle.budget ≤ (planning cycle).clock
    ∧ ({ planning cycle with clock := 4999 } : State).clock < cycle.start + cycle.budget ∧ consumedById cycle.id (planning cycle) = none
    ∧ up.plan.intake = none ∧ (layered up).plan.intake.isSome = true ∧ getB Fld.plnCfgOccEn 0 (setB Fld.plnCfgOccEn 0 false up) = false
    ∧ getB Fld.plnCfgOccEn 0 (setB Fld.plnCfgOccEn 0 true up) = true ∧ layerFree 0 up = true
    ∧ layerFree 0 (setB Fld.plnStatusOccValid 0 true (planning { cycle with map := ⟨0, none, some 1⟩ })) = false
    ∧ layerFree 1 (setB Fld.plnStatusOccValid 0 true (planning { cycle with map := ⟨0, none, some 1⟩ })) = false := by decide +kernel

/-- Channel 0 takes its setpoint from stream 0. -/
def channel0 : State := table (cleKey 1) (natLe 4096 (2 ^ 15)) up
/-- A commit of the host's that is next. -/
def committing (s : State) : State := { s with cle := { s.cle with commits := [⟨4, .host 0⟩] } }
/-- Stream 0's commit of a setpoint for channel 0. -/
def policyWaits : State :=
  { channel0 with cle := { channel0.cle with commits := [⟨4, .policy 0 0 0⟩], channels := [(0, { chanOf 0 channel0 with written := true })] } }

theorem witness_SetpointsExchangeByCommits : CH.src (chanEntry 0 channel0) = 0 ∧ CH.stream (chanEntry 0 channel0) = 0
    ∧ fld (BitVec.ofNat 128 (2 ^ 64)) 64 8 % 2 = 1 ∧ ¬ (fld (0 : BitVec 128) 64 8 % 2 = 1) ∧ nextCommitOf (committing up) = some ⟨4, .host 0⟩
    ∧ nextCommitOf { up with cle := { up.cle with commits := [⟨4, .planner⟩] } } = some ⟨4, .planner⟩
    ∧ nextCommitOf policyWaits = some ⟨4, .policy 0 0 0⟩ ∧ commitFaultOf (.policy 0 0 0) 0 0 policyWaits = none
    ∧ commitFaultOf (.policy 0 0 0) 0 0 (store (winAddr 0xD8000) (natLe 4 1 ++ natLe 17 0 ++ [1]) policyWaits) = some (0, 0x0702)
    ∧ (4 : Nat) ≠ 5 ∧ nextCommitOf up = none ∧ consumedById 0 (exchangeHalves (.host 0) (dropCommit 4 (committing (taken (desc 0x20) up)))) =
        some (item (desc 0x20)) ∧ up.cle.snapDue.find? (fun p => p.1 == 2) = none
    ∧ ({ up.cle with snapDue := [(2, [])] } : CleUnit).snapDue.find? (fun p => p.1 == 2) = some (2, []) := by decide +kernel

/-- Drive 0 of kind 1 with one axis on port 0, in a cycle of SEQ 7, with the CLE running. -/
def driven (state : Nat) (x : Drive) : State :=
  let s := table (cleKey 3) (natLe 2048 (1 + 2 ^ 16)) (setB Fld.cleCtrlEnable 0 true (setF Fld.jpPortRate 0 1 up))
  setF Fld.jpDriveStatusState 0 state { s with cle := { s.cle with drives := [(0, x)], channels := [(0, { chanOf 0 s with due := some 0 })] } }
def asked : Drive := { drive0 with seq := 7, inCycle := true, probed := true }
/-- A FEEDBACK frame of one axis, and an IDENT frame, of a SEQ. -/
def feedback (seq status : Nat) : List Byte := jpFrame ([0xB1, BitVec.ofNat 8 seq, BitVec.ofNat 8 status] ++ List.replicate 15 0)
def ident (seq : Nat) : List Byte := jpFrame [0xB4, BitVec.ofNat 8 seq, 1, 50, 0, 9, 0, 0, 0]

theorem witness_DrivesAnswerInTheirCycle : receives 0 (driven 2 asked) = true ∧ (readFeedback (driveEntry 0 (driven 2 asked)) []).isNone = true
    ∧ ((readFeedback (driveEntry 0 (driven 2 asked)) (feedback 7 0)).map fun f => (f.seq, bitsAt f.status 1 1)) = some (7, 0)
    ∧ ((readFeedback (driveEntry 0 (driven 2 asked)) (feedback 7 2)).map fun f => (f.seq, bitsAt f.status 1 1)) = some (7, 1)
    ∧ ((readFeedback (driveEntry 0 (driven 2 asked)) (feedback 8 0)).map fun f => f.seq) = some 8
    ∧ (driveOf 0 (driven 2 asked)).inCycle = true ∧ (driveOf 0 (driven 2 asked)).answered = false ∧ driveState 0 (driven 2 asked) = 2
    ∧ (driveOf 0 (driven 2 { asked with inCycle := false })).inCycle = false ∧ (driveOf 0 (driven 2 { asked with answered := true })).answered = true
    ∧ driveState 0 (driven 1 asked) = 1 ∧ readIdent (driveEntry 0 (driven 1 asked)) [] = none
    ∧ readIdent (driveEntry 0 (driven 1 asked)) (ident 7) = some (7, 1, 50, 9) ∧ DE.axes (driveEntry 0 (driven 1 asked)) = 1
    ∧ (driveOf 0 (driven 1 asked)).probed = true ∧ cleRuns (driven 1 asked) = true ∧ pastDeadline 0 (driven 1 asked) = true
    ∧ pastDeadline 1 (driven 1 asked) = false ∧ flag (0x10000 : BitVec 32) 16 = true := by decide +kernel
theorem test_feedback_is_taken_in : (readFeedback (driveEntry 0 (driven 2 asked)) (feedback 7 0)).all (fun f =>
    (driveOf 0 (feedbackIn 0 f (driven 2 asked))).answered) = true := by decide +kernel
theorem test_ident_joins : after (.ident 0 (ident 7)) (driven 1 asked) (fun t => driveState 0 t == 2) = true := by decide +kernel

theorem witness_HuskAndHalt : inHusk (setB Fld.cleStatusHusk 0 true up) = true ∧ cleHalted (setB Fld.cleStatusFault 0 true up) = true
    ∧ domOn Dom.cle (without Dom.cle up) = false ∧ inHusk up = false ∧ cleHalted up = false ∧ domOn Dom.cle up = true
    ∧ domOn Dom.cle (setB Fld.cleStatusHusk 0 true up) = true ∧ domOn Dom.jport up = true ∧ bitNs 0 (setF Fld.jpPortRate 0 1 up) ≠ 0 := by
  decide +kernel

/-! ### Electrical ports and sensor outputs -/

/-- Sensor output 0 is on; port 0's transmitter was switched off at 0; output 1 tripped at 0. -/
def outputs : State :=
  let s := SP.put Fld.pwrSpwrStatusOn 0 true (setF Fld.jpPortRate 0 1 (setR .jpEthCfg 0 1 up))
  { s with elec := { s.elec with txOff := [(0, 0)], outs := [(1, ⟨5, some 0, none, 1⟩)] }, clock := 100000000 }

theorem witness_PortsAndSensorOutputs : domOn Dom.jport outputs = true ∧ getF Fld.jpPortRate 0 outputs ≠ 0 ∧ domOn Dom.jport (without Dom.jport up) = false
    ∧ mapGet outputs.elec.txOff 0 = some 0 ∧ 0 + 10000000 ≤ outputs.clock ∧ domOn Dom.eth outputs = true ∧ macMode 0 outputs ≠ 0
    ∧ SP.on 0 outputs = true ∧ SP.on 1 outputs = false ∧ retryDue 1 outputs = true ∧ retryDue 1 { outputs with clock := 99999999 } = false
    ∧ ilimFits 1 (SP.ilimAsked 1 outputs) (adjSpwr 1 (fun x => { x with retried := some outputs.clock }) outputs) = true
    ∧ ilimFits 1 61 outputs = false ∧ portRuns 0 outputs = false := by decide +kernel
theorem test_link_change : after (.ethernetLinkChange 0 true) outputs (fun t => bitsAt (getR .jpEthCfg 0 t) 4 1 == 1) = true := by decide +kernel

/-! ### Prognostics, power, limiter -/

/-- A day of on-time, a feed token, and a day of clock. -/
def aged : State :=
  { setF Fld.hltFeedCfgToken 0 1 up with prog := { up.prog with onNs := 24 * hourNs }, clock := 24 * hourNs }

theorem witness_HealthAndMargins : progOn aged = true ∧ aged.prog.lastPass + healthNs aged ≤ aged.clock ∧ up.clock < up.prog.lastPass + healthNs up
    ∧ up.prog.onNs < up.prog.lastHour + hourNs ∧ aged.prog.lastHour + hourNs ≤ aged.prog.onNs
    ∧ aged.prog.lastSave + hourNs / 4 ≤ aged.prog.onNs ∧ feedOn aged = true ∧ aged.prog.lastFeed + feedNs aged ≤ aged.clock
    ∧ feedOn (setF Fld.hltFeedCfgToken 0 255 up) = false ∧ flag (4 : BitVec 32) 2 = true ∧ flag (4 : BitVec 32) 3 = false
    ∧ flag (4 : BitVec 32) 1 = false ∧ flag (8 : BitVec 32) 3 = true ∧ flag (2 : BitVec 32) 1 = true ∧ domOn Dom.mgmt aged = true
    ∧ aged.prog.lastReplan + 24 * hourNs ≤ aged.prog.onNs ∧ progOn (without Dom.prog up) = false := by decide +kernel

/-- A transition that moves TIME to on, with source 3 enabled. -/
def moves : State :=
  { setF Fld.pwrWakeCfgSrc 0 8 up with
    power := { up.power with trans := some ⟨none, false, 0, [(3, .on)], [(3, .on, .off, false)], [], 0, none⟩ } }
/-- The alarm's compare value is 0, and the enabled sources are those of a mask. -/
def alarmOn (n : Nat) (s : State) : State :=
  setF Fld.pwrWakeCfgSrc 0 n (setF Fld.pwrAlarmCompare 0 0 { s with power := { s.power with alarmed := false } })
/-- Rail 0, and the hub's, have asked for a level. -/
def asking (n : Nat) : State := setRail 4 ⟨0, some (5, n, 0)⟩ (setRail 0 ⟨0, some (5, n, 0)⟩ up)

theorem witness_WakesRailsAndDomains : bitsAt (getF Fld.pwrWakeCfgSrc 0 (setF Fld.pwrWakeCfgSrc 0 8 up)) 3 1 = 1
    ∧ bitsAt (getF Fld.pwrWakeCfgSrc 0 (setF Fld.pwrWakeCfgSrc 0 0 up)) 3 1 = 0 ∧ moves.power.trans.isSome = true
    ∧ bitsAt (getF Fld.pwrWakeCfgSrc 0 moves) 3 1 = 1 ∧ up.power.trans = none ∧ (3 : Nat) ≠ 2
    ∧ alarmDue (alarmOn 4 up) = true ∧ bitsAt (getF Fld.pwrWakeCfgSrc 0 (alarmOn 4 up)) 2 1 = 1 ∧ alarmDue (alarmOn 4 moves) = true
    ∧ alarmDue (alarmOn 0 up) = true ∧ bitsAt (getF Fld.pwrWakeCfgSrc 0 (alarmOn 0 up)) 2 1 = 0
    ∧ alarmDue { up with power := { up.power with alarmed := true } } = false
    ∧ getB Fld.pwrWakeStatusReplay 0 (setB Fld.pwrWakeStatusReplay 0 true up) = true ∧ getB Fld.pwrWakeStatusReplay 0 up = false
    ∧ (moves.power.trans.bind fun t => t.moving.find? (fun m => m.1 == 3)) = some (3, .on, .off, false)
    ∧ (railOf 0 up).request = none ∧ (railOf 0 (asking 2)).request = some (5, 2, 0) ∧ (railOf 4 (asking 3)).request = some (5, 3, 0)
    ∧ ({ asking 2 with clock := 199999 } : State).clock < 0 + 200000 ∧ 0 + 200000 ≤ ({ asking 2 with clock := 200000 } : State).clock := by
  decide +kernel
theorem witness_LimiterFollowsReadingsAndDroops : domOn Dom.mgmt up = true ∧ up.upd.recovery = false ∧ getB Fld.limBattLow 0 up = false
    ∧ domOn Dom.mgmt (without Dom.mgmt up) = false ∧ ({ up.upd with recovery := true } : UpdUnit).recovery = true ∧ dieOn 0 up = true
    ∧ (dieLim 0 up).stretchFrom = none ∧ (dieLim 0 (adjDieLim 0 (fun x => { x with stretchFrom := some 0 }) up)).stretchFrom.isSome = true
    ∧ dieOn 0 { up with domains := List.replicate 64 .off } = false
    ∧ stretchDone 0 { adjDieLim 0 (fun x => { x with stretchFrom := some 0 }) up with clock := 128000 } = true
    ∧ stretchDone 0 up = false := by decide +kernel

/-! ### The safety monitor -/

/-- The outputs are armed, with TEST_EN. -/
def armed : State := setB Fld.safeCtrlTestEn 0 true { up with safe := { up.safe with armed := true } }
/-- Stage 0 is enabled, its window opened at 0 and a firing at 0 released nothing. -/
def staged : State :=
  { setB Fld.safeStageCfgEn 0 true up with safe := { up.safe with stages := [(0, ⟨some 0, false, [0]⟩)] }, clock := 10000000000 }
/-- Job 0 restarts. -/
def restarting (x : Machine.Stream) : State := { busy x up with jobs := [(0, { small with phase := .restarting [] })] }

theorem witness_SafetyOutputs : domOn Dom.safe up = true ∧ dropHolds (setB Fld.cleStatusFault 0 true up) = true ∧ dropHolds up = false
    ∧ armed.safe.armed = true ∧ up.safe.armed = false ∧ getB Fld.safeCtrlTestEn 0 armed = true
    ∧ lateDue 0 up = false ∧ lateDue 0 staged = true ∧ missDue 0 up = false ∧ missDue 0 staged = true ∧ jobOf 0 up = none
    ∧ ((jobOf 0 (restarting safety)).map fun j => j.phase) = some (.restarting [])
    ∧ (jobStreams 0 (restarting safety)).any (fun p => p.2.dummy.owed || p.2.dummy.started) = false
    ∧ (jobStreams 0 (restarting { safety with dummy := { safety.dummy with owed := true } })).any
        (fun p => p.2.dummy.owed || p.2.dummy.started) = true := by decide +kernel
theorem test_arm : after .arm up (fun t => t.safe.armed && t.tx == up.tx ++ [.pin 16 true, .pin 17 true] ++ t.tx.drop (up.tx.length + 2)) = true := by
  decide +kernel

/-! ### Security and debug -/

/-- SEC runs a command in a lifecycle, with some mailbox bytes. -/
def commanded (code life : Nat) (bytes : List Byte) : State :=
  { up with
    sec := { up.sec with cmd := some code, lifecycle := life, ownerHash := [(0, []), (1, [])] }
    mem := memWrite up.mem mailboxBase bytes }

theorem witness_OwnerCommands : running (commanded 2 1 []) = true ∧ domOn Dom.sec (commanded 2 1 []) = true
    ∧ (commanded 0x01 1 []).sec.cmd = some 0x01 ∧ (commanded 0x02 2 []).sec.lifecycle ≠ 1 ∧ (commanded 0x03 1 []).sec.lifecycle ≠ 2
    ∧ (commanded 0x04 1 []).sec.cmd = some 0x04 ∧ (commanded 0x05 1 []).sec.cmd = some 0x05 ∧ (commanded 0x06 3 []).sec.cmd = some 0x06 := by
  decide +kernel
theorem witness_DebugSessionsOpenAndClose : rdLE (request 0 4 (commanded 0x11 2 [1, 31, 0xA0, 5])) 0 1 = 1
    ∧ rdLE (request 0 4 (commanded 0x11 2 [1, 31, 0xA0, 5])) 1 1 = 31 ∧ rdLE (request 0 4 (commanded 0x11 2 [1, 31, 0xA0, 5])) 2 2 = 1440
    ∧ rdLE (request 0 4 (commanded 0x11 2 [3])) 0 1 = 3 ∧ levelPermitted 1 (commanded 0x11 2 []) = true
    ∧ levelPermitted 2 (commanded 0x11 2 []) = false ∧ (commanded 0x11 2 []).sec.session = none ∧ domOn Dom.dbg up = true
    ∧ (commanded 0x10 1 []).sec.lifecycle ≠ 2 ∧ (commanded 0x10 1 []).sec.lifecycle ≠ 3 ∧ (commanded 0x10 2 []).sec.locked = false
    ∧ ({ up.sec with locked := true } : SecUnit).locked = true ∧ responseOk 1 (commanded 0x11 2 []) = false
    ∧ sessionOver { up with sec := { up.sec with session := some ⟨1, 0, 0⟩ } } = true ∧ sessionOver up = false
    ∧ (2 : Nat) ≤ ({ up.sec with fails := 2 } : SecUnit).fails := by decide +kernel
/-- A session with BSCAN scope. -/
def scanning (scope : Nat) : State := { up with sec := { up.sec with session := some ⟨1, scope, 1⟩ } }
theorem witness_TapInstructions : acornOn up = true ∧ debugOn up = true ∧ hasScope 4 (scanning 16) = true ∧ hasScope 4 (scanning 15) = false
    ∧ up.jobs = [] ∧ up.sec.extest = false ∧ (List.replicate 12 (0 : Byte)).length = 12 ∧ domOn Dom.usb up = true
    ∧ (List.replicate 1024 (0 : Byte)).length % 16 = 0 := by decide +kernel

/-! ### Resets -/

theorem witness_ResetsAndSupply : mayStart 19000 { up with phase := .unpowered } = true ∧ triggerHolds .mrst up = true
    ∧ triggerHolds .ownerReturn up = false ∧ triggerHolds .ownerReturn (commanded 6 2 []) = true
    ∧ triggerHolds .recoveryEnd { up with upd := { up.upd with resetDue := true } } = true
    ∧ triggerHolds .watchdog (setB Fld.updCfgWdReset 0 true trial) = true ∧ fld (0x14D52 : BitVec 32) 0 16 = 0x4D52 ∧ flag (0x14D52 : BitVec 32) 16 = true
    ∧ fld (0x10000 : BitVec 32) 0 16 ≠ 0x4D52
    ∧ ({ up with phase := .held, power := { up.power with mrstLow := true } } : State).power.mrstLow = true ∧ up.safe.hubTrip = false
    ∧ up.power.mrstLow = false ∧ State.reset.phase = .starting ∧ up.phase ≠ .starting ∧ up.phase ≠ .unpowered := by decide
theorem test_lockout_boundary : after (.lockout 16999) up (fun t => t.phase == .unpowered) = true ∧ after (.lockout 17000) up (fun t => t == up) = true := by
  decide +kernel
theorem witness_UnitCommandsKeepToTheirUnit : (∃ t, exec .syncTimeout up = .next t) ∧ (∃ t, exec .huskEnter up = .next t)
    ∧ (∃ t, exec .arm up = .next t) ∧ (∃ t, exec (.healthPass .clean) up = .next t) ∧ (∃ t, exec .tapIdcode up = .next t)
    ∧ (∃ t, exec .hostOk up = .next t) ∧ (∃ t, exec .tableActivation up = .next t) ∧ (∃ t, exec (.txShortRetest 0 true) up = .next t) :=
  ⟨⟨_, rfl⟩, ⟨_, rfl⟩, ⟨_, rfl⟩, ⟨_, rfl⟩, ⟨_, rfl⟩, ⟨_, rfl⟩, ⟨_, rfl⟩, ⟨_, rfl⟩⟩

end Sys2Proof.Tests
end

section
/-!
SUPPORT. The doorbells of a submission tail and of a completion head (R42, R43). An event, and the stop of a ring, may post on a
completion ring and may count and flag a lost entry; they leave what the host moves (submission counts, completion heads) and the
DOORBELL flag. Each lemma about an operation carries that relation from an earlier state over it.
-/
namespace Sys2Proof.Machine
open Sys2Proof

/-! ### What posting leaves of the doorbells -/

/-- The counts of every submission ring, the head of every completion ring and HOST_ERR_STATUS.DOORBELL stand as they stood. -/
structure DoorbellsKept (s t : State) : Prop where
  sqs : t.host.sqs = s.host.sqs
  head : ∀ i, (cqOf i t).head = (cqOf i s).head
  flag : getB Fld.hostErrStatusDoorbell 0 t = getB Fld.hostErrStatusDoorbell 0 s

variable {s0 s : State}

theorem DoorbellsKept.refl (s : State) : DoorbellsKept s s := ⟨rfl, fun _ => rfl, rfl⟩

/-- The counts of a submission ring are a function of `sqs`. -/
theorem DoorbellsKept.sqOf {t : State} (h : DoorbellsKept s t) (i : Nat) : sqOf i t = sqOf i s := by
  unfold Machine.sqOf
  rw [h.sqs]

/-- A change that leaves the counts and the register HOST_ERR_STATUS. -/
theorem DoorbellsKept.upd {t : State} (h : DoorbellsKept s0 s) (hs : t.host.sqs = s.host.sqs) (hc : t.host.cqs = s.host.cqs)
    (hk : KeyKept (keyOf .hostErrStatus 0) s t) : DoorbellsKept s0 t where
  sqs := hs.trans h.sqs
  head i := by rw [← h.head i, cqOf, hc, cqOf]
  flag := by
    rw [← h.flag, getB, getB]
    exact congrArg (· == 1) (getF_of_key hk)

/-- A field of another register set. -/
theorem doorbells_setF {f : Field} {i v : Nat} (hk : keyOf .hostErrStatus 0 ≠ keyOf f.reg i) (h : DoorbellsKept s0 s) :
    DoorbellsKept s0 (setF f i v s) := h.upd rfl rfl (key_setF hk rfl)

/-- CQ_LOST stands beside DOORBELL in HOST_ERR_STATUS and leaves it. -/
theorem doorbells_setB_cqLost (h : DoorbellsKept s0 s) : DoorbellsKept s0 (setB Fld.hostErrStatusCqLost 0 true s) where
  sqs := h.sqs
  head := h.head
  flag := by
    have hlt : putBits (getR .hostErrStatus 0 s) 5 1 1 < 2 ^ 64 := putBits_lt _ _ _ _ _ (getR_lt _ _ _ (by decide)) (by decide)
    have hget : getF Fld.hostErrStatusDoorbell 0 (setB Fld.hostErrStatusCqLost 0 true s) = getF Fld.hostErrStatusDoorbell 0 s := by
      simp only [getF, setB, setF, Fld.hostErrStatusDoorbell, Fld.hostErrStatusCqLost, if_true, getR_setR_same, Nat.mod_eq_of_lt hlt]
      exact bitsAt_putBits_ne _ _ _ _ _ _ (by decide)
    rw [← h.flag, getB, getB, hget]

/-- The record of a completion ring set to one with the same head. -/
theorem doorbells_setCq {i : Nat} {q : CqRing} (hq : q.head = (cqOf i s).head) (h : DoorbellsKept s0 s) : DoorbellsKept s0 (setCq i q s) where
  sqs := h.sqs
  head j := by
    rw [← h.head j]
    by_cases hj : j = i
    · subst hj
      rw [← hq, cqOf, setCq_host, mapGet_mapSet_same, Option.getD_some]
    · rw [cqOf, setCq_host, mapGet_mapSet_ne _ hj, ← cqOf]
  flag := h.flag

theorem doorbells_emit (x : Tx) (h : DoorbellsKept s0 s) : DoorbellsKept s0 (emit x s) := h.upd rfl rfl rfl

theorem doorbells_logEvent (e : Entry) (h : DoorbellsKept s0 s) : DoorbellsKept s0 (logEvent e s) := h.upd rfl rfl (key_setF (by decide) rfl)

theorem doorbells_signalVector (v : Nat) (h : DoorbellsKept s0 s) : DoorbellsKept s0 (signalVector v s) := by
  unfold signalVector
  split
  · exact h.upd rfl rfl rfl
  · exact doorbells_emit _ h

theorem doorbells_signalCq (cq : Nat) (h : DoorbellsKept s0 s) : DoorbellsKept s0 (signalCq cq s) := by
  unfold signalCq
  split
  · exact h
  · split
    · exact h
    · exact doorbells_signalVector _ (doorbells_setCq rfl h)

/-- An entry posted moves the tail of its ring, not the head (R54). -/
theorem doorbells_postNow (p : Posting) (h : DoorbellsKept s0 s) : DoorbellsKept s0 (postNow p s) := by
  unfold postNow
  extract_lets q bytes depth base usb q' t u coal
  have ht : DoorbellsKept s0 t := doorbells_setCq rfl h
  have hu : DoorbellsKept s0 u := by
    unfold u
    split
    · exact ht
    · exact doorbells_emit _ (doorbells_emit _ ht)
  split
  · exact doorbells_signalCq _ hu
  · exact hu

theorem doorbells_tryPost (p : Posting) (h : DoorbellsKept s0 s) : DoorbellsKept s0 (tryPost p s).1 := by
  unfold tryPost
  split
  case h_1 => exact doorbells_postNow _ h
  case h_2 => exact h.upd rfl rfl rfl
  case h_3 => exact h
  case h_4 => exact h

theorem doorbells_incLostCpl (h : DoorbellsKept s0 s) : DoorbellsKept s0 (incF Fld.hostLostCplCount 0 s) := doorbells_setF (by decide) h

theorem doorbells_eventOnCq0 (e : Entry) (h : DoorbellsKept s0 s) : DoorbellsKept s0 (eventOnCq0 e s).1 := by
  unfold eventOnCq0
  split
  · exact h
  · simp only
    split
    · exact doorbells_incLostCpl (doorbells_tryPost _ h)
    · exact doorbells_tryPost _ h

theorem doorbells_eventOnce (block detail status aux : Nat) (h : DoorbellsKept s0 s) :
    DoorbellsKept s0 (eventOnce block detail status aux s).1 := doorbells_eventOnCq0 _ (doorbells_logEvent _ h)

theorem doorbells_setCqLost (cq : Nat) (h : DoorbellsKept s0 s) : DoorbellsKept s0 (setCqLost cq s) := by
  unfold setCqLost
  split
  · exact h
  · exact doorbells_eventOnce _ _ _ _ (doorbells_setB_cqLost h)

theorem doorbells_postEvent (block detail status aux : Nat) (h : DoorbellsKept s0 s) :
    DoorbellsKept s0 (postEvent block detail status aux s) := by
  unfold postEvent
  simp only
  split
  · exact doorbells_setCqLost _ (doorbells_eventOnce _ _ _ _ h)
  · exact doorbells_eventOnce _ _ _ _ h

theorem doorbells_loseCpl (cq : Nat) (h : DoorbellsKept s0 s) : DoorbellsKept s0 (loseCpl cq s) :=
  doorbells_setCqLost _ (doorbells_incLostCpl h)

/-! ### The stop of a ring -/

/-- Events leave the configuration of a submission ring. -/
theorem quietKey_sqCfg {sq : Nat} (h : sq < 4096) : quietKey (keyOf .hostRingCfg (ringIx 0 sq)) :=
  quietKey_ring (by unfold ringIx; omega)

/-- Events leave the configuration of a completion ring. -/
theorem quietKey_cqCfg {cq : Nat} (h : cq < 256) : quietKey (keyOf .hostRingCfg (ringIx 1 cq)) :=
  quietKey_ring (by unfold ringIx; omega)

theorem doorbells_stopRing {sq : Nat} (hsq : sq < 4096) (detail : Nat) (h : DoorbellsKept s0 s) : DoorbellsKept s0 (stopRing sq detail s) := by
  have hs : DoorbellsKept s0 (setF Fld.hostRingCfgState (ringIx 0 sq) 2 s) := doorbells_setF (quietKey_sqCfg hsq).2.1.symm h
  unfold stopRing
  simp only
  split
  · exact doorbells_loseCpl _ (doorbells_tryPost _ hs)
  · exact doorbells_tryPost _ hs

/-- What a ring's stop posts leaves the registers that events leave. -/
theorem key_stopRing {k sq : Nat} (detail : Nat) (q : quietKey k) :
    KeyKept k (setF Fld.hostRingCfgState (ringIx 0 sq) 2 s) (stopRing sq detail s) := by
  unfold stopRing
  simp only
  split
  · exact key_setCqLost _ q (key_setF q.2.2 (key_tryPost _ rfl))
  · exact key_tryPost _ rfl

/-- A ring that stops is STOPPED (R60). -/
theorem ringState_stopRing {sq : Nat} (hsq : sq < 4096) (detail : Nat) : ringState 0 sq (stopRing sq detail s) = 2 :=
  calc ringState 0 sq (stopRing sq detail s)
      = ringState 0 sq (setF Fld.hostRingCfgState (ringIx 0 sq) 2 s) := getF_of_key (key_stopRing detail (quietKey_sqCfg hsq))
    _ = 2 := getF_setF_same _ _ _ _ (getR_lt _ _ _ (by decide)) (by decide)

/-! ### The flag of a doorbell -/

/-- HOST_ERR_STATUS.DOORBELL stands after a doorbell that is flagged (R40, R502). -/
theorem getB_doorbellError (aux : Nat) (s : State) : getB Fld.hostErrStatusDoorbell 0 (doorbellError aux s) = true := by
  unfold doorbellError hostError
  split
  case isTrue h => exact h
  case isFalse =>
    rw [(doorbells_postEvent _ _ _ _ (.refl _)).flag, getB, setB, getF_setF_same _ _ _ _ (getR_lt _ _ _ (by decide)) (by decide)]
    rfl

/-- A doorbell that is flagged leaves the counts of every submission ring. -/
theorem sqOf_doorbellError (aux i : Nat) (s : State) : sqOf i (doorbellError aux s) = sqOf i s := by
  unfold doorbellError hostError
  split
  · rfl
  · exact (doorbells_postEvent _ _ _ _ (.refl _)).sqOf i

/-- A doorbell that is flagged leaves the head of every completion ring. -/
theorem cqOf_doorbellError_head (aux i : Nat) (s : State) : (cqOf i (doorbellError aux s)).head = (cqOf i s).head := by
  unfold doorbellError hostError
  split
  · rfl
  · exact (doorbells_postEvent _ _ _ _ (.refl _)).head i

/-- A doorbell that is flagged leaves the state of every ring. -/
theorem ringState_doorbellError {kind i : Nat} (q : quietKey (keyOf .hostRingCfg (ringIx kind i))) (aux : Nat) (s : State) :
    ringState kind i (doorbellError aux s) = ringState kind i s :=
  getF_of_key (key_hostError _ _ _ q q.2.1 rfl)

/-! ### What the two doorbells answer -/

theorem exec_submissionTailWrite (sq : Fin 4096) (tail : BitVec 32) (h : pcieOn s = true) :
    exec (.submissionTailWrite sq tail) s = .next (setTail sq.val tail s) := by
  change execSubmissionTailWrite sq tail s = _
  rw [execSubmissionTailWrite, onlyIf, if_pos h]

theorem exec_completionHeadWrite (cq : Fin 256) (head : BitVec 32) (h : pcieOn s = true) :
    exec (.completionHeadWrite cq head) s = .next (setHead cq.val head s) := by
  change execCompletionHeadWrite cq head s = _
  rw [execCompletionHeadWrite, onlyIf, if_pos h]

theorem tailValid_iff (sq : Nat) (tail : BitVec 32) (s : State) : tailValid sq tail s = true ↔ ringState 0 sq s = 1 ∧
    (tail - (sqOf sq s).tail).toNat ≤ ((sqOf sq s).head + BitVec.ofNat 32 (ringDepth 0 sq s) - (sqOf sq s).tail).toNat := by
  rw [tailValid, Bool.and_eq_true, beq_iff_eq, decide_eq_true_iff, dist32, dist32]

theorem headValid_iff (cq : Nat) (head : BitVec 32) (s : State) : headValid cq head s = true ↔
    (head - (cqOf cq s).head).toNat ≤ ((cqOf cq s).tail - (cqOf cq s).head).toNat := by
  rw [headValid, decide_eq_true_iff, dist32, dist32]

theorem setTail_of_valid {sq : Nat} {tail : BitVec 32} (h : tailValid sq tail s = true) :
    setTail sq tail s = setSq sq { sqOf sq s with tail := tail } s := by
  rw [setTail, if_pos h]

theorem setTail_of_inactive {sq : Nat} {tail : BitVec 32} (h : ringState 0 sq s ≠ 1) : setTail sq tail s = doorbellError sq s := by
  have hv : ¬ tailValid sq tail s = true := fun v => h ((tailValid_iff _ _ _).mp v).1
  simp [setTail, hv, h]

theorem setTail_of_active_invalid {sq : Nat} {tail : BitVec 32} (ha : ringState 0 sq s = 1) (hv : ¬ tailValid sq tail s = true) :
    setTail sq tail s = stopRing sq 0x0003 (doorbellError sq s) := by
  simp [setTail, hv, ha]

theorem setHead_of_valid {cq : Nat} {head : BitVec 32} (h : headValid cq head s = true) : setHead cq head s = moveHead cq head s := by
  rw [setHead, if_pos h]

theorem setHead_of_invalid {cq : Nat} {head : BitVec 32} (h : ¬ headValid cq head s = true) :
    setHead cq head s = doorbellError (cq + 65536) s := by
  rw [setHead, if_neg h]

/-- A ring's counts set to what they are leave every ring's counts. -/
theorem sqOf_setSq_self (i j : Nat) (s : State) : sqOf j (setSq i (sqOf i s) s) = sqOf j s := by
  by_cases h : j = i
  · subst h
    rw [sqOf, setSq_host, mapGet_mapSet_same, Option.getD_some]
  · rw [sqOf, setSq_host, mapGet_mapSet_ne _ h, ← sqOf]

end Sys2Proof.Machine
end

section
/-!
The statements about the two doorbells that the host writes over PCI Express: by whether the count written is valid.
-/
namespace Sys2Proof.Machine
open Sys2Proof

/-- Settles O16: by the ring's state and by the new tail's place; what a flagged doorbell and a stopped ring leave is said by
`sqOf_doorbellError` and `doorbells_stopRing`. -/
theorem submissionTailRule : Obligations.SubmissionTailRule := by
  intro sq tail s hon r inRange flagged
  rw [exec_submissionTailWrite sq tail hon]
  have hstate : ringState 0 sq.val flagged = ringState 0 sq.val s := ringState_doorbellError (quietKey_sqCfg sq.isLt) _ _
  have hflag : getB Fld.hostErrStatusDoorbell 0 flagged = true := getB_doorbellError _ _
  have hcounts : sqOf sq.val flagged = r := sqOf_doorbellError _ _ _
  refine ⟨fun ha hr => ?valid, fun ha ht => ?previous, fun hn => ?inactive, fun ha hr => ?invalid⟩
  case valid => rw [setTail_of_valid ((tailValid_iff _ _ _).mpr ⟨ha, hr⟩), setSq]
  case previous =>
    have hr : inRange := by
      unfold inRange
      rw [ht, BitVec.sub_self]
      exact Nat.zero_le _
    refine ⟨hr, fun t hnext q => ?_⟩
    rw [setTail_of_valid ((tailValid_iff _ _ _).mpr ⟨ha, hr⟩), ht] at hnext
    cases hnext
    exact sqOf_setSq_self _ _ _
  case inactive => exact ⟨_, congrArg _ (setTail_of_inactive hn), rfl, hflag, hcounts, hstate⟩
  case invalid =>
    have hkept : DoorbellsKept flagged (stopRing sq.val 0x0003 flagged) := doorbells_stopRing sq.isLt _ (.refl _)
    have hv : ¬ tailValid sq.val tail s = true := fun v => hr ((tailValid_iff _ _ _).mp v).2
    exact ⟨_, congrArg _ (setTail_of_active_invalid ha hv), rfl, hkept.flag.trans hflag, (hkept.sqOf _).trans hcounts,
      ringState_stopRing sq.isLt _⟩

/-- Settles O17: by the new head's place; a valid one moves the head (`moveHead`), and any other is flagged. -/
theorem completionHeadRule : Obligations.CompletionHeadRule := by
  intro cq head s hon q valid still
  rw [exec_completionHeadWrite cq head hon]
  have hmove (hv : valid) : setHead cq.val head s = moveHead cq.val head s := setHead_of_valid ((headValid_iff _ _ _).mpr hv)
  refine ⟨fun hv hs => ?full, fun hv hs => ?room, fun hv => ?invalid⟩
  case full => rw [hmove hv, moveHead, dist32, if_pos hs, setCq]
  case room => rw [hmove hv, moveHead, dist32, if_neg hs, setCq]
  case invalid =>
    have hinv : ¬ headValid cq.val head s = true := fun v => hv ((headValid_iff _ _ _).mp v)
    exact ⟨_, congrArg _ (setHead_of_invalid hinv), rfl, getB_doorbellError _ _, cqOf_doorbellError_head _ _ _,
      ringState_doorbellError (quietKey_cqCfg cq.isLt) _ _⟩

end Sys2Proof.Machine
end

section
/-!
The statement about the layout of data granules and their codes in a die's T1 (R149): the layout read backwards, and from it that no two
addresses share a place.
-/
namespace Sys2Proof.Machine
open Sys2Proof

/-- The index within its channel of the granule in data slot `slot` (R149, read backwards): sixteen slots hold fifteen data granules. -/
def granuleOfSlot (slot : Nat) : Nat := 15 * (slot / 16) + slot % 16

/-- The die-local data address of byte `byte` of channel `channel` of module pod `pod` (R149, read backwards). -/
def dieLocalAddr (die pod channel byte : Nat) : Nat :=
  256 * (64 * granuleOfSlot (byte / 256) + (16 * (pod - 4 * die) + channel)) + byte % 256

theorem dataPlace_slot (die d : Nat) : (dataPlace die d).slot = 16 * (d / 256 / 64 / 15) + d / 256 / 64 % 15 := rfl

theorem dataPlace_byte (die d : Nat) : (dataPlace die d).byte = 256 * (dataPlace die d).slot + d % 256 := rfl

theorem dataPlace_slot_mod (die d : Nat) : (dataPlace die d).slot % 16 = d / 256 / 64 % 15 := by
  rw [dataPlace_slot]
  omega

/-- A data slot gives the granule's index within its channel back. -/
theorem granuleOfSlot_dataPlace (die d : Nat) : granuleOfSlot (dataPlace die d).slot = d / 256 / 64 := by
  have hgroup : (dataPlace die d).slot / 16 = d / 256 / 64 / 15 := by
    rw [dataPlace_slot]
    omega
  rw [granuleOfSlot, hgroup, dataPlace_slot_mod, Nat.div_add_mod]

/-- The pod within the die and the channel within the pod are the two digits of the channel of the die. -/
theorem podOf_add_channelOf (die d : Nat) : 16 * (podOf die d - 4 * die) + channelOf d = d / 256 % 64 := by
  rw [podOf, channelOf, Nat.add_sub_cancel_left, Nat.div_add_mod]

/-- The layout of R149 maps one to one: pod, channel and byte of a place give its data address back. -/
theorem dieLocalAddr_dataPlace (die d : Nat) :
    dieLocalAddr die (dataPlace die d).pod (dataPlace die d).channel (dataPlace die d).byte = d := by
  have hslot : (dataPlace die d).byte / 256 = (dataPlace die d).slot := by
    rw [dataPlace_byte]
    omega
  have hoffset : (dataPlace die d).byte % 256 = d % 256 := by
    rw [dataPlace_byte]
    omega
  calc dieLocalAddr die (podOf die d) (channelOf d) (dataPlace die d).byte
      _ = 256 * (64 * (d / 256 / 64) + d / 256 % 64) + d % 256 := by
        rw [dieLocalAddr, hslot, hoffset, granuleOfSlot_dataPlace, podOf_add_channelOf]
      _ = d := by rw [Nat.div_add_mod, Nat.div_add_mod]

/-- Settles O11: the formulas are those of `dataPlace`; a data slot's place in its group is below fifteen (`dataPlace_slot_mod`), and
`dieLocalAddr` takes pod, channel and byte back to the address. -/
theorem dataGranulesAndTheirCodes : Obligations.DataGranulesAndTheirCodes := by
  intro die D _ g cd h p
  refine ⟨rfl, rfl, rfl, rfl, rfl, rfl, ?notCode, fun E _ hpod hchannel hbyte => ?injective⟩
  case notCode =>
    rw [dataPlace_slot_mod]
    exact Nat.mod_lt _ (by decide)
  case injective =>
    calc E
        _ = dieLocalAddr die (dataPlace die E).pod (dataPlace die E).channel (dataPlace die E).byte := (dieLocalAddr_dataPlace die E).symm
        _ = dieLocalAddr die p.pod p.channel p.byte := by rw [hpod, hchannel, hbyte]
        _ = D := dieLocalAddr_dataPlace die D

end Sys2Proof.Machine
end

section
/-!
The statements that hold of every command: each keeps the queue, the history of what is sent, blown fuses and the canonical form.
-/
namespace Sys2Proof.Machine
open Sys2Proof

/-- Every command keeps the queue, what has been sent, blown fuses and the canonical form of plain data. -/
theorem keep_exec (c : Instr) (s : State) : PNext (Rel s) (exec c s) := by
  cases c with
  | registerWrite => exact keep_execRegisterWrite (.refl s)
  | regRead => exact keep_execRegRead (.refl s)
  | regWrite => exact keep_execRegWrite (.refl s)
  | ringEnable => exact keep_execRingEnable (.refl s)
  | ringDisable => exact keep_execRingDisable (.refl s)
  | submissionTailWrite => exact keep_execSubmissionTailWrite (.refl s)
  | completionHeadWrite => exact keep_execCompletionHeadWrite (.refl s)
  | doorbellInvalidWrite => exact keep_execDoorbellInvalidWrite (.refl s)
  | descriptorRead => exact keep_execDescriptorRead (.refl s)
  | nop => exact keep_execNop (.refl s)
  | chunk => exact keep_execChunk (.refl s)
  | chunkTriggered => exact keep_execChunkTriggered (.refl s)
  | jobLoad => exact keep_execJobLoad (.refl s)
  | jobUnload => exact keep_execJobUnload (.refl s)
  | streamRetire => exact keep_execStreamRetire (.refl s)
  | streamSwap => exact keep_execStreamSwap (.refl s)
  | streamSwapForced => exact keep_execStreamSwapForced (.refl s)
  | cancel => exact keep_execCancel (.refl s)
  | jobRestart => exact keep_execJobRestart (.refl s)
  | tableWrite => exact keep_execTableWrite (.refl s)
  | treeWrite => exact keep_execTreeWrite (.refl s)
  | setpointWrite => exact keep_execSetpointWrite (.refl s)
  | planRequest => exact keep_execPlanRequest (.refl s)
  | powerState => exact keep_execPowerState (.refl s)
  | powerPolicy => exact keep_execPowerPolicy (.refl s)
  | updateHeader => exact keep_execUpdateHeader (.refl s)
  | updateBody => exact keep_execUpdateBody (.refl s)
  | updateCommit => exact keep_execUpdateCommit (.refl s)
  | holdingQueueDrain => exact keep_execHoldingQueueDrain (.refl s)
  | cqStall => exact keep_execCqStall (.refl s)
  | coalTime => exact keep_execCoalTime (.refl s)
  | msixUnmask => exact keep_execMsixUnmask (.refl s)
  | ringPush => exact keep_execRingPush (.refl s)
  | dataPush => exact keep_execDataPush (.refl s)
  | cqHead => exact keep_execCqHead (.refl s)
  | completionMessage => exact keep_execCompletionMessage (.refl s)
  | linkReset => exact keep_execLinkReset (.refl s)
  | perstNDeassert => exact keep_execPerstNDeassert (.refl s)
  | trickBoundary => exact keep_execTrickBoundary (.refl s)
  | trickOverrun => exact keep_execTrickOverrun (.refl s)
  | sequenceWord => exact keep_execSequenceWord (.refl s)
  | barrierPass => exact keep_execBarrierPass (.refl s)
  | fetchThreadDone => exact keep_execFetchThreadDone (.refl s)
  | cheapPathChoice => exact keep_execCheapPathChoice (.refl s)
  | dieLinkArrival => exact keep_execDieLinkArrival (.refl s)
  | linkFailed => exact keep_execLinkFailed (.refl s)
  | pageStep => exact keep_execPageStep (.refl s)
  | dummyCompare => exact keep_execDummyCompare (.refl s)
  | dummyOverdue => exact keep_execDummyOverdue (.refl s)
  | moveRequest => exact keep_execMoveRequest (.refl s)
  | pageMoveDone => exact keep_execPageMoveDone (.refl s)
  | migrationSweep => exact keep_execMigrationSweep (.refl s)
  | segmentLanded => exact keep_execSegmentLanded (.refl s)
  | segmentReadFailed => exact keep_execSegmentReadFailed (.refl s)
  | variantSignal => exact keep_execVariantSignal (.refl s)
  | patrolScrub => exact keep_execPatrolScrub (.refl s)
  | recalibration pod => exact keep_execRecalibration (a0 := pod) (.refl s)
  | syncMessage => exact keep_execSyncMessage (.refl s)
  | syncTimeout => exact keep_execSyncTimeout (.refl s)
  | timeAccept => exact keep_execTimeAccept (.refl s)
  | generatorFiring => exact keep_execGeneratorFiring (.refl s)
  | generatorEnable => exact keep_execGeneratorEnable (.refl s)
  | generatorDisable => exact keep_execGeneratorDisable (.refl s)
  | captureEdge => exact keep_execCaptureEdge (.refl s)
  | timeCapDataRead => exact keep_execTimeCapDataRead (.refl s)
  | qbvChange => exact keep_execQbvChange (.refl s)
  | qbvListSwitch => exact keep_execQbvListSwitch (.refl s)
  | sensorSample => exact keep_execSensorSample (.refl s)
  | spiAssertion => exact keep_execSpiAssertion (.refl s)
  | sensorSilent => exact keep_execSensorSilent (.refl s)
  | post => exact keep_execPost (.refl s)
  | fusionClose => exact keep_execFusionClose (.refl s)
  | fusionResult => exact keep_execFusionResult (.refl s)
  | tableActivation => exact keep_execTableActivation (.refl s)
  | fusionEnable => exact keep_execFusionEnable (.refl s)
  | planCycleStart => exact keep_execPlanCycleStart (.refl s)
  | planBudget => exact keep_execPlanBudget (.refl s)
  | planResult => exact keep_execPlanResult (.refl s)
  | mapCommit => exact keep_execMapCommit (.refl s)
  | occIntake => exact keep_execOccIntake (.refl s)
  | feedback => exact keep_execFeedback (.refl s)
  | deadlineMiss => exact keep_execDeadlineMiss (.refl s)
  | ident => exact keep_execIdent (.refl s)
  | reenable => exact keep_execReenable (.refl s)
  | setpointEntry die => exact keep_execSetpointEntry (a0 := die) (.refl s)
  | setpointCommit => exact keep_execSetpointCommit (.refl s)
  | snapshot => exact keep_execSnapshot (.refl s)
  | huskEnter => exact keep_execHuskEnter (.refl s)
  | huskExit => exact keep_execHuskExit (.refl s)
  | cleFault => exact keep_execCleFault (.refl s)
  | lineClassify => exact keep_execLineClassify (.refl s)
  | txShortRetest => exact keep_execTxShortRetest (.refl s)
  | healthPass => exact keep_execHealthPass (.refl s)
  | hourlyHistory => exact keep_execHourlyHistory (.refl s)
  | prognosticsSave => exact keep_execPrognosticsSave (.refl s)
  | feedBatch => exact keep_execFeedBatch (.refl s)
  | axisReset => exact keep_execAxisReset (.refl s)
  | axisKeep => exact keep_execAxisKeep (.refl s)
  | replan => exact keep_execReplan (.refl s)
  | replanPeriod => exact keep_execReplanPeriod (.refl s)
  | wakeSource => exact keep_execWakeSource (.refl s)
  | alarm => exact keep_execAlarm (.refl s)
  | wakeReplay => exact keep_execWakeReplay (.refl s)
  | domainTransitionDone => exact keep_execDomainTransitionDone (.refl s)
  | avsResponse => exact keep_execAvsResponse (.refl s)
  | avsTimeout => exact keep_execAvsTimeout (.refl s)
  | pllLockTimeout => exact keep_execPllLockTimeout (.refl s)
  | limiterDecision => exact keep_execLimiterDecision (.refl s)
  | thermalSample => exact keep_execThermalSample (.refl s)
  | droop => exact keep_execDroop (.refl s)
  | batteryLow => exact keep_execBatteryLow (.refl s)
  | stageLate => exact keep_execStageLate (.refl s)
  | stageMiss => exact keep_execStageMiss (.refl s)
  | restartComplete => exact keep_execRestartComplete (.refl s)
  | arm => exact keep_execArm (.refl s)
  | drop => exact keep_execDrop (.refl s)
  | discrepancy => exact keep_execDiscrepancy (.refl s)
  | testPulse => exact keep_execTestPulse (.refl s)
  | getIdentity => exact keep_execGetIdentity (.refl s)
  | claim => exact keep_execClaim (.refl s)
  | addOwnerKey => exact keep_execAddOwnerKey (.refl s)
  | revokeOwnerKey => exact keep_execRevokeOwnerKey (.refl s)
  | setOwnerCfg => exact keep_execSetOwnerCfg (.refl s)
  | returnLifecycle => exact keep_execReturnLifecycle (.refl s)
  | debugChallenge => exact keep_execDebugChallenge (.refl s)
  | debugResponse => exact keep_execDebugResponse (.refl s)
  | debugClose => exact keep_execDebugClose (.refl s)
  | debugCtrlClose => exact keep_execDebugCtrlClose (.refl s)
  | debugExpiry => exact keep_execDebugExpiry (.refl s)
  | tapIdcode => exact keep_execTapIdcode (.refl s)
  | tapDomains => exact keep_execTapDomains (.refl s)
  | tapMailbox => exact keep_execTapMailbox (.refl s)
  | tapSample => exact keep_execTapSample (.refl s)
  | tapExtest => exact keep_execTapExtest (.refl s)
  | tapBypass => exact keep_execTapBypass (.refl s)
  | xact => exact keep_execXact (.refl s)
  | hostOk => exact keep_execHostOk (.refl s)
  | confirm => exact keep_execConfirm (.refl s)
  | healthWatchdog => exact keep_execHealthWatchdog (.refl s)
  | coldReset => exact keep_execColdReset (.refl s)
  | moduleReset => exact keep_execModuleReset (.refl s)
  | pwrReset => exact keep_execPwrReset (.refl s)
  | mrstNRelease => exact keep_execMrstNRelease (.refl s)
  | fwReady => exact keep_execFwReady (.refl s)
  | lockout => exact keep_execLockout (.refl s)
  | surge => exact keep_execSurge (.refl s)
  | overvoltageShutdown => exact keep_execOvervoltageShutdown (.refl s)
  | sensorOutputTrip => exact keep_execSensorOutputTrip (.refl s)
  | sensorOutputRetry => exact keep_execSensorOutputRetry (.refl s)
  | backfeed => exact keep_execBackfeed (.refl s)
  | pwrSpwrCfgWrite => exact keep_execPwrSpwrCfgWrite (.refl s)
  | hostMemoryAccessFailed => exact keep_execHostMemoryAccessFailed (.refl s)
  | dieLinkReplay => exact keep_execDieLinkReplay (.refl s)
  | pendingRowLanded => exact keep_execPendingRowLanded (.refl s)
  | dummyForcedPoint => exact keep_execDummyForcedPoint (.refl s)
  | supplyRecovered => exact keep_execSupplyRecovered (.refl s)
  | polarityCorrected => exact keep_execPolarityCorrected (.refl s)
  | hostLinkUp => exact keep_execHostLinkUp (.refl s)
  | ethernetLinkChange => exact keep_execEthernetLinkChange (.refl s)
  | sensorOutputOpen => exact keep_execSensorOutputOpen (.refl s)

/-- A command taken from the queue finds the canonical data and the fuses of the state before. -/
theorem inv_withPending {s : State} (rest : List Instr) (h : Inv s) : Inv (s.withPending rest) :=
  ⟨⟨h.1.mem, h.1.regs, h.1.jobs, h.1.streams, h.1.domains, h.1.dies⟩, h.2⟩

/-- A change that keeps canonical data and fuses keeps the invariant. -/
theorem Rel.inv {s t : State} (k : Rel s t) (h : Inv s) : Inv t := ⟨k.canon h.1, k.fuses.legal h.2⟩

/-- A step is a tick, or the command at the front of the queue on the state with the rest of it. -/
theorem step_cases {s t : State} (h : step s = .next t) :
    t = idle s ∨ ∃ c rest, s.pending = c :: rest ∧ exec c (s.withPending rest) = .next t := by
  unfold step at h
  split at h
  · cases h
    exact .inl rfl
  case h_2 c rest hp => exact .inr ⟨c, rest, hp, h⟩

/-- Settles O5: a step is a tick or a command, and each keeps canonical data and a lifecycle of Table SEC-2. -/
theorem invariantKept : Obligations.InvariantKept := by
  intro s t hs ht
  rcases step_cases ht with rfl | ⟨c, rest, -, hc⟩
  · exact (keep_idle (.refl s)).inv hs
  · exact (keep_exec c _ t hc).inv (inv_withPending rest hs)

/-- Every step keeps blown fuses. -/
theorem step_fusesKept {s t : State} (h : step s = .next t) : FusesKept s t := by
  rcases step_cases h with rfl | ⟨c, rest, -, hc⟩
  · exact (keep_idle (.refl s)).fuses
  · obtain ⟨h1, h2, h3, h4, h5, h6⟩ := (keep_exec c _ t hc).fuses
    exact ⟨h1, h2, h3, h4, h5, h6⟩

/-- Settles O6: a step is a tick or a command, and each keeps blown fuses. -/
theorem fusesOnlyBlow : Obligations.FusesOnlyBlow := fun _ _ h =>
  have k := step_fusesKept h
  ⟨k.lifecycle, k.epoch, k.vendorRevoke, k.ownerRevoke, k.ownerCfg⟩

/-- Settles O7: every command keeps the queue, and what was sent is the beginning of what is sent after it. -/
theorem outputsAreHistory : Obligations.OutputsAreHistory := fun _ _ _ h => by
  have k := keep_exec _ _ _ h
  obtain ⟨new, hnew⟩ := k.tx
  exact ⟨k.pending, new, hnew.symm⟩

end Sys2Proof.Machine
end

section
/-!
The statements about every command at once: which answer a next state, and what a module without supply does.
-/
namespace Sys2Proof.Machine
open Sys2Proof

/-- Settles O1: `step` matches on the queue. -/
theorem stepRunsFrontCommand : Obligations.StepRunsFrontCommand := by
  intro c rest s h
  rw [step, h]
  rfl

/-! ### Every command answers -/

/-- An outcome is a next state. -/
def Answers (o : Host.Outcome State Fault Refusal) : Prop := ∃ t, o = .next t

theorem answers_ite {p : Prop} [Decidable p] {a b : Host.Outcome State Fault Refusal} (ha : Answers a) (hb : Answers b) :
    Answers (if p then a else b) := ite_keep ha hb

theorem answers_begin (id op : Nat) (f : Consumed → State → State) (s : State) : Answers (begin' id op f s) := by
  unfold begin'
  split
  · exact ⟨_, rfl⟩
  · split <;> exact ⟨_, rfl⟩

theorem answers_beginSettled (id op : Nat) (f : Consumed → State → State) (s : State) : Answers (beginSettled id op f s) := by
  unfold beginSettled
  split
  · exact ⟨_, rfl⟩
  · split <;> exact ⟨_, rfl⟩

theorem answers_next (s : State) : Answers (.next s) := ⟨s, rfl⟩

/-- Every command but SURGE answers a next state: most are written as one, and the opcodes of descriptors begin or wait. -/
theorem exec_answers (c : Instr) (s : State) (h : ∀ mv, c ≠ .surge mv) : Answers (exec c s) := by
  cases c
  case surge mv => exact absurd rfl (h mv)
  case nop id => exact answers_begin id _ _ s
  case planRequest id => exact answers_ite (answers_next s) (answers_begin id _ _ s)
  case chunk id | chunkTriggered id | jobLoad id _ _ | jobUnload id | streamRetire id | streamSwap id _ | streamSwapForced id _
      | cancel id | jobRestart id | powerPolicy id =>
    simp only [exec, execChunk, execChunkTriggered, execJobLoad, execJobUnload, execStreamRetire, execStreamSwap, execStreamSwapForced, execCancel,
      execJobRestart, execPowerPolicy]
    exact answers_beginSettled id _ _ s
  case tableWrite id _ | treeWrite id _ | setpointWrite id _ => exact answers_ite (answers_beginSettled id _ _ s) (answers_next s)
  case powerState id | updateHeader id _ | updateBody id _ | updateCommit id =>
    exact answers_ite (answers_next s) (answers_beginSettled id _ _ s)
  case xact request ecc => exact answers_ite ⟨_, rfl⟩ ⟨_, rfl⟩
  all_goals exact ⟨_, rfl⟩

/-- Settles O3: SURGE faults above the absolute maximum, and everything else answers. -/
theorem onlySurgeStops : Obligations.OnlySurgeStops := by
  intro c s
  by_cases h : ∃ mv, c = .surge mv
  · obtain ⟨mv, rfl⟩ := h
    by_cases hmv : 70000 < mv
    · exact .inr ⟨mv, rfl, hmv, if_pos hmv⟩
    · exact .inl ⟨_, if_neg hmv⟩
  · exact .inl (exec_answers c s fun mv e => h ⟨mv, e⟩)

/-! ### Without supply -/

/-- A change whose guard fails leaves the state. -/
theorem next_onlyIf_not (f : State → State) {c : Bool} {s : State} (h : c = false) :
    (.next (onlyIf c f s) : Host.Outcome State Fault Refusal) = .next s := by
  rw [onlyIf, h]
  rfl

section
variable {s : State} (h : s.phase = .unpowered)
include h

theorem running_unpowered : running s = false := by simp [running, h]
theorem acornRuns_unpowered : acornRuns s = false := by simp [acornRuns, h]
theorem acornOn_unpowered : acornOn s = false := by simp [acornOn, h]
theorem powered_unpowered : (s.phase != .unpowered) = false := by simp [h]
theorem starting_unpowered : (s.phase == .starting) = false := by simp [h]
theorem hostOn_unpowered : hostOn s = false := by simp [hostOn, running_unpowered h]
theorem pcieOn_unpowered : pcieOn s = false := by simp [pcieOn, hostOn_unpowered h]
theorem usbOn_unpowered : usbOn s = false := by simp [usbOn, hostOn_unpowered h]
theorem barOn_unpowered : barOn s = false := by simp [barOn, running_unpowered h, starting_unpowered h]
theorem debugOn_unpowered : debugOn s = false := by simp [debugOn, running_unpowered h]
theorem runs_unpowered (code : Nat) : runs code s = false := by simp [runs, running_unpowered h]
theorem triggerHolds_unpowered (t : ModuleTrigger) : triggerHolds t s = false := by
  cases t <;> simp [triggerHolds, running_unpowered h, runs_unpowered h, powered_unpowered h]

/-- No descriptor begins without supply. -/
theorem canBegin_unpowered (id op : Nat) : canBegin id op s = none := by simp [canBegin, running_unpowered h]

theorem begin_unpowered (id op : Nat) (f : Consumed → State → State) : begin' id op f s = .next s := by
  simp [begin', canBegin_unpowered h]

theorem beginSettled_unpowered (id op : Nat) (f : Consumed → State → State) : beginSettled id op f s = .next s := by
  simp [beginSettled, canBegin_unpowered h]

end

/-- Settles O8: the guard of every other command needs supply. -/
theorem unpoweredIsInert : Obligations.UnpoweredIsInert := by
  intro c s h hcold hperst hsurge
  have guards := And.intro (running_unpowered h) <| And.intro (acornRuns_unpowered h) <| And.intro (acornOn_unpowered h) <|
    And.intro (powered_unpowered h) <| And.intro (starting_unpowered h) <| And.intro (hostOn_unpowered h) <|
    And.intro (pcieOn_unpowered h) <| And.intro (usbOn_unpowered h) <| And.intro (barOn_unpowered h) (debugOn_unpowered h)
  cases c
  case coldReset mv sel low => exact absurd rfl (hcold mv sel low)
  case surge mv => exact (if_neg (Nat.not_lt.2 (hsurge mv rfl))).trans (next_onlyIf_not _ (by simp [guards]))
  case linkReset cause =>
    cases cause
    case perstAsserted => exact absurd rfl hperst
    all_goals exact next_onlyIf_not _ (by simp [guards])
  case recalibration => rfl
  case nop id => exact begin_unpowered h id _ _
  case planRequest id => exact ite_keep (P := (· = _)) rfl (begin_unpowered h id _ _)
  case chunk id | chunkTriggered id | jobLoad id _ _ | jobUnload id | streamRetire id | streamSwap id _ | streamSwapForced id _
      | cancel id | jobRestart id | powerPolicy id =>
    simp only [exec, execChunk, execChunkTriggered, execJobLoad, execJobUnload, execStreamRetire, execStreamSwap, execStreamSwapForced, execCancel,
      execJobRestart, execPowerPolicy]
    exact beginSettled_unpowered h id _ _
  case tableWrite id _ | treeWrite id _ | setpointWrite id _ =>
    exact ite_keep (P := (· = _)) (beginSettled_unpowered h id _ _) rfl
  case powerState id | updateHeader id _ | updateBody id _ | updateCommit id =>
    exact ite_keep (P := (· = _)) rfl (beginSettled_unpowered h id _ _)
  case xact request ecc =>
    exact ite_keep (P := (· = _)) (next_onlyIf_not _ (by simp [guards])) (next_onlyIf_not _ (by simp [guards]))
  all_goals exact next_onlyIf_not _ (by simp [guards, runs_unpowered h, triggerHolds_unpowered h])

end Sys2Proof.Machine
end

section
/-!
SUPPORT. What posting leaves of the host interface: an entry or an event changes completion rings, held entries, pending interrupts and the
count of events, and nothing else of it. So no operation of a completion makes a consumed descriptor.
-/
namespace Sys2Proof.Machine
open Sys2Proof

/-- The host interface is as before but for completion rings, held entries, pending interrupts and the count of events. -/
def SameButPosting (s t : State) : Prop :=
  t.host = { s.host with cqs := t.host.cqs, hold := t.host.hold, pba := t.host.pba, events := t.host.events }

variable {s0 s : State}

theorem SameButPosting.refl (s : State) : SameButPosting s s := rfl

/-- A change of the posting fields of the host interface. -/
theorem posting_upd {t : State} (h : SameButPosting s0 s) (k : SameButPosting s t) : SameButPosting s0 t := by
  unfold SameButPosting at *
  rw [h] at k
  exact k

theorem posting_signalVector (v : Nat) (h : SameButPosting s0 s) : SameButPosting s0 (signalVector v s) := by
  unfold signalVector
  split <;> exact posting_upd h rfl

theorem posting_signalCq (cq : Nat) (h : SameButPosting s0 s) : SameButPosting s0 (signalCq cq s) := by
  unfold signalCq
  split
  · exact h
  · split
    · exact h
    · exact posting_signalVector _ (posting_upd h rfl)

theorem posting_postNow (p : Posting) (h : SameButPosting s0 s) : SameButPosting s0 (postNow p s) := by
  unfold postNow
  extract_lets q bytes depth base usb q' t u coal
  have hu : SameButPosting s0 u := by
    unfold u
    split <;> exact posting_upd h rfl
  split
  · exact posting_signalCq _ hu
  · exact hu

theorem posting_tryPost (p : Posting) (h : SameButPosting s0 s) : SameButPosting s0 (tryPost p s).1 := by
  unfold tryPost
  split
  · exact posting_postNow _ h
  · exact posting_upd h rfl
  · exact h
  · exact h

theorem posting_eventOnCq0 (e : Entry) (h : SameButPosting s0 s) : SameButPosting s0 (eventOnCq0 e s).1 := by
  unfold eventOnCq0
  split
  · exact h
  · simp only
    split
    · exact posting_upd (posting_tryPost _ h) rfl
    · exact posting_tryPost _ h

theorem posting_eventOnce (block detail status aux : Nat) (h : SameButPosting s0 s) :
    SameButPosting s0 (eventOnce block detail status aux s).1 := posting_eventOnCq0 _ (posting_upd h rfl)

theorem posting_setCqLost (cq : Nat) (h : SameButPosting s0 s) : SameButPosting s0 (setCqLost cq s) := by
  unfold setCqLost
  split
  · exact h
  · exact posting_eventOnce _ _ _ _ (posting_upd h rfl)

theorem posting_postEvent (block detail status aux : Nat) (h : SameButPosting s0 s) :
    SameButPosting s0 (postEvent block detail status aux s) := by
  unfold postEvent
  simp only
  split
  · exact posting_setCqLost _ (posting_eventOnce _ _ _ _ h)
  · exact posting_eventOnce _ _ _ _ h

theorem posting_loseCpl (cq : Nat) (h : SameButPosting s0 s) : SameButPosting s0 (loseCpl cq s) :=
  posting_setCqLost _ (posting_upd h rfl)

theorem SameButPosting.consumed {t : State} (h : SameButPosting s t) : t.host.consumed = s.host.consumed := by rw [h]

@[simp] theorem freePush_consumed (m : Option (Nat × Nat)) (s : State) : (freePush m s).host.consumed = s.host.consumed := by
  unfold freePush
  split <;> rfl

/-- A completion takes its descriptor from the consumed ones, and no other. -/
theorem complete_consumed (c : Consumed) (f : Facts) (s : State) :
    (complete c f s).host.consumed = s.host.consumed.filter fun k => k.id != c.id := by
  unfold complete
  extract_lets e msg t
  split
  · simp [t, dropConsumed]
  · split
    · rw [freePush_consumed, (posting_loseCpl _ (.refl t)).consumed]
      rfl
    · split
      rename_i u lost hu
      have k : SameButPosting t u := by
        have := posting_tryPost ⟨boundCq c.sq t, e, flag c.desc 8, returnedData c.desc f, msg⟩ (.refl t)
        rwa [hu] at this
      split
      · rw [freePush_consumed, (posting_loseCpl _ k).consumed]
        rfl
      · rw [k.consumed]
        rfl

/-- A descriptor that completes, or waits to, makes no consumed descriptor. -/
theorem mem_completeOrWait {c k : Consumed} {f : Facts} (h : k ∈ (completeOrWait c f s).host.consumed) : k ∈ s.host.consumed := by
  unfold completeOrWait at h
  split at h
  · rw [complete_consumed] at h
    exact List.mem_of_mem_filter h
  · exact h

/-- Whether an opcode is refused is a matter of the descriptor and of recovery. -/
theorem badOp_of_upd {t : State} (c : Consumed) (h : t.upd = s.upd) : badOp c t = badOp c s := by
  unfold badOp
  rw [h]

/-- A completion leaves no descriptor of a refused opcode where none was. -/
theorem refuseFenced_completeOrWait {c : Consumed} {f : Facts} (h : ∀ k ∈ s.host.consumed, badOp k s = none) :
    refuseFenced (completeOrWait c f s) = completeOrWait c f s :=
  refuseFenced_none fun k hk => (badOp_of_upd k (completeOrWait_upd c f s)).trans (h k (mem_completeOrWait hk))

/-- A descriptor's mark moves none of the others, and changes no opcode. -/
theorem markStarted_badOp {id : Nat} (h : ∀ k ∈ s.host.consumed, badOp k s = none) :
    ∀ k ∈ (markStarted id s).host.consumed, badOp k (markStarted id s) = none := by
  intro k hk
  obtain ⟨c, hc, rfl⟩ := List.mem_map.1 hk
  have := h c hc
  split <;> exact this

end Sys2Proof.Machine
end

section
/-!
The statements about the frame of the host's commands and of a refused descriptor: only registers, outputs, the Acorn log and the host
interface change.
-/
namespace Sys2Proof.Machine
open Sys2Proof

/-- Settles O25: the opcode's command refuses the descriptor, and no other descriptor is left to refuse. -/
theorem malformedDescriptorsAreRefused : Obligations.MalformedDescriptorsAreRefused := by
  intro id e op cmd a b c s hc he hbad hmem
  refine ⟨?_, host_refuseFormat c e 0 (.refl s)⟩
  have hr : refuseFenced (refuseFormat c e 0 s) = refuseFormat c e 0 s := refuseFenced_completeOrWait hbad
  rw [← hr]
  simp only [List.mem_cons, Prod.mk.injEq, List.not_mem_nil, or_false] at hmem
  rcases hmem with ⟨rfl, rfl⟩ | ⟨rfl, rfl⟩ | ⟨rfl, rfl⟩ | ⟨rfl, rfl⟩ | ⟨rfl, rfl⟩ | ⟨rfl, rfl⟩ | ⟨rfl, rfl⟩ | ⟨rfl, rfl⟩ | ⟨rfl, rfl⟩
    | ⟨rfl, rfl⟩ | ⟨rfl, rfl⟩
  · exact begin_refused hc he _
  all_goals
    simp only [exec, execChunk, execChunkTriggered, execJobLoad, execJobUnload, execStreamRetire, execStreamSwap, execStreamSwapForced,
      execCancel, execJobRestart, execPowerPolicy]
    exact beginSettled_refused hc he _

end Sys2Proof.Machine
end

section
/-!
The statement that host commands touch only the host: rings, doorbells, consumption, completions, interrupts and USB ring messages.
-/
namespace Sys2Proof.Machine
open Sys2Proof

variable {s0 s : State}

theorem host_forEach_all {α : Type} (l : List α) {f : α → State → State} (k : ∀ x s, SameButHost s0 s → SameButHost s0 (f x s))
    (h : SameButHost s0 s) : SameButHost s0 (forEach l f s) := host_forEach l f (fun x _ s => k x s) h

theorem host_onlyIf (c : Bool) {f : State → State} (k : ∀ s, SameButHost s0 s → SameButHost s0 (f s)) (h : SameButHost s0 s) :
    SameButHost s0 (onlyIf c f s) := by
  unfold onlyIf
  split
  · exact k _ h
  · exact h

/-! ### Ring set-up -/

theorem host_zeroRing (kind i : Nat) (h : SameButHost s0 s) : SameButHost s0 (zeroRing kind i s) := by
  unfold zeroRing
  split
  · exact host_setSq _ _ h
  · exact host_setCq _ _ h

theorem host_postOwed (h : SameButHost s0 s) : SameButHost s0 (postOwed s) := by
  unfold postOwed
  refine host_forEach_all _ (fun e s k => ?_) (host_upd h)
  split
  rename_i u lost hu
  have ku : SameButHost s0 u := by
    have := host_eventOnCq0 e k
    rwa [hu] at this
  split
  · exact host_setCqLost _ ku
  · exact ku

theorem host_dropUnread (sq : Nat) (h : SameButHost s0 s) : SameButHost s0 (dropUnread sq s) := host_setPush _ h

theorem host_dropHeld (cq : Nat) (h : SameButHost s0 s) : SameButHost s0 (dropHeld cq s) := by
  unfold dropHeld
  refine host_forEach_all _ (fun p s k => ?_) (host_setHold _ h)
  split
  · exact k
  · exact host_freePush _ (host_loseCpl _ k)

theorem host_ite {p : Prop} [Decidable p] {a b : State} (ha : SameButHost s0 a) (hb : SameButHost s0 b) :
    SameButHost s0 (if p then a else b) := ite_keep ha hb

theorem host_ringCfgWrite (mask v : Nat) (h : SameButHost s0 s) : SameButHost s0 (ringCfgWrite mask v s) := by
  unfold ringCfgWrite
  split
  · exact h
  case h_2 kind i _ =>
    extract_lets ix old m new st en depth u w
    have hu : SameButHost s0 u := host_zeroRing _ _ (host_setR _ _ _ h)
    have hw : SameButHost s0 w := host_setR _ _ _ h
    have herr : SameButHost s0 (cfgError kind i s) := host_cfgError _ _ h
    have hnew : SameButHost s0 (setR .hostRingCfg ix new s) := host_setR _ _ _ h
    refine host_ite (host_ite (host_ite herr (host_ite herr (host_ite (host_postOwed hu) hu))) hnew) ?_
    exact host_ite herr (host_ite hnew (host_ite herr (host_ite (host_dropUnread _ hw) (host_dropHeld _ hw))))

/-! ### Consumption, service and messages -/

theorem host_consume (sq : Nat) (msg : Option Nat) (d : Desc) (h : SameButHost s0 s) : SameButHost s0 (consume sq msg d s) :=
  host_refuseUnknown _ (h.trans rfl)

theorem host_readDescriptor (sq : Nat) (data : Option Desc) (h : SameButHost s0 s) : SameButHost s0 (readDescriptor sq data s) := by
  unfold readDescriptor
  split
  · split
    · exact host_setPush _ (host_consume _ _ _ h)
    · exact h
  · split
    · exact host_consume _ _ _ h
    · exact host_stopRing _ _ (host_hostError _ _ _ _ h)

theorem host_drainStep (cq : Nat) (p : Posting) (h : SameButHost s0 s) : SameButHost s0 (drainStep cq p s) := by
  unfold drainStep
  split
  · exact host_setHold _ h
  · split
    · exact host_postNow _ h
    · split
      · exact h
      · exact host_freePush _ (host_loseCpl _ h)
    · exact host_setHold _ h
    · exact host_setHold _ h

theorem host_drainHold (cq : Nat) (h : SameButHost s0 s) : SameButHost s0 (drainHold cq s) :=
  host_forEach_all _ (fun _ _ => host_drainStep cq _) (host_setHold _ h)

theorem host_stallCq (cq : Nat) (h : SameButHost s0 s) : SameButHost s0 (stallCq cq s) :=
  host_postEvent _ _ _ _ (host_setB _ _ _ (host_setCq _ _ h))

theorem host_msixEntryWrite (v : Nat) (e : BitVec 128) (h : SameButHost s0 s) : SameButHost s0 (msixEntryWrite v e s) := by
  unfold msixEntryWrite
  simp only
  split <;> exact h.trans rfl

theorem host_discardPush (m : List Byte) (h : SameButHost s0 s) : SameButHost s0 (discardPush m s) := host_hostError _ _ _ _ h

theorem host_ringPush (m : List Byte) (h : SameButHost s0 s) : SameButHost s0 (ringPush m s) := by
  unfold ringPush
  split
  · exact host_discardPush _ (host_passSeq h)
  · split
    · split
      · exact h.trans rfl
      · exact h
    · simp only
      split
      · exact host_stopRing _ _ (host_discardPush _ (host_passSeq h))
      · exact host_discardPush _ (host_passSeq h)

theorem host_cqHead (m : List Byte) (h : SameButHost s0 s) : SameButHost s0 (cqHead m s) := by
  unfold cqHead
  split
  · exact host_moveHead _ _ (host_passSeq h)
  · exact host_discardPush _ (host_passSeq h)

theorem host_sendCompletions (cq : Nat) (h : SameButHost s0 s) : SameButHost s0 (sendCompletions cq s) :=
  host_forEach_all _ (fun _ _ => host_freePush _) (host_emit _ (host_setCq _ _ h))

theorem host_begin {id op : Nat} {f : Consumed → State → State} (k : ∀ c s, SameButHost s0 s → SameButHost s0 (f c s))
    (h : SameButHost s0 s) : PNext (SameButHost s0) (begin' id op f s) := by
  unfold begin'
  split
  · exact next_keep h
  · split
    · exact next_keep (host_refuseFenced (host_refuseFormat _ _ _ h))
    · exact next_keep (host_refuseFenced (k _ _ (host_markStarted _ h)))

/-- A host command changes registers, outputs, the Acorn log and the host interface only. -/
theorem host_exec (c : Instr) (s : State) (h : hostCommand c = true) : PNext (SameButHost s) (exec c s) := by
  have k : SameButHost s s := .refl s
  cases c
  case ringEnable v => exact next_keep (host_onlyIf _ (fun _ => host_ringCfgWrite _ _) k)
  case ringDisable v => exact next_keep (host_onlyIf _ (fun _ => host_ringCfgWrite _ _) k)
  case submissionTailWrite sq tail => exact next_keep (host_onlyIf _ (fun _ => host_setTail _ _) k)
  case completionHeadWrite cq head => exact next_keep (host_onlyIf _ (fun _ => host_setHead _ _) k)
  case doorbellInvalidWrite off len => exact next_keep (host_onlyIf _ (fun _ => host_doorbellError _) k)
  case descriptorRead sq data => exact next_keep (host_onlyIf _ (fun _ k => host_readDescriptor _ _ (host_upd k)) k)
  case nop id => exact host_begin (fun _ _ => host_done _ _) k
  case holdingQueueDrain cq => exact next_keep (host_onlyIf _ (fun _ k => host_drainDecided (host_drainHold _ k)) k)
  case cqStall cq => exact next_keep (host_onlyIf _ (fun _ => host_stallCq _) k)
  case coalTime cq => exact next_keep (host_onlyIf _ (fun _ => host_signalCq _) k)
  case msixUnmask v => exact next_keep (host_onlyIf _ (fun _ => host_msixEntryWrite _ _) k)
  case ringPush m => exact next_keep (host_onlyIf _ (fun _ => host_ringPush _) k)
  case cqHead m => exact next_keep (host_onlyIf _ (fun _ => host_cqHead _) k)
  case completionMessage cq => exact next_keep (host_onlyIf _ (fun _ => host_sendCompletions _) k)
  all_goals exact absurd h (by simp [hostCommand])

/-- Settles O20: command by command, through the frames of what each calls. -/
theorem hostCommandsTouchOnlyTheHost : Obligations.HostCommandsTouchOnlyTheHost := fun c s t h ht => host_exec c s h t ht

end Sys2Proof.Machine
end

section
/-!
The statements about reset, about a tick of an empty queue, and about what follows a step where only releases can.
-/
namespace Sys2Proof.Machine
open Sys2Proof

/-! ### Reset -/

/-- Settles O4: the fields of `State.reset` are written out. -/
theorem resetMeetsInvariant : Obligations.ResetMeetsInvariant := ⟨⟨rfl, rfl, rfl, rfl, rfl, rfl⟩, by decide⟩

/-- Every switched domain is off after reset. -/
theorem domState_reset (d : Nat) (h : 1 ≤ d) : domState d State.reset = .off := by
  have : d ≠ 0 := by omega
  simp only [domState, this, if_false, State.reset]
  rw [List.getD_eq_getElem?_getD, List.getElem?_replicate]
  split <;> rfl

/-- Settles O9: every register instance is unlisted at reset and so holds its COLD value; the other fields are written out. -/
theorem resetLeaves : Obligations.ResetLeaves :=
  ⟨fun _ _ => rfl, fun d h _ => domState_reset d h, rfl, rfl, fun _ => rfl, fun _ => ⟨rfl, rfl⟩, rfl, rfl, fun _ => rfl, rfl, rfl, rfl, rfl,
    rfl, rfl⟩

/-! ### Ticks -/

/-- The clock, the time base, the time unit and what is sent may differ. -/
def SameButTime (s t : State) : Prop :=
  t = { s with clock := t.clock, timeN := t.timeN, timeFrac := t.timeFrac, time := t.time, tx := t.tx }

/-- What is sent from one state to another is of one kind. -/
def Sends (P : Tx → Prop) (s t : State) : Prop := ∃ new, t.tx = s.tx ++ new ∧ ∀ x ∈ new, P x

theorem SameButTime.trans {s t u : State} (h : SameButTime s t) (k : SameButTime t u) : SameButTime s u := by
  unfold SameButTime at *
  rw [h] at k
  exact k

theorem Sends.refl {P : Tx → Prop} (s : State) : Sends P s s := ⟨[], (List.append_nil _).symm, by simp⟩

theorem Sends.emit {P : Tx → Prop} {s t : State} (h : Sends P s t) {x : Tx} (hx : P x) : Sends P s (emit x t) := by
  obtain ⟨new, hnew, hP⟩ := h
  refine ⟨new ++ [x], by rw [emit_tx, hnew, List.append_assoc], fun y hy => ?_⟩
  rcases List.mem_append.1 hy with hy | hy
  · exact hP y hy
  · rwa [List.mem_singleton.1 hy]

theorem Sends.trans {P : Tx → Prop} {s t u : State} (h : Sends P s t) (k : Sends P t u) : Sends P s u := by
  obtain ⟨new, hnew, hP⟩ := h
  obtain ⟨more, hmore, hQ⟩ := k
  exact ⟨new ++ more, by rw [hmore, hnew, List.append_assoc], fun y hy => (List.mem_append.1 hy).elim (hP y) (hQ y)⟩

theorem Sends.mono {P Q : Tx → Prop} {s t : State} (h : Sends P s t) (k : ∀ x, P x → Q x) : Sends Q s t := by
  obtain ⟨new, hnew, hP⟩ := h
  exact ⟨new, hnew, fun x hx => k x (hP x hx)⟩

theorem forEach_mem {α : Type} {P : State → Prop} {l : List α} {f : α → State → State} {s : State} (h : P s)
    (k : ∀ x ∈ l, ∀ s, P s → P (f x s)) : P (forEach l f s) := by
  induction l generalizing s with
  | nil => exact h
  | cons x l ih => exact ih (k x (by simp) s h) fun y hy => k y (by simp [hy])

/-- A pin that goes low. -/
def PinLow (x : Tx) : Prop := ∃ n, x = .pin n false

/-- A frame that waits for a gate. -/
def Gated (l : List (Nat × List Byte)) (x : Tx) : Prop := ∃ g ∈ l, x = .ethFrame g.1 g.2

/-- Pulses that end lower pins, and leave the frames that wait. -/
theorem endPulses_kept (p : Nat × Nat × Nat → Bool) (s : State) :
    SameButTime s (endPulses p s) ∧ Sends PinLow s (endPulses p s) ∧ (endPulses p s).time.gated = s.time.gated
      ∧ (endPulses p s).clock = s.clock := by
  unfold endPulses
  refine forEach_mem (P := fun t => SameButTime s t ∧ Sends PinLow s t ∧ t.time.gated = s.time.gated ∧ t.clock = s.clock)
    ⟨rfl, .refl s, rfl, rfl⟩ fun pin _ t h => ?_
  obtain ⟨hsame, hsends, hgated, hclock⟩ := h
  split
  · exact ⟨hsame, hsends, hgated, hclock⟩
  · exact ⟨hsame.trans rfl, hsends.emit ⟨pin, rfl⟩, hgated, hclock⟩

/-- Gates that open send frames that waited behind them. -/
theorem openGates_kept (s : State) :
    SameButTime s (openGates s) ∧ Sends (Gated s.time.gated) s (openGates s) ∧ (openGates s).clock = s.clock := by
  unfold openGates
  extract_lets go
  split
  · exact ⟨rfl, .refl s, rfl⟩
  · refine forEach_mem (P := fun t => SameButTime s t ∧ Sends (Gated s.time.gated) s t ∧ t.clock = s.clock)
      ⟨rfl, .refl s, rfl⟩ fun g hg t h => ?_
    obtain ⟨hsame, hsends, hclock⟩ := h
    exact ⟨hsame.trans rfl, hsends.emit ⟨g, List.mem_of_mem_filter hg, rfl⟩, hclock⟩

/-- The time base runs in its own two fields. -/
theorem tickTime_kept (s : State) :
    SameButTime s (tickTime s) ∧ (tickTime s).tx = s.tx ∧ (tickTime s).time = s.time ∧ (tickTime s).clock = s.clock := by
  unfold tickTime
  split <;> exact ⟨rfl, rfl, rfl, rfl⟩

/-- A tick: 2 ns pass, pins fall and waiting frames leave; times, pulses and waiting frames are all else that changes. -/
theorem tick_kept (s : State) :
    SameButTime s (tick s) ∧ Sends (fun x => PinLow x ∨ Gated s.time.gated x) s (tick s) ∧ (tick s).clock = s.clock + 2 := by
  unfold tick
  extract_lets u
  obtain ⟨hu, htx, htime, hclock⟩ := tickTime_kept { s with clock := s.clock + 2 }
  obtain ⟨hp, hlow, hgated, hpc⟩ := endPulses_kept (fun p => decide (p.2.2 ≤ u.clock)) u
  obtain ⟨hg, hsent, hgc⟩ := openGates_kept (endPulses (fun p => decide (p.2.2 ≤ u.clock)) u)
  have hsu : SameButTime s u := SameButTime.trans (t := { s with clock := s.clock + 2 }) rfl hu
  refine ⟨(hsu.trans hp).trans hg, ?_, hgc.trans (hpc.trans hclock)⟩
  rw [hgated, htime] at hsent
  have h0 : Sends (fun x => PinLow x ∨ Gated s.time.gated x) s u := ⟨[], by rw [htx, List.append_nil], by simp⟩
  exact (h0.trans (hlow.mono fun x => .inl)).trans (hsent.mono fun x => .inr)

/-- A tick of an empty queue is a tick of the clock, and may count on-time. -/
theorem idle_eq {s : State} (h : s.phase ≠ .unpowered) : idle s = { tick s with prog := (idle s).prog } := by
  rw [idle, if_neg h, tickOnTime]
  split <;> rfl

/-- Settles O2: an empty queue idles; a tick is `tick_kept`, and the on-time is a field of its own. -/
theorem emptyQueueLetsTimePass : Obligations.EmptyQueueLetsTimePass := by
  intro s hp
  have hstep : step s = .next (idle s) := by rw [step, hp]
  refine ⟨fun h => ?_, fun h => ⟨idle s, hstep, ?_⟩⟩
  · rw [hstep, idle, if_pos h]
  · obtain ⟨hsame, ⟨new, htx, hnew⟩, hclock⟩ := tick_kept s
    rw [idle_eq h]
    refine ⟨hclock, ?_, ?_, ?_, ?_, ?_, ?_, ?_, ?_, ?_, ?_, new, htx, hnew⟩
    · exact (congrArg State.pending hsame).trans hp
    all_goals rw [hsame]

/-! ### What follows where only releases can -/

variable {s0 s : State}

theorem SameButReleases.refl (s : State) : SameButReleases s s := rfl

/-- A further change of streams, safety monitor and limiter. -/
theorem SameButReleases.trans {t : State} (h : SameButReleases s0 s) (k : SameButReleases s t) : SameButReleases s0 t := by
  unfold SameButReleases at *
  rw [h] at k
  exact k

theorem SameButReleases.causes {t : State} (h : SameButReleases s t) : t.causes = s.causes := by rw [h]
theorem SameButReleases.power {t : State} (h : SameButReleases s t) : t.power = s.power := by rw [h]
theorem SameButReleases.time {t : State} (h : SameButReleases s t) : t.time = s.time := by rw [h]
theorem SameButReleases.host {t : State} (h : SameButReleases s t) : t.host = s.host := by rw [h]
theorem SameButReleases.upd {t : State} (h : SameButReleases s t) : t.upd = s.upd := by rw [h]

theorem releases_forEach {α : Type} (l : List α) {f : α → State → State} (k : ∀ x s, SameButReleases s0 s → SameButReleases s0 (f x s))
    (h : SameButReleases s0 s) : SameButReleases s0 (forEach l f s) := foldl_keep h fun s hs x => k x s hs

theorem releases_adjStream (st : Nat) (f : Stream → Stream) (h : SameButReleases s0 s) : SameButReleases s0 (adjStream st f s) := h.trans rfl

theorem releases_trackReady (st : Nat) (h : SameButReleases s0 s) : SameButReleases s0 (trackReady st s) := by
  unfold trackReady
  split
  · exact h
  · split
    · exact h
    · split
      · exact releases_adjStream _ _ h
      · exact releases_adjStream _ _ h
      · exact h

theorem releases_openFrame (st : Nat) (x : Stream) (i : Item) (h : SameButReleases s0 s) : SameButReleases s0 (openFrame st x i s) := by
  unfold openFrame openStage
  split
  · split
    · exact h.trans rfl
    · exact h
  · exact h

theorem releases_releaseItem (st id missed : Nat) (latched : List Int) (h : SameButReleases s0 s) :
    SameButReleases s0 (releaseItem st id missed latched s) := by
  unfold releaseItem
  extract_lets t u ready only
  have ht : SameButReleases s0 t := h.trans rfl
  have hu : SameButReleases s0 u := by
    unfold u
    split
    · simp only
      split
      · split
        · exact releases_openFrame _ _ _ ht
        · exact ht
      · exact ht
    · exact ht
  split
  · exact releases_adjStream _ _ hu
  · exact hu

theorem releases_releaseStream (st : Nat) (h : SameButReleases s0 s) : SameButReleases s0 (releaseStream st s) := by
  unfold releaseStream
  split
  · exact h
  · split
    · exact h
    · exact releases_forEach _ (fun _ _ => releases_releaseItem _ _ _ _) h

theorem releases_accountIdle (n : Nat) (h : SameButReleases s0 s) : SameButReleases s0 (accountIdle n s) := by
  unfold accountIdle
  extract_lets x
  split
  · exact h.trans rfl
  · exact h.trans rfl
  · exact h

theorem releases_account (h : SameButReleases s0 s) : SameButReleases s0 (account s) :=
  (releases_forEach _ (fun _ _ => releases_accountIdle _) h).trans rfl

/-- No chunk of a steady state has ended. -/
theorem finishChunks_steady (h : Steady s) : finishChunks s = s := by
  refine forEach_same _ _ _ fun st _ => ?_
  unfold finishStream
  cases hx : streamOf st s with
  | none => rfl
  | some x =>
    obtain ⟨-, hdone, hended⟩ := h.streams st x hx
    have hnone : (x.items.find? fun i => isChunk i && i.phase == .ended) = none := by
      rw [List.find?_eq_none]
      intro i hi
      simp [hended i hi]
    simp only [hdone, hx, Option.bind_some, hnone]

/-- No retire and no unload of a steady state can finish. -/
theorem settleJobs_steady (h : Steady s) : settleJobs s = s := by
  have hretire : ∀ st n, settleRetire st n s = s := by
    intro st n
    cases n with
    | zero => rfl
    | succ n =>
      unfold settleRetire
      cases hx : streamOf st s with
      | none => rfl
      | some x =>
        have hkinds := (h.streams st x hx).1
        cases hi : x.items with
        | nil => simp [hi]
        | cons i l =>
          have hany : (x.items.any fun k => k.kind == .retire) = false := by
            rw [List.any_eq_false]
            intro k hk
            simpa using hkinds k hk
          have hhead : (i.kind == ItemKind.retire) = false := by simpa using hkinds i (by simp [hi])
          rw [hi] at hany
          simp [hi, hhead, hany]
  have hunload : ∀ j ∈ List.range 32, settleUnload j s = s := by
    intro j _
    unfold settleUnload
    split
    · rename_i ids hj
      exact absurd hj (h.unloads j ids)
    · rfl
  have hall : forEach (s.streams.map fun p => p.1) (fun st s => settleRetire st (s.host.consumed.length + 1) s) s = s :=
    forEach_same _ _ _ fun st _ => hretire st _
  rw [settleJobs, hall]
  exact forEach_same _ _ _ hunload

/-- Settles O10: causes, ends, retires, unloads, the transition, gates and refused opcodes have nothing to do in a steady state; what is
left are releases, dummy intervals and running times. -/
theorem settlingOnlyReleases : Obligations.SettlingOnlyReleases := by
  intro s h
  have hround : SameButReleases s (settleRound s) := by
    unfold settleRound
    rw [actOnCauses_none h.causes, finishChunks_steady h, settleJobs_steady h]
    exact releases_forEach _ (fun _ _ => releases_releaseStream _) (releases_forEach _ (fun _ _ => releases_trackReady _) (.refl s))
  unfold settle
  have hcauses : actOnCauses (settleRound s) = settleRound s := actOnCauses_none (hround.causes.trans h.causes)
  have hadvance : advance (settleRound s) = settleRound s := by rw [advance, hround.power, h.trans]
  have haccount : SameButReleases s (account (settleRound s)) := releases_account hround
  have hgates : openGates (account (settleRound s)) = account (settleRound s) :=
    openGates_none ((congrArg TimeUnit.gated haccount.time).trans h.gated)
  have hops : ∀ c ∈ (account (settleRound s)).host.consumed, badOp c (account (settleRound s)) = none := by
    intro c hc
    rw [haccount.host] at hc
    exact (badOp_of_upd c haccount.upd).trans (h.ops c hc)
  rw [hcauses, hadvance, hgates, refuseFenced_none hops]
  exact haccount

end Sys2Proof.Machine
end

section
/-!
The statements about accesses of BAR0 and BAR2 by the host: plain registers by access code, bad accesses, and USB requests.
-/
namespace Sys2Proof.Machine
open Sys2Proof

/-! ### The register map -/

/-- Every register is found at its offset, for an access of its whole slot. -/
theorem locate_regOffset (r : Reg) : locate (regOffset r) 8 = .reg r := by cases r <;> rfl

/-- A register's slot is aligned and lies in the 1 MiB map (R495). -/
theorem regOffset_slot (r : Reg) : regOffset r % 8 = 0 ∧ regOffset r + 8 ≤ 2 ^ 20 := by cases r <;> decide

/-- A COLD value has 64 bits. -/
theorem coldVal_lt (r : Reg) : coldVal r < 2 ^ 64 := by cases r <;> decide

/-- No bit of a register is both RW and W1C (Table SCO-6). -/
theorem accMask_disjoint (r : Reg) : accMask .rw r &&& accMask .w1c r = 0 := by cases r <;> decide

/-- A plain register's write only stores. -/
theorem regWrite_plain {r : Reg} (h : plainReg r = true) (mask v : Nat) (s : State) : regWrite r mask v s = storeReg r mask v s := by
  unfold regWrite
  split
  case h_27 => rfl
  all_goals exact absurd h (by decide)

/-! ### A stored value -/

/-- All 64 bits. -/
theorem testBit_ones {k : Nat} (hk : k < 64) : Nat.testBit (2 ^ 64 - 1) k = true := by
  rw [Nat.testBit_two_pow_sub_one, decide_eq_true hk]

/-- A value written over the whole of a register takes each bit by its access code (Table SCO-6). -/
theorem testBit_writtenVal (r : Reg) (old v : Nat) {k : Nat} (hk : k < 64) : (writtenVal r old (2 ^ 64 - 1) v).testBit k =
    if (accMask .rw r).testBit k then v.testBit k
    else if (accMask .w1c r).testBit k then old.testBit k && !(v.testBit k)
    else old.testBit k := by
  have hdis : ((accMask .rw r).testBit k && (accMask .w1c r).testBit k) = false := by
    rw [← Nat.testBit_and, accMask_disjoint, Nat.zero_testBit]
  simp only [writtenVal, Nat.testBit_or, Nat.testBit_and, Nat.testBit_xor, testBit_ones hk, Bool.and_true]
  cases hrw : (accMask .rw r).testBit k with
  | true =>
    have hw1c : (accMask .w1c r).testBit k = false := by simpa [hrw] using hdis
    simp [hw1c]
  | false => cases (accMask .w1c r).testBit k <;> simp

/-- A stored value has 64 bits. -/
theorem writtenVal_lt {r : Reg} {old v : Nat} (h : old < 2 ^ 64) : writtenVal r old (2 ^ 64 - 1) v < 2 ^ 64 := by
  have hmask : accMask .rw r &&& (2 ^ 64 - 1) < 2 ^ 64 := by
    rw [Nat.and_two_pow_sub_one_eq_mod]
    exact Nat.mod_lt _ (by decide)
  refine Nat.or_lt_two_pow (Nat.lt_of_le_of_lt Nat.and_le_left h) (Nat.lt_of_le_of_lt Nat.and_le_left ?_)
  exact Nat.lt_of_le_of_lt Nat.and_le_right hmask

/-! ### REGISTER_WRITE -/

/-- A write inside BAR0 over PCI Express takes effect, and what follows. -/
theorem exec_registerWrite {off : Nat} {bytes : List Byte} {s : State} (hr : running s = true) (hu : usbAttached s = false)
    (hd : domOn (attachDomain s) s = true) (hlen : off + bytes.length ≤ 2 ^ 20) :
    exec (.registerWrite off bytes) s = .next (settle (barWrite off bytes s)) :=
  settled_of _ (by simp only [barOn, hr, hu, hd, decide_eq_true hlen]; rfl)

/-- Past FW_READY all of BAR0 is served. -/
theorem served_running {off : Nat} {s : State} (h : running s = true) : served off s = true := by simp [served, h]

section
variable {off : Nat} {bytes : List Byte} {s : State} (hr : running s = true)
include hr

theorem barWrite_badSize (h : locate off bytes.length = .badSize) : barWrite off bytes s = noteAccess Fld.idAccessSize off s := by
  simp [barWrite, served_running hr, h]

theorem barWrite_unassigned (h : locate off bytes.length = .unassigned) :
    barWrite off bytes s = noteAccess Fld.idAccessUnassigned off s := by simp [barWrite, served_running hr, h]

theorem barWrite_reg {r : Reg} (h : locate off bytes.length = .reg r) : barWrite off bytes s =
    if domOn (regDomain r s) s then targetWrite (.reg r) off bytes s else noteAccess Fld.idAccessOffWrite off s := by
  simp [barWrite, served_running hr, h]

theorem barWrite_win {w : Win} (h : locate off bytes.length = .win w) : barWrite off bytes s =
    if domOn (winDomain w s) s then targetWrite (.win w) off bytes s else noteAccess Fld.idAccessOffWrite off s := by
  simp [barWrite, served_running hr, h]

end

/-- An aligned write of a whole plain register stores its value by the access codes. -/
theorem barWrite_plain {r : Reg} {i : Nat} {bytes : List Byte} {s : State} (h : running s = true) (hlen : bytes.length = 8)
    (hp : plainReg r = true) (hi : regIx r s = some i) (hd : domOn (regDomain r s) s = true) :
    barWrite (regOffset r) bytes s = setR r i (writtenVal r (getR r i s) (2 ^ 64 - 1) (leNat bytes)) s := by
  rw [barWrite_reg h (by rw [hlen, locate_regOffset]), if_pos hd]
  simp only [targetWrite, regWrite_plain hp, storeReg, hi, hlen, (regOffset_slot r).1]
  simp

/-- Settles O12: the write finds its register (`locate_regOffset`) and stores bit by bit (`testBit_writtenVal`). -/
theorem registerWriteByAccessCode : Obligations.RegisterWriteByAccessCode := by
  intro r i bytes s hr hu hd hlen hp hi hdom
  refine ⟨writtenVal r (getR r i s) (2 ^ 64 - 1) (leNat bytes), writtenVal_lt (getR_lt _ _ _ (coldVal_lt r)), ?_, fun k hk =>
    testBit_writtenVal _ _ _ hk⟩
  rw [exec_registerWrite hr hu hd (by rw [hlen]; exact (regOffset_slot r).2), barWrite_plain hr hlen hp hi hdom]
  rfl

/-! ### Bad accesses -/

/-- A doorbell write at a place or of a length that R40 does not accept. -/
theorem doorbellAccepted_false {off len : Nat} (h : (len ≠ 4 ∧ len ≠ 8) ∨ (off % 16 ≠ 0 ∧ ¬ (off % 16 = 8 ∧ off / 16 < 256))) :
    doorbellAccepted off len = false := by
  unfold doorbellAccepted
  rcases h with ⟨h4, h8⟩ | ⟨h0, h1⟩
  · simp [h4, h8]
  · by_cases h8 : off % 16 = 8
    · have : ¬ off / 16 < 256 := fun k => h1 ⟨h8, k⟩
      simp [h0, this]
    · simp [h0, h8]

/-- Settles O13: by what the offset meets (`locate`), and by whether DOORBELL is set. -/
theorem badAccessesAreNoted : Obligations.BadAccessesAreNoted := by
  constructor
  · intro off bytes s hr hu hd hlen
    simp only [exec_registerWrite hr hu hd hlen]
    refine ⟨fun h => ?_, fun h => ?_, fun r h hoff => ?_, fun w h hoff => ?_⟩
    · rw [barWrite_badSize hr h, noteAccess]
    · rw [barWrite_unassigned hr h, noteAccess]
    · rw [barWrite_reg hr h, if_neg (by simp [hoff]), noteAccess]
    · rw [barWrite_win hr h, if_neg (by simp [hoff]), noteAccess]
  · intro off len s hon hbad aux
    have hx : exec (.doorbellInvalidWrite off len) s = .next (doorbellError (doorbellAux off.toNat) s) := by
      change execDoorbellInvalidWrite off len s = _
      rw [execDoorbellInvalidWrite, onlyIf, if_pos (by rw [hon, doorbellAccepted_false hbad]; rfl)]
    rw [hx, doorbellError, hostError]
    exact ⟨fun h => by rw [if_pos h], fun h => by rw [if_neg (by simp [h])]; rfl⟩

/-! ### USB requests -/

theorem usbRequestOk_iff (wValue wIndex wLength : BitVec 16) : usbRequestOk wValue wIndex wLength = true ↔
    wIndex.toNat < 16 ∧ wValue.toNat % 4 = 0 ∧ wLength.toNat % 4 = 0 ∧ 4 ≤ wLength.toNat ∧ wLength.toNat ≤ 256 := by
  simp [usbRequestOk, and_assoc]

/-- Settles O14: by whether the request is good (`usbRequestOk_iff`). -/
theorem usbRegisterRequests : Obligations.UsbRegisterRequests := by
  intro wValue wIndex wLength bytes s hr hu hd ok off read
  have hon : (barOn s && usbAttached s) = true := by simp [barOn, hr, hu, hd]
  have hread : exec (.regRead wValue wIndex wLength) s = .next (regReadRequest wValue wIndex wLength s) := by
    change execRegRead wValue wIndex wLength s = _
    rw [execRegRead, onlyIf, if_pos hon]
  have hwrite : exec (.regWrite wValue wIndex wLength bytes) s = .next (settle (regWriteRequest wValue wIndex wLength bytes s)) :=
    settled_of _ hon
  rw [hread, hwrite, regReadRequest, regWriteRequest]
  refine ⟨fun h => ?_, fun h => ?_, fun h hlen => ?_, fun h => ?_⟩
  · rw [if_pos ((usbRequestOk_iff _ _ _).2 h)]
    rfl
  · rw [if_neg (mt (usbRequestOk_iff _ _ _).1 h)]
    rfl
  · rw [if_pos (by simp [(usbRequestOk_iff _ _ _).2 h, hlen])]
    rfl
  · rw [if_neg (by simp [mt (usbRequestOk_iff _ _ _).1 h])]
    rfl

end Sys2Proof.Machine
end

section
/-!
The statements about rings: enabling and disabling them, consuming descriptors, NOP, and the service of completion rings.
-/
namespace Sys2Proof.Machine
open Sys2Proof

/-! ### The configuration that a write asks for -/

/-- The value of HOST_RING_CFG that a whole write of `v` asks for (R39). -/
def ringCfgAsked (kind i old v : Nat) : Nat :=
  (old &&& ((2 ^ 64 - 1) ^^^ (ringCfgMask kind i &&& (2 ^ 64 - 1)))) ||| (v &&& (ringCfgMask kind i &&& (2 ^ 64 - 1)))

theorem testBit_ringCfgAsked {kind i old v k : Nat} (hk : k < 64) (hm : (ringCfgMask kind i).testBit k = true) :
    (ringCfgAsked kind i old v).testBit k = v.testBit k := by
  have hone : Nat.testBit (2 ^ 64 - 1) k = true := by rw [Nat.testBit_two_pow_sub_one, decide_eq_true hk]
  simp only [ringCfgAsked, Nat.testBit_or, Nat.testBit_and, Nat.testBit_xor, hm, hone]
  simp

/-- A field of which every bit is RW takes what was written. -/
theorem bitsAt_ringCfgAsked {kind i old v lo len : Nat} (hlen : lo + len ≤ 64)
    (hm : ∀ k < len, (ringCfgMask kind i).testBit (lo + k) = true) :
    bitsAt (ringCfgAsked kind i old v) lo len = bitsAt v lo len := by
  apply Nat.eq_of_testBit_eq
  intro k
  rw [testBit_bitsAt, testBit_bitsAt]
  by_cases hk : k < len
  · rw [testBit_ringCfgAsked (by omega) (hm k hk)]
  · simp [hk]

theorem ringCfgAsked_lt {kind i old v : Nat} (ho : old < 2 ^ 64) (hv : v < 2 ^ 64) : ringCfgAsked kind i old v < 2 ^ 64 :=
  Nat.or_lt_two_pow (Nat.lt_of_le_of_lt Nat.and_le_left ho) (Nat.lt_of_le_of_lt Nat.and_le_left hv)

/-- ENABLE and DEPTH_LOG2 are RW for every ring. -/
theorem ringCfgMask_enable (kind i : Nat) : ∀ k < 1, (ringCfgMask kind i).testBit (0 + k) = true := by
  unfold ringCfgMask
  split
  · decide
  · split <;> decide

theorem ringCfgMask_depth (kind i : Nat) : ∀ k < 5, (ringCfgMask kind i).testBit (8 + k) = true := by
  unfold ringCfgMask
  split
  · decide
  · split <;> decide

/-- CQ is RW for a submission ring. -/
theorem ringCfgMask_cq (i : Nat) : ∀ k < 8, (ringCfgMask 0 i).testBit (16 + k) = true := by
  rw [ringCfgMask, if_pos rfl]
  decide

/-! ### Enabling and disabling -/

/-- The rings that HOST_RING_SEL can select. -/
theorem selectedRing_bounds {kind i : Nat} {s : State} (h : selectedRing s = some (kind, i)) : kind < 2 ∧ ringIx kind i < 8192 := by
  unfold selectedRing at h
  extract_lets k n at h
  split at h
  · cases h
  · rename_i hk
    obtain ⟨rfl, rfl⟩ : k = kind ∧ n = i := by simpa using h
    have hkind : k < 2 := bitsAt_lt _ 16 1
    have hi : n < 4096 := bitsAt_lt _ 0 12
    unfold ringIx
    omega

theorem exec_ringEnable {v : BitVec 64} {s : State} (h : hostOn s = true) (hv : flag v 0 = true) :
    exec (.ringEnable v) s = .next (ringCfgWrite (2 ^ 64 - 1) v.toNat s) := by
  change execRingEnable v s = _
  rw [execRingEnable, onlyIf, if_pos (by simp [h, hv])]

theorem exec_ringDisable {v : BitVec 64} {s : State} (h : hostOn s = true) (hv : flag v 0 = false) :
    exec (.ringDisable v) s = .next (ringCfgWrite (2 ^ 64 - 1) v.toNat s) := by
  change execRingDisable v s = _
  rw [execRingDisable, onlyIf, if_pos (by simp [h, hv])]

theorem zeroRing_owed (kind i : Nat) (s : State) : (zeroRing kind i s).host.owed = s.host.owed := by
  unfold zeroRing
  split <;> rfl

/-- Where no reset event is owed, none is posted. -/
theorem postOwed_none {s : State} (h : s.host.owed = []) : postOwed s = s := by
  unfold postOwed
  rw [h, forEach_nil, ← h]

section
variable {kind i v : Nat} {s : State} (hsel : selectedRing s = some (kind, i))
include hsel

/-- A write that enables a DISABLED ring of a lawful depth. -/
theorem ringCfgWrite_enables (h0 : ringState kind i s = 0) (hen : bitsAt v 0 1 = 1) (h4 : 4 ≤ bitsAt v 8 5) (h16 : bitsAt v 8 5 ≤ 16)
    (hcq : kind = 0 → ringState 1 (bitsAt v 16 8) s = 1) (howed : kind = 1 → i = 0 → s.host.owed = []) :
    ringCfgWrite (2 ^ 64 - 1) v s = zeroRing kind i (setR .hostRingCfg (ringIx kind i)
      (putBits (ringCfgAsked kind i (getR .hostRingCfg (ringIx kind i) s) v) 1 2 1) s) := by
  have hdepth := bitsAt_ringCfgAsked (old := getR .hostRingCfg (ringIx kind i) s) (v := v) (by decide) (ringCfgMask_depth kind i)
  have henable := bitsAt_ringCfgAsked (old := getR .hostRingCfg (ringIx kind i) s) (v := v) (by decide) (ringCfgMask_enable kind i)
  unfold ringCfgWrite
  split
  · simp_all
  rename_i k j hk
  obtain ⟨rfl, rfl⟩ : kind = k ∧ i = j := by simpa [hsel] using hk
  extract_lets ix old m new st en depth u w
  have hst : st = 0 := h0
  have hen' : en = true := beq_iff_eq.2 (henable.trans hen)
  have hd : ¬ (depth < 4 ∨ 16 < depth) := by
    have : depth = bitsAt v 8 5 := hdepth
    omega
  have hb : ¬ (kind = 0 ∧ ringState 1 (bitsAt new 16 8) s ≠ 1) := by
    rintro ⟨rfl, hne⟩
    have hbind : bitsAt new 16 8 = bitsAt v 16 8 := bitsAt_ringCfgAsked (by decide) (ringCfgMask_cq i)
    exact hne (by rw [hbind]; exact hcq rfl)
  rw [if_pos hst, if_pos hen', if_neg hd, if_neg hb]
  split
  · rename_i hzero
    exact postOwed_none ((zeroRing_owed _ _ _).trans (howed hzero.1 hzero.2))
  · rfl

/-- A write that would enable a DISABLED ring of another depth is discarded. -/
theorem ringCfgWrite_badDepth (h0 : ringState kind i s = 0) (hen : bitsAt v 0 1 = 1) (hd : bitsAt v 8 5 < 4 ∨ 16 < bitsAt v 8 5) :
    ringCfgWrite (2 ^ 64 - 1) v s = cfgError kind i s := by
  have hdepth := bitsAt_ringCfgAsked (old := getR .hostRingCfg (ringIx kind i) s) (v := v) (by decide) (ringCfgMask_depth kind i)
  have henable := bitsAt_ringCfgAsked (old := getR .hostRingCfg (ringIx kind i) s) (v := v) (by decide) (ringCfgMask_enable kind i)
  unfold ringCfgWrite
  split
  · simp_all
  rename_i k j hk
  obtain ⟨rfl, rfl⟩ : kind = k ∧ i = j := by simpa [hsel] using hk
  extract_lets ix old m new st en depth u w
  have hst : st = 0 := h0
  have hen' : en = true := beq_iff_eq.2 (henable.trans hen)
  have hd' : depth < 4 ∨ 16 < depth := by
    have : depth = bitsAt v 8 5 := hdepth
    omega
  rw [if_pos hst, if_pos hen', if_pos hd']

/-- A write to a ring that is not DISABLED with another depth or binding is discarded. -/
theorem ringCfgWrite_rebinds (h0 : ringState kind i s ≠ 0)
    (hne : bitsAt (ringCfgAsked kind i (getR .hostRingCfg (ringIx kind i) s) v) 8 5 ≠ bitsAt (getR .hostRingCfg (ringIx kind i) s) 8 5
      ∨ bitsAt (ringCfgAsked kind i (getR .hostRingCfg (ringIx kind i) s) v) 16 8 ≠ bitsAt (getR .hostRingCfg (ringIx kind i) s) 16 8) :
    ringCfgWrite (2 ^ 64 - 1) v s = cfgError kind i s := by
  unfold ringCfgWrite
  split
  · simp_all
  rename_i k j hk
  obtain ⟨rfl, rfl⟩ : kind = k ∧ i = j := by simpa [hsel] using hk
  extract_lets ix old m new st en depth u w
  have hst : st ≠ 0 := h0
  rw [if_neg hst]
  exact if_pos hne

/-- A write that disables a ring whose depth and binding it carries. -/
theorem ringCfgWrite_disables (h0 : ringState kind i s ≠ 0)
    (hd : bitsAt (ringCfgAsked kind i (getR .hostRingCfg (ringIx kind i) s) v) 8 5 = bitsAt (getR .hostRingCfg (ringIx kind i) s) 8 5)
    (hb : bitsAt (ringCfgAsked kind i (getR .hostRingCfg (ringIx kind i) s) v) 16 8 = bitsAt (getR .hostRingCfg (ringIx kind i) s) 16 8)
    (hen : bitsAt (ringCfgAsked kind i (getR .hostRingCfg (ringIx kind i) s) v) 0 1 = 0) :
    ringCfgWrite (2 ^ 64 - 1) v s = if kind = 1 ∧ cqInUse i s = true then cfgError kind i s
      else if kind = 0 then dropUnread i (setR .hostRingCfg (ringIx kind i)
        (putBits (ringCfgAsked kind i (getR .hostRingCfg (ringIx kind i) s) v) 1 2 0) s)
      else dropHeld i (setR .hostRingCfg (ringIx kind i)
        (putBits (ringCfgAsked kind i (getR .hostRingCfg (ringIx kind i) s) v) 1 2 0) s) := by
  unfold ringCfgWrite
  split
  · simp_all
  rename_i k j hk
  obtain ⟨rfl, rfl⟩ : kind = k ∧ i = j := by simpa [hsel] using hk
  extract_lets ix old m new st en depth u w
  have hst : st ≠ 0 := h0
  have hsame : ¬ (bitsAt new 8 5 ≠ bitsAt old 8 5 ∨ bitsAt new 16 8 ≠ bitsAt old 16 8) := by
    rintro (h | h)
    · exact h hd
    · exact h hb
  have hen' : ¬ en = true := by
    have : bitsAt new 0 1 = 0 := hen
    simp [en, this]
  rw [if_neg hst, if_neg hsame, if_neg hen']
  rfl

end

/-- Zeroing a ring's counts leaves its configuration. -/
theorem getF_zeroRing (f : Field) (j kind i : Nat) (s : State) : getF f j (zeroRing kind i s) = getF f j s := by
  unfold zeroRing
  split <;> rfl

/-- Settles O15: the write of HOST_RING_CFG by the ring's state, the depth and the binding it carries (`ringCfgWrite_enables` and those
after it). -/
theorem ringsEnableAndDisable : Obligations.RingsEnableAndDisable := by
  intro v kind i s hon hsel old m new off bad
  obtain ⟨hkind, hix⟩ := selectedRing_bounds hsel
  refine ⟨fun h0 hv => ⟨fun h4 h16 hcq howed => ?_, fun hd => ?_⟩, fun h0 hv => ⟨fun hne => ?_, fun hd hb hen => ⟨?_, ?_, ?_⟩⟩⟩
  · have hen : bitsAt v.toNat 0 1 = 1 := by simpa [flag] using hv
    rw [exec_ringEnable hon hv, ringCfgWrite_enables hsel h0 hen h4 h16 hcq howed]
    have hlt : putBits (ringCfgAsked kind i (getR .hostRingCfg (ringIx kind i) s) v.toNat) 1 2 1 < 2 ^ 64 :=
      putBits_lt _ _ _ _ _ (ringCfgAsked_lt (getR_lt _ _ _ (by decide)) v.isLt) (by decide)
    refine ⟨_, rfl, ?_, ?_, ?_, ?_, host_zeroRing _ _ (host_setR _ _ _ (.refl s))⟩
    · rw [ringState, getF_zeroRing, getF, Fld.hostRingCfgState, getR_setR_same, Nat.mod_eq_of_lt hlt, bitsAt_putBits_same]
      rfl
    · rw [ringDepth, getF_zeroRing, getF, Fld.hostRingCfgDepthLog2, getR_setR_same, Nat.mod_eq_of_lt hlt,
        bitsAt_putBits_ne _ _ _ _ _ _ (by decide)]
      exact congrArg (2 ^ ·) (bitsAt_ringCfgAsked (by decide) (ringCfgMask_depth kind i))
    · rintro rfl
      rw [zeroRing, if_pos rfl, sqOf, setSq_host, mapGet_mapSet_same, Option.getD_some]
    · rintro rfl
      rw [zeroRing, if_neg (by decide), cqOf, setCq_host, mapGet_mapSet_same, Option.getD_some]
      exact ⟨rfl, rfl⟩
  · have hen : bitsAt v.toNat 0 1 = 1 := by simpa [flag] using hv
    rw [exec_ringEnable hon hv, ringCfgWrite_badDepth hsel h0 hen hd, cfgError]
    have q := quietKey_ring hix
    have hstate : ringState kind i bad = ringState kind i s := getF_of_key (key_hostError _ _ _ q q.2.1 rfl)
    exact ⟨rfl, hstate.trans h0⟩
  · rw [exec_ringDisable hon hv, ringCfgWrite_rebinds hsel h0 hne, cfgError]
  all_goals rw [exec_ringDisable hon hv, ringCfgWrite_disables hsel h0 hd hb hen]
  · rintro rfl
    rfl
  · rintro rfl huse
    rw [if_neg (by simp [huse])]
    rfl
  · rintro rfl huse
    rw [if_pos ⟨rfl, huse⟩, cfgError]

end Sys2Proof.Machine
end

section
/-!
The statements about consuming descriptors, NOP, and the service of completion rings.
-/
namespace Sys2Proof.Machine
open Sys2Proof

/-! ### Consumption -/

theorem exec_descriptorRead {sq : Fin 4096} {data : Option Desc} {s : State} (hr : running s = true) (hw : hasWork sq.val s = true)
    (ht : servedNow sq.val s = true) : exec (.descriptorRead sq data) s = .next (readDescriptor sq.val data (takeTurn sq.val s)) := by
  change execDescriptorRead sq data s = _
  rw [execDescriptorRead, onlyIf, if_pos (by simp [hr, hw, ht])]

/-- Over PCI Express a descriptor that is read is consumed. -/
theorem readDescriptor_some {sq : Nat} {s : State} (hu : usbAttached s = false) (d : Desc) :
    readDescriptor sq (some d) s = consume sq none d s := by
  unfold readDescriptor
  rw [if_neg (by simp [hu])]

/-- Over PCI Express a descriptor that cannot be read stops the ring. -/
theorem readDescriptor_none {sq : Nat} {s : State} (hu : usbAttached s = false) : readDescriptor sq none s =
    stopRing sq 0x0004 (hostError Fld.hostErrStatusDescFetch 0x0002 Status.hostFault sq s) := by
  unfold readDescriptor
  rw [if_neg (by simp [hu])]

/-- A known opcode outside recovery is not refused. -/
theorem badOp_known {c : Consumed} {s : State} (hrec : s.upd.recovery = false) (hop : knownOps.contains (fld c.desc 0 8) = true) :
    badOp c s = none := by
  rw [badOp, if_neg (by simp [hrec]), if_pos hop]

theorem refuseUnknown_none {c : Consumed} {s : State} (h : badOp c s = none) : refuseUnknown c s = s := by
  simp [refuseUnknown, h]

/-- A descriptor of a known opcode stands behind the consumed ones, under the next consumption number. -/
theorem consume_known {sq : Nat} {d : Desc} {s : State} (hrec : s.upd.recovery = false) (hop : knownOps.contains (fld d 0 8) = true) :
    consume sq none d s = { s with host := { s.host with
      sqs := mapSet s.host.sqs sq { sqOf sq s with head := (sqOf sq s).head + 1 }
      consumed := s.host.consumed ++ [{ id := s.host.nextId, sq := sq, desc := d, msg := none, started := false, orphan := false }]
      nextId := s.host.nextId + 1 } } := by
  unfold consume
  exact refuseUnknown_none (badOp_known hrec hop)

/-- Settles O18: a descriptor that is read is consumed, and a failed read stops the ring (`consume_known`, `readDescriptor_none`). -/
theorem consumptionInRingOrder : Obligations.ConsumptionInRingOrder := by
  intro sq d s hr hu hrec hw ht turn
  have hu' : usbAttached (takeTurn sq.val s) = false := hu
  refine ⟨fun hop => ?_, fun _ => ht, ?_⟩
  · rw [exec_descriptorRead hr hw ht, readDescriptor_some hu', consume_known (s := takeTurn sq.val s) hrec hop]
    rfl
  · rw [exec_descriptorRead hr hw ht, readDescriptor_none hu']
    rfl

/-! ### NOP -/

/-- A message sent, or kept pending while its vector is masked: the outputs grow by at most one message. -/
theorem signalCq_tx (cq : Nat) (s : State) :
    ∃ msgs, (signalCq cq s).tx = s.tx ++ msgs ∧ (msgs = [] ∨ ∃ v, msgs = [Tx.msix v]) := by
  unfold signalCq
  split
  · exact ⟨[], by simp⟩
  · split
    · exact ⟨[], by simp⟩
    · unfold signalVector
      split
      · exact ⟨[], by simp⟩
      · exact ⟨_, rfl, .inr ⟨_, rfl⟩⟩

/-- A message leaves the head and the tail of every completion ring. -/
theorem signalCq_counts (cq i : Nat) (s : State) :
    (cqOf i (signalCq cq s)).tail = (cqOf i s).tail ∧ (cqOf i (signalCq cq s)).head = (cqOf i s).head := by
  have hset : ∀ q : CqRing, q.tail = (cqOf cq s).tail → q.head = (cqOf cq s).head →
      (cqOf i (setCq cq q s)).tail = (cqOf i s).tail ∧ (cqOf i (setCq cq q s)).head = (cqOf i s).head := by
    intro q ht hh
    by_cases hi : i = cq
    · subst hi
      rw [cqOf, setCq_host, mapGet_mapSet_same, Option.getD_some]
      exact ⟨ht, hh⟩
    · rw [cqOf, setCq_host, mapGet_mapSet_ne _ hi, ← cqOf]
      exact ⟨rfl, rfl⟩
  unfold signalCq
  split
  · exact ⟨rfl, rfl⟩
  · split
    · exact ⟨rfl, rfl⟩
    · unfold signalVector
      split <;> exact hset _ rfl rfl

/-- A message changes no register and no log entry. -/
theorem signalCq_regs (cq : Nat) (s : State) : (signalCq cq s).regs = s.regs ∧ (signalCq cq s).log = s.log := by
  unfold signalCq signalVector
  split
  · exact ⟨rfl, rfl⟩
  · split
    · exact ⟨rfl, rfl⟩
    · split <;> exact ⟨rfl, rfl⟩

/-- An entry posted over PCI Express: the entry at the slot of the old tail, the tail shadow, then any message (R54, R57). -/
theorem postNow_pcie (p : Posting) {s : State} (hu : usbAttached s = false) : ∃ msgs, (msgs = [] ∨ ∃ v, msgs = [Tx.msix v])
    ∧ (postNow p s).tx = s.tx ++ [
        .hostWrite (ringBase 1 p.cq s + (cqOf p.cq s).tail.toNat % ringDepth 1 p.cq s * 32)
          (encodeEntry p.entry (phaseAt p.cq (cqOf p.cq s).tail s) (entrySqHead p.entry s)),
        .hostWrite (ringBase 1 p.cq s + ringDepth 1 p.cq s * 32) (natLe 4 ((cqOf p.cq s).tail + 1).toNat)] ++ msgs
    ∧ (cqOf p.cq (postNow p s)).tail = (cqOf p.cq s).tail + 1 ∧ (cqOf p.cq (postNow p s)).head = (cqOf p.cq s).head
    ∧ (postNow p s).regs = s.regs ∧ (postNow p s).log = s.log := by
  unfold postNow
  extract_lets q bytes depth base usb q' t u coal
  have hu' : u = emit (.hostWrite (base + depth * 32) (natLe 4 (q.tail + 1).toNat))
      (emit (.hostWrite (base + q.tail.toNat % depth * 32) bytes) t) := if_neg (by simp [usb, hu])
  have hcq : cqOf p.cq u = q' := by
    rw [hu']
    change (mapGet (mapSet s.host.cqs p.cq q') p.cq).getD _ = _
    rw [mapGet_mapSet_same, Option.getD_some]
  have htx : u.tx = s.tx ++ [.hostWrite (base + q.tail.toNat % depth * 32) bytes,
      .hostWrite (base + depth * 32) (natLe 4 (q.tail + 1).toNat)] := by
    rw [hu']
    simp [t]
  have hregs : u.regs = s.regs ∧ u.log = s.log := by
    rw [hu']
    exact ⟨rfl, rfl⟩
  split
  · obtain ⟨msgs, hmsgs, hform⟩ := signalCq_tx p.cq u
    obtain ⟨htail, hhead⟩ := signalCq_counts p.cq p.cq u
    obtain ⟨hr, hl⟩ := signalCq_regs p.cq u
    exact ⟨msgs, hform, by rw [hmsgs, htx], by rw [htail, hcq], by rw [hhead, hcq], hr.trans hregs.1, hl.trans hregs.2⟩
  · exact ⟨[], .inl rfl, by rw [htx, List.append_nil], by rw [hcq], by rw [hcq], hregs⟩

/-- A completion that is not held back and whose ring has room completes. -/
theorem completeOrWait_now {c : Consumed} {f : Facts} {s : State} (hh : outputHeld c.desc s = false)
    (hr : roomAt (boundCq c.sq s) s = .post) : completeOrWait c f s = complete c f s := by
  have hroom : roomFor (boundCq c.sq s) s = true := by rw [roomFor, hr]; rfl
  rw [completeOrWait, if_pos (by rw [hh, hroom]; simp)]

/-- Settles O19: the NOP begins, completes and is posted (`complete_post`, `postNow_pcie`). -/
theorem nopCompletesAsDone : Obligations.NopCompletesAsDone := by
  intro id c s hacc hu hroom hops hheld h10 h11 horphan hsq q tail
  let u := markStarted id s
  let p : Posting := ⟨boundCq c.sq u, descEntry c (plainFacts Status.done 0 0) u, flag c.desc 8,
    returnedData c.desc (plainFacts Status.done 0 0), c.msg.map fun m => (m, if fld c.desc 126 2 = 2 then fld c.desc 128 32 else 0)⟩
  have hexec : exec (.nop id) s = .next (refuseFenced (done c 0 u)) := begin_of hacc _
  have hdone : done c 0 u = postNow p (dropConsumed c.id u) := by
    have hdisc : discarded c (plainFacts Status.done 0 0) = false := by simp [discarded, horphan]
    rw [done, completeOrWait_now (s := u) hheld hroom, complete_post c _ u hroom (by simp [h10]) horphan]
  have hfenced : refuseFenced (done c 0 u) = done c 0 u := refuseFenced_completeOrWait (markStarted_badOp hops)
  obtain ⟨msgs, hform, htx, htail, hhead, hregs, hlog⟩ := postNow_pcie p (s := dropConsumed c.id u) hu
  have hsame : SameButPosting (dropConsumed c.id u) (postNow p (dropConsumed c.id u)) := posting_postNow p (.refl _)
  have hsqn : (BitVec.ofNat 12 c.sq).toNat = c.sq := by
    rw [BitVec.toNat_ofNat]
    exact Nat.mod_eq_of_lt hsq
  have hsqHead : entrySqHead p.entry (dropConsumed c.id u) = (sqOf c.sq s).head := by
    change (sqOf (BitVec.ofNat 12 c.sq).toNat s).head = _
    rw [hsqn]
  rw [hexec, hfenced, hdone]
  refine ⟨_, msgs, rfl, host_postNow p (host_dropConsumed _ (host_markStarted _ (.refl s))), hregs, hlog, htail, hhead, ?_, ?_, hform, ?_⟩
  · rw [hsame]
    rfl
  · rw [hsame.consumed]
    rfl
  · rw [htx, hsqHead]
    rfl

/-! ### The service of completion rings -/

/-- Held entries of other rings stay held, in order. -/
theorem forEach_drainStep_others {cq : Nat} (l : List Posting) (h : ∀ p ∈ l, p.cq ≠ cq) (s : State) :
    forEach l (drainStep cq) s = setHold (s.host.hold ++ l) s := by
  induction l generalizing s with
  | nil => rw [forEach_nil, List.append_nil]; rfl
  | cons p l ih =>
    have hp : drainStep cq p s = setHold (s.host.hold ++ [p]) s := if_pos (h p (by simp))
    rw [forEach_cons, hp, ih fun x hx => h x (by simp [hx])]
    change setHold (s.host.hold ++ [p] ++ l) (setHold (s.host.hold ++ [p]) s) = _
    rw [List.append_assoc]
    rfl

theorem drainHold_others {cq : Nat} {s : State} (h : ∀ p ∈ s.host.hold, p.cq ≠ cq) : drainHold cq s = s := by
  rw [drainHold, forEach_drainStep_others _ h]
  rfl

/-- An entry that is the only one held is posted where its ring has room. -/
theorem drainHold_one {p : Posting} {s : State} (hh : s.host.hold = [p]) (ha : ringState 1 p.cq s = 1) (hf : cqFull p.cq s = false) :
    drainHold p.cq s = postNow p (setHold [] s) := by
  have hroom : roomAt p.cq (setHold [] s) = .post := by
    have h1 : ringState 1 p.cq (setHold [] s) = 1 := ha
    have h2 : cqFull p.cq (setHold [] s) = false := hf
    rw [roomAt, if_neg (by simp [h1]), if_pos (by simp [h2])]
  rw [drainHold, hh, forEach_cons, forEach_nil, drainStep, if_neg (by simp), hroom]

/-- Clearing the mask bit of a vector leaves it unmasked. -/
theorem flag_unmasked (e : BitVec 128) : flag (e &&& ~~~(1#128 <<< 96)) 96 = false := by
  have h : (e &&& ~~~(1#128 <<< 96)).toNat.testBit 96 = false := by
    rw [BitVec.testBit_toNat, BitVec.getLsbD_and]
    simp
  have : bitsAt (e &&& ~~~(1#128 <<< 96)).toNat 96 1 = 0 := by
    refine Nat.eq_of_testBit_eq fun k => ?_
    rw [testBit_bitsAt, Nat.zero_testBit]
    rcases Nat.eq_zero_or_pos k with rfl | hk
    · rw [Nat.add_zero, h, Bool.and_false]
    · simp [show ¬ k < 1 by omega]
  rw [flag, this]
  rfl

/-- Settles O21: each service is a guarded change; what it does where its guard holds is `drainHold_one`, `drainHold_others` and the
definitions of a stall, a message and a table entry. -/
theorem completionRingService : Obligations.CompletionRingService := by
  intro cq v s hr
  have hdrain : exec (.holdingQueueDrain cq) s = .next (drainDecided (drainHold cq.val s)) := by
    change execHoldingQueueDrain cq s = _
    rw [execHoldingQueueDrain, onlyIf, if_pos hr]
  refine ⟨fun p hh hp ha hf => ?_, fun h => ?_, fun h => ?_, fun h => ?_, fun h => ?_, fun hu => ⟨fun k h hk => ?_, fun h => ?_, fun h => ?_⟩⟩
  · rw [hdrain, ← hp, drainHold_one hh (hp ▸ ha) (hp ▸ hf), setHold]
  · rw [hdrain, drainHold_others h]
  · change execCqStall cq s = _
    rw [execCqStall, onlyIf, if_pos (by simp [hr, h]), stallCq]
  · exact next_onlyIf_not _ (by simp [h])
  · exact next_onlyIf_not _ (by simp [h])
  · change execCoalTime cq s = _
    rw [execCoalTime, onlyIf, if_pos (by simp [hr, h]), signalCq, hk]
    simp [hu]
  all_goals
    change execMsixUnmask v s = _
    rw [execMsixUnmask]
    simp only
    rw [onlyIf, if_pos (by simp [hr, hu]), msixEntryWrite]
    simp only [flag_unmasked, h]
  · rfl
  · rfl

end Sys2Proof.Machine
end

section
/-!
POWER_STATE and the tricks of a die.
-/
namespace Sys2Proof.Machine
open Sys2Proof

/-! ### POWER_STATE -/

/-- A command takes the attachment away, and completes before its transition (R370). -/
def takesAway (c : Consumed) (s : State) : Bool :=
  (changedBy (PS.mask c) (codeState (PS.target c)) s).contains (attachDomain s) && codeState (PS.target c) != .on
    && domOn (attachDomain s) s

/-- A command that passes its checks starts its transition, after it completes where it takes the attachment away (R369, R370). -/
theorem runPowerState_starts {c : Consumed} {s : State} (hch : changedBy (PS.mask c) (codeState (PS.target c)) s ≠ [])
    (hf : powerFault (PS.mask c) (codeState (PS.target c)) (PS.retMask c) s = none) : runPowerState c s =
      startTransition ⟨if takesAway c s then none else some c.id, false, PS.retMask c,
          (changedBy (PS.mask c) (codeState (PS.target c)) s).map fun d => (d, codeState (PS.target c)), [], [], 0, none⟩
        (if takesAway c s then
          setPower { s.power with closing := true } (done c (changedBy (PS.mask c) (codeState (PS.target c)) s).length s) else s) := by
  unfold runPowerState
  simp only
  rw [if_neg (by simpa using hch), hf]
  rfl

/-- A command that a check refuses. -/
theorem runPowerState_fault {c : Consumed} {s : State} {det aux : Nat} (hch : changedBy (PS.mask c) (codeState (PS.target c)) s ≠ [])
    (hf : powerFault (PS.mask c) (codeState (PS.target c)) (PS.retMask c) s = some (det, aux)) :
    runPowerState c s = refuseFormat c det aux s := by
  unfold runPowerState
  simp only
  rw [if_neg (by simpa using hch), hf]

/-- A POWER_STATE that need not wait is checked and run (R368). -/
theorem exec_powerState {id : Nat} {c : Consumed} {s : State} (hacc : Accepted id 0x30 c s) (hok : PS.ok c = true)
    (ht : s.power.trans = none) (he : earlierPower id s = false) (hr : getB Fld.pwrWakeStatusReplay 0 s = false)
    (hb : restartBlocks (PS.mask c) s = false) : exec (.powerState id) s = .next (settle (runPowerState c (markStarted id s))) := by
  obtain ⟨-, hid, -⟩ := canBegin_some hacc.1
  change execPowerState id s = _
  unfold execPowerState
  simp only [hid, Option.map_some, Option.getD_some, hok, ht, he, hr, hb, Option.isSome_none, Bool.or_false, Bool.and_false,
    Bool.false_eq_true, if_false]
  rw [beginSettled_of (op := Op.powerState) hacc, if_pos hok]

/-- Settles O31: the command waits, or is the branch of `runPowerState` that its checks choose. -/
theorem powerStateRuns : Obligations.PowerStateRuns := by
  intro id c s hacc hok u x ch early tr
  refine ⟨fun ht => ?_, fun ht he hr hb => ?_⟩
  · obtain ⟨-, hid, -⟩ := canBegin_some hacc.1
    change execPowerState id s = _
    unfold execPowerState
    simp [hid, hok, ht]
  · have hexec := exec_powerState hacc hok ht he hr hb
    refine ⟨fun hch => ?_, fun det aux hch hf => ⟨?_, ?_⟩, fun hch hf => ⟨fun hearly => ?_, fun hearly => ?_⟩⟩
    · rw [hexec, runPowerState]
      simp only
      rw [if_pos (by simpa using hch)]
    · rw [hexec, runPowerState_fault hch hf]
    · exact (host_refuseFormat c det aux (host_markStarted id (.refl s))).domains
    all_goals
      rw [hexec, runPowerState_starts hch hf]
    · rw [show takesAway c (markStarted id s) = false from hearly]
      rfl
    · rw [show takesAway c (markStarted id s) = true from hearly]
      rfl

/-! ### Tricks -/

/-- A die that is written over holds what was written. -/
theorem dieOf_adjDie {d : Nat} {f : Die → Die} {s : State} (h : d < s.dies.length) : dieOf d (adjDie d f s) = f (dieOf d s) := by
  simp [dieOf, adjDie, h]

/-- A die that runs no trick after a change that ends its trick, whether or not there is a die of that number. -/
theorem running_adjDie {d : Nat} {f : Die → Die} {s : State} (hf : ∀ x, (f x).running = none) :
    (dieOf d (adjDie d f s)).running = none := by
  rcases Nat.lt_or_ge d s.dies.length with h | h
  · exact dieOf_adjDie (f := f) h ▸ hf _
  · simp [dieOf, adjDie, h]
    rfl

/-- The state that a trick finds once the banks, the scratch and the line buffers are open to it (R83, R135, R196). -/
def trickOpened (d st : Nat) (kind : TrickKind) (s : State) : State :=
  let y := dieOf d s
  let s := if y.lastStream.isSome && !(y.lastStream == some st && y.lastDummy == (kind == .dummy)) then
    invalidateHalves d (freeScratch d s) else s
  if kind == .swap then s
  else adjDie d (fun y => { y with draw := s.freeCtr }) { zeroBanks d [0, 1] s with freeCtr := s.freeCtr + 1 }

/-- A trick that begins on a die. -/
theorem beginTrick_eq (d st : Nat) (kind : TrickKind) (s : State) : ∃ f : Die → Die,
    beginTrick d st kind s = adjDie d f (trickOpened d st kind s) ∧ ∀ x, (f x).running = some (st, kind) ∧ (f x).cycles = 0 := by
  unfold beginTrick
  extract_lets y dummy other s1 s2 cls flex more walk
  exact ⟨_, rfl, fun _ => ⟨rfl, rfl⟩⟩

theorem trickOpened_length (d st : Nat) (kind : TrickKind) (s : State) : (trickOpened d st kind s).dies.length = s.dies.length := by
  unfold trickOpened
  dsimp only
  split <;> split <;> simp [adjDie, zeroBanks, invalidateHalves, freeScratch]

/-- What a trick of a chunk or a frame keeps of the banks: the rows outside working banks 0 and 1 (R83). -/
theorem beginTrick_banks (d st : Nat) {kind : TrickKind} (hk : kind ≠ .swap) (s : State) :
    (beginTrick d st kind s).acc = s.acc.filter (fun p => !(keyIn d [0, 1] p.1))
    ∧ (beginTrick d st kind s).accSat = s.accSat.filter (fun r => !(keyIn d [0, 1] (r * 16))) := by
  have hopened : (trickOpened d st kind s).acc = s.acc.filter (fun p => !(keyIn d [0, 1] p.1))
      ∧ (trickOpened d st kind s).accSat = s.accSat.filter (fun r => !(keyIn d [0, 1] (r * 16))) := by
    unfold trickOpened
    dsimp only
    rw [if_neg (by simpa using hk)]
    split <;> exact ⟨rfl, rfl⟩
  exact hopened

/-- The die runs the trick that begins, at cycle 0. -/
theorem beginTrick_die {d st : Nat} (kind : TrickKind) {s : State} (h : d < s.dies.length) :
    (dieOf d (beginTrick d st kind s)).running = some (st, kind) ∧ (dieOf d (beginTrick d st kind s)).cycles = 0 := by
  obtain ⟨f, hf, hx⟩ := beginTrick_eq d st kind s
  rw [hf, dieOf_adjDie (by rwa [trickOpened_length])]
  exact hx _

/-! ### Squashed epochs raise no cause -/

theorem forEach_causes {α : Type} {l : List α} {f : α → State → State} {s : State} (h : ∀ x s, (f x s).causes = s.causes) :
    (forEach l f s).causes = s.causes :=
  forEach_mem (P := fun t => t.causes = s.causes) rfl fun x _ t ht => (h x t).trans ht

@[simp] theorem adjRun_causes (st d : Nat) (dummy : Bool) (f : Ctx → Ctx) (s : State) : (adjRun st d dummy f s).causes = s.causes := by
  unfold adjRun
  split <;> rfl

theorem giveBack_causes (d : Nat) (e : Epoch) (s : State) : (giveBack d e s).causes = s.causes := forEach_causes fun _ _ => rfl

theorem undoPrefetch_causes (d : Nat) (e : Epoch) (s : State) : (undoPrefetch d e s).causes = s.causes := adjRun_causes _ _ _ _ _

theorem undoCheap_causes (d : Nat) (e : Epoch) (s : State) : (undoCheap d e s).causes = s.causes := by
  unfold undoCheap
  simp only [adjRun_causes]
  split <;> rfl

theorem walkerSquash_causes (d : Nat) (s : State) : (walkerSquash d s).causes = s.causes := by
  unfold walkerSquash
  split <;> rfl

theorem undoSkip_causes (d : Nat) (e : Epoch) (s : State) : (undoSkip d e s).causes = s.causes := by
  unfold undoSkip
  simp only [walkerSquash_causes, adjRun_causes]
  split <;> rfl

theorem squashEpoch_causes (d kind : Nat) (s : State) : (squashEpoch d kind s).causes = s.causes := by
  unfold squashEpoch
  split
  · rfl
  · have hback (e : Epoch) (l : List Epoch) (t : State) :
        (forEach l (giveBack d) (giveBack d e (incF (squashField kind) d t))).causes = t.causes :=
      (forEach_causes (giveBack_causes d)).trans (giveBack_causes d e _)
    dsimp only
    split
    · exact (undoPrefetch_causes _ _ _).trans (hback _ _ _)
    · split
      · exact (undoSkip_causes _ _ _).trans (hback _ _ _)
      · exact (undoCheap_causes _ _ _).trans (hback _ _ _)

theorem squashAll_causes (d : Nat) (s : State) : (squashAll d s).causes = s.causes := by
  have hone (e : Epoch) (s : State) : (if e.kind = 2 then countReplay e.stream
        (postEvent 3 0x0006 Status.done (d + e.stream * 256 + epochTag e * 65536) (incF Fld.fabEpochCountBoundarySquash d (squashEpoch d e.kind s)))
      else postEvent 3 0x0006 Status.done (d + e.stream * 256 + epochTag e * 65536)
        (incF Fld.fabEpochCountBoundarySquash d (squashEpoch d e.kind s))).causes = s.causes := by
    split <;> exact (postEvent_causes _ _ _ _ _).trans (squashEpoch_causes _ _ _)
  unfold squashAll
  dsimp only
  split
  · exact (adjRun_causes _ _ _ _ _).trans (forEach_causes hone)
  · exact forEach_causes hone

theorem endTrick_causes (st d : Nat) (dummy : Bool) (s : State) : (endTrick st d dummy s).causes = s.causes :=
  (adjRun_causes _ _ _ _ _).trans (squashAll_causes d s)

theorem adjRun_dies (st d : Nat) (dummy : Bool) (f : Ctx → Ctx) (s : State) : (adjRun st d dummy f s).dies = s.dies := by
  unfold adjRun
  split <;> rfl

/-- A trick that is ended runs no more. -/
theorem running_endTrick (st d : Nat) (dummy : Bool) (s : State) : (dieOf d (endTrick st d dummy s)).running = none := by
  unfold endTrick
  rw [dieOf_of_dies (adjRun_dies _ _ _ _ _)]
  exact running_adjDie fun _ => rfl

/-- Settles O35: a trick begins with open banks (`beginTrick_banks`), runs words, and ends at an overrun (`running_endTrick`). -/
theorem tricksRunWordsOnOpenBanks : Obligations.TricksRunWordsOnOpenBanks := by
  intro die st kind err s hlen d t
  have hd : d < s.dies.length := hlen ▸ die.isLt
  refine ⟨fun hk => ?_, fun hr => ⟨fun dummy hrun => ?_, fun hrun => ?_, fun x hdie hk hx => ?_⟩⟩
  · obtain ⟨hacc, hsat⟩ := beginTrick_banks d st hk s
    obtain ⟨hrunning, hcycles⟩ := beginTrick_die (st := st) kind hd
    refine ⟨hrunning, hcycles, fun p hp => ?_, fun k hp => ?_, fun p => ?_⟩
    · have hm : p ∈ s.acc.filter (fun p => !(keyIn d [0, 1] p.1)) := hacc ▸ hp
      simpa using (List.mem_filter.mp hm).2
    · have hm : k ∈ s.accSat.filter (fun r => !(keyIn d [0, 1] (r * 16))) := hsat ▸ hp
      simpa using (List.mem_filter.mp hm).2
    · simp [t, hacc]
  · refine ⟨showSeq st d dummy (runWord st d dummy err s), ?_, rfl, ?_⟩
    · rw [show exec (.sequenceWord die err) s = .next (settle (seqStep d err s)) from settled_of _ hr, seqStep, hrun]
    · unfold showSeq
      exact getF_setF_same _ _ _ _ (getR_lt _ _ _ (by decide)) (by decide)
  · rw [show exec (.sequenceWord die err) s = .next (settle (seqStep d err s)) from settled_of _ hr, seqStep, hrun]
  · have hover : trickOverrun d s = raiseCause x.job 4 (postEvent 2 0x0002 Status.done (d + st * 256)
        (incF Fld.dlrStatsOverrun 0 (endTrick st d (kind == .dummy) (adjDie d (fun y => { y with cycles := 32768 }) s)))) := by
      unfold trickOverrun
      rw [hdie]
      cases kind with
      | swap => exact absurd rfl hk
      | chunk => simp only [hx]
      | dummy => simp only [hx]
    refine ⟨_, (settled_of _ hr).trans (by rw [hover]), ?_, ?_, rfl⟩
    · exact (congrArg Die.running (dieOf_of_dies (postEvent_dies _ _ _ _ _) d)).trans (running_endTrick _ _ _ _)
    · simp [incF, addF, endTrick_causes, adjDie]

end Sys2Proof.Machine
end

section
/-!
The time base of Table TIM-2: what a measured Sync, its absence and an ACCEPT do.
-/
namespace Sys2Proof.Machine
open Sys2Proof

/-! ### Fields that a write of another field keeps -/

/-- Two fields lie in different registers, or apart in one. -/
def fieldsApart (f : Field) (i : Nat) (g : Field) (j : Nat) : Bool :=
  if keyOf f.reg i = keyOf g.reg j then
    decide (f.reg = g.reg) && decide (i = j) && decide (g.lo + g.len ≤ 64) && (decide (f.lo + f.len ≤ g.lo) || decide (g.lo + g.len ≤ f.lo))
  else true

/-- A field keeps its value where another one is written. -/
theorem getF_setF_apart {f g : Field} {i j : Nat} (h : fieldsApart f i g j = true) (v : Nat) (s : State) :
    getF f i (setF g j v s) = getF f i s := by
  unfold fieldsApart at h
  split at h
  · simp only [Bool.and_eq_true, Bool.or_eq_true, decide_eq_true_eq] at h
    obtain ⟨⟨⟨hreg, rfl⟩, hlen⟩, hapart⟩ := h
    unfold getF setF
    rw [hreg, getR_setR_same, Nat.mod_eq_of_lt (putBits_lt _ _ _ _ _ (getR_lt _ _ _ (coldVal_lt _)) hlen), bitsAt_putBits_ne _ _ _ _ _ _ hapart]
  · next hkey =>
    unfold getF setF
    exact congrArg (fun x => bitsAt x f.lo f.len) (getR_setR_ne s hkey _)

/-- A flag keeps its value where another field is written. -/
theorem getB_setF_apart {f g : Field} {i j : Nat} (h : fieldsApart f i g j = true) (v : Nat) (s : State) :
    getB f i (setF g j v s) = getB f i s := by
  unfold getB
  rw [getF_setF_apart h]

/-- A field that is written reads what was written. -/
theorem getF_setF_own {f : Field} (hf : f.lo + f.len ≤ 64) (i v : Nat) (s : State) : getF f i (setF f i v s) = v % 2 ^ f.len :=
  getF_setF_same f i v s (getR_lt _ _ _ (coldVal_lt _)) hf

/-! ### What a step of the time base keeps -/

/-- The time, the domains and the state of the synchronisation are as they were. -/
def SyncKept (s t : State) : Prop := t.timeN = s.timeN ∧ t.domains = s.domains ∧ syncState t = syncState s

theorem SyncKept.refl (s : State) : SyncKept s s := ⟨rfl, rfl, rfl⟩

theorem SyncKept.trans {s t u : State} (h : SyncKept s t) (k : SyncKept t u) : SyncKept s u :=
  ⟨k.1.trans h.1, k.2.1.trans h.2.1, k.2.2.trans h.2.2⟩

theorem quietKey_timeStatus : quietKey (keyOf .timeStatus 0) := by
  unfold quietKey
  decide

theorem syncState_timeEvent (d a : Nat) (s : State) : syncState (timeEvent d a s) = syncState s := by
  unfold timeEvent syncState
  exact getF_postEvent (f := Fld.timeStatusState) quietKey_timeStatus _ _ _ _ _

theorem refused_timeEvent (d a : Nat) (s : State) : getB Fld.timeStatusRefused 0 (timeEvent d a s) = getB Fld.timeStatusRefused 0 s := by
  unfold timeEvent
  exact getB_postEvent (f := Fld.timeStatusRefused) quietKey_timeStatus _ _ _ _ _

theorem sync_timeEvent (d a : Nat) (s : State) : SyncKept s (timeEvent d a s) :=
  ⟨postEvent_timeN _ _ _ _ _, postEvent_domains _ _ _ _ _, syncState_timeEvent d a s⟩

theorem sync_stepCount (v : Nat) (s : State) : SyncKept s (setF Fld.timeStatusStepCount 0 v s) :=
  ⟨rfl, rfl, getF_setF_apart (by decide) v s⟩

theorem sync_firePins (g : Nat) (s : State) : SyncKept s (firePins g s) :=
  forEach_mem (P := SyncKept s) (.refl s) fun _ _ _ h => h

theorem sync_stepGen (new g : Nat) (s : State) : SyncKept s (stepGen new g s).1 := by
  unfold stepGen
  extract_lets n per first lastT t u
  split
  · exact .refl s
  · have h : SyncKept s u := sync_firePins g t
    change SyncKept s (if 1 < n then _ else u)
    split
    · exact h.trans (sync_timeEvent _ _ _)
    · exact h

/-- The state of a step, before the generators that it passes fire. -/
def timeStepped (o : Int) (s : State) : State :=
  timeEvent 0x0002 (sat32 o) (setF Fld.timeStatusStepCount 0 (getF Fld.timeStatusStepCount 0 s + 1)
    { s with timeN := ((s.timeN : Int) + o).toNat, timeFrac := 0 })

/-- What the step of the count and each generator's firings keep, a step of the time base keeps. -/
theorem stepTime_of {P : State → Prop} {o : Int} {s : State} (h0 : o = 0 → P s) (h1 : P (timeStepped o s))
    (hg : ∀ new g t, P t → P (stepGen new g t).1) : P (stepTime o s).1 := by
  have hfold (new : Nat) (l : List Nat) (acc : State × List Nat) (hacc : P acc.1) : P (l.foldl (fun (acc : State × List Nat) g =>
      ((stepGen new g acc.1).1, if (stepGen new g acc.1).2 then acc.2 ++ [g] else acc.2)) acc).1 := by
    induction l generalizing acc with
    | nil => exact hacc
    | cons g l ih => exact ih _ (hg new g acc.1 hacc)
  unfold stepTime
  split
  · next ho => exact h0 ho
  · extract_lets new back t u
    split
    · exact h1
    · exact hfold new (List.range 64) (u, []) h1

/-- A step moves the time base by its length, and keeps the state of the synchronisation. -/
theorem stepTime_kept {o : Int} {s : State} (h : (0 : Int) ≤ (s.timeN : Int) + o) :
    ((stepTime o s).1.timeN : Int) = s.timeN + o ∧ (stepTime o s).1.domains = s.domains ∧ syncState (stepTime o s).1 = syncState s := by
  have hkept : SyncKept { s with timeN := ((s.timeN : Int) + o).toNat, timeFrac := 0 } (stepTime o s).1 :=
    stepTime_of (fun ho => ⟨by simp [ho], rfl, rfl⟩) ((sync_stepCount _ _).trans (sync_timeEvent _ _ _))
      fun new g t ht => ht.trans (sync_stepGen new g t)
  obtain ⟨htime, hdom, hstate⟩ := hkept
  exact ⟨by rw [htime]; exact Int.toNat_of_nonneg h, hdom, hstate⟩

/-- A time base that locks steps by the offset (R244). -/
theorem lockStep_kept {o : Int} {s : State} (h : (0 : Int) ≤ (s.timeN : Int) + o) :
    ((lockStep o s).1.timeN : Int) = s.timeN + o ∧ (lockStep o s).1.domains = s.domains ∧ syncState (lockStep o s).1 = 1 := by
  obtain ⟨htime, hdom, hstate⟩ := stepTime_kept (o := o) (s := setTime { s.time with wide := 0 } (setF Fld.timeStatusState 0 1 s)) h
  exact ⟨htime, hdom, hstate.trans (getF_setF_own (by decide) 0 1 s)⟩

/-- A refused step leaves the time base in HOLDOVER, with REFUSED set (R245). -/
theorem refuseStep_kept {o : Int} {s : State} (h : syncState s = 1 ∨ syncState s = 2) :
    (refuseStep o s).timeN = s.timeN ∧ syncState (refuseStep o s) = 2 ∧ getB Fld.timeStatusRefused 0 (refuseStep o s) = true := by
  unfold refuseStep
  extract_lets t
  have ht : t.timeN = s.timeN ∧ syncState t = 2 := by
    unfold t
    split
    · exact ⟨postEvent_timeN _ _ _ _ _, (syncState_timeEvent _ _ _).trans (getF_setF_own (by decide) 0 2 s)⟩
    · next hne => exact ⟨rfl, h.resolve_left hne⟩
  split
  · next hset => exact ⟨ht.1, ht.2, hset⟩
  · refine ⟨(postEvent_timeN _ _ _ _ _).trans ht.1, ?_, ?_⟩
    · exact (syncState_timeEvent _ _ _).trans ((getF_setF_apart (by decide) _ _).trans ht.2)
    · refine (refused_timeEvent _ _ _).trans ?_
      unfold getB setB
      rw [getF_setF_own (by decide)]
      rfl

/-! ### The offset stays noted -/

theorem forEach_time {α : Type} {P : TimeUnit → Prop} {l : List α} {f : α → State → State} {s : State} (h : P s.time)
    (k : ∀ x s, P s.time → P (f x s).time) : P (forEach l f s).time :=
  forEach_mem (P := fun t => P t.time) h fun x _ t ht => k x t ht

theorem offset_firePins (g : Nat) (s : State) : (firePins g s).time.offset = s.time.offset :=
  forEach_time (P := fun x => x.offset = s.time.offset) rfl fun _ _ h => h

theorem offset_stepGen (new g : Nat) (s : State) : (stepGen new g s).1.time.offset = s.time.offset := by
  unfold stepGen
  extract_lets n per first lastT t u
  split
  · rfl
  · have h : u.time.offset = s.time.offset := offset_firePins g t
    change (if 1 < n then _ else u).time.offset = _
    split
    · exact (congrArg TimeUnit.offset (postEvent_time _ _ _ _ u)).trans h
    · exact h

theorem offset_stepTime (o : Int) (s : State) : (stepTime o s).1.time.offset = s.time.offset :=
  stepTime_of (P := fun t => t.time.offset = s.time.offset) (fun _ => rfl) (congrArg TimeUnit.offset (postEvent_time _ _ _ _ _))
    fun new g t ht => (offset_stepGen new g t).trans ht

theorem offset_lockStep (o : Int) (s : State) : (lockStep o s).1.time.offset = s.time.offset := offset_stepTime o _

theorem time_timeEvent (d a : Nat) (s : State) : (timeEvent d a s).time = s.time := postEvent_time _ _ _ _ _

theorem time_refuseStep (o : Int) (s : State) : (refuseStep o s).time = s.time := by
  unfold refuseStep
  extract_lets t
  have ht : t.time = s.time := by
    unfold t
    split
    · exact time_timeEvent _ _ _
    · rfl
  split
  · exact ht
  · exact (time_timeEvent _ _ _).trans ht

/-! ### The measurement -/

/-- The state in which a Sync's offset is noted. -/
def syncNoted (m : Sync) (s : State) : State := setF Fld.timeStatusOffset 0 (sat32 m.offset) (setTime { s.time with offset := m.offset } s)

theorem syncState_noted (m : Sync) (s : State) : syncState (syncNoted m s) = syncState s := getF_setF_apart (by decide) _ _

theorem withinJump_noted (m : Sync) (o : Int) (s : State) : withinJump o (syncNoted m s) = withinJump o s := by
  unfold withinJump jumpNs syncNoted
  rw [getF_setF_apart (by decide)]
  rfl

/-- The step by an offset, or its refusal beyond TIME_JUMP. -/
def stepOrRefuse (o : Int) (s : State) : State × List Nat := if withinJump o s then lockStep o s else (refuseStep o s, [])

theorem offset_stepOrRefuse (o : Int) (s : State) : (stepOrRefuse o s).1.time.offset = s.time.offset := by
  unfold stepOrRefuse
  split
  · exact offset_lockStep o s
  · exact congrArg TimeUnit.offset (time_refuseStep o s)

theorem syncMeasured_free {m : Sync} {s : State} (h : syncState s = 0) : syncMeasured m s = lockStep m.offset (syncNoted m s) := by
  have h' := (syncState_noted m s).trans h
  unfold syncNoted at h'
  unfold syncMeasured
  simp only [h']
  rfl

theorem syncMeasured_holdover {m : Sync} {s : State} (h : syncState s = 2) : syncMeasured m s = stepOrRefuse m.offset (syncNoted m s) := by
  have h' := (syncState_noted m s).trans h
  unfold syncNoted at h'
  unfold syncMeasured
  simp only [h']
  rfl

/-- The count of wide offsets in a row. -/
def wideCount (m : Sync) (s : State) : Nat := if 200 < m.offset.natAbs then s.time.wide + 1 else 0

/-- The state in which a LOCKED time base has counted a wide offset. -/
def syncCounted (m : Sync) (s : State) : State := setTime { (syncNoted m s).time with wide := wideCount m s } (syncNoted m s)

theorem syncMeasured_locked {m : Sync} {s : State} (h : syncState s = 1) : syncMeasured m s =
    if 3 ≤ wideCount m s || m.newMaster then stepOrRefuse m.offset (syncCounted m s) else (servo (syncCounted m s), []) := by
  have h' := (syncState_noted m s).trans h
  unfold syncNoted at h'
  unfold syncMeasured
  simp only [h']
  rfl

/-- Whatever its state, the time base is measured against the offset noted. -/
theorem offset_syncMeasured (m : Sync) (s : State) : (syncMeasured m s).1.time.offset = m.offset := by
  unfold syncMeasured
  extract_lets x t n y u
  split
  · exact offset_lockStep m.offset t
  · split
    · exact offset_stepOrRefuse m.offset u
    · rfl
  · exact offset_stepOrRefuse m.offset t

/-- A step within TIME_JUMP moves the time base, beyond it HOLDOVER is entered. -/
theorem stepOrRefuse_kept {o : Int} {s : State} (h : (0 : Int) ≤ (s.timeN : Int) + o) (hs : syncState s = 1 ∨ syncState s = 2) :
    (withinJump o s = true → syncState (stepOrRefuse o s).1 = 1 ∧ ((stepOrRefuse o s).1.timeN : Int) = s.timeN + o)
    ∧ (withinJump o s = false → syncState (stepOrRefuse o s).1 = 2 ∧ (stepOrRefuse o s).1.timeN = s.timeN
        ∧ getB Fld.timeStatusRefused 0 (stepOrRefuse o s).1 = true) := by
  unfold stepOrRefuse
  constructor
  · intro hj
    rw [if_pos hj]
    exact ⟨(lockStep_kept h).2.2, (lockStep_kept h).1⟩
  · intro hj
    rw [if_neg (by simp [hj])]
    obtain ⟨htime, hstate, hrefused⟩ := refuseStep_kept (o := o) hs
    exact ⟨hstate, htime, hrefused⟩

/-- Settles O42: the measurement steps, refuses or follows by the state of Table TIM-2 (`stepOrRefuse_kept`). -/
theorem timeBaseStates : Obligations.TimeBaseStates := by
  intro m s hr
  constructor
  · intro hruns hpos r t steps refuses asks
    refine ⟨settled_of _ (by simp [hr, hruns]), offset_syncMeasured m s, fun h => ?_, fun h => ?_, fun h => ⟨fun hm ho => ?_, fun hasks => ?_⟩⟩
    · have hlock := lockStep_kept (o := m.offset) (s := syncNoted m s) hpos
      rw [← syncMeasured_free h] at hlock
      exact ⟨hlock.2.2, hlock.1⟩
    · have hkept := stepOrRefuse_kept (s := syncNoted m s) hpos (.inr ((syncState_noted m s).trans h))
      rw [withinJump_noted, ← syncMeasured_holdover h] at hkept
      exact hkept
    · have hmeasured : syncMeasured m s = (servo (syncCounted m s), []) := by
        rw [syncMeasured_locked h, if_neg (by simp [hm, wideCount, Nat.not_lt.mpr ho])]
      exact ⟨(congrArg (fun r : State × List Nat => syncState r.1) hmeasured).trans ((syncState_noted m s).trans h),
        congrArg (fun r : State × List Nat => r.1.timeN) hmeasured⟩
    · have hmeasured : syncMeasured m s = stepOrRefuse m.offset (syncCounted m s) := by
        rw [syncMeasured_locked h, if_pos]
        rcases hasks with hm | ⟨hw, ho⟩
        · simp [hm]
        · simp [wideCount, ho, hw]
      have hkept := stepOrRefuse_kept (o := m.offset) (s := syncCounted m s) hpos (.inl ((syncState_noted m s).trans h))
      rw [← hmeasured, show withinJump m.offset (syncCounted m s) = withinJump m.offset s from withinJump_noted m m.offset s] at hkept
      exact hkept
  · intro ht
    refine ⟨fun h => ?_, fun h => ?_, fun h => ?_, ?_⟩
    · change execSyncTimeout s = _
      rw [execSyncTimeout, onlyIf, if_pos (by simp [hr, ht, h]), enterHoldover, timeEvent]
    · exact next_onlyIf_not _ (by simp [h])
    · rw [show exec .timeAccept s = .next (settle (afterStep s.timeN (acceptStep s))) from settled_of _ (by simp [hr, ht]),
        acceptStep, if_pos (by simp [h]), afterStep, if_pos rfl, forEach_nil]
    · intro href h hmgmt hpos r
      have hlock := lockStep_kept (o := s.time.offset) (s := s) hpos
      have haccept : acceptStep s = lockStep s.time.offset s := by
        unfold acceptStep
        rw [if_neg (by simp [href, h])]
        have hon : domOn Dom.mgmt (lockStep s.time.offset s).1 = true := by
          unfold domOn domState
          rw [hlock.2.1]
          exact hmgmt
        simp only [hon, if_true]
      refine ⟨settled_of _ (by simp [hr, ht]), ?_, ?_⟩
      · rw [show r = lockStep s.time.offset s from haccept]; exact hlock.2.2
      · rw [show r = lockStep s.time.offset s from haccept]; exact hlock.1

end Sys2Proof.Machine
end

section
/-!
SEC's owner commands and debug sessions.
-/
namespace Sys2Proof.Machine
open Sys2Proof

/-! ### Results and outcomes -/

/-- RESULT of a command that ended. -/
theorem result_endCmd (r : Nat) (s : State) : getF Fld.secCmdResult 0 (endCmd r s) = r % 256 :=
  getF_setF_same _ _ _ _ (getR_lt _ _ _ (by decide)) (by decide)

theorem sec_endCmd (r : Nat) (s : State) : (endCmd r s).sec = { s.sec with cmd := none } := rfl

theorem secEvent_sec (d a : Nat) (s : State) : (secEvent d a s).sec = s.sec := postEvent_sec _ _ _ _ _

/-- With every condition met a command has its effect and ends as OK. -/
theorem outcome_good {state format auth : Bool} {effect : State → State} {s : State} (hs : state = true) (hf : format = true)
    (ha : auth = true) (hfuse : Config.fuseOk s.freeCtr = true) :
    outcome state format auth effect s = endCmd Res.ok (effect { s with freeCtr := s.freeCtr + 1 }) := by
  simp [outcome, fusesProgram, hs, hf, ha, hfuse]

/-- Otherwise it ends with another result, and changes no fuse. -/
theorem outcome_bad {state format auth : Bool} {effect : State → State} {s : State}
    (h : (state && format && auth && Config.fuseOk s.freeCtr) = false) :
    ∃ r u, outcome state format auth effect s = endCmd r u ∧ r % 256 ≠ 0 ∧ u.sec = s.sec := by
  cases hs : state with
  | false => exact ⟨Res.state, s, by simp [outcome], by decide, rfl⟩
  | true =>
    cases hf : format with
    | false => exact ⟨Res.format, s, by simp [outcome], by decide, rfl⟩
    | true =>
      cases ha : auth with
      | false => exact ⟨Res.auth, s, by simp [outcome], by decide, rfl⟩
      | true =>
        have hfuse : Config.fuseOk s.freeCtr = false := by simpa [hs, hf, ha] using h
        exact ⟨Res.fuse, { s with freeCtr := s.freeCtr + 1 }, by simp [outcome, fusesProgram, hfuse], by decide, rfl⟩

/-- A command in the wrong state ends with STATE, and changes nothing else. -/
theorem outcome_state {format auth : Bool} {effect : State → State} {s : State} : outcome false format auth effect s = endCmd Res.state s := rfl

/-- The owner's fuses are as before, and RESULT is not OK. -/
def OwnerKept (s t : State) : Prop :=
  t.sec.lifecycle = s.sec.lifecycle ∧ t.sec.ownerHash = s.sec.ownerHash ∧ t.sec.ownerRevoke = s.sec.ownerRevoke
    ∧ t.sec.ownerCfg = s.sec.ownerCfg ∧ getF Fld.secCmdResult 0 t ≠ 0

theorem ownerKept_bad {state format auth : Bool} {effect : State → State} {s : State}
    (h : (state && format && auth && Config.fuseOk s.freeCtr) = false) :
    OwnerKept s (outcome state format auth effect s) ∧ (outcome state format auth effect s).sec.cmd = none := by
  obtain ⟨r, u, hout, hr, hsec⟩ := outcome_bad (effect := effect) h
  rw [hout, OwnerKept, result_endCmd, sec_endCmd, hsec]
  exact ⟨⟨rfl, rfl, rfl, rfl, hr⟩, rfl⟩

/-- A command whose effect is met where its conditions are, and keeps the fuses otherwise. -/
theorem owner_command {i : Instr} {f : State → State} {s : State} {good state format auth : Bool} {effect : State → State}
    {P : State → Prop} (hexec : exec i s = .next (settle (f s))) (hf : f s = outcome state format auth effect s)
    (hgood : good = (state && format && auth && Config.fuseOk s.freeCtr))
    (hP : P (endCmd Res.ok (effect { s with freeCtr := s.freeCtr + 1 }))) :
    ∃ t, exec i s = .next (settle t) ∧ t.sec.cmd = none ∧ (good = true → P t) ∧ (good = false → OwnerKept s t) := by
  refine ⟨f s, hexec, ?_⟩
  cases hg : good with
  | false =>
    obtain ⟨hkept, hcmd⟩ := ownerKept_bad (effect := effect) (hgood ▸ hg)
    rw [hf]
    exact ⟨hcmd, by simp, fun _ => hkept⟩
  | true =>
    have h := hgood ▸ hg
    simp only [Bool.and_eq_true] at h
    obtain ⟨⟨⟨hs, hform⟩, ha⟩, hfuse⟩ := h
    rw [hf, outcome_good hs hform ha hfuse]
    exact ⟨rfl, fun _ => hP, by simp⟩

/-! ### RETURN and its reset -/

theorem logSessionEnd_sec (s : State) : (logSessionEnd s).sec = s.sec := by
  unfold logSessionEnd
  split <;> rfl

theorem lowPins_sec (s : State) : (lowPins s).sec = s.sec := by
  unfold lowPins
  dsimp only
  split <;> split <;> rfl

/-- A MODULE reset keeps the fuses and ends the running command. -/
theorem moduleReset_sec (last : Nat) (s : State) : ∃ u : State, (moduleReset last s).sec = keptFuses u ∧ u.sec = s.sec := by
  refine ⟨lowPins (endPulses (fun _ => true) (logSessionEnd s)), rfl, ?_⟩
  rw [lowPins_sec, (endPulses_kept _ _).1]
  exact logSessionEnd_sec s

theorem returnEffect_lifecycle (s : State) : (returnEffect s).sec.lifecycle = 3 :=
  congrArg SecUnit.lifecycle (secEvent_sec _ _ _)

/-- Settles O55: each owner command is an outcome (`owner_command`); RETURN resets the module where it is OK. -/
theorem ownerCommands : Obligations.OwnerCommands := by
  intro sel s hr hd ends pinned slot fuse pub secret c claimGood addGood one revokeGood setGood returnGood kept result ok
  have hruns (code : Nat) (h : s.sec.cmd = some code) : runs code s = true := by simp [runs, hr, hd, h]
  refine ⟨fun h => ?_, fun h => ⟨?_, fun hl => ?_⟩, fun h => ⟨?_, fun hl => ?_⟩, fun h => ⟨?_, fun hl => ?_⟩,
    fun h => ⟨?_, fun hl => ?_⟩, fun h => ⟨?_, fun hl => ?_⟩⟩
  · rw [show exec .getIdentity s = .next (settle (getIdentity s)) from settled_of _ (hruns _ h), getIdentity, respond, endCmd]
    rfl
  · refine owner_command (f := claim) (settled_of _ (hruns _ h)) (by unfold claim; rfl) ?_ ?_
    · simp only [claimGood, fuse, c, pub, secret, Bool.and_assoc]
    · refine ⟨result_endCmd 0 _, ?_⟩
      simp only [sec_endCmd, secEvent_sec]
      exact ⟨rfl, rfl, rfl⟩
  · rw [show exec .claim s = .next (settle (claim s)) from settled_of _ (hruns _ h), claim]
    simp only [show (s.sec.lifecycle == 1) = false by simpa using hl, outcome_state]
    rfl
  · refine owner_command (f := addOwnerKey) (settled_of _ (hruns _ h)) (by unfold addOwnerKey; rfl) ?_ ?_
    · simp only [addGood, fuse, slot, Bool.and_assoc]
    · refine ⟨result_endCmd 0 _, ?_⟩
      simp only [sec_endCmd, secEvent_sec]
      rfl
  · rw [show exec .addOwnerKey s = .next (settle (addOwnerKey s)) from settled_of _ (hruns _ h), addOwnerKey]
    simp only [show (s.sec.lifecycle == 2) = false by simpa using hl, Bool.false_and, outcome_state]
    rfl
  · refine owner_command (f := revokeOwnerKey) (settled_of _ (hruns _ h)) (by unfold revokeOwnerKey; rfl) ?_ ?_
    · simp only [revokeGood, fuse, slot, one, Bool.and_assoc]
    · refine ⟨result_endCmd 0 _, ?_⟩
      rw [sec_endCmd]
      split
      · next hbit => exact hbit
      · rw [secEvent_sec]
        exact bitsAt_putBits_same _ _ _ _
  · rw [show exec .revokeOwnerKey s = .next (settle (revokeOwnerKey s)) from settled_of _ (hruns _ h), revokeOwnerKey]
    simp only [show (s.sec.lifecycle == 2) = false by simpa using hl, Bool.false_and, outcome_state]
    rfl
  · refine owner_command (f := setOwnerCfg) (settled_of _ (hruns _ h)) (by unfold setOwnerCfg; rfl) ?_ ?_
    · simp only [setGood, fuse, slot, one, Bool.and_assoc]
    · exact ⟨result_endCmd 0 _, rfl⟩
  · rw [show exec .setOwnerCfg s = .next (settle (setOwnerCfg s)) from settled_of _ (hruns _ h), setOwnerCfg]
    simp only [show (s.sec.lifecycle == 2) = false by simpa using hl, outcome_state]
    rfl
  · refine ⟨returnCmd pinned, settled_of _ (hruns _ h), ?_⟩
    have hform : (s.sec.lifecycle == 2 && s.jobs.isEmpty && TR.ok (request 0 200 s) && ownerSigned 0x06 [] (request 0 200 s) s && Config.fuseOk s.freeCtr) = returnGood := rfl
    have hcmd : returnCmd pinned = if (outcome (s.sec.lifecycle == 2 && s.jobs.isEmpty) (TR.ok (request 0 200 s))
          (ownerSigned 0x06 [] (request 0 200 s) s) returnEffect pinned).sec.lifecycle = 3 ∧ s.sec.lifecycle = 2 then
        moduleReset 5 (outcome (s.sec.lifecycle == 2 && s.jobs.isEmpty) (TR.ok (request 0 200 s))
          (ownerSigned 0x06 [] (request 0 200 s) s) returnEffect pinned)
      else outcome (s.sec.lifecycle == 2 && s.jobs.isEmpty) (TR.ok (request 0 200 s)) (ownerSigned 0x06 [] (request 0 200 s) s) returnEffect pinned := rfl
    cases hg : returnGood with
    | false =>
      obtain ⟨hkept, hnone⟩ := ownerKept_bad (s := pinned) (effect := returnEffect) (hform.trans hg)
      have hnot : ¬ ((outcome (s.sec.lifecycle == 2 && s.jobs.isEmpty) (TR.ok (request 0 200 s))
          (ownerSigned 0x06 [] (request 0 200 s) s) returnEffect pinned).sec.lifecycle = 3 ∧ s.sec.lifecycle = 2) := by
        rw [hkept.1]
        rintro ⟨h3, h2⟩
        exact absurd (h3.symm.trans h2) (by decide)
      rw [hcmd, if_neg hnot]
      exact ⟨hnone, by simp, fun _ => hkept⟩
    | true =>
      have hall := hform.trans hg
      simp only [Bool.and_eq_true] at hall
      obtain ⟨⟨⟨⟨hl, hj⟩, hok⟩, hsig⟩, hfuse⟩ := hall
      have hout : outcome (s.sec.lifecycle == 2 && s.jobs.isEmpty) (TR.ok (request 0 200 s)) (ownerSigned 0x06 [] (request 0 200 s) s)
          returnEffect pinned = endCmd Res.ok (returnEffect { pinned with freeCtr := pinned.freeCtr + 1 }) :=
        outcome_good (by simp [hl, hj]) hok hsig hfuse
      obtain ⟨u, hsec, hu⟩ := moduleReset_sec 5 (endCmd Res.ok (returnEffect { pinned with freeCtr := pinned.freeCtr + 1 }))
      have h3 : (endCmd Res.ok (returnEffect { pinned with freeCtr := pinned.freeCtr + 1 })).sec.lifecycle = 3 := returnEffect_lifecycle _
      rw [hcmd, hout, if_pos ⟨h3, by simpa using hl⟩]
      refine ⟨congrArg SecUnit.cmd hsec, fun _ => ⟨?_, rfl⟩, by simp⟩
      rw [hsec]
      exact (congrArg SecUnit.lifecycle hu).trans h3
  · rw [show exec (.returnLifecycle sel) s = .next (settle (returnCmd pinned)) from settled_of _ (hruns _ h), returnCmd]
    simp only [show (pinned.sec.lifecycle == 2) = false by simpa [pinned] using hl, Bool.false_and, outcome_state]
    rw [if_neg fun k => hl k.2]
    rfl

/-! ### Debug sessions -/

/-- A session that is ended is open no more. -/
theorem endSession_session (reason : Nat) (s : State) : (endSession reason s).sec.session = none := by
  unfold endSession
  split
  · next h => exact Option.isNone_iff_eq_none.mp h
  · exact congrArg SecUnit.session (postEvent_sec _ _ _ _ _)

/-- A response that fails counts, and the third in a row locks debug out; it opens nothing and keeps the nonce used up. -/
theorem responseFails_sec (s : State) :
    (responseFails s).sec.nonce = s.sec.nonce ∧ (responseFails s).sec.session = s.sec.session
    ∧ (responseFails s).sec.fails = min 3 (s.sec.fails + 1) ∧ (2 ≤ s.sec.fails → (responseFails s).sec.locked = true) := by
  unfold responseFails
  extract_lets n x t y u
  have ht : t.sec = { s.sec with fails := n } := secEvent_sec _ _ _
  have hn : 2 ≤ s.sec.fails → n = 3 := fun h => by omega
  unfold u
  split
  · rw [sec_endCmd, secEvent_sec]
    change t.sec.nonce = _ ∧ t.sec.session = _ ∧ t.sec.fails = _ ∧ (_ → true = true)
    exact ⟨by rw [ht], by rw [ht], by rw [ht], fun _ => rfl⟩
  · next hc =>
    have hlocked : n = 3 → t.sec.locked = true := by simpa using hc
    rw [sec_endCmd]
    change t.sec.nonce = _ ∧ t.sec.session = _ ∧ t.sec.fails = _ ∧ (_ → t.sec.locked = true)
    exact ⟨by rw [ht], by rw [ht], by rw [ht], fun h => hlocked (hn h)⟩

/-- A response in a state that allows it is judged: it opens its session, or fails (R450). -/
theorem debugResponse_judged {s : State} (hform : ¬ (rdLE (request 0 4 s) 0 1 = 0 ∨ 2 < rdLE (request 0 4 s) 0 1 ∨ 32 ≤ rdLE (request 0 4 s) 1 1
      ∨ rdLE (request 0 4 s) 2 2 = 0 ∨ 1440 < rdLE (request 0 4 s) 2 2))
    (hlevel : levelPermitted (rdLE (request 0 4 s) 0 1) s = true) (hnone : s.sec.session = none) (hdbg : domOn Dom.dbg s = true)
    (htrailer : rdLE (request 0 4 s) 0 1 = 2 → TR.ok (request 4 200 s) = true) : debugResponse s =
      if responseOk (rdLE (request 0 4 s) 0 1) s then
        endCmd Res.ok (secEvent 0x0003 (rdLE (request 0 4 s) 0 1 + rdLE (request 0 4 s) 1 1 * 256) (setSec { s.sec with
          nonce := none, fails := 0
          session := some { level := rdLE (request 0 4 s) 0 1, scope := rdLE (request 0 4 s) 1 1
                            expiry := s.clock + rdLE (request 0 4 s) 2 2 * 60000000000 } } s))
      else responseFails (setSec { s.sec with nonce := none } s) := by
  unfold debugResponse
  extract_lets f level scope mins good x t y u
  rw [if_neg hform, if_neg (by simp [level, f, hlevel, hnone, hdbg]), if_neg (by
    rintro ⟨h2, hbad⟩
    rw [htrailer h2] at hbad
    exact absurd hbad (by decide))]
  change (if !good then responseFails t else _) = if good then _ else responseFails t
  cases good <;> rfl

/-- Settles O56: a challenge, a response (`debugResponse_judged`), and the ends of a session (`endSession_session`). -/
theorem debugSessionsOpenAndClose : Obligations.DebugSessionsOpenAndClose := by
  intro s hr f level scope mins bad ends
  have hruns (hd : domOn Dom.sec s = true) (code : Nat) (h : s.sec.cmd = some code) : runs code s = true := by simp [runs, hr, hd, h]
  refine ⟨fun hd => ⟨fun h => ⟨fun h2 h3 => ?_, fun hl hlock => ?_, fun hl hlock => ?_⟩, fun h => ⟨fun hbad => ?_, fun hgood hst => ?_,
    fun hgood hlevel hnone hdbg htrailer => ?_⟩, fun h => ?_⟩, fun h => ?_, fun h => ?_, fun h => ?_⟩
  · rw [show exec .debugChallenge s = .next (settle (debugChallenge s)) from settled_of _ (hruns hd _ h), debugChallenge, if_pos ⟨h2, h3⟩]
    rfl
  · rw [show exec .debugChallenge s = .next (settle (debugChallenge s)) from settled_of _ (hruns hd _ h), debugChallenge,
      if_neg (by omega), if_pos hlock]
    rfl
  · refine ⟨debugChallenge s, (freeBytes 28 16 s).1, settled_of _ (hruns hd _ h), ?_, by simp [freeBytes]⟩
    rw [debugChallenge, if_neg (by omega), if_neg (by simp [hlock])]
    rfl
  · rw [show exec .debugResponse s = .next (settle (debugResponse s)) from settled_of _ (hruns hd _ h), debugResponse]
    simp only
    rw [if_pos hbad]
    rfl
  · rw [show exec .debugResponse s = .next (settle (debugResponse s)) from settled_of _ (hruns hd _ h), debugResponse]
    simp only
    rw [if_neg hgood, if_pos]
    · rfl
    · rcases hst with hp | hs
      · simp [show levelPermitted (rdLE (request 0 4 s) 0 1) s = false from hp]
      · simp [hs]
  · have hjudged := debugResponse_judged hgood hlevel hnone hdbg htrailer
    refine ⟨debugResponse s, settled_of _ (hruns hd _ h), ?_⟩
    cases hok : responseOk level s with
    | true =>
      rw [hjudged, if_pos hok, sec_endCmd, secEvent_sec]
      exact ⟨rfl, fun _ => ⟨rfl, rfl⟩, by simp⟩
    | false =>
      rw [hjudged, if_neg (by rw [show responseOk (rdLE (request 0 4 s) 0 1) s = false from hok]; simp)]
      obtain ⟨hnonce, hsession, hfails, hlocked⟩ := responseFails_sec (setSec { s.sec with nonce := none } s)
      exact ⟨hnonce, by simp, fun _ => ⟨hsession.trans hnone, hfails, hlocked⟩⟩
  · exact ⟨_, settled_of _ (hruns hd _ h), endSession_session 0 s⟩
  · exact ⟨_, settled_of _ (by simp [hr, h]), endSession_session 0 s⟩
  · exact ⟨_, settled_of _ (by simp [hr, h]), endSession_session 1 s⟩
  · exact settled_not _ (by simp [h])

end Sys2Proof.Machine
end

section
/-!
USB messages, LINK events and failed host memory accesses.
-/
namespace Sys2Proof.Machine
open Sys2Proof

/-! ### USB messages -/

theorem exec_ringPush {m : List Byte} {s : State} (hu : usbOn s = true) (ht : PM.typ m = 1) :
    exec (.ringPush m) s = .next (ringPush m s) := by
  change execRingPush m s = _
  rw [execRingPush, onlyIf, if_pos (by simp [hu, ht])]

theorem exec_dataPush {m : List Byte} {s : State} (hu : usbOn s = true) (ht : PM.typ m = 2) :
    exec (.dataPush m) s = .next (dataPush m s) := by
  change execDataPush m s = _
  rw [execDataPush, onlyIf, if_pos (by simp [hu, ht])]

theorem exec_cqHead {m : List Byte} {s : State} (hu : usbOn s = true) (ht : PM.typ m = 3) :
    exec (.cqHead m) s = .next (cqHead m s) := by
  change execCqHead m s = _
  rw [execCqHead, onlyIf, if_pos (by simp [hu, ht])]

/-- A RING_PUSH that fails its checks: it is discarded, and stops a ring that is ACTIVE (R62). -/
theorem ringPush_bad {m : List Byte} {s : State} (ht : PM.typ m = 1) (hbad : ringPushOk m s = false) :
    ringPush m s = if ringState 0 (PM.ring m) s = 1 then stopRing (PM.ring m) 0x0005 (discardPush m (passSeq s)) else discardPush m (passSeq s) := by
  unfold ringPush
  rw [if_neg (by simp [ht]), if_neg (by simp [hbad])]
  simp only [beq_iff_eq]

/-- A head that moves: the ring's head is the new one, its tail stays. -/
theorem cqOf_moveHead (cq : Nat) (head : BitVec 32) (s : State) :
    (cqOf cq (moveHead cq head s)).head = head ∧ (cqOf cq (moveHead cq head s)).tail = (cqOf cq s).tail := by
  unfold moveHead
  dsimp only
  split <;> simp only [cqOf, setCq_host, mapGet_mapSet_same, Option.getD_some, and_self]

theorem moveHead_seq (cq : Nat) (head : BitVec 32) (s : State) : (moveHead cq head s).host.seq = s.host.seq
    ∧ (moveHead cq head s).regs = s.regs ∧ (moveHead cq head s).tx = s.tx := by
  unfold moveHead
  dsimp only
  split <;> exact ⟨rfl, rfl, rfl⟩

/-- The space of input data that is released changes the push buffer only. -/
def SameButPush (s t : State) : Prop := t = { s with host := { s.host with push := t.host.push } }

theorem freePush_same (m : Option (Nat × Nat)) {s t : State} (h : SameButPush s t) : SameButPush s (freePush m t) := by
  unfold freePush
  split
  · exact h
  · unfold SameButPush at *
    rw [h]
    rfl

/-- Settles O22: an accepted message takes effect, another one is discarded, and a completion message takes the oldest 64 entries. -/
theorem usbMessages : Obligations.UsbMessages := by
  constructor
  · intro m s hu u bad r msg
    refine ⟨fun ht hok hfits => ?_, fun ht hok hfits => ?_, fun ht hbad => ⟨fun ha => ?_, fun ha => ?_⟩, fun ht hok => ?_, fun ht hbad => ?_,
      fun ht hok => ?_, fun ht hbad => ?_⟩
    · rw [exec_ringPush hu ht, ringPush, if_neg (by simp [ht]), if_pos hok, if_pos hfits]
      rfl
    · rw [exec_ringPush hu ht, ringPush, if_neg (by simp [ht]), if_pos hok, if_neg (by simp [hfits])]
    · rw [exec_ringPush hu ht, ringPush_bad ht hbad, if_pos ha]
      rfl
    · rw [exec_ringPush hu ht, ringPush_bad ht hbad, if_neg ha]
      rfl
    · rw [exec_dataPush hu ht, dataPush, if_pos hok]
      rfl
    · rw [exec_dataPush hu ht, dataPush, if_neg (by simp [hbad])]
      rfl
    · obtain ⟨hseq, hregs, htx⟩ := moveHead_seq (PM.ring m) (PM.newValue m) (passSeq s)
      obtain ⟨hhead, htail⟩ := cqOf_moveHead (PM.ring m) (PM.newValue m) (passSeq s)
      exact ⟨_, by rw [exec_cqHead hu ht, cqHead, if_pos hok], hseq, hhead, htail, hregs, htx⟩
    · rw [exec_cqHead hu ht, cqHead, if_neg (by simp [hbad])]
      rfl
  · intro cq s hu hne q
    have hexec : exec (.completionMessage cq) s = .next (sendCompletions cq.val s) := by
      change execCompletionMessage cq s = _
      rw [execCompletionMessage, onlyIf, if_pos (by simp [hu, hne])]
    have hsame : SameButPush (emit (.usbMessage (completionBytes cq.val (q.unsent.take 64))) (setCq cq.val { q with unsent := q.unsent.drop 64 } s))
        (sendCompletions cq.val s) := forEach_mem (P := SameButPush _) rfl fun _ _ _ h => freePush_same _ h
    have hcqs : (sendCompletions cq.val s).host.cqs = mapSet s.host.cqs cq.val { q with unsent := q.unsent.drop 64 } := by
      rw [hsame]
      rfl
    refine ⟨_, hexec, ?_, ?_, ?_, ?_⟩
    · rw [cqOf, hcqs, mapGet_mapSet_same, Option.getD_some]
    · rw [hsame]
      rfl
    · rw [hsame]
      rfl
    · rw [hsame]
      rfl

/-! ### LINK events: what failed reads and lost entries leave of the host interface -/

/-- The submission rings, the MSI-X table, the next SEQ and HOST_CTRL are as they were. -/
structure LinkKept (s t : State) : Prop where
  sqs : t.host.sqs = s.host.sqs
  table : t.host.msixTable = s.host.msixTable
  seq : t.host.seq = s.host.seq
  ctrl : KeyKept (keyOf .hostCtrl 0) s t

section
variable {s0 s : State}

theorem LinkKept.refl (s : State) : LinkKept s s := ⟨rfl, rfl, rfl, rfl⟩

/-- A change that leaves them. -/
theorem LinkKept.upd {t : State} (h : LinkKept s0 s) (hq : t.host.sqs = s.host.sqs) (ht : t.host.msixTable = s.host.msixTable)
    (hs : t.host.seq = s.host.seq) (hk : KeyKept (keyOf .hostCtrl 0) s t) : LinkKept s0 t :=
  ⟨hq.trans h.sqs, ht.trans h.table, hs.trans h.seq, hk.trans h.ctrl⟩

/-- A change outside the host interface and the registers. -/
theorem LinkKept.outside {t : State} (h : LinkKept s0 s) (hh : t.host = s.host) (hr : t.regs = s.regs) : LinkKept s0 t :=
  h.upd (by rw [hh]) (by rw [hh]) (by rw [hh]) (by rw [KeyKept, hr])

/-- A field of a register behind HOST_CTRL set. -/
theorem link_setF {f : Field} {i v : Nat} (hk : keyOf .hostCtrl 0 < keyOf f.reg 0) (h : LinkKept s0 s) : LinkKept s0 (setF f i v s) :=
  h.upd rfl rfl rfl (key_setF (show keyOf .hostCtrl 0 ≠ keyOf f.reg i by unfold keyOf regKey at *; omega) rfl)

theorem link_logEvent (e : Entry) (h : LinkKept s0 s) : LinkKept s0 (logEvent e s) :=
  link_setF (f := Fld.pwrLogCountCount) (by decide) (h.upd rfl rfl rfl rfl)

theorem link_signalVector (v : Nat) (h : LinkKept s0 s) : LinkKept s0 (signalVector v s) := by
  unfold signalVector
  split <;> exact h.upd rfl rfl rfl rfl

theorem link_signalCq (cq : Nat) (h : LinkKept s0 s) : LinkKept s0 (signalCq cq s) := by
  unfold signalCq
  split
  · exact h
  · split
    · exact h
    · exact link_signalVector _ (h.upd rfl rfl rfl rfl)

theorem link_postNow (p : Posting) (h : LinkKept s0 s) : LinkKept s0 (postNow p s) := by
  unfold postNow
  extract_lets q bytes depth base usb q' t u coal
  have hu : LinkKept s0 u := by
    unfold u
    split <;> exact h.upd rfl rfl rfl rfl
  split
  · exact link_signalCq _ hu
  · exact hu

theorem link_tryPost (p : Posting) (h : LinkKept s0 s) : LinkKept s0 (tryPost p s).1 := by
  unfold tryPost
  split
  · exact link_postNow p h
  · exact h.upd rfl rfl rfl rfl
  · exact h
  · exact h

theorem link_eventOnCq0 (e : Entry) (h : LinkKept s0 s) : LinkKept s0 (eventOnCq0 e s).1 := by
  unfold eventOnCq0
  split
  · exact h
  · dsimp only
    split
    · exact link_setF (by decide) (link_tryPost _ h)
    · exact link_tryPost _ h

theorem link_eventOnce (block detail status aux : Nat) (h : LinkKept s0 s) : LinkKept s0 (eventOnce block detail status aux s).1 :=
  link_eventOnCq0 _ (link_logEvent _ h)

theorem link_setCqLost (cq : Nat) (h : LinkKept s0 s) : LinkKept s0 (setCqLost cq s) := by
  unfold setCqLost
  split
  · exact h
  · exact link_eventOnce _ _ _ _ (link_setF (by decide) h)

theorem link_postEvent (block detail status aux : Nat) (h : LinkKept s0 s) : LinkKept s0 (postEvent block detail status aux s) := by
  unfold postEvent
  dsimp only
  split
  · exact link_setCqLost _ (link_eventOnce _ _ _ _ h)
  · exact link_eventOnce _ _ _ _ h

theorem link_loseCpl (cq : Nat) (h : LinkKept s0 s) : LinkKept s0 (loseCpl cq s) := link_setCqLost _ (link_setF (by decide) h)

theorem link_hostError {f : Field} (hf : keyOf .hostCtrl 0 < keyOf f.reg 0) (detail status aux : Nat) (h : LinkKept s0 s) :
    LinkKept s0 (hostError f detail status aux s) := by
  unfold hostError
  split
  · exact h
  · exact link_postEvent _ _ _ _ (link_setF hf h)

theorem link_freePush (m : Option (Nat × Nat)) (h : LinkKept s0 s) : LinkKept s0 (freePush m s) := by
  unfold freePush
  split
  · exact h
  · exact h.upd rfl rfl rfl rfl

theorem link_complete (c : Consumed) (f : Facts) (h : LinkKept s0 s) : LinkKept s0 (complete c f s) := by
  unfold complete
  extract_lets e msg t
  have ht : LinkKept s0 t := h.upd rfl rfl rfl rfl
  split
  · exact link_freePush _ ht
  · split
    · exact link_freePush _ (link_loseCpl _ ht)
    · dsimp only
      split
      · exact link_freePush _ (link_loseCpl _ (link_tryPost _ ht))
      · exact link_tryPost _ ht

theorem link_completeOrWait (c : Consumed) (f : Facts) (h : LinkKept s0 s) : LinkKept s0 (completeOrWait c f s) := by
  unfold completeOrWait
  split
  · exact link_complete c f h
  · exact h.upd rfl rfl rfl rfl

theorem link_drainDecided (h : LinkKept s0 s) : LinkKept s0 (drainDecided s) := by
  unfold drainDecided
  refine forEach_mem (P := LinkKept s0) (h.upd rfl rfl rfl rfl) fun x _ t ht => ?_
  obtain ⟨id, f⟩ := x
  dsimp only
  split
  · exact link_completeOrWait _ _ ht
  · exact ht

theorem link_tokenAdd (st d tok n : Nat) (h : LinkKept s0 s) : LinkKept s0 (tokenAdd st d tok n s) := by
  unfold tokenAdd
  split
  · exact h
  · split
    · exact h
    · dsimp only
      split
      · exact h.outside rfl rfl
      · exact (link_postEvent _ _ _ _ (link_setF (f := Fld.fabSeqStatusTokenOvf) (by decide) (h.outside (t := setToken st d tok 65535 s) rfl rfl))).outside rfl rfl

theorem link_signalVariant (w : Window) (h : LinkKept s0 s) : LinkKept s0 (signalVariant w s) := by
  unfold signalVariant
  split
  · exact h
  · exact forEach_mem (P := LinkKept s0) (h.outside rfl rfl) fun d _ t ht => link_tokenAdd _ _ _ _ ht

theorem link_leaveFrame (die f : Nat) (h : LinkKept s0 s) : LinkKept s0 (leaveFrame die f s) := by
  unfold leaveFrame
  extract_lets k x t y u n v
  have hv : LinkKept s0 v :=
    forEach_mem (P := LinkKept s0) (h.outside rfl rfl) fun p _ t ht => link_setF (by decide) ht
  split
  · exact h.outside rfl rfl
  · split
    · exact link_postEvent _ _ _ _ hv
    · exact hv

theorem link_retireWinFrame (id f : Nat) (h : LinkKept s0 s) : LinkKept s0 (retireWinFrame id f s) := by
  unfold retireWinFrame
  split
  · exact h
  · split
    · exact h
    · dsimp only
      split
      · exact h
      · next o _ _ =>
        have hleft := link_leaveFrame o.homeDie f h
        split
        · next htake =>
          unfold takeFrame at htake
          split at htake
          · cases htake
          · obtain ⟨g, _, hg⟩ := Option.map_eq_some_iff.mp htake
            obtain ⟨rfl, rfl⟩ := Prod.mk.injEq _ _ _ _ ▸ hg
            exact hleft.outside rfl rfl
        · exact hleft.outside rfl rfl

theorem link_segmentFailed (w : Window) (i : Nat) (h : LinkKept s0 s) : LinkKept s0 (segmentFailed w i s) := by
  unfold segmentFailed
  extract_lets sq t u
  have hu : LinkKept s0 u := link_postEvent _ _ _ _ (link_hostError (by decide) _ _ _ h)
  split
  · split
    · exact hu.outside rfl rfl
    · exact link_signalVariant _ (hu.outside rfl rfl)
  · split
    · exact hu.outside rfl rfl
    · refine forEach_mem (P := LinkKept s0) (LinkKept.outside (s := forEach w.landed _ _) ?_ rfl rfl) fun f _ t ht => link_retireWinFrame _ _ ht
      refine forEach_mem (P := LinkKept s0) (hu.outside rfl rfl) fun k _ t ht => ?_
      unfold unplaceSeg
      split
      · exact ht
      · refine forEach_mem (P := LinkKept s0) ht fun page _ t ht => ?_
        split
        · exact ht.outside rfl rfl
        · exact ht

theorem link_dummyFail (st : Nat) (h : LinkKept s0 s) : LinkKept s0 (dummyFail st s) := by
  unfold dummyFail
  split
  · exact h
  · exact (link_postEvent _ _ _ _ (link_setF (f := Fld.safeCountDummyFail) (by decide) (h.outside (t := adjStream st _ s) rfl rfl))).outside rfl rfl

theorem link_threadFailed (d : Nat) (t : Thread) (h : LinkKept s0 s) : LinkKept s0 (threadFailed d t s) := by
  unfold threadFailed
  extract_lets sq u
  have hu : LinkKept s0 u := link_hostError (by decide) _ _ _ (h.outside rfl rfl)
  split
  · exact hu
  · split
    · exact link_dummyFail _ hu
    · split
      · split
        · exact hu
        · exact link_signalVariant _ hu
      · exact hu.outside rfl rfl

theorem link_failT2Reads (h : LinkKept s0 s) : LinkKept s0 (failT2Reads s) := by
  unfold failT2Reads
  refine forEach_mem (P := LinkKept s0) ?_ fun d _ t ht => forEach_mem (P := LinkKept s0) ht fun k _ t ht => link_threadFailed _ _ ht
  refine forEach_mem (P := LinkKept s0) h fun w _ t ht => ?_
  split
  · exact link_segmentFailed _ _ ht
  · exact ht

theorem link_startCopies (h : LinkKept s0 s) : LinkKept s0 (startCopies s) := h.outside rfl rfl

theorem link_resetEvent (kind job : Nat) (h : LinkKept s0 s) : LinkKept s0 (resetEvent kind job s) := by
  unfold resetEvent
  extract_lets e t
  have ht : LinkKept s0 t := link_logEvent e h
  split
  · dsimp only
    split
    · exact link_setCqLost _ (link_eventOnCq0 e ht)
    · exact link_eventOnCq0 e ht
  · exact ht.upd rfl rfl rfl rfl

end

/-! ### LINK_UP after a reset -/

/-- A map whose entries are changed under their keys. -/
theorem mapGet_filterMap {α : Type} {g : Nat × α → Option (Nat × α)} (hg : ∀ k v, ∃ w, g (k, v) = some (k, w)) (m : SMap α) (i : Nat) :
    mapGet (m.filterMap g) i = (mapGet m i).bind fun v => (g (i, v)).map Prod.snd := by
  induction m with
  | nil => rfl
  | cons x m ih =>
    obtain ⟨k, v⟩ := x
    obtain ⟨w, hw⟩ := hg k v
    rw [List.filterMap_cons, hw]
    by_cases h : i = k
    · subst h
      simp [mapGet, hw]
    · simp [mapGet, h, ih]

/-- HOST_CTRL is the register of its key. -/
theorem find_hostCtrl :
    (allRegs.find? fun r => decide (keyOf r 0 ≤ keyOf .hostCtrl 0) && decide (keyOf .hostCtrl 0 < keyOf r 0 + 8192)) = some .hostCtrl := by
  decide

/-- A LINK reset writes every HOST_CTRL that is stored. -/
theorem get_resetRegs_hostCtrl (s : State) : mapGet (resetRegs .link (fun r => regBlock r == 1) s).regs (keyOf .hostCtrl 0)
    = (mapGet s.regs (keyOf .hostCtrl 0)).map fun v => BitVec.ofNat 64 (resetVal .link .hostCtrl v.toNat) := by
  unfold resetRegs
  rw [mapGet_filterMap]
  · cases mapGet s.regs (keyOf .hostCtrl 0) with
    | none => rfl
    | some v => simp [find_hostCtrl, show regBlock .hostCtrl = 1 from by decide]
  · intro k v
    dsimp only
    split
    · exact ⟨_, rfl⟩
    · split <;> exact ⟨_, rfl⟩

/-- One field's part of a register's reset. -/
def resetStep (k : ResetKind) (v : Nat) (f : Field) : Nat :=
  match f.entry k with
  | .val n => putBits v f.lo f.len n
  | .keep => v
  | .src => v

theorem resetVal_eq_foldl (k : ResetKind) (r : Reg) (v : Nat) : resetVal k r v = (regFields r).foldl (resetStep k) v := rfl

theorem resetStep_val {f : Field} {n : Nat} {k : ResetKind} (h : f.entry k = .val n) (v : Nat) : resetStep k v f = putBits v f.lo f.len n := by
  simp [resetStep, h]

theorem resetStep_keep {f : Field} {k : ResetKind} (h : f.entry k = .keep) (v : Nat) : resetStep k v f = v := by simp [resetStep, h]

/-- The LINK reset of HOST_CTRL: ATTACH stays, LINK_UP clears, and CQ_TIMEOUT is 10 (Table RST-2). -/
theorem resetVal_hostCtrl (v : Nat) : resetVal .link .hostCtrl v = putBits (putBits v 1 1 0) 16 10 10 := by
  rw [resetVal_eq_foldl, show regFields .hostCtrl = [Fld.hostCtrlAttach, Fld.hostCtrlLinkUp, Fld.hostCtrlCqTimeout] from rfl,
    List.foldl_cons, List.foldl_cons, List.foldl_cons, List.foldl_nil, resetStep_keep (f := Fld.hostCtrlAttach) rfl,
    resetStep_val (f := Fld.hostCtrlLinkUp) (n := 0) rfl, resetStep_val (f := Fld.hostCtrlCqTimeout) (n := 10) rfl]
  unfold Fld.hostCtrlLinkUp Fld.hostCtrlCqTimeout
  with_reducible rfl

/-- The LINK reset of HOST_CTRL clears LINK_UP. -/
theorem linkUp_resetVal (v : BitVec 64) : bitsAt (BitVec.ofNat 64 (resetVal .link .hostCtrl v.toNat)).toNat 1 1 = 0 := by
  have hlt : putBits (putBits v.toNat 1 1 0) 16 10 10 < 2 ^ 64 := putBits_lt _ _ _ _ _ (putBits_lt _ _ _ _ _ v.isLt (by decide)) (by decide)
  rw [resetVal_hostCtrl, BitVec.toNat_ofNat, Nat.mod_eq_of_lt hlt, bitsAt_putBits_ne _ _ _ _ _ _ (by decide), bitsAt_putBits_same,
    Nat.zero_mod]

/-- A LINK reset of the attachment's registers clears LINK_UP (Table RST-2). -/
theorem linkUp_resetRegs (s : State) : getB Fld.hostCtrlLinkUp 0 (resetRegs .link (fun r => regBlock r == 1) s) = false := by
  have hbits : bitsAt (getR .hostCtrl 0 (resetRegs .link (fun r => regBlock r == 1) s)) 1 1 = 0 := by
    unfold getR
    rw [get_resetRegs_hostCtrl]
    cases mapGet s.regs (keyOf .hostCtrl 0) with
    | none => decide
    | some v => exact linkUp_resetVal v
  unfold getB getF
  rw [show bitsAt (getR Fld.hostCtrlLinkUp.reg 0 _) Fld.hostCtrlLinkUp.lo Fld.hostCtrlLinkUp.len = 0 from hbits]
  rfl

theorem link_linkReset {s0 s : State} (h : LinkKept s0 (dropHost s)) : LinkKept s0 (linkReset s) :=
  link_resetEvent _ _ (link_startCopies (link_failT2Reads h))

/-- The host interface after a LINK reset: no counts, an empty MSI-X table, SEQ 0 and no LINK_UP (R66). -/
theorem linkReset_clears (s : State) : (linkReset s).host.sqs = [] ∧ (linkReset s).host.msixTable = [] ∧ (linkReset s).host.seq = 0
    ∧ getB Fld.hostCtrlLinkUp 0 (linkReset s) = false := by
  obtain ⟨u, hkept, hsqs, htable, hseq, hup⟩ : ∃ u, LinkKept u (dropHost s) ∧ u.host.sqs = [] ∧ u.host.msixTable = [] ∧ u.host.seq = 0
      ∧ getB Fld.hostCtrlLinkUp 0 u = false := by
    unfold dropHost
    exact ⟨_, link_drainDecided (forEach_mem (P := LinkKept _) (.refl _) fun cq _ t ht => link_loseCpl cq ht), rfl, rfl, rfl,
      linkUp_resetRegs _⟩
  have hreset := link_linkReset hkept
  refine ⟨hreset.sqs.trans hsqs, hreset.table.trans htable, hreset.seq.trans hseq, ?_⟩
  unfold getB at *
  rw [getF_of_key (f := Fld.hostCtrlLinkUp) hreset.ctrl]
  exact hup

/-- The Acorn supply is there while the module runs. -/
theorem acornRuns_of_running {s : State} (h : running s = true) : acornRuns s = true := by
  unfold running at h
  simp [acornRuns, beq_iff_eq.mp h]

/-- Settles O23: a LINK reset clears the host interface (`linkReset_clears`); the others act on their bits. -/
theorem linkEvents : Obligations.LinkEvents := by
  intro cause s hr high
  refine ⟨fun hc => ?_, fun hc => ?_, fun hp => ⟨fun hw => ?_, fun hw => ?_⟩, fun hd hp => ?_⟩
  · exact ⟨linkReset (assertPerst cause s), settled_of _ (by simp [hr, hc]), linkReset_clears _⟩
  · rw [show exec (.linkReset cause) s = .next (assertPerst cause s) from settled_not _ (by simp [hc])]
    cases cause <;> rfl
  · rw [show exec .perstNDeassert s = .next (settle (perstHigh s)) from settled_of _ (by simp [hp, acornRuns_of_running hr]), perstHigh]
    simp [setPower, hw, high]
  · rw [show exec .perstNDeassert s = .next (settle (perstHigh s)) from settled_of _ (by simp [hp, acornRuns_of_running hr]), perstHigh]
    simp [setPower, hw, emit]
  · change execHostLinkUp s = _
    rw [execHostLinkUp, onlyIf, if_pos (by simp [hr]), linkUp]
    have hphase : (s.phase == .starting) = false := by
      unfold running at hr
      cases hph : s.phase <;> simp_all
    simp only [hphase, Bool.false_eq_true, if_false]
    rw [if_pos]
    rcases hp with hu | hl
    · simp [hd, hu]
    · simp [hd, hl]

/-! ### Failed host memory accesses -/

theorem exec_hostMemoryAccessFailed {id : Nat} {write : Bool} {s : State} (hr : running s = true) (hu : usbAttached s = false) :
    exec (.hostMemoryAccessFailed id write) s = .next (settle (hostAccessFailed id write s)) := settled_of _ (by simp [hr, hu])

/-- An access of a queued chunk that names host memory. -/
theorem hostAccessFailed_chunk {id st : Nat} {i : Item} {write : Bool} {c : Consumed} {s : State} (hid : consumedById id s = some c)
    (hdec : s.host.decided.any (fun p => p.1 == id) = false) (hu : usesHost c write = true) (hhome : itemHome id s = some (st, i))
    (hi : isChunk i = true) : hostAccessFailed id write s = itemHostFault st i c write s := by
  have hretire : (i.kind == .retire) = false := by
    unfold isChunk at hi
    cases hk : i.kind <;> simp_all
  unfold hostAccessFailed
  simp [hid, hu, hdec, hhome, hretire]

/-- Settles O24: what a failed access does to a chunk (`hostAccessFailed_chunk`) and outside the streams. -/
theorem hostMemoryFaults : Obligations.HostMemoryFaults := by
  intro id write c s hr hu hid hdec dma
  refine ⟨fun hh => ?_, fun st i hh hhome hi => ⟨fun hp => ?_, fun hp => ?_⟩, fun hh hw hhome hreads hcid hacc => ?_⟩
  · rw [exec_hostMemoryAccessFailed hr hu, hostAccessFailed]
    simp [hid, hh]
  · rw [exec_hostMemoryAccessFailed hr hu, hostAccessFailed_chunk hid hdec hh hhome hi, itemHostFault, if_pos (by simp [hi, hp])]
  · rw [exec_hostMemoryAccessFailed hr hu, hostAccessFailed_chunk hid hdec hh hhome hi, itemHostFault, if_neg (by simp [hp])]
    dsimp only
    rw [if_pos (by simp [hi, hp])]
    rfl
  · obtain ⟨-, -, -, hstarted, -⟩ := canBegin_some hacc.1
    subst hw
    rw [exec_hostMemoryAccessFailed hr hu, hostAccessFailed]
    simp only [hid, hh, hdec, hhome, Bool.not_true, Bool.or_false, Bool.false_eq_true, if_false]
    rw [otherHostFault]
    have hmem : fld c.desc 0 8 ∈ readsInput := by simpa using hreads
    rw [if_pos (by simp [hstarted, hmem, hcid, hacc.1, hacc.2])]
    rfl

end Sys2Proof.Machine
end

section
/-!
Work on streams: what is queued, cancelled, retired, unloaded and restarted.
-/
namespace Sys2Proof.Machine
open Sys2Proof

/-! ### An opcode on a stream in service -/

theorem onStream_resident {c : Consumed} {f : Nat → Machine.Stream → State → State} {x : Machine.Stream} {s : State}
    (hx : streamOf (fld c.desc 16 8) s = some x) (hp : phaseOf x.job s = some .resident) :
    onStream c f s = f (fld c.desc 16 8) x s := by
  unfold onStream
  simp only [hx, hp]

/-- An opcode that is refused behind a retire. -/
theorem onLive_resident {c : Consumed} {f : Nat → Machine.Stream → State → State} {x : Machine.Stream} {s : State}
    (hx : streamOf (fld c.desc 16 8) s = some x) (hp : phaseOf x.job s = some .resident) (hr : x.retiring = false) :
    onLive c f s = f (fld c.desc 16 8) x s := by
  unfold onLive
  rw [onStream_resident hx hp, if_neg (by simp [hr])]

theorem exec_chunk {id : Nat} {c : Consumed} {s : State} (h : Accepted id 0x01 c s) :
    exec (.chunk id) s = .next (settle (chunk c (markStarted id s))) := by
  simp only [exec, execChunk]
  exact beginSettled_of h _

theorem exec_chunkTriggered {id : Nat} {c : Consumed} {s : State} (h : Accepted id 0x02 c s) :
    exec (.chunkTriggered id) s = .next (settle (chunkTriggered c (markStarted id s))) := by
  simp only [exec, execChunkTriggered]
  exact beginSettled_of h _

theorem exec_streamSwap {id : Nat} {input : ReadData} {c : Consumed} {s : State} (h : Accepted id 0x13 c s) :
    exec (.streamSwap id input) s = .next (settle (queueSwap .swap input c (fun _ s => s) (markStarted id s))) := by
  simp only [exec, execStreamSwap]
  exact beginSettled_of h _

/-- What a forced swap takes off its stream (Table JOB-4). -/
def evictIdle (st : Nat) (s : State) : State := endItems st Status.stateEvicted (fun i => isIdleChunk i || isIdleSwap i) s

theorem exec_streamSwapForced {id : Nat} {input : ReadData} {c : Consumed} {s : State} (h : Accepted id 0x14 c s) :
    exec (.streamSwapForced id input) s = .next (settle (queueSwap .forced input c evictIdle (markStarted id s))) := by
  simp only [exec, execStreamSwapForced]
  exact beginSettled_of h _

/-- A stream without a queued swap fixes its own trigger (R76). -/
theorem triggerFor_none {x : Machine.Stream} (h : swapQueued x = false) (s : State) : triggerFor x s = x.trigger := if_neg (by simp [h])

/-- A CHUNK_TRIGGERED of a stream without a queued swap, whose trigger is free or its own (R74, R76). -/
theorem chunkTriggered_ok {c : Consumed} {x : Machine.Stream} {s : State} (hx : streamOf (fld c.desc 16 8) s = some x)
    (hp : phaseOf x.job s = some .resident) (hr : x.retiring = false) (ht : x.triggered = true) (hq : swapQueued x = false)
    (hlt : arg c.desc 36 1 < 72) (htrig : x.trigger = none ∨ x.trigger = some (arg c.desc 36 1)) :
    chunkTriggered c s = pushItem (fld c.desc 16 8) (newItem c.id .triggered (.bytes []))
      (adjStream (fld c.desc 16 8) (fun y => { y with trigger := some (arg c.desc 36 1) }) s) := by
  have hget : x.trigger.getD (arg c.desc 36 1) = arg c.desc 36 1 := by
    rcases htrig with h | h <;> simp [h]
  unfold chunkTriggered
  rw [onLive_resident hx hp hr]
  simp only [ht, triggerFor_none hq, hget, hq]
  rw [if_neg (by simp), if_neg (by omega), if_neg (by simp), if_neg (by simp)]

/-- One whose trigger is fixed to another (R76). -/
theorem chunkTriggered_other {c : Consumed} {x : Machine.Stream} {s : State} {k : Nat} (hx : streamOf (fld c.desc 16 8) s = some x)
    (hp : phaseOf x.job s = some .resident) (hr : x.retiring = false) (ht : x.triggered = true) (hq : swapQueued x = false)
    (hlt : arg c.desc 36 1 < 72) (htrig : x.trigger = some k) (hk : k ≠ arg c.desc 36 1) :
    chunkTriggered c s = refuseFormat c 0x0107 0 s := by
  unfold chunkTriggered
  rw [onLive_resident hx hp hr]
  simp only [ht, triggerFor_none hq, htrig, Option.getD_some]
  rw [if_neg (by simp), if_neg (by omega), if_pos (by simp [hk])]

/-- A stream of no state refuses a swap. -/
theorem queueSwap_banks {kind : ItemKind} {input : ReadData} {c : Consumed} {before : Nat → State → State} {x : Machine.Stream} {s : State}
    (hx : streamOf (fld c.desc 16 8) s = some x) (hp : phaseOf x.job s = some .resident) (hr : x.retiring = false) (hb : x.banks = 0) :
    queueSwap kind input c before s = refuseFormat c 0x0108 0 s := by
  unfold queueSwap
  rw [onLive_resident hx hp hr]
  dsimp only
  rw [if_pos hb]

/-- A length of a swap: none, or the state's. -/
def swapLength (x : Machine.Stream) (n : Nat) : Prop := n = 0 ∨ n = stateSize x

theorem badLength_iff (x : Machine.Stream) (n : Nat) : (n != 0 && n != stateSize x) = true ↔ ¬ swapLength x n := by
  unfold swapLength
  rw [Bool.and_eq_true, bne_iff_ne, bne_iff_ne, not_or]

/-- A swap of another length is refused. -/
theorem queueSwap_length {kind : ItemKind} {input : ReadData} {c : Consumed} {before : Nat → State → State} {x : Machine.Stream} {s : State}
    (hx : streamOf (fld c.desc 16 8) s = some x) (hp : phaseOf x.job s = some .resident) (hr : x.retiring = false) (hb : x.banks ≠ 0)
    (hl : ¬ (swapLength x (inLen c.desc) ∧ swapLength x (outLen c.desc))) : queueSwap kind input c before s = refuseFormat c 0x0105 0 s := by
  unfold queueSwap
  rw [onLive_resident hx hp hr]
  dsimp only
  rw [if_neg hb, if_pos]
  rw [Bool.or_eq_true, badLength_iff, badLength_iff]
  exact not_and_or.mp hl

/-- A swap of good lengths stands at the end of its stream's queue (R84). -/
theorem queueSwap_ok {kind : ItemKind} {input : ReadData} {c : Consumed} {before : Nat → State → State} {x : Machine.Stream} {s : State}
    (hx : streamOf (fld c.desc 16 8) s = some x) (hp : phaseOf x.job s = some .resident) (hr : x.retiring = false) (hb : x.banks ≠ 0)
    (hi : swapLength x (inLen c.desc)) (ho : swapLength x (outLen c.desc)) :
    queueSwap kind input c before s = pushItem (fld c.desc 16 8) { newItem c.id kind input with releasedAt := s.clock } (before (fld c.desc 16 8) s) := by
  unfold queueSwap
  rw [onLive_resident hx hp hr]
  dsimp only
  rw [if_neg hb, if_neg]
  rw [Bool.or_eq_true, badLength_iff, badLength_iff]
  exact not_or.mpr ⟨not_not.mpr hi, not_not.mpr ho⟩

/-- Settles O26: each opcode queues one item, or is refused by the kind of its stream. -/
theorem streamWorkQueues : Obligations.StreamWorkQueues := by
  intro id input c x s st trig u add fix evict ok hx hp hr
  have hx' : streamOf (fld c.desc 16 8) u = some x := hx
  have hp' : phaseOf x.job u = some .resident := hp
  refine ⟨fun h ht => ?_, fun h ht => ?_, fun h ht hq hlt => ⟨fun htrig => ?_, fun k hk hne => ?_⟩, fun h ht => ?_,
    fun h => ⟨fun hb => ?_, fun hb hl => ?_, fun hb hi ho => ?_⟩, fun h => ⟨fun hb => ?_, fun hb hl => ?_, fun hb hi ho => ?_⟩⟩
  · rw [exec_chunk h, chunk, onLive_resident hx' hp' hr, if_neg (by simp [ht])]
    rfl
  · rw [exec_chunk h, chunk, onLive_resident hx' hp' hr, if_pos ht]
  · rw [exec_chunkTriggered h, chunkTriggered_ok hx' hp' hr ht hq hlt htrig]
    rfl
  · rw [exec_chunkTriggered h, chunkTriggered_other hx' hp' hr ht hq hlt hk hne]
  · rw [exec_chunkTriggered h, chunkTriggered, onLive_resident hx' hp' hr]
    dsimp only
    rw [if_pos (by simp [ht])]
  · rw [exec_streamSwap h, queueSwap_banks hx' hp' hr hb]
  · rw [exec_streamSwap h, queueSwap_length hx' hp' hr hb hl]
  · rw [exec_streamSwap h, queueSwap_ok hx' hp' hr hb hi ho]
    rfl
  · rw [exec_streamSwapForced h, queueSwap_banks hx' hp' hr hb]
  · rw [exec_streamSwapForced h, queueSwap_length hx' hp' hr hb hl]
  · rw [exec_streamSwapForced h, queueSwap_ok hx' hp' hr hb hi ho]
    rfl

/-! ### What is taken back leaves of jobs and streams -/

theorem mapGet_mapAdjust {α : Type} (m : SMap α) (k : Nat) (f : α → α) (i : Nat) :
    mapGet (mapAdjust m k f) i = if i = k then (mapGet m k).map f else mapGet m i := by
  unfold mapAdjust
  split
  · next x hx =>
    split
    · next h => rw [h, mapGet_mapSet_same]; simp [hx]
    · next h => rw [mapGet_mapSet_ne _ h]
  · next hx =>
    split
    · next h => rw [h, hx]; rfl
    · rfl

theorem mem_of_mapGet {α : Type} {m : SMap α} {i : Nat} {x : α} (h : mapGet m i = some x) : (i, x) ∈ m := by
  induction m with
  | nil => cases h
  | cons p m ih =>
    obtain ⟨k, v⟩ := p
    unfold mapGet at h
    split at h
    · next hk =>
      subst hk
      cases h
      exact List.mem_cons_self
    · exact List.mem_cons_of_mem _ (ih h)

/-- Jobs stay, and streams stay with their job and no more of them in service; those of a list are out of service. -/
structure OutOfService (l : List Nat) (s t : State) : Prop where
  jobs : t.jobs = s.jobs
  streams : ∀ n y, streamOf n t = some y → ∃ x, streamOf n s = some x ∧ y.job = x.job ∧ (y.valid = true → x.valid = true ∧ n ∉ l)

theorem OutOfService.refl (s : State) : OutOfService [] s s := ⟨rfl, fun _ y h => ⟨y, h, rfl, fun hv => ⟨hv, by simp⟩⟩⟩

theorem OutOfService.trans {l k : List Nat} {s t u : State} (h : OutOfService l s t) (h' : OutOfService k t u) : OutOfService (l ++ k) s u where
  jobs := h'.jobs.trans h.jobs
  streams n y hy := by
    obtain ⟨x, hx, hjob, hvalid⟩ := h'.streams n y hy
    obtain ⟨w, hw, hjob', hvalid'⟩ := h.streams n x hx
    refine ⟨w, hw, hjob.trans hjob', fun hv => ?_⟩
    obtain ⟨hv', hk⟩ := hvalid hv
    obtain ⟨hv'', hl⟩ := hvalid' hv'
    exact ⟨hv'', by simp [hl, hk]⟩

/-- A change that leaves jobs and streams. -/
theorem OutOfService.same {s t : State} (hj : t.jobs = s.jobs) (hs : t.streams = s.streams) : OutOfService [] s t where
  jobs := hj
  streams n y hy := by
    have h : streamOf n t = streamOf n s := by unfold streamOf; rw [hs]
    exact ⟨y, h ▸ hy, rfl, fun hv => ⟨hv, by simp⟩⟩

/-- A stream that is changed, with its job kept. -/
theorem outOfService_adjStream {st : Nat} {l : List Nat} {f : Machine.Stream → Machine.Stream} (hjob : ∀ x, (f x).job = x.job)
    (hvalid : ∀ x, (f x).valid = true → x.valid = true ∧ st ∉ l) (hl : ∀ n ∈ l, n = st) (s : State) : OutOfService l s (adjStream st f s) where
  jobs := rfl
  streams n y hy := by
    rw [streamOf, adjStream_streams, mapGet_mapAdjust] at hy
    split at hy
    · next h =>
      subst h
      obtain ⟨x, hx, rfl⟩ := Option.map_eq_some_iff.mp hy
      exact ⟨x, hx, hjob x, hvalid x⟩
    · next h => exact ⟨y, hy, rfl, fun hv => ⟨hv, fun hn => h (hl n hn)⟩⟩

theorem outOfService_dropItem (st id : Nat) (s : State) : OutOfService [] s (dropItem st id s) := by
  unfold dropItem
  refine outOfService_adjStream (l := []) ?_ ?_ (by simp) s
  · exact fun _ => rfl
  · exact fun _ hv => ⟨hv, List.not_mem_nil⟩

theorem outOfService_closeFrame (st id : Nat) (s : State) : OutOfService [] s (closeFrame st id s) := by
  unfold closeFrame
  split
  · dsimp only
    split
    · exact .same rfl rfl
    · exact .refl s
  · exact .refl s

theorem outOfService_reopenFrame (st : Nat) (s : State) : OutOfService [] s (reopenFrame st s) := by
  unfold reopenFrame
  split
  · split
    · exact .refl s
    · split
      · unfold openFrame
        split
        · unfold openStage
          split
          · exact .same rfl rfl
          · exact .refl s
        · exact .refl s
      · exact .refl s
  · exact .refl s

theorem outOfService_completeFor (control : Bool) (c : Consumed) (f : Facts) (s : State) : OutOfService [] s (completeFor control c f s) := by
  have hsame : SameButHost s (completeFor control c f s) := by
    unfold completeFor
    split
    · exact host_complete c f (.refl s)
    · exact host_completeOrWait c f (.refl s)
  exact .same hsame.jobs hsame.streams

theorem outOfService_endItem (st status : Nat) (i : Item) (s : State) : OutOfService [] s (endItem st status i s) := by
  unfold endItem
  split
  · exact .refl s
  · have hdrop : OutOfService [] s (dropItem st i.id (closeFrame st i.id s)) := (outOfService_closeFrame st i.id s).trans (outOfService_dropItem st i.id _)
    refine OutOfService.trans (l := []) (k := []) ?_ (outOfService_reopenFrame st _)
    split
    · exact hdrop.trans (outOfService_completeFor _ _ _ _)
    · exact hdrop

theorem outOfService_endItems (st status : Nat) (p : Item → Bool) (s : State) : OutOfService [] s (endItems st status p s) :=
  forEach_mem (P := OutOfService [] s) (.refl s) fun i _ _ ht => ht.trans (outOfService_endItem st status i _)

/-- A stream taken out of service once what waits on it is cancelled. -/
def withdrawStream (st : Nat) (s : State) : State :=
  adjStream st (fun x => { x with valid := false })
    (endItems st Status.cancelled (fun i => isIdleChunk i || isIdleSwap i || i.kind == .retire) s)

theorem outOfService_withdrawStream (st : Nat) (s : State) : OutOfService [st] s (withdrawStream st s) := by
  unfold withdrawStream
  refine (outOfService_endItems st _ _ s).trans (outOfService_adjStream (l := [st]) ?_ ?_ (fun _ hn => List.mem_singleton.mp hn) _)
  · exact fun _ => rfl
  · exact fun _ hv => Bool.noConfusion hv

theorem outOfService_withdrawStreams (l : List Nat) (s : State) : OutOfService l s (forEach l withdrawStream s) := by
  induction l generalizing s with
  | nil => exact .refl s
  | cons st l ih => exact (outOfService_withdrawStream st s).trans (ih (withdrawStream st s))

/-- The state in which every stream of a job is out of service. -/
def withdrawJob (j : Nat) (s : State) : State := forEach ((jobStreams j s).map fun p => p.1) withdrawStream s

theorem unloadJob_resident {j : Nat} {c : Consumed} {job : Job} {s : State} (h : job.phase = .resident) :
    unloadJob j c job s = adjJob j (fun x => { x with phase := .unloading [c.id] }) (withdrawJob j s) := by
  unfold unloadJob
  simp only [h]
  rfl

/-- No stream of an unloaded job is in service (R85). -/
theorem withdrawJob_streams {j n : Nat} {s : State} {y : Machine.Stream} (hy : streamOf n (withdrawJob j s) = some y) (hj : y.job = j) :
    y.valid = false := by
  obtain ⟨x, hx, hjob, hvalid⟩ := (outOfService_withdrawStreams _ s).streams n y hy
  by_contra hv
  refine (hvalid (by simpa using hv)).2 (List.mem_map.mpr ⟨(n, x), List.mem_filter.mpr ⟨mem_of_mapGet hx, ?_⟩, rfl⟩)
  simp [← hjob, hj]

/-! ### The JOB reset -/

theorem bitsAt_setJobBit {j : Nat} (hj : j < 32) (s : State) :
    bitsAt (getF Fld.safeStatusRestarting 0 (setJobBit Fld.safeStatusRestarting j true s)) j 1 = 1 := by
  unfold setJobBit
  rw [getF_setF_own (by decide)]
  refine Nat.eq_of_testBit_eq fun k => ?_
  rw [testBit_bitsAt, Nat.testBit_mod_two_pow]
  rcases Nat.eq_zero_or_pos k with rfl | hk
  · rw [testBit_putBits]
    simp [show j < Fld.safeStatusRestarting.len from hj]
  · rw [Nat.testBit_one_eq_true_iff_self_eq_zero.not.mpr (by omega) |> Bool.eq_false_iff.mpr]
    simp [show ¬ k < 1 by omega]

/-- FAULT_N shown leaves RESTARTING. -/
theorem restarting_showFault (s : State) : getF Fld.safeStatusRestarting 0 (showFault s) = getF Fld.safeStatusRestarting 0 s := by
  unfold showFault
  dsimp only
  split <;> exact getF_setF_apart (f := Fld.safeStatusRestarting) (g := Fld.safeStatusFault) (by decide) _ _

theorem fld_lt (d : Desc) (lo len : Nat) : fld d lo len < 2 ^ len := bitsAt_lt _ _ _

section
variable {id : Nat} {c : Consumed} {job : Job} {s : State}

theorem unload_some (h : Accepted id 0x11 c s) (hj : jobOf (fld c.desc 24 5) s = some job) :
    exec (.jobUnload id) s = .next (settle (unloadJob (fld c.desc 24 5) c job (markStarted id s))) := by
  simp only [exec, execJobUnload]
  rw [beginSettled_of (op := Op.jobUnload) h]
  simp only [show jobOf (fld c.desc 24 5) (markStarted id s) = some job from hj]

theorem unload_none (h : Accepted id 0x11 c s) (hj : jobOf (fld c.desc 24 5) s = none) :
    exec (.jobUnload id) s = .next (settle (refuseFormat c 0x0103 0 (markStarted id s))) := by
  simp only [exec, execJobUnload]
  rw [beginSettled_of (op := Op.jobUnload) h]
  simp only [show jobOf (fld c.desc 24 5) (markStarted id s) = none from hj]

theorem restart_some (h : Accepted id 0x16 c s) (hj : jobOf (fld c.desc 24 5) s = some job) :
    exec (.jobRestart id) s = .next (settle (restartJob (fld c.desc 24 5) c job (markStarted id s))) := by
  simp only [exec, execJobRestart]
  rw [beginSettled_of (op := Op.jobRestart) h]
  simp only [show jobOf (fld c.desc 24 5) (markStarted id s) = some job from hj]

theorem restart_none (h : Accepted id 0x16 c s) (hj : jobOf (fld c.desc 24 5) s = none) :
    exec (.jobRestart id) s = .next (settle (refuseFormat c 0x0103 0 (markStarted id s))) := by
  simp only [exec, execJobRestart]
  rw [beginSettled_of (op := Op.jobRestart) h]
  simp only [show jobOf (fld c.desc 24 5) (markStarted id s) = none from hj]

end

/-- Settles O27: CANCEL and STREAM_RETIRE act on their queue, JOB_UNLOAD withdraws the job, JOB_RESTART resets it. -/
theorem workIsTakenBack : Obligations.WorkIsTakenBack := by
  intro id c x job s st j u hit add
  refine ⟨fun h hx hp hun => ?_, fun h hx hp hr => ?_, fun h => ⟨fun hj hp => ?_, fun hj => ?_⟩, fun h => ⟨fun hj hp => ?_, fun hj => ?_⟩⟩
  · have hcancel : exec (.cancel id) s = .next (settle (cancel c u)) := by
      simp only [exec, execCancel]
      exact beginSettled_of h _
    rw [hcancel, cancel, onStream_resident (s := u) hx hp]
    dsimp only
    rw [hun]
    rfl
  · have hretire : exec (.streamRetire id) s = .next (settle (onLive c (fun st _ s =>
        pushItem st (newItem c.id .retire (.bytes [])) (adjStream st (fun x => { x with retiring := true }) s)) u)) := by
      simp only [exec, execStreamRetire]
      exact beginSettled_of h _
    rw [hretire, onLive_resident (s := u) hx hp hr]
    rfl
  · rw [unload_some h hj]
    have hjobs : (withdrawJob j u).jobs = s.jobs := (outOfService_withdrawStreams _ u).jobs
    refine ⟨_, rfl, ?_, fun n y hy hyj => ?_⟩
    · rw [unloadJob_resident hp, phaseOf, jobOf, adjJob_jobs, mapGet_mapAdjust, if_pos rfl, hjobs, ← jobOf, hj]
      rfl
    · rw [unloadJob_resident hp] at hy
      exact withdrawJob_streams (s := u) hy hyj
  · exact unload_none h hj
  · rw [restart_some h hj]
    unfold restartJob
    rw [hp]
    refine ⟨_, rfl, rfl, ?_⟩
    unfold jobReset
    dsimp only
    rw [restarting_showFault]
    exact bitsAt_setJobBit (fld_lt c.desc 24 5) _
  · exact restart_none h hj

end Sys2Proof.Machine
end

section
/-!
Loads, table writes, planning requests and power policies.
-/
namespace Sys2Proof.Machine
open Sys2Proof

/-! ### Inputs -/

/-- An opcode that reads an input which can be read. -/
theorem withInput_ok {c : Consumed} {rd : ReadData} {f : List Byte → State → State} {s : State} {bs : List Byte}
    (h : inputOf c rd (openInput c rd s) = .ok bs) : withInput c rd f s = f bs (openInput c rd s) := by
  unfold withInput
  simp only [h]

/-! ### JOB_LOAD -/

section
variable {id : Nat} {image binding : ReadData} {im : List Byte} {rings : List Nat} {c : Consumed} {s : State}

theorem exec_jobLoad (h : Accepted id 0x10 c s) :
    exec (.jobLoad id image binding) s = .next (settle (jobLoad image binding c (markStarted id s))) := by
  simp only [exec, execJobLoad]
  exact beginSettled_of h _

/-- A refused binding list refuses the load (R71). -/
theorem jobLoad_refused {e : LoadErr} (hi : inputOf c image (openInput c image s) = .ok im)
    (hb : bindings c (Img.streamCount im) binding (metList c (Img.streamCount im) binding (openInput c image s)) = .refused e) :
    jobLoad image binding c s = refuseLoad c e (metList c (Img.streamCount im) binding (openInput c image s)) := by
  rw [jobLoad, withInput_ok hi]
  simp only [hb]

/-- With its rings a load is checked and placed (R70). -/
theorem jobLoad_rings (hi : inputOf c image (openInput c image s) = .ok im)
    (hb : bindings c (Img.streamCount im) binding (metList c (Img.streamCount im) binding (openInput c image s)) = .rings rings) :
    jobLoad image binding c s = loadImage c im rings (metList c (Img.streamCount im) binding (openInput c image s)) := by
  rw [jobLoad, withInput_ok hi]
  simp only [hb]

/-- The streams that a load creates. -/
def loadStreams (c : Consumed) (im : List Byte) (rings : List Nat) (s : State) : List Machine.Stream :=
  (Img.streams im).zipIdx.map fun (r, i) => newStream (fld c.desc 24 5) (rings.getD i c.sq) r s

/-- The objects that it places. -/
def loadObjects (im : List Byte) (s : State) : List TierObj := (Img.objects im s).map fun p => p.1.obj

/-- The layout check comes first. -/
theorem loadImage_layout {e : LoadErr} (h : Img.layoutCheck im (inLen c.desc) = some e) : loadImage c im rings s = refuseLoad c e s := by
  unfold loadImage loadImage.layoutCheck'
  simp only [h, Option.orElse_some]

/-- Then signature and version. -/
theorem loadImage_auth {e : LoadErr} (hl : Img.layoutCheck im (inLen c.desc) = none) (h : Img.authCheck im (runningVersion s) s = some e) :
    loadImage c im rings s = refuseLoad c e s := by
  unfold loadImage loadImage.layoutCheck'
  simp only [hl, h, Option.orElse_none]

/-- Then fit. -/
theorem loadImage_fit {e : LoadErr} (hl : Img.layoutCheck im (inLen c.desc) = none) (ha : Img.authCheck im (runningVersion s) s = none)
    (h : fitCheck (fld c.desc 24 5) (arg c.desc 40 2) (Img.dieRecs im) (loadStreams c im rings s) (loadObjects im s) s = some e) :
    loadImage c im rings s
      = refuseLoad c e (if t2Short e (loadObjects im s) s then setB Fld.memErrStatusT2Short 0 true s else s) := by
  unfold loadStreams loadObjects at h
  unfold loadImage loadImage.layoutCheck' loadObjects
  simp only [hl, ha, h, Option.orElse_none]

/-- Then content, and at last the placement of the pages in T1. -/
theorem loadImage_fits (hl : Img.layoutCheck im (inLen c.desc) = none) (ha : Img.authCheck im (runningVersion s) s = none)
    (hf : fitCheck (fld c.desc 24 5) (arg c.desc 40 2) (Img.dieRecs im) (loadStreams c im rings s) (loadObjects im s) s = none) :
    (∀ e, Chk.contentCheck im (fld c.desc 24 5) s = some e → loadImage c im rings s = refuseLoad c e s)
    ∧ (Chk.contentCheck im (fld c.desc 24 5) s = none →
      (placeJob (fld c.desc 24 5) (arg c.desc 40 2) im s = none → loadImage c im rings s = refuseLoad c (Status.refusedFit, 0x0208, 0xFF) s)
      ∧ (∀ t, placeJob (fld c.desc 24 5) (arg c.desc 40 2) im s = some t →
        loadImage c im rings s
          = done c (loadStreams c im rings s).length (createStreams (arg c.desc 40 2) (loadStreams c im rings s) t))) := by
  unfold loadStreams loadObjects at hf
  unfold loadImage loadImage.layoutCheck' loadStreams
  simp only [hl, ha, hf, Option.orElse_none]
  refine ⟨fun e hc => ?_, fun hc => ⟨fun hp => ?_, fun t hp => ?_⟩⟩
  · simp only [hc]
  · simp only [hc, hp]
  · simp only [hc, hp]

end

/-- Settles O28: each check that finds an error refuses the load in its turn (`loadImage_layout` to `loadImage_fits`). -/
theorem loadChecksInOrder : Obligations.LoadChecksInOrder := by
  intro id image binding im rings c s v u slot base new objs ends hacc hi
  refine ⟨fun e hb => ?_, fun hb => ⟨fun e hl => ?_, fun hl => ⟨fun e ha => ?_, fun e ha hf => ?_, fun ha hf => ⟨fun e hc => ?_,
    fun hc hp => ?_, fun t hc hp => ?_⟩⟩⟩⟩
  · rw [exec_jobLoad hacc, jobLoad_refused hi hb]
    rfl
  all_goals rw [exec_jobLoad hacc, jobLoad_rings hi hb]
  · rw [loadImage_layout hl]
    rfl
  · rw [loadImage_auth hl ha]
    rfl
  · rw [loadImage_fit hl ha hf]
    rfl
  · rw [(loadImage_fits hl ha hf).1 e hc]
    rfl
  · rw [((loadImage_fits hl ha hf).2 hc).1 hp]
    rfl
  · rw [((loadImage_fits hl ha hf).2 hc).2 t hp]
    rfl

/-! ### TABLE_WRITE -/

theorem exec_tableWrite {id : Nat} {data : ReadData} {c : Consumed} {s : State} (h : Accepted id 0x20 c s) (hrow : tableRow id s = 0) :
    exec (.tableWrite id data) s = .next (settle (tableWrite data c (markStarted id s))) := by
  simp only [exec, execTableWrite, hrow]
  exact beginSettled_of h _

theorem exec_treeWrite {id : Nat} {data : ReadData} {c : Consumed} {s : State} (h : Accepted id 0x20 c s) (hrow : tableRow id s = 1) :
    exec (.treeWrite id data) s = .next (settle (treeWriteOf data c (markStarted id s))) := by
  simp only [exec, execTreeWrite, hrow]
  exact beginSettled_of h _

theorem exec_setpointWrite {id : Nat} {data : ReadData} {c : Consumed} {s : State} (h : Accepted id 0x20 c s) (hrow : tableRow id s = 2) :
    exec (.setpointWrite id data) s = .next (settle (setpointWrite data c (markStarted id s))) := by
  simp only [exec, execSetpointWrite, hrow]
  exact beginSettled_of h _

/-- A versioned table of an engine, read. -/
theorem tableWrite_ok {data : ReadData} {bs : List Byte} {c : Consumed} {s : State} (h1 : 1 ≤ (tableForm c).1) (h3 : (tableForm c).1 ≤ 3)
    (hi : inputOf c data (openInput c data s) = .ok bs) : tableWrite data c s =
      if !(tableOk c bs (openInput c data s)) then refuseFormat c 0x0110 0 (openInput c data s)
      else if !(versionOk (tableKeyOf c) (arg c.desc 44 4) (openInput c data s)) then refuseFormat c 0x0111 0 (openInput c data s)
      else if !(tableFits (tableKeyOf c) bs.length (openInput c data s)) then refuseFormat c 0x0112 0 (openInput c data s)
      else startEngine c (offerTable
        { key := tableKeyOf c, version := arg c.desc 44 4, data := bs, id := c.id
          held := (tableForm c).1 = 1 && arg c.desc 43 1 % 2 = 1, ready := false } (openInput c data s)) := by
  unfold tableWrite
  dsimp only
  rw [if_neg (by omega), withInput_ok hi]

/-- An entry of the host changes no queue of commits. -/
theorem hostEntry_commits (bs : List Byte) (s : State) : (hostEntry bs s).cle.commits = s.cle.commits := by
  unfold hostEntry
  dsimp only
  split
  · exact congrArg CleUnit.commits (postEvent_cle _ _ _ _ _)
  · rfl

/-- Settles O29: a versioned table (`tableWrite_ok`), a TREE and a SETPOINT write, each past its checks. -/
theorem tableWrites : Obligations.TableWrites := by
  intro id data bs c s u key v pend hacc hi
  refine ⟨fun hrow h1 h3 => ⟨fun hok => ?_, fun hok hv => ?_, fun hok hv hf => ?_, fun hok hv hf => ?_⟩, fun hrow hw hlen hfault hv => ?_,
    fun hrow hargs hset hv => ?_⟩
  · rw [exec_tableWrite hacc hrow, tableWrite_ok h1 h3 hi, if_pos (by rw [show tableOk c bs (openInput c data (markStarted id s)) = false from hok]; rfl)]
  · rw [exec_tableWrite hacc hrow, tableWrite_ok h1 h3 hi,
      if_neg (by rw [show tableOk c bs (openInput c data (markStarted id s)) = true from hok]; simp),
      if_pos (by rw [show versionOk (tableKeyOf c) (arg c.desc 44 4) (openInput c data (markStarted id s)) = false from hv]; rfl)]
  · rw [exec_tableWrite hacc hrow, tableWrite_ok h1 h3 hi,
      if_neg (by rw [show tableOk c bs (openInput c data (markStarted id s)) = true from hok]; simp),
      if_neg (by rw [show versionOk (tableKeyOf c) (arg c.desc 44 4) (openInput c data (markStarted id s)) = true from hv]; simp),
      if_pos (by rw [show tableFits (tableKeyOf c) bs.length (openInput c data (markStarted id s)) = false from hf]; rfl)]
  · rw [exec_tableWrite hacc hrow, tableWrite_ok h1 h3 hi,
      if_neg (by rw [show tableOk c bs (openInput c data (markStarted id s)) = true from hok]; simp),
      if_neg (by rw [show versionOk (tableKeyOf c) (arg c.desc 44 4) (openInput c data (markStarted id s)) = true from hv]; simp),
      if_neg (by rw [show tableFits (tableKeyOf c) bs.length (openInput c data (markStarted id s)) = true from hf]; simp)]
  · rw [exec_treeWrite hacc hrow, treeWriteOf, withInput_ok hi, treeWrite, if_neg, if_neg]
    · rfl
    · rw [show treeVersionOk (arg c.desc 44 4) (openInput c data (markStarted id s)) = true from hv]
      simp
    · rw [show getB Fld.plnWriterEn 0 (openInput c data (markStarted id s)) = false from hw]
      simp [← hlen, hfault]
  · have hwrite : setpointWrite data c (markStarted id s) = queueCommit (.host c.id) (forEach (chunksOf 16 64 bs) hostEntry u) := by
      rw [setpointWrite, withInput_ok hi, if_neg (by simp [hargs, hset]), if_neg (not_not.mpr hv)]
    refine ⟨_, by rw [exec_setpointWrite hacc hrow, hwrite], rfl, (forEach (chunksOf 16 64 bs) hostEntry u).cle.nextCommit, ?_⟩
    have hkept : (forEach (chunksOf 16 64 bs) hostEntry u).cle.commits = u.cle.commits :=
      forEach_mem (P := fun t => t.cle.commits = u.cle.commits) rfl fun bs _ t ht => (hostEntry_commits bs t).trans ht
    rw [queueCommit, setCle_cle, hkept]

/-! ### PLAN_REQUEST and POWER_POLICY -/

/-- QUEUED as it is shown. -/
theorem queued_showPlan (s : State) : getF Fld.plnStatusQueued 0 (showPlan s) = s.plan.queue.length % 128 := by
  unfold showPlan setB
  rw [getF_setF_apart (by decide), getF_setF_apart (by decide), getF_setF_own (by decide)]
  rfl

/-- Settles O30: the request joins the queue, waits for room, or completes as NO_PATH. -/
theorem planRequestsQueue : Obligations.PlanRequestsQueue := by
  intro id c s hacc hops u
  have hexec (hroom : (planOn s && decide (64 ≤ s.plan.queue.length)) = false) :
      exec (.planRequest id) s = .next (refuseFenced (planRequest c u)) := by
    simp only [exec, execPlanRequest, hroom]
    exact begin_of hacc _
  refine ⟨fun hon hlen => ?_, fun hon hlen => ?_, fun hoff => ?_⟩
  · have hreq : planRequest c u = showPlan { u with plan := { u.plan with queue := u.plan.queue ++ [c.id] } } := if_neg (by simp [show planOn u = true from hon])
    refine ⟨_, ?_, rfl, ?_⟩
    · rw [hexec (by simp [hlen]), hreq, refuseFenced_none]
      exact fun k hk => (badOp_of_upd k rfl).trans (markStarted_badOp hops k hk)
    · rw [queued_showPlan]
      change (s.plan.queue ++ [c.id]).length % 128 = _
      rw [List.length_append, List.length_singleton]
      omega
  · change execPlanRequest id s = _
    rw [execPlanRequest, if_pos (by simp [hon, hlen])]
  · refine ⟨_, ?_, rfl⟩
    rw [hexec (by simp [hoff]), planRequest, if_pos (by simp [show planOn u = false from hoff]), refuseFenced_completeOrWait (markStarted_badOp hops)]

theorem exec_powerPolicy {id : Nat} {c : Consumed} {s : State} (h : Accepted id 0x31 c s) : exec (.powerPolicy id) s =
    .next (settle (if PP.ok c.desc then runPolicy c (markStarted id s) else refuseFormat c 0x011A 0 (markStarted id s))) := by
  simp only [exec, execPowerPolicy]
  exact beginSettled_of h _

/-- What a policy's clamps report, in order: the throttle, then the floors (R402, R359). -/
theorem runPolicy_eq {c : Consumed} {s : State} {hot low : Bool} (hhot : (PP.sets c.desc 3 && decide (100 < PP.throttle c.desc)) = hot)
    (hlow : floorClamped c.desc s = low) : runPolicy c s =
      let p := storePolicy c.desc s
      let p := if hot then clampReport 1 12 p else p
      let p := if low then clampReport 2 12 p else p
      completeOrWait c (plainFacts Status.done (if hot then 0x0402 else if low then 0x0403 else 0) (effectiveCap p)) p := by
  unfold runPolicy
  simp only [hhot, hlow]

/-- Settles O32: a policy is refused, or stored with its clamps reported (`runPolicy_eq`). -/
theorem powerPolicyStores : Obligations.PowerPolicyStores := by
  intro id c s hacc u p hot ends
  refine ⟨fun hok => ?_, fun hok => ?_⟩
  · rw [exec_powerPolicy hacc, if_neg (by simp [hok])]
  · have hcold (h : ¬ hot) : (PP.sets c.desc 3 && decide (100 < PP.throttle c.desc)) = false := by
      simpa [hot] using h
    have hwarm (h : hot) : (PP.sets c.desc 3 && decide (100 < PP.throttle c.desc)) = true := by
      simpa [hot] using h
    rw [exec_powerPolicy hacc, if_pos hok]
    refine ⟨fun h hl => ?_, fun h hl => ?_, fun h hl => ?_, fun h hl => ?_⟩
    · rw [runPolicy_eq (hcold h) hl]
      rfl
    · rw [runPolicy_eq (hwarm h) hl]
      rfl
    · rw [runPolicy_eq (hwarm h) hl]
      rfl
    · rw [runPolicy_eq (hcold h) hl]
      rfl

end Sys2Proof.Machine
end

section
/-!
Firmware updates, their confirmation and the health watchdog.
-/
namespace Sys2Proof.Machine
open Sys2Proof

theorem exec_updateHeader {id : Nat} {data : ReadData} {c : Consumed} {s : State} (he : earlierUpdate id s = false)
    (h : Accepted id 0x40 c s) : exec (.updateHeader id data) s = .next (settle (updateHeader data c (markStarted id s))) := by
  simp only [exec, execUpdateHeader, he]
  exact beginSettled_of h _

theorem exec_updateBody {id : Nat} {data : ReadData} {c : Consumed} {s : State} (he : earlierUpdate id s = false)
    (h : Accepted id 0x41 c s) : exec (.updateBody id data) s = .next (settle (updateBody data c (markStarted id s))) := by
  simp only [exec, execUpdateBody, he]
  exact beginSettled_of h _

theorem exec_updateCommit {id : Nat} {c : Consumed} {s : State} (he : earlierUpdate id s = false)
    (h : Accepted id 0x42 c s) : exec (.updateCommit id) s = .next (settle (updateCommit c (markStarted id s))) := by
  simp only [exec, execUpdateCommit, he]
  exact beginSettled_of h _

/-- A body of a session, at its place and of a lawful length, or refused (R459). -/
theorem updateBody_session {rd : ReadData} {c : Consumed} {sess : Machine.UpdateSession} {s : State} (h : s.upd.session = some sess) :
    updateBody rd c s = if arg c.desc 40 4 ≠ sess.received ∨ FW.bodyLen sess.header < sess.received + inLen c.desc ∨ inLen c.desc = 0
        ∨ 2 ^ 20 < inLen c.desc then refuseFormat c 0x011E 0 s
      else withInput c rd (fun bs s => done c (sess.received + bs.length) (programBody sess bs s)) s := by
  unfold updateBody
  simp only [h]

/-- A commit of a session (R460). -/
theorem updateCommit_session {c : Consumed} {sess : Machine.UpdateSession} {s : State} (h : s.upd.session = some sess) :
    updateCommit c s = if bitsAt (arg c.desc 40 1) 0 1 = 1 then done c 0 (endUpdate s)
      else if sess.received < FW.bodyLen sess.header then refuseFormat c 0x011F 0 s
      else if bodyOk sess.slot sess.header s then done c 0 (commitSlot sess s)
      else completeOrWait c (plainFacts Status.refusedAuth 0x0806 0) (endUpdate s) := by
  unfold updateCommit
  simp only [h]

/-! ### The health watchdog -/

/-- The state of a trial that its watchdog has ended, before any reset: the slot is BAD and the other is next (R464). -/
def trialEnded (s : State) : State :=
  updEvent 0x0003 (1 - s.upd.runningSlot + 2 * 256)
    (writeRecord (setUpd { (setSlotState s.upd.runningSlot 5 s).upd with trialFrom := none, next := 1 - s.upd.runningSlot }
      (setSlotState s.upd.runningSlot 5 s)))

theorem wdReset_trialEnded (s : State) : getB Fld.updCfgWdReset 0 (trialEnded s) = getB Fld.updCfgWdReset 0 s := by
  unfold trialEnded updEvent
  exact getB_postEvent (f := Fld.updCfgWdReset) (by unfold quietKey; decide) _ _ _ _ _

theorem upd_trialEnded (s : State) : (trialEnded s).upd = { s.upd with
    slots := s.upd.slots.set s.upd.runningSlot { slotOfFlash s.upd.runningSlot s with state := 5 }
    trialFrom := none, next := 1 - s.upd.runningSlot, seq := (s.upd.seq + 1) % 2 ^ 32 } := postEvent_upd _ _ _ _ _

theorem watchdog_eq (s : State) : watchdog s = if getB Fld.updCfgWdReset 0 s then moduleReset 3 (trialEnded s) else trialEnded s := by
  rw [← wdReset_trialEnded]
  rfl

/-- Settles O33: the updates follow their session (`updateBody_session`, `updateCommit_session`), the trial its conditions. -/
theorem updateSessionsAndTrials : Obligations.UpdateSessionsAndTrials := by
  refine ⟨fun id data bs sess c s he => ?_, fun sel s hr => ?_⟩
  · intro m u
    refine ⟨fun h hi => ?_, fun h hs => ?_, fun h hs => ?_, fun h hs => ⟨fun hb => ?_, fun hb hl => ?_, fun hb hl => ?_⟩⟩
    · rw [exec_updateHeader he h, updateHeader]
      exact congrArg (fun t => Host.Outcome.next (settle t)) (withInput_ok hi)
    · rw [exec_updateBody he h, updateBody, show (markStarted id s).upd.session = none from hs]
    · intro n bad
      refine ⟨fun hbad => ?_, fun hok hi => ?_⟩
      · rw [exec_updateBody he h, updateBody_session (sess := sess) (s := m) hs, if_pos hbad]
      · rw [exec_updateBody he h, updateBody_session (sess := sess) (s := m) hs, if_neg hok, withInput_ok hi]
    · rw [exec_updateCommit he h, updateCommit_session (sess := sess) (s := m) hs, if_pos hb]
    · rw [exec_updateCommit he h, updateCommit_session (sess := sess) (s := m) hs, if_neg (by omega), if_pos hl]
    · rw [exec_updateCommit he h, updateCommit_session (sess := sess) (s := m) hs, if_neg (by omega), if_neg (by omega)]
  · intro k
    refine ⟨fun h => ?_, fun h => ?_, fun h => settled_of _ (by simp [hr, h]), fun h => settled_not _ (by simp [h]),
      fun h => ⟨fun hw => ?_, fun hw hk => ?_⟩, fun h => settled_not _ (by simp [h])⟩
    · change execHostOk s = _
      rw [execHostOk, onlyIf, if_pos (by simp [hr, h])]
      rfl
    · exact next_onlyIf_not _ (by simp [h])
    all_goals
      have hexec : exec (.healthWatchdog sel) s = .next (settle (watchdog (pinHostSel sel s))) := settled_of _ (by simp [hr, h])
      have hpin : getB Fld.updCfgWdReset 0 (pinHostSel sel s) = getB Fld.updCfgWdReset 0 s := rfl
    · exact ⟨trialEnded (pinHostSel sel s), by rw [hexec, watchdog_eq, if_pos (hpin.trans hw)]⟩
    · refine ⟨trialEnded (pinHostSel sel s), by rw [hexec, watchdog_eq, if_neg (by rw [hpin, hw]; simp)], ?_, ?_, ?_⟩
      · rw [upd_trialEnded]
        rfl
      · rw [upd_trialEnded]
      · have hget : slotOfFlash k (trialEnded (pinHostSel sel s)) = { slotOfFlash k s with state := 5 } := by
          unfold slotOfFlash
          rw [upd_trialEnded]
          simp [pinHostSel, setPower, k, hk, slotOfFlash]
        rw [slotState, hget]

end Sys2Proof.Machine
end

section
/-!
The Dealer's choice at a trick boundary, and the landing of fetch threads.
-/
namespace Sys2Proof.Machine
open Sys2Proof

/-! ### The boundary -/

/-- No input is read where no chunk starts. -/
theorem readStarted_self (ecc : ReadEcc) (s : State) : readStarted ecc s s = s := by
  unfold readStarted
  refine forEach_same _ _ _ fun st _ => ?_
  split
  · next i hi => rw [if_pos (by rw [hi]; rfl)]
  · rfl

/-- A trick of a chunk or a frame goes on at its boundary. -/
theorem trickBoundary_running {d st : Nat} {k : TrickKind} {s : State} (h : (dieOf d s).running = some (st, k)) (hk : k ≠ .swap) :
    trickBoundary d s = s := by
  have hswap : endSwap d s = s := by
    unfold endSwap
    rw [h]
    cases k with
    | swap => exact absurd rfl hk
    | chunk => rfl
    | dummy => rfl
  unfold trickBoundary
  rw [hswap, if_pos (by simp [h])]

/-- A free die that is ready chooses (R78). -/
theorem trickBoundary_free {d : Nat} {s : State} (h : (dieOf d s).running = none) (hready : dieReady d s = true)
    (hleaving : dieLeaving d s = false) (hpoint : s.lim.noPoint.contains d = false) : trickBoundary d s = choose d s := by
  have hswap : endSwap d s = s := by
    unfold endSwap
    rw [h]
  unfold trickBoundary
  rw [hswap, if_neg (by rw [h, hready, hleaving, hpoint]; simp)]

section
variable {d : Nat} {s : State}

theorem choose_started {st : Nat} {i : Item} {k : TrickKind} (h : startedGuaranteed d s = some (st, i, k)) :
    choose d s = runItem d st i k s := by
  unfold choose
  simp only [h]

variable (hs : startedGuaranteed d s = none)
include hs

/-- A due dummy frame goes next, and marks the guaranteed chunk that it passes (R27). -/
theorem choose_due {st : Nat} {x : Machine.Stream} (h : dueDummy d s = some (st, x)) (hj : hasJumped (earliestGuaranteed d s) s = false) :
    choose d s = runDummy d st x (markJumped (earliestGuaranteed d s) s) := by
  unfold choose
  simp only [hs, h, hj]
  rfl

/-- A chunk that has been passed goes before the next frame (R27). -/
theorem choose_passed {st st' : Nat} {x : Machine.Stream} {i : Item} {k : TrickKind} (h : dueDummy d s = some (st, x))
    (he : earliestGuaranteed d s = some (st', i, k)) (hj : hasJumped (earliestGuaranteed d s) s = true) : choose d s = runItem d st' i k s := by
  rw [he] at hj
  unfold choose
  simp only [hs, h, he, hj, if_true]

variable (hd : dueDummy d s = none)
include hd

theorem choose_forced {st : Nat} {i : Item} (h : forcedSwap d s = some (st, i)) : choose d s = runItem d st i .swap s := by
  unfold choose
  simp only [hs, hd, h]

theorem choose_guaranteed {st : Nat} {i : Item} {k : TrickKind} (hf : forcedSwap d s = none) (h : earliestGuaranteed d s = some (st, i, k)) :
    choose d s = runItem d st i k s := by
  unfold choose
  simp only [hs, hd, hf, h]

theorem choose_flexible (hf : forcedSwap d s = none) (he : earliestGuaranteed d s = none) (hg : (dieOf d s).gang = none) :
    choose d s = chooseFlexible d s := by
  unfold choose
  simp only [hs, hd, hf, he]
  unfold chooseHeld
  rw [hg]

end

/-- Settles O34: the order of `choose`, at the boundary of a free die (`trickBoundary_free`). -/
theorem dealerChoosesAtBoundaries : Obligations.DealerChoosesAtBoundaries := by
  intro die ecc s hr d ends
  have hexec : exec (.trickBoundary die ecc) s = .next (settle (readStarted ecc s (trickBoundary d s))) := settled_of _ hr
  refine ⟨fun st k h hk => ?_, fun h hready hleaving hpoint => ?_⟩
  · rw [hexec, trickBoundary_running h hk, readStarted_self]
  · have hends (u : State) (hu : choose d s = u) : ends u := by
      change exec (.trickBoundary die ecc) s = _
      rw [hexec, trickBoundary_free h hready hleaving hpoint, hu]
    refine ⟨fun st i k hs => hends _ (choose_started hs), fun hs => ⟨fun st x hd hj => hends _ (choose_due hs hd hj),
      fun st x st' i k hd he hj => hends _ (choose_passed hs hd he hj), fun hd => ⟨fun st i hf => hends _ (choose_forced hs hd hf),
        fun st i k hf he => hends _ (choose_guaranteed hs hd hf he), fun hf he hg => ⟨fun st hp => hends _ ?_, fun st x hp hi => hends _ ?_⟩⟩⟩⟩
    · rw [choose_flexible hs hd hf he hg, chooseFlexible]
      simp only [hp]
    · rw [choose_flexible hs hd hf he hg, chooseFlexible]
      simp only [hp, hi]

/-! ### Fetch threads -/

/-- A thread that may not write yet, or whose way is closed, waits (R133). -/
theorem fetchDone_waits {d id : Nat} {ecc : ReadEcc} {t : Thread} {s : State} (ht : threadOf d id s = some t)
    (h : mayWrite d t s = false ∨ threadPath d t.desc s = false) : fetchDone d id ecc s = s := by
  unfold fetchDone
  simp only [ht]
  rw [if_pos]
  rcases h with h | h <;> simp [h]

/-- A demanded thread is gone when it is done; a speculative one counts as done. -/
theorem endThread_demanded {d : Nat} {t : Thread} (h : t.spec = none) (s : State) : endThread d t s = dropThread d t.id s := by
  unfold endThread
  rw [if_neg (by simp [h])]

theorem endThread_speculative {d k : Nat} {t : Thread} (h : t.spec = some k) (s : State) :
    endThread d t s = adjThread d t.id (fun t => { t with done := true }) s := by
  unfold endThread
  rw [if_pos (by simp [h])]

/-- A token goes to the stream, or into the epoch of a speculative thread. -/
theorem threadToken_demanded {d : Nat} {t : Thread} (hd : t.dropped = false) (h : t.spec = none) (s : State) :
    threadToken d t s = tokenAdd t.stream d (FD.doneToken t.desc) 1 s := by
  unfold threadToken
  rw [if_neg (by simp [hd])]
  simp only [h]

theorem threadToken_speculative {d k : Nat} {t : Thread} (hd : t.dropped = false) (h : t.spec = some k) (s : State) :
    threadToken d t s = adjEpoch d 1 (fun e => { e with tokens := e.tokens ++ [(FD.doneToken t.desc, 1)] }) s := by
  unfold threadToken
  rw [if_neg (by simp [hd])]
  simp only [h]

section
variable {d id : Nat} {ecc : ReadEcc} {t : Thread} {s : State}
variable (ht : threadOf d id s = some t) (hdone : t.done = false) (hw : mayWrite d t s = true) (hp : threadPath d t.desc s = true)
include ht hdone hw hp

/-- A dropped thread leaves no token (R474). -/
theorem fetchDone_dropped (h : t.dropped = true) :
    fetchDone d id ecc s = dropThread d id (if (threadErr d t.desc s).isNone then landThread d t s else s) := by
  unfold fetchDone
  simp only [ht, hdone, hw, hp, h]
  rw [if_neg (by simp), if_pos trivial]
  split <;> rfl

variable (h : t.dropped = false)
include h

/-- Data without an error lands, with its token, where the slots suffice (R133, R138). -/
theorem fetchDone_lands (he : threadErr d t.desc (touchRanges (threadRanges t.desc) (senseRanges (threadRanges t.desc) ecc s)) = none)
    (hslots : (t.spec.isSome && slotsShort d (landThread d t (takeWait d t (touchRanges (threadRanges t.desc)
      (senseRanges (threadRanges t.desc) ecc s))))) = false) : fetchDone d id ecc s = endThread d t (threadToken d t
        (landThread d t (takeWait d t (touchRanges (threadRanges t.desc) (senseRanges (threadRanges t.desc) ecc s))))) := by
  unfold fetchDone
  simp only [ht, hdone, hw, hp, h, he, hslots]
  simp

/-- An error ends a demanded thread as its chunk's (R173). -/
theorem fetchDone_faults {e : ReadErr} (he : threadErr d t.desc (touchRanges (threadRanges t.desc) (senseRanges (threadRanges t.desc) ecc s)) = some e)
    (hspec : t.spec = none) : fetchDone d id ecc s =
      readFault t.stream t.dummy e (dropThread d id (touchRanges (threadRanges t.desc) (senseRanges (threadRanges t.desc) ecc s))) := by
  unfold fetchDone
  simp only [ht, hdone, hw, hp, h, he, hspec]
  simp

/-- An error of a speculative thread stands in its epoch (R140). -/
theorem fetchDone_holds {e : ReadErr} {k : Nat}
    (he : threadErr d t.desc (touchRanges (threadRanges t.desc) (senseRanges (threadRanges t.desc) ecc s)) = some e)
    (hspec : t.spec = some k) : fetchDone d id ecc s = endThread d t (adjEpoch d 1 (fun x => { x with faults := x.faults ++ [e] })
      (touchRanges (threadRanges t.desc) (senseRanges (threadRanges t.desc) ecc s))) := by
  unfold fetchDone
  simp only [ht, hdone, hw, hp, h, he, hspec]
  simp

/-- The next row of a demanded thread of plane rows (R163). -/
theorem rowLanded_next {t' : Thread} (hrow : FD.planeRow t.desc = true) (hlt : t.landed < planeRows8 t.desc)
    (he : threadErr d t.desc s = none) (ht' : threadOf d id (takeWait d t s) = some t') (hspec : t'.spec = none) :
    rowLanded d id s = landPlaneRow d t' (takeWait d t s) := by
  unfold rowLanded
  simp only [ht, hdone, hw, hp, h, hrow, he, ht', hspec]
  rw [if_neg (by simp [Nat.not_le.mpr hlt])]
  simp

end

/-- Settles O36: a thread waits, is dropped, lands or ends with its error (`fetchDone_waits` to `rowLanded_next`). -/
theorem fetchThreadsLand : Obligations.FetchThreadsLand := by
  intro die id ecc t s hr ht hdone d rs u v ends
  have hends (w : State) (hw : fetchDone d id ecc s = w) : ends w := by
    change exec (.fetchThreadDone die id ecc) s = _
    rw [← hw]
    exact settled_of _ hr
  refine ⟨fun h => hends _ (fetchDone_waits ht h), fun hw hp => ⟨fun h => hends _ (fetchDone_dropped ht hdone hw hp h), fun h =>
    ⟨fun he hspec => hends _ ?_, fun k he hspec hslots => hends _ ?_, fun e he hspec => hends _ (fetchDone_faults ht hdone hw hp h he hspec),
      fun e k he hspec => hends _ ?_, fun t' hrow hlt he ht' hspec => ?_⟩⟩⟩
  · rw [fetchDone_lands ht hdone hw hp h he (by simp [hspec])]
    rw [endThread_demanded hspec, threadToken_demanded h hspec]
  · rw [fetchDone_lands ht hdone hw hp h he (by rw [show slotsShort d _ = false from hslots, Bool.and_false])]
    rw [endThread_speculative hspec, threadToken_speculative h hspec]
  · rw [fetchDone_holds ht hdone hw hp h he hspec]
    rw [endThread_speculative hspec]
  · exact (settled_of _ hr).trans (by rw [rowLanded_next ht hdone hw hp h hrow hlt he ht' hspec])

end Sys2Proof.Machine
end

section
/-!
Barriers, walkers and cheap paths; sends over the die links; dummy frames.
-/
namespace Sys2Proof.Machine
open Sys2Proof

/-! ### Barriers -/

section
variable {st b : Nat} {dummy : Bool} {x : Machine.Stream} {j : Job} {s : State}
variable (hx : streamOf st s = some x) (hj : jobOfStream st s = some j)
include hx hj

/-- Where every die stands at the same barrier, each passes it (R129). -/
theorem barrierPass_all (hne : diesOf x ≠ []) (h : ∀ k ∈ diesOf x, barrierOf j (runCtx x k dummy) k = some b) :
    barrierPass st dummy s = forEach (diesOf x) (fun k s => setB Fld.fabSeqStatusBarrierStall k false
      (adjRun st k dummy (fun c => { c with atBarrier := false, barrierPassed := true }) s)) s := by
  unfold barrierPass
  simp only [hx, hj]
  obtain ⟨k, l, hl⟩ := List.exists_cons_of_ne_nil hne
  have hk : barrierOf j (runCtx x k dummy) k = some b := h k (by simp [hl])
  have hrest : (l.map fun d => barrierOf j (runCtx x d dummy) d).all (fun r => r == some b) = true := by
    rw [List.all_eq_true]
    intro r hr
    obtain ⟨d, hd, rfl⟩ := List.mem_map.mp hr
    exact beq_iff_eq.mpr (h d (by simp [hl, hd]))
  rw [hl, List.map_cons, hk]
  simp only [hrest, if_true]

/-- A die that stands at none keeps the barrier closed. -/
theorem barrierPass_none (h : ∃ k ∈ diesOf x, barrierOf j (runCtx x k dummy) k = none) : barrierPass st dummy s = s := by
  obtain ⟨k, hk, hnone⟩ := h
  have hmem : none ∈ (diesOf x).map fun d => barrierOf j (runCtx x d dummy) d := List.mem_map.mpr ⟨k, hk, hnone⟩
  unfold barrierPass
  simp only [hx, hj]
  split
  · next b rest hl =>
    rw [hl] at hmem
    rw [if_neg]
    intro hall
    rcases List.mem_cons.mp hmem with hb | hr
    · cases hb
    · exact absurd (List.all_eq_true.mp hall none hr) (by simp)
  · rfl

end

/-! ### Page steps -/

section
variable {d : Nat} {ecc : ReadEcc} {w : Walker} {s : State}
variable (hw : (dieOf d s).walker = some w)
include hw

theorem pageStep_busy (h : walkerReady w (rowSteps w.desc (walkerRow w s) s) = false) : pageStep d ecc s = s := by
  unfold pageStep
  simp [hw, h]

variable (hready : walkerReady w (rowSteps w.desc (walkerRow w s) s) = true)
include hready

/-- A row outside the table is an empty step (R206). -/
theorem pageStep_outside (h : walkerRow w s = none) :
    pageStep d ecc s = deliverStep w.stream d w (walkerRow w s) (rowSteps w.desc (walkerRow w s) s) s := by
  unfold pageStep
  simp only [hw, hready]
  rw [if_neg (by simp)]
  simp only [h]

variable {r : AttRow} (hrow : walkerRow w s = some r)
include hrow

/-- A length entry that fails its check (R208). -/
theorem pageStep_length (h : lenCheck w.desc (lenEntry w.desc r.seq s) s = false) :
    pageStep d ecc s = attFail w.stream d w.dummy 2 r.seq s := by
  rw [hrow] at hready
  unfold pageStep
  simp only [hw, hrow, hready, h]
  simp

/-- A step whose entries pass is read. -/
theorem pageStep_read (h : lenCheck w.desc (lenEntry w.desc r.seq s) s = true) {n : Option Nat}
    (hn : (rowSteps w.desc (walkerRow w s) s).getD w.step none = n)
    (hpage : n = none ∨ ∃ i, n = some i ∧ pageCheck (((streamOf w.stream s).map fun x => x.job).getD 0)
      (pageEntryAt w.desc (lenEntry w.desc r.seq s) r.head i) (pageEntry w.desc (lenEntry w.desc r.seq s) r.head i s) s = true) :
    pageStep d ecc s = stepRead w.stream d w.dummy (stepReads w.desc w r (lenEntry w.desc r.seq s) n s) ecc
      (deliverStep w.stream d w (some r) (rowSteps w.desc (some r) s)) s := by
  rw [hrow] at hready hn
  unfold pageStep
  simp only [hw, hrow, hready, h, hn]
  rcases hpage with rfl | ⟨i, rfl, hcheck⟩
  · simp
  · simp [hcheck]

/-- A page entry that fails its check (R208). -/
theorem pageStep_page (h : lenCheck w.desc (lenEntry w.desc r.seq s) s = true) {i : Nat}
    (hn : (rowSteps w.desc (walkerRow w s) s).getD w.step none = some i)
    (hpage : pageCheck (((streamOf w.stream s).map fun x => x.job).getD 0)
      (pageEntryAt w.desc (lenEntry w.desc r.seq s) r.head i) (pageEntry w.desc (lenEntry w.desc r.seq s) r.head i s) s = false) :
    pageStep d ecc s = attFail w.stream d w.dummy 3 r.seq s := by
  rw [hrow] at hready hn
  unfold pageStep
  simp only [hw, hrow, hready, h, hn, hpage]
  simp

end

/-- A read without an error goes on to its effect. -/
theorem stepRead_ok {st d : Nat} {dummy : Bool} {rs : List (Nat × Nat)} {ecc : ReadEcc} {ok : State → State} {s : State}
    (h : rangesErr d rs (touchRanges rs (senseRanges rs ecc s)) = none) :
    stepRead st d dummy rs ecc ok s = ok (touchRanges rs (senseRanges rs ecc s)) := by
  unfold stepRead
  simp only [h]

/-! ### The cheap-path choice -/

/-- No choice is made where no chunk runs. -/
theorem cheapChoice_idle {d : Nat} {s : State} (h : ∀ n, runningOn d s ≠ some (n, false)) : cheapChoice d s = s := by
  unfold cheapChoice
  split
  · next st hst => exact absurd hst (h st)
  · rfl

/-- None is made in exact mode (R109). -/
theorem cheapChoice_exact {d : Nat} {s : State} (h : (dieOf d s).exact = true) : cheapChoice d s = s := by
  have hmay (ex : Exec) (hd : ex.d = d) (j b : Nat) (c : Ctx) : mayChoose ex j b c s = false := by
    simp [mayChoose, hd, h]
  unfold cheapChoice
  split
  · split
    · dsimp only
      split
      · rfl
      · split
        · rfl
        · rw [if_pos (by rw [hmay _ rfl]; rfl)]
    · rfl
  · rfl

/-- Settles O37: barriers (`barrierPass_all`), page steps (`pageStep_read`) and the choice at a stall. -/
theorem barriersWalkersAndCheapPaths : Obligations.BarriersWalkersAndCheapPaths := by
  intro stream die ecc s hr st d page
  have hpage (u : State) (hu : pageStep d ecc s = u) : page u := by
    change exec (.pageStep die ecc) s = _
    rw [← hu]
    exact settled_of _ hr
  have hcheap : exec (.cheapPathChoice die) s = .next (settle (cheapChoice d s)) := settled_of _ hr
  refine ⟨settled_of _ hr, fun dummy x j b hx hj hne => ⟨fun h => barrierPass_all hx hj hne h, fun h => barrierPass_none hx hj h⟩,
    fun h => hpage _ ?_, ?_, fun h => ?_, fun h => ?_, ?_⟩
  · unfold pageStep
    rw [h]
  · intro w hw row steps j
    refine ⟨fun h => hpage _ (pageStep_busy hw h), fun hready => ⟨fun h => hpage _ (pageStep_outside hw hready h), ?_⟩⟩
    intro r hrow e n rs u
    refine ⟨fun h => hpage _ (pageStep_length hw hready hrow h), fun h => ⟨fun i hn hc => hpage _ (pageStep_page hw hready hrow h hn hc),
      fun hn herr => hpage _ ?_⟩⟩
    rw [pageStep_read hw hready hrow h rfl hn, stepRead_ok herr]
    exact congrArg (fun k => deliverStep w.stream d w k (rowSteps w.desc k s) u) hrow.symm
  · rw [hcheap, cheapChoice_idle h]
  · rw [hcheap, cheapChoice_exact h]
  · intro x j w hrun hx hj c ex u hword hent
    refine hcheap.trans (congrArg (fun t => Host.Outcome.next (settle t)) ?_)
    unfold cheapChoice
    simp only [hrun, hx, hj, show wordAt j d (ctxOf x d).issue = some w from hword, show (ctxOf x d).entered = true from hent, if_true]
    cases (foldAll ex s).late with
    | none => rfl
    | some p =>
      dsimp only
      cases mayChoose ex p.1 p.2 c s <;> rfl

/-! ### Sends over the die links -/

section
variable {id : Nat} {x : Send} {s : State}
variable (hx : s.sends.find? (fun x => x.id == id) = some x)
include hx

/-- A transfer behind another one, or over a closed link, waits (R19). -/
theorem arrive_waits (h : firstOnRoute x s = false ∨ pathOpen x.srcDie x.dst s = false) : arrive id s = s := by
  unfold arrive
  simp only [hx]
  rw [if_pos]
  rcases h with h | h <;> simp [h]

variable (hf : firstOnRoute x s = true) (hp : pathOpen x.srcDie x.dst s = true)
include hf hp

theorem arrive_die (h : x.dst < 4) : arrive id s = landOnDie x { s with sends := s.sends.filter fun y => y.id != id } := by
  unfold arrive
  simp [hx, hf, hp, h]

theorem arrive_dropped (h : 4 ≤ x.dst) (hd : x.dropped = true) : arrive id s = { s with sends := s.sends.filter fun y => y.id != id } := by
  unfold arrive
  simp [hx, hf, hp, Nat.not_lt.mpr h, hd]

/-- The hub takes lines from the front as far as it can. -/
theorem arrive_hub {t : State} {n : Nat} (h : 4 ≤ x.dst) (hd : x.dropped = false)
    (ht : takeHubLines x.srcDie x.stream x.addr x.lines s = (t, n)) : arrive id s =
      if x.lines.length ≤ n then
        { reportLost x.srcDie x.stream ((List.range n).any fun i => isLostLine (x.addr + 64 * i)) t with
          sends := (reportLost x.srcDie x.stream ((List.range n).any fun i => isLostLine (x.addr + 64 * i)) t).sends.filter fun y => y.id != id }
      else { reportLost x.srcDie x.stream ((List.range n).any fun i => isLostLine (x.addr + 64 * i)) t with
          sends := listUpdate (reportLost x.srcDie x.stream ((List.range n).any fun i => isLostLine (x.addr + 64 * i)) t).sends
            (fun y => y.id == id) fun y => { y with addr := y.addr + 64 * n, lines := y.lines.drop n } } := by
  unfold arrive
  simp only [hx, hf, hp, hd, ht]
  rw [if_neg (by simp), if_neg (by omega), if_neg (by simp)]

end

/-! ### Failed links -/

/-- One end of a link is down, and flagged. -/
def endDown (e : Nat × Nat) (s : State) : Prop :=
  (dieOf e.1 s).failedLinks.contains e.2 = true ∧ getB Fld.fabErrStatusLinkFail e.1 s = true

/-- One end taken down. -/
def failEnd (e : Nat × Nat) (s : State) : State :=
  adjDie e.1 (fun y => { y with failedLinks := if y.failedLinks.contains e.2 then y.failedLinks else y.failedLinks ++ [e.2] })
    (setB Fld.fabErrStatusLinkFail e.1 true s)

theorem failEnd_length (e : Nat × Nat) (s : State) : (failEnd e s).dies.length = s.dies.length := by
  simp [failEnd, adjDie, setB]

theorem linkFail_setB_same (k : Nat) (s : State) : getB Fld.fabErrStatusLinkFail k (setB Fld.fabErrStatusLinkFail k true s) = true := by
  unfold getB setB
  rw [getF_setF_own (by decide)]
  rfl

/-- An end that is taken down is down. -/
theorem endDown_failEnd {e : Nat × Nat} {s : State} (h : e.1 < s.dies.length) : endDown e (failEnd e s) := by
  refine ⟨?_, linkFail_setB_same e.1 s⟩
  unfold failEnd
  rw [dieOf_adjDie (s := setB Fld.fabErrStatusLinkFail e.1 true s) h]
  dsimp only
  split
  · next hc => exact hc
  · simp

/-- An end that is down stays down where another one is taken down. -/
theorem endDown_kept {e k : Nat × Nat} {s : State} (hk : k.1 < s.dies.length) (h : endDown e s) : endDown e (failEnd k s) := by
  obtain ⟨hlink, hflag⟩ := h
  by_cases heq : e.1 = k.1
  · constructor
    · unfold failEnd
      rw [heq, dieOf_adjDie (s := setB Fld.fabErrStatusLinkFail k.1 true s) hk]
      rw [heq] at hlink
      dsimp only
      split
      · exact hlink
      · simp only [List.contains_append, Bool.or_eq_true]
        exact .inl hlink
    · rw [heq]
      exact linkFail_setB_same k.1 s
  · constructor
    · have hdie : dieOf e.1 (failEnd k s) = dieOf e.1 s := by
        simp [dieOf, failEnd, adjDie, setB, List.getD_eq_getElem?_getD, List.getElem?_set_ne (Ne.symm heq)]
      rw [hdie]
      exact hlink
    · have hkey : keyOf Fld.fabErrStatusLinkFail.reg e.1 ≠ keyOf Fld.fabErrStatusLinkFail.reg k.1 := by
        unfold keyOf regKey
        omega
      have hflag' : getB Fld.fabErrStatusLinkFail e.1 (setB Fld.fabErrStatusLinkFail k.1 true s) = getB Fld.fabErrStatusLinkFail e.1 s := by
        unfold getB getF setB setF
        rw [getR_setR_ne _ hkey]
      exact hflag'.trans hflag

/-- Every end of a list that is taken down is down. -/
theorem endDown_forEach {l : List (Nat × Nat)} {s : State} (hl : ∀ e ∈ l, e.1 < s.dies.length) :
    (∀ e, endDown e s → endDown e (forEach l failEnd s)) ∧ (∀ e ∈ l, endDown e (forEach l failEnd s)) := by
  induction l generalizing s with
  | nil => exact ⟨fun e h => h, by simp⟩
  | cons k l ih =>
    have hk : k.1 < s.dies.length := hl k (by simp)
    obtain ⟨hkept, hdown⟩ := ih (s := failEnd k s) fun e he => (failEnd_length k s).symm ▸ hl e (by simp [he])
    refine ⟨fun e h => hkept e (endDown_kept hk h), fun e he => ?_⟩
    rcases List.mem_cons.mp he with rfl | he
    · exact hkept e (endDown_failEnd hk)
    · exact hdown e he

/-- The causes that a failed link raises, and what they leave. -/
theorem raiseCauses_kept (l : List (Nat × Job)) (t : State) : (forEach l (fun p s => raiseCause p.1 8 s) t).dies = t.dies
    ∧ (forEach l (fun p s => raiseCause p.1 8 s) t).regs = t.regs
    ∧ (forEach l (fun p s => raiseCause p.1 8 s) t).causes = t.causes ++ (l.map fun p => p.1).map fun j => (j, 8) := by
  induction l generalizing t with
  | nil => exact ⟨rfl, rfl, by simp⟩
  | cons p l ih =>
    obtain ⟨hdies, hregs, hc⟩ := ih (raiseCause p.1 8 t)
    exact ⟨hdies, hregs, by rw [forEach_cons, hc, raiseCause_causes]; simp⟩

/-- The state in which a failed link is down and reported. -/
def linkReported (d link : Nat) (inbound : Bool) (s : State) : State :=
  postEvent 3 0x0004 Status.done (d + link * 256 + inbound.toNat * 1024) (forEach ((d, link) :: otherEnd d link) failEnd s)

theorem linkFailed_eq (d link : Nat) (inbound : Bool) (s : State) : linkFailed d link inbound s =
    forEach ((linkReported d link inbound s).jobs.filter fun p => jobUses p.1 p.2 d link (linkReported d link inbound s))
      (fun p s => raiseCause p.1 8 s) (linkReported d link inbound s) := rfl

/-- Both ends of a link lie on a die. -/
theorem ends_lt {d link : Nat} (hd : d < 4) : ∀ e ∈ (d, link) :: otherEnd d link, e.1 < 4 := by
  intro e he
  rcases List.mem_cons.mp he with rfl | he
  · exact hd
  · unfold otherEnd at he
    split at he
    · rw [List.mem_singleton.mp he]
      exact Nat.mod_lt _ (by decide)
    · split at he
      · rw [List.mem_singleton.mp he]
        exact Nat.mod_lt _ (by decide)
      · cases he

/-- A report leaves both ends down. -/
theorem endDown_linkReported {d link : Nat} {inbound : Bool} {s : State} (hd : d < 4) (hs : s.dies.length = 4) :
    ∀ e ∈ (d, link) :: otherEnd d link, endDown e (linkReported d link inbound s) := by
  intro e he
  have hlt : e.1 < 4 := ends_lt hd e he
  obtain ⟨hlink, hflag⟩ := (endDown_forEach (s := s) (l := (d, link) :: otherEnd d link) fun e he => hs ▸ ends_lt hd e he).2 e he
  have hquiet : quietKey (keyOf Fld.fabErrStatusLinkFail.reg e.1) := by
    unfold quietKey keyOf regKey Fld.fabErrStatusLinkFail
    simp only [regOffset]
    omega
  constructor
  · unfold linkReported
    rw [dieOf_of_dies (postEvent_dies _ _ _ _ _)]
    exact hlink
  · unfold linkReported
    rw [getB_postEvent hquiet]
    exact hflag

/-- A failed link: both ends are down, and cause 8 is raised for the jobs that use it (R20). -/
theorem linkFailed_ends {d link : Nat} {inbound : Bool} {s : State} (hd : d < 4) (hs : s.dies.length = 4) :
    (∀ e ∈ (d, link) :: otherEnd d link, endDown e (linkFailed d link inbound s))
    ∧ ∃ js : List Nat, (linkFailed d link inbound s).causes = s.causes ++ js.map fun j => (j, 8) := by
  have hcauses : (linkReported d link inbound s).causes = s.causes := (postEvent_causes _ _ _ _ _).trans (forEach_causes fun _ _ => rfl)
  rw [linkFailed_eq]
  obtain ⟨hdies, hregs, hc⟩ := raiseCauses_kept
    ((linkReported d link inbound s).jobs.filter fun p => jobUses p.1 p.2 d link (linkReported d link inbound s)) (linkReported d link inbound s)
  refine ⟨fun e he => ?_, _, hc.trans (by rw [hcauses])⟩
  obtain ⟨hlink, hflag⟩ := endDown_linkReported (link := link) (inbound := inbound) hd hs e he
  unfold endDown
  rw [dieOf_of_dies hdies, getB, getF_of_key (s0 := linkReported d link inbound s) (by rw [KeyKept, hregs])]
  exact ⟨hlink, hflag⟩

/-- Settles O38: a transfer waits or lands (`arrive_waits` to `arrive_hub`), and a link fails once (`linkFailed_ends`). -/
theorem sendsArriveInOrder : Obligations.SendsArriveInOrder := by
  intro id die link inbound s hr d l
  have hexec : exec (.dieLinkArrival id) s = .next (settle (arrive id s)) := settled_of _ hr
  refine ⟨fun h => ?_, ?_, fun h hs => ⟨⟨linkFailed d l inbound s, settled_of _ (by simp only [hr, Bool.true_and, Bool.not_eq_true']; exact h),
    (linkFailed_ends die.isLt hs).1, ?_⟩, ?_⟩, fun h => ⟨settled_not _ (by simp only [hr, Bool.true_and, Bool.not_eq_false']; exact h), next_onlyIf_not _ (by simp only [hr, Bool.true_and, Bool.not_eq_false']; exact h)⟩⟩
  · rw [hexec, arrive, h]
  · intro x hx gone
    refine ⟨fun h => by rw [hexec, arrive_waits hx h], fun hf hp => ⟨fun h => by rw [hexec, arrive_die hx hf hp h],
      fun h hd => by rw [hexec, arrive_dropped hx hf hp h hd], ?_⟩⟩
    intro t n h hd ht u
    refine ⟨fun hn => ?_, fun hn => ?_⟩
    · rw [hexec, arrive_hub hx hf hp h hd ht, if_pos hn]
    · rw [hexec, arrive_hub hx hf hp h hd ht, if_neg (by omega)]
  · obtain ⟨js, hjs⟩ := (linkFailed_ends (link := l) (inbound := inbound) die.isLt hs).2
    exact ⟨js, hjs, rfl⟩
  · change execDieLinkReplay die link s = _
    rw [execDieLinkReplay, onlyIf, if_pos (by simp only [hr, Bool.true_and, Bool.not_eq_true']; exact h)]

/-! ### Dummy frames -/

/-- The pass of a stream's stage counted, if it has one. -/
def countPass (st : Nat) (s : State) : State :=
  match stageOf st s with
  | some g => incF Fld.safeStageStatusDummyPass g s
  | none => s

section
variable {st : Nat} {ecc : ReadEcc} {x : Machine.Stream} {r : DummyRec} {s u : State}
variable (hx : streamOf st s = some x) (he : x.dummy.ended = true) (hf : x.dummy.failed = false) (hr : dummyRec x s = some r)
variable (hu : u = touchRanges [(x.job * 2 ^ 43 + r.out, r.outLen), (x.job * 2 ^ 43 + r.gold, r.outLen)]
  (senseRanges [(x.job * 2 ^ 43 + r.out, r.outLen), (x.job * 2 ^ 43 + r.gold, r.outLen)] ecc s))
variable (herr : rangesErr 4 [(x.job * 2 ^ 43 + r.out, r.outLen), (x.job * 2 ^ 43 + r.gold, r.outLen)] u = none)
include hx he hf hr hu herr

/-- A frame whose output equals its golden bytes passes (R421). -/
theorem dummyCompare_same (h : readObj (x.job * 2 ^ 43 + r.out) r.outLen u = readObj (x.job * 2 ^ 43 + r.gold) r.outLen u) :
    dummyCompare st ecc s = clearDummy st false (countPass st u) := by
  unfold dummyCompare
  simp only [hx, he, hr, ← hu, herr, hf, h]
  rw [if_neg (by simp), if_pos (by simp)]
  rfl

/-- One whose output differs fails. -/
theorem dummyCompare_differs (h : readObj (x.job * 2 ^ 43 + r.out) r.outLen u ≠ readObj (x.job * 2 ^ 43 + r.gold) r.outLen u) :
    dummyCompare st ecc s = clearDummy st (restartingJob x (dummyFail st u)) (dummyFail st u) := by
  unfold dummyCompare
  simp only [hx, he, hr, ← hu, herr, hf, beq_eq_false_iff_ne.mpr h]
  rw [if_neg (by simp), if_neg (by simp), if_neg (by simp)]

end

/-- The frame of a SAFETY stream is due once a forced point has come (R81). -/
theorem dummyForced_due {st d : Nat} {x : Machine.Stream} {s : State} (hx : streamOf st s = some x) (hs : x.safety = true)
    (hd : d ∈ diesOf x) (h : forcedPoint x d s ≤ s.clock) :
    dummyForced st s = adjStream st (fun y => { y with dummy := { y.dummy with due := true } }) s := by
  have hany : (diesOf x).any (fun d => decide (forcedPoint x d s ≤ s.clock)) = true := List.any_eq_true.mpr ⟨d, hd, decide_eq_true h⟩
  unfold dummyForced
  simp only [hx]
  rw [if_pos (by rw [hs, hany]; rfl)]

/-- Settles O39: a frame is due at its forced point, overdue past its interval, and judged by its bytes. -/
theorem dummyFramesAreJudged : Obligations.DummyFramesAreJudged := by
  intro stream ecc x s hr hx' st
  have hx : streamOf st s = some x := hx'
  have hforced : exec (.dummyForcedPoint stream) s = .next (settle (dummyForced st s)) := settled_of _ hr
  have hover : exec (.dummyOverdue stream) s = .next (settle (dummyOverdue st s)) := settled_of _ hr
  have hcmp : exec (.dummyCompare stream ecc) s = .next (settle (dummyCompare st ecc s)) := settled_of _ hr
  refine ⟨fun hs hp => ?_, fun hs => ?_, fun hs hi hj hn hlt => ?_, fun hle => ?_, fun he => ?_, ?_⟩
  · obtain ⟨d, hd, hle⟩ := hp
    rw [hforced, dummyForced_due hx hs hd hle]
  · rw [hforced, dummyForced]
    simp [hx, hs]
  · rw [hover, dummyOverdue]
    simp only [hx]
    rw [if_pos (by simp [hs, hi, hj, hn, hlt])]
    rfl
  · rw [hover, dummyOverdue]
    simp only [hx]
    rw [if_neg (by simp [Nat.not_lt.mpr hle])]
  · rw [hcmp, dummyCompare]
    simp [hx, he]
  · intro r he hf hrec a b rs u herr
    refine ⟨fun h => ?_, fun h => ?_⟩
    · rw [hcmp, dummyCompare_same hx he hf hrec (u := u) rfl herr h]
      rfl
    · rw [hcmp, dummyCompare_differs hx he hf hrec (u := u) rfl herr h]

end Sys2Proof.Machine
end

section
/-!
Page moves, the sweep, the scrub, and the windows of T2_BACKED objects.
-/
namespace Sys2Proof.Machine
open Sys2Proof

/-! ### What error reports and page copies keep -/

/-- Between the two states no stream, place, move, waiting request or window of a page has changed. -/
structure PlacesKept (s t : State) : Prop where
  streams : t.streams = s.streams
  pages : t.tiers.pages = s.tiers.pages
  moves : t.tiers.moves = s.tiers.moves
  waiting : t.tiers.waiting = s.tiers.waiting
  windows : t.tiers.windows = s.tiers.windows

/-- The clocks, fusion, planner and CLE are as before. -/
structure UnitsKept (s t : State) : Prop where
  clock : t.clock = s.clock
  timeN : t.timeN = s.timeN
  fus : t.fus = s.fus
  plan : t.plan = s.plan
  cle : t.cle = s.cle

theorem UnitsKept.refl (s : State) : UnitsKept s s := ⟨rfl, rfl, rfl, rfl, rfl⟩

theorem UnitsKept.trans {s t u : State} (h : UnitsKept s t) (k : UnitsKept t u) : UnitsKept s u :=
  ⟨k.clock.trans h.clock, k.timeN.trans h.timeN, k.fus.trans h.fus, k.plan.trans h.plan, k.cle.trans h.cle⟩

/-- Between the two states data, streams, jobs and causes are the same: and so are the clocks, fusion, planner and CLE: what an error
report leaves. -/
structure DataKept (s t : State) : Prop extends PlacesKept s t, UnitsKept s t where
  mem : t.mem = s.mem
  jobs : t.jobs = s.jobs
  causes : t.causes = s.causes

theorem DataKept.refl (s : State) : DataKept s s := ⟨⟨rfl, rfl, rfl, rfl, rfl⟩, ⟨rfl, rfl, rfl, rfl, rfl⟩, rfl, rfl, rfl⟩

theorem DataKept.trans {s t u : State} (h : DataKept s t) (k : DataKept t u) : DataKept s u :=
  ⟨⟨k.streams.trans h.streams, k.pages.trans h.pages, k.moves.trans h.moves, k.waiting.trans h.waiting, k.windows.trans h.windows⟩,
    h.toUnitsKept.trans k.toUnitsKept, k.mem.trans h.mem, k.jobs.trans h.jobs, k.causes.trans h.causes⟩

theorem poisonAt_kept (m : Nat) (s : State) : DataKept s (poisonAt m s) := ⟨⟨rfl, rfl, rfl, rfl, rfl⟩, ⟨rfl, rfl, rfl, rfl, rfl⟩, rfl, rfl, rfl⟩

theorem DataKept.postEvent {s t : State} (h : DataKept s t) (block detail status aux : Nat) :
    DataKept s (postEvent block detail status aux t) :=
  h.trans ⟨⟨by simp, by simp, by simp, by simp, by simp⟩, ⟨by simp, by simp, by simp, by simp, by simp⟩, by simp, by simp, by simp⟩

theorem counted_kept (f g : Field) (i j : Nat) (s : State) : DataKept s (incF f i (setB g j true s)) :=
  ⟨⟨rfl, rfl, rfl, rfl, rfl⟩, ⟨rfl, rfl, rfl, rfl, rfl⟩, rfl, rfl, rfl⟩

theorem DataKept.ceHour {s t : State} (h : DataKept s t) (c : SMap (Nat × Nat × Bool)) :
    DataKept s { t with tiers := { t.tiers with ceHour := c } } :=
  h.trans ⟨⟨rfl, rfl, rfl, rfl, rfl⟩, ⟨rfl, rfl, rfl, rfl, rfl⟩, rfl, rfl, rfl⟩

theorem reportCe_kept (m : Nat) (s : State) : DataKept s (reportCe m s) := by
  have hc := (counted_kept Fld.memPodStatusCeCount Fld.memErrStatusCe (podOf (t1Die m) (t1Local m)) 0 s).ceHour
  unfold reportCe
  exact ite_keep (P := DataKept s) ((hc _).postEvent _ _ _ _) (hc _)

theorem reportUe_kept (m event : Nat) (s : State) : DataKept s (reportUe m event s) := by
  unfold reportUe
  split
  · exact .refl s
  · exact ((counted_kept _ _ _ _ s).postEvent _ _ _ _).trans (poisonAt_kept m _)

theorem senseAt_kept (corrected : Bool) (m : Nat) (s : State) : DataKept s (senseAt corrected m s) := by
  unfold senseAt
  split
  · split
    · exact .refl s
    · split
      · exact reportCe_kept m s
      · exact reportUe_kept m _ s
  · split
    · split
      · exact counted_kept _ _ _ _ s
      · exact poisonAt_kept m s
    · exact .refl s

theorem senseObj_kept (a n : Nat) (ecc : ReadEcc) (s : State) : DataKept s (senseObj a n ecc s) := by
  have go (c : Bool) (k : Nat) : DataKept s (if n ≤ k then s else match resolve (a + k) s with
      | some m => senseAt c m s
      | none => s) := by
    split
    · exact .refl s
    · split
      · exact senseAt_kept c _ s
      · exact .refl s
  cases ecc with
  | clean => exact .refl s
  | corrected k => exact go true k
  | uncorrectable k => exact go false k

/-- Only memory content and its marks of poison differ. -/
def ContentOnly (s t : State) : Prop :=
  t = { s with mem := t.mem, blkExp := t.blkExp, tiers := { s.tiers with poison := t.tiers.poison, tainted := t.tiers.tainted } }

theorem store_contentOnly (m : Nat) (bs : List Byte) (s : State) : ContentOnly s (store m bs s) := by
  unfold ContentOnly store dropExps cleanLines wrMem
  rfl

theorem ContentOnly.poisonAt {s t : State} (h : ContentOnly s t) (m : Nat) : ContentOnly s (poisonAt m t) := by
  unfold ContentOnly Machine.poisonAt at *
  rw [h]

theorem movePages_contentOnly (src dst : Nat) (s : State) : ContentOnly s (movePages src dst s) := by
  unfold movePages
  exact forEach_mem (store_contentOnly dst _ s) fun _ _ _ h => h.poisonAt _

theorem ContentOnly.places {s t : State} (h : ContentOnly s t) : PlacesKept s t := by
  unfold ContentOnly at h
  rw [h]
  exact ⟨rfl, rfl, rfl, rfl, rfl⟩

theorem ContentOnly.regs {s t : State} (h : ContentOnly s t) : t.regs = s.regs := by
  unfold ContentOnly at h
  rw [h]

theorem ContentOnly.tx {s t : State} (h : ContentOnly s t) : t.tx = s.tx := by
  unfold ContentOnly at h
  rw [h]

/-! ### Page moves -/

theorem waiting_leaveFrame (die f : Nat) (s : State) : (leaveFrame die f s).tiers.waiting = s.tiers.waiting := by
  have hshown (t : State) : (showRetired die t).tiers = t.tiers :=
    forEach_mem (P := fun u => u.tiers = t.tiers) rfl fun _ _ _ h => h
  simp only [leaveFrame]
  split
  · rfl
  · split
    · simp only [memEvent, postEvent_tiers, hshown]
      rfl
    · rw [hshown]
      rfl

theorem waiting_releasePlace (page : Nat) (p : Place) (s : State) : (releasePlace page p s).tiers.waiting = s.tiers.waiting := by
  cases p with
  | t0 => rfl
  | t1 d f => exact waiting_leaveFrame d f s
  | t2 t =>
    simp only [releasePlace]
    split <;> rfl

/-- Nothing waits, so no die begins a request. -/
theorem serveAll_idle {s : State} (h : s.tiers.waiting = []) :
    (List.range 4).foldl (fun s d => serveRequests d s.tiers.waiting.length s) s = s := by
  show serveRequests 3 (serveRequests 2 (serveRequests 1 (serveRequests 0 _ s).tiers.waiting.length _).tiers.waiting.length _).tiers.waiting.length _ = s
  simp [h, serveRequests]

/-- The state in which a move has landed, before its old place is free. -/
def movedPage (m : Move) (src : Place) (ecc : ReadEcc) (s : State) : State :=
  let v := movePages (placeAddr src) (placeAddr m.dest) (senseObj (m.page * 65536) 65536 ecc s)
  setTiers { v.tiers with
    pages := mapSet v.tiers.pages m.page m.dest
    moves := v.tiers.moves.filter fun x => x.id != m.id
    back := v.tiers.back.filter fun p => p != m.page } v

section
variable {m : Nat} {x : Move} {src : Place} {ecc : ReadEcc} {s : State}

theorem moveDone_unknown (h : s.tiers.moves.find? (fun x => x.id == m) = none) : moveDone m ecc s = s := by
  simp only [moveDone, h]

theorem moveDone_unplaced (h : s.tiers.moves.find? (fun x => x.id == m) = some x) (hp : mapGet s.tiers.pages x.page = none) :
    moveDone m ecc s = { s with tiers := { s.tiers with moves := s.tiers.moves.filter fun y => y.id != m } } := by
  simp only [moveDone, h, hp, setTiers]

theorem moveDone_closed (h : s.tiers.moves.find? (fun x => x.id == m) = some x) (hp : mapGet s.tiers.pages x.page = some src)
    (hw : (placeReachable src s && placeReachable x.dest s && pathOpen (memHome (placeAddr src)) (memHome (placeAddr x.dest)) s) = false) :
    moveDone m ecc s = s := by
  simp only [moveDone, h, hp]
  rw [if_pos]
  rw [← Bool.not_and, ← Bool.not_and, hw]
  rfl

theorem moveDone_lands (h : s.tiers.moves.find? (fun x => x.id == m) = some x) (hp : mapGet s.tiers.pages x.page = some src)
    (hw : (placeReachable src s && placeReachable x.dest s && pathOpen (memHome (placeAddr src)) (memHome (placeAddr x.dest)) s) = true)
    (hheld : x.held = []) (hr : x.request = none) (hq : s.tiers.waiting = []) :
    moveDone m ecc s = drainDecided (releasePlace x.page src (movedPage x src ecc s)) := by
  have hid : x.id = m := by simpa using List.find?_some h
  have hwait : (releasePlace x.page src (movedPage x src ecc s)).tiers.waiting = [] := by
    rw [waiting_releasePlace]
    exact ((movePages_contentOnly _ _ _).places.waiting.trans (senseObj_kept _ _ _ s).waiting).trans hq
  simp only [moveDone, h, hp]
  rw [if_neg]
  · simp only [hheld, hr, forEach_nil]
    subst hid
    exact congrArg drainDecided (serveAll_idle hwait)
  · rw [← Bool.not_and, ← Bool.not_and, hw]
    decide

end

/-! ### The sweep -/

theorem lastSweep_startMove (page : Nat) (dest : Place) (req : Option Nat) (s : State) :
    (startMove page dest req s).tiers.lastSweep = s.tiers.lastSweep := rfl

theorem lastSweep_takeFrame {die job f : Nat} {s t : State} (h : takeFrame die job s = some (f, t)) :
    t.tiers.lastSweep = s.tiers.lastSweep := by
  unfold takeFrame at h
  split at h
  · cases h
  · obtain ⟨k, -, hk⟩ := Option.map_eq_some_iff.mp h
    cases hk
    rfl

theorem lastSweep_takePool {job p : Nat} {s t : State} (h : takePool job s = some (p, t)) :
    t.tiers.lastSweep = s.tiers.lastSweep := by
  obtain ⟨k, -, hk⟩ := Option.map_eq_some_iff.mp h
  cases hk
  rfl

theorem lastSweep_bringBack (p : Nat) (s : State) : (bringBack p s).tiers.lastSweep = s.tiers.lastSweep := by
  unfold bringBack
  split
  · rfl
  · split
    · rfl
    · split
      · next h => exact (lastSweep_startMove _ _ _ _).trans (lastSweep_takeFrame h)
      · rfl

theorem lastSweep_spill (d n : Nat) (s : State) : (spill d n s).tiers.lastSweep = s.tiers.lastSweep := by
  induction n generalizing s with
  | zero => rfl
  | succ n ih =>
    unfold spill
    split
    · rfl
    · split
      · next h => exact ((ih _).trans (lastSweep_startMove _ _ _ _)).trans (lastSweep_takePool h)
      · rfl

theorem lastSweep_sweep (s : State) : (sweep s).tiers.lastSweep = s.clock :=
  forEach_mem (P := fun t => t.tiers.lastSweep = s.clock)
    (forEach_mem (P := fun t => t.tiers.lastSweep = s.clock) rfl fun p _ t h => (lastSweep_bringBack p t).trans h)
    fun d _ t h => by
      dsimp only
      split
      · exact h
      · exact (lastSweep_spill d _ t).trans h

/-! ### The scrub -/

theorem scrub_kept (d g : Nat) (ecc : ReadEcc) (s : State) : DataKept s (scrub d g ecc s) := by
  cases ecc with
  | clean => exact .refl s
  | corrected => exact reportCe_kept _ s
  | uncorrectable => exact reportUe_kept _ _ s

/-- Settles O40: a landed move keeps the page map but for its page, the sweep notes its time, and the scrub only reports. -/
theorem tiersMoveSweepAndScrub : Obligations.TiersMoveSweepAndScrub := by
  unfold Obligations.TiersMoveSweepAndScrub
  refine ⟨fun die stream index line m pod ecc s h => ?_, fun die g n ecc s h => ?_⟩
  · have hdone : exec (.pageMoveDone m ecc) s = .next (settle (moveDone m ecc s)) := settled_of _ h
    refine ⟨settled_of _ h, fun hx => by rw [hdone, moveDone_unknown hx], fun x hx => ?_, fun hm hc => ?_, fun hc => ?_, rfl⟩
    · refine ⟨fun hp => by rw [hdone, moveDone_unplaced hx hp], fun src hp => ?_⟩
      refine ⟨fun hw => by rw [hdone, moveDone_closed hx hp hw], fun hw hheld hr hq => ?_⟩
      have hid : x.id = m := by simpa using List.find?_some hx
      have hv := (movePages_contentOnly (placeAddr src) (placeAddr x.dest) (senseObj (x.page * 65536) 65536 ecc s)).places
      have hs := senseObj_kept (x.page * 65536) 65536 ecc s
      refine ⟨movedPage x src ecc s, by rw [hdone, moveDone_lands hx hp hw hheld hr hq], ?_, ?_, rfl, hv.streams.trans hs.streams⟩
      · exact congrArg (fun p => mapSet p x.page x.dest) (hv.pages.trans hs.pages)
      · subst hid
        exact congrArg (fun l => l.filter fun y => y.id != x.id) (hv.moves.trans hs.moves)
    · refine ⟨sweep s, ?_, lastSweep_sweep s, rfl⟩
      show execMigrationSweep s = _
      rw [execMigrationSweep, onlyIf, if_pos (by simp [h, hm, hc])]
    · exact next_onlyIf_not _ (by simp [Nat.not_le.mpr hc])
  · have hscrub : exec (.patrolScrub die g ecc) s = .next (onlyIf (running s && scrubRuns die.val (g * 256) s) (scrub die.val g ecc) s) := rfl
    refine ⟨fun hr => ?_, fun hr => ?_, fun t ht => ?_⟩
    · have hon (e : ReadEcc) : exec (.patrolScrub die g e) s = .next (scrub die.val g e s) := by
        show execPatrolScrub die g e s = _
        rw [execPatrolScrub, onlyIf, if_pos (by simp [h, hr])]
      exact ⟨hon _, hon _, hon _⟩
    · rw [hscrub]
      exact next_onlyIf_not _ (by simp [hr])
    · rw [hscrub] at ht
      cases ht
      unfold onlyIf
      split
      · have hk := scrub_kept die.val g ecc s
        exact ⟨hk.mem, hk.streams, hk.jobs, hk.causes⟩
      · exact ⟨rfl, rfl, rfl, rfl⟩

/-! ### Windows -/

theorem find?_listUpdate {α : Type} {l : List α} {p : α → Bool} {f : α → α} {x : α} (h : l.find? p = some x) (hp : p (f x) = true) :
    (listUpdate l p f).find? p = some (f x) := by
  induction l with
  | nil => cases h
  | cons y l ih =>
    unfold listUpdate at *
    rw [List.map_cons]
    by_cases hy : p y = true
    · rw [List.find?_cons_of_pos hy] at h
      cases h
      rw [if_pos hy, List.find?_cons_of_pos hp]
    · rw [List.find?_cons_of_neg hy] at h
      rw [if_neg hy, List.find?_cons_of_neg hy]
      exact ih h

/-- What a segment that has landed leaves of its window. -/
def landedWindow (w : Window) (i : Nat) (v : Window) : Window :=
  { v with copying := none, landed := v.landed ++ [i], pos := (v.pos + (winSeg w i).2.1) % max 1 v.frames.length, fails := 0, waitFrom := none }

/-- The copy of one page of a segment, at its place in the window's frames. -/
def landPage (w : Window) (o : TierObj) (pk : Nat × Nat) (s : State) : State :=
  let f := w.frames.getD ((w.pos + pk.2) % max 1 w.frames.length) 0
  match mapGet s.tiers.copies pk.1 with
  | some t =>
    let s := movePages (t2Addr t) (t1Addr o.homeDie (f * 65536)) s
    setTiers { s.tiers with pages := mapSet s.tiers.pages pk.1 (.t1 o.homeDie f) } s
  | none => s

/-- Streams, windows, registers and outputs are as before: what the copies of a segment keep. -/
structure CopyKept (s t : State) : Prop where
  windows : t.tiers.windows = s.tiers.windows
  tx : t.tx = s.tx
  regs : t.regs = s.regs
  streams : t.streams = s.streams

theorem landPage_kept {s0 s : State} (w : Window) (o : TierObj) (pk : Nat × Nat) (h : CopyKept s0 s) : CopyKept s0 (landPage w o pk s) := by
  unfold landPage
  dsimp only
  split
  · next c _ =>
    have hm := movePages_contentOnly (t2Addr c) (t1Addr o.homeDie (w.frames.getD ((w.pos + pk.2) % max 1 w.frames.length) 0 * 65536)) s
    exact ⟨hm.places.windows.trans h.windows, hm.tx.trans h.tx, hm.regs.trans h.regs, hm.places.streams.trans h.streams⟩
  · exact h

section
variable {id i : Nat} {w : Window} {s : State}

theorem segmentReadFailed_eq (hw : s.tiers.windows.find? (fun w => w.id == id) = some w) (hi : w.copying = some i) :
    segmentReadFailed id s
      = if w.fails < 2 then adjWindow id (fun v => { v with fails := v.fails + 1 }) s else startCopies (segmentFailed w i s) := by
  simp only [segmentReadFailed, hw, hi]

theorem segmentLanded_eq {o : TierObj} (hw : s.tiers.windows.find? (fun w => w.id == id) = some w) (hi : w.copying = some i)
    (ho : winObj w s = some o) :
    segmentLanded id s = startCopies (watchWindows w.stream (tokenAdd w.stream (winSeg w i).2.2.2.2 (winSeg w i).2.2.2.1 1
      (adjWindow id (landedWindow w i) (forEach (segPages w i s).zipIdx (landPage w o) s)))) := by
  unfold segmentLanded
  rw [hw]
  dsimp only
  rw [hi, ho]
  rfl

end

/-- Settles O41: the copies of a landed segment keep the windows; the window's own record then notes the segment as landed. -/
theorem windowsFollowTheirSchedule : Obligations.WindowsFollowTheirSchedule := by
  unfold Obligations.WindowsFollowTheirSchedule
  intro id w s h hw
  have hid : w.id = id := by simpa using List.find?_some hw
  have hfail : exec (.segmentReadFailed id) s = .next (settle (segmentReadFailed id s)) := settled_of _ h
  have hland : exec (.segmentLanded id) s = .next (settle (segmentLanded id s)) := settled_of _ h
  have hsig : exec (.variantSignal id) s = .next (settle (variantSignal id s)) := settled_of _ h
  refine ⟨fun hi => ⟨?_, ?_⟩, fun i hi => ⟨fun hf => ?_, fun hf => ?_, fun o ho => ?_⟩, fun hd => ?_, fun hd => ?_⟩
  · simp only [hfail, segmentReadFailed, hw, hi]
  · simp only [hland, segmentLanded, hw, hi]
  · rw [hfail, segmentReadFailed_eq hw hi, if_pos hf]
  · rw [hfail, segmentReadFailed_eq hw hi, if_neg (Nat.not_lt.mpr hf)]
  · have hk : CopyKept s (forEach (segPages w i s).zipIdx (landPage w o) s) :=
      forEach_mem ⟨rfl, rfl, rfl, rfl⟩ fun pk _ t => landPage_kept w o pk
    refine ⟨adjWindow id (landedWindow w i) (forEach (segPages w i s).zipIdx (landPage w o) s), landedWindow w i w,
      hland.trans (congrArg (fun t => Host.Outcome.next (settle t)) (segmentLanded_eq hw hi ho)), ?_, rfl, rfl, rfl, hk.tx, hk.regs, hk.streams⟩
    exact find?_listUpdate (p := fun v : Window => v.id == id) (by rw [hk.windows]; exact hw) (by simpa [landedWindow] using hid)
  · have hopen : ¬ (w.signalled = true ∨ w.varToken = 255) := by
      simp only [variantDue, Bool.and_eq_true, bne_iff_ne, Bool.not_eq_true'] at hd
      obtain ⟨⟨⟨⟨hs, hv⟩, -⟩, -⟩, -⟩ := hd
      simp [hs, hv]
    simp only [hsig, variantSignal, hw, hd, if_true, signalVariant, if_neg hopen]
    rfl
  · simp only [hsig, variantSignal, hw, hd, Bool.false_eq_true, if_false]

end Sys2Proof.Machine
end

section
/-!
Generators, captures and gate lists, and the samples of the sensors.
-/
namespace Sys2Proof.Machine
open Sys2Proof

/-! ### Generators, captures, gate lists -/

section
variable {v : BitVec 64} {s : State}

/-- The value that an 8-byte write leaves in the configuration of the selected generator. -/
def genWritten (v : BitVec 64) (s : State) : Nat :=
  writtenVal .timeGenCfg (getR .timeGenCfg (getF Fld.timeCtrlGenSel 0 s) s) (2 ^ 64 - 1) v.toNat

/-- The state in which that write is stored. -/
def genStored (v : BitVec 64) (s : State) : State := setR .timeGenCfg (getF Fld.timeCtrlGenSel 0 s) (genWritten v s) s

theorem genCfgWrite_starts (ho : newF Fld.timeGenCfgEnable (getR .timeGenCfg (getF Fld.timeCtrlGenSel 0 s) s) ≠ 1)
    (hn : newF Fld.timeGenCfgEnable (genWritten v s) = 1) :
    genCfgWrite (2 ^ 64 - 1) v.toNat s = genEnable (getF Fld.timeCtrlGenSel 0 s) (genStored v s) := by
  unfold genWritten at hn
  simp only [genCfgWrite, hn, ho, beq_iff_eq, Bool.and_eq_true, false_and, if_false, if_true]
  rfl

theorem genCfgWrite_stays (ho : newF Fld.timeGenCfgEnable (getR .timeGenCfg (getF Fld.timeCtrlGenSel 0 s) s) = 1)
    (hn : newF Fld.timeGenCfgEnable (genWritten v s) = 1) :
    genCfgWrite (2 ^ 64 - 1) v.toNat s
      = if newF Fld.timeGenCfgPeriod (genWritten v s) = newF Fld.timeGenCfgPeriod (getR .timeGenCfg (getF Fld.timeCtrlGenSel 0 s) s) then
          genStored v s
        else setB Fld.timeStatusCfgErr 0 true (setR .timeGenCfg (getF Fld.timeCtrlGenSel 0 s)
          (putBits (genWritten v s) 32 32 (newF Fld.timeGenCfgPeriod (getR .timeGenCfg (getF Fld.timeCtrlGenSel 0 s) s))) s) := by
  unfold genWritten at hn
  simp only [genCfgWrite, hn, ho, beq_self_eq_true, Bool.and_self, if_true]
  rfl

theorem genCfgWrite_stops (ho : newF Fld.timeGenCfgEnable (getR .timeGenCfg (getF Fld.timeCtrlGenSel 0 s) s) = 1)
    (hn : newF Fld.timeGenCfgEnable (genWritten v s) = 0) :
    genCfgWrite (2 ^ 64 - 1) v.toNat s = genDisable (getF Fld.timeCtrlGenSel 0 s) (genStored v s) := by
  unfold genWritten at hn
  simp only [genCfgWrite, hn, ho, beq_iff_eq, Bool.and_eq_true, and_false, if_false, if_true, Nat.zero_ne_one]
  rfl

end

theorem fireGenerator_due {g t : Nat} {s : State} (h : (genOf g s).next = some t) :
    fireGenerator g s = fireTrigger g t
      (firePins g (setGen g ⟨if genPeriod g s = 0 then none else some (t + genPeriod g s), some t⟩ s)) := by
  simp only [fireGenerator, genFire, h, Option.getD_some]

section
variable {s : State}

theorem readCap_record {n : Nat} {r : Bool} {rest : List (Nat × Bool)}
    (h : capsOf (getF Fld.timeCtrlCapSel 0 s) s = (n, r) :: rest) :
    readCap s = (capWord n r, setTime { s.time with caps := mapSet s.time.caps (getF Fld.timeCtrlCapSel 0 s) rest } s) := by
  simp only [readCap, h]

theorem readCap_empty (h : capsOf (getF Fld.timeCtrlCapSel 0 s) s = []) : readCap s = (0, s) := by
  simp only [readCap, h]

end

/-- Settles O43: each command meets its condition and is then the write, firing, record or switch that the statement names. -/
theorem generatorsCapturesAndGateLists : Obligations.GeneratorsCapturesAndGateLists := by
  unfold Obligations.GeneratorsCapturesAndGateLists
  refine ⟨fun g v s h ht => ?_, fun mac input rising s h ht => ?_⟩
  · intro k old new
    have hwrites (hf : flag v 0 = true) : exec (.generatorEnable v) s = .next (genCfgWrite (2 ^ 64 - 1) v.toNat s) := by
      show execGeneratorEnable v s = _
      rw [execGeneratorEnable, onlyIf, if_pos (by simp [h, ht, hf])]
    refine ⟨fun t hn hd => ?_, fun hf ho hn => ?_, fun hf ho hn => ⟨fun hp => ?_, fun hp => ?_⟩, fun hf ho hn => ?_⟩
    · show execGeneratorFiring g s = _
      rw [execGeneratorFiring, settled_of _ (by simp [h, genDue, ht, hn, hd]), fireGenerator_due hn]
    · rw [hwrites hf, genCfgWrite_starts ho hn]
      rfl
    · rw [hwrites hf, genCfgWrite_stays ho hn]
      exact congrArg Host.Outcome.next (if_pos hp)
    · rw [hwrites hf, genCfgWrite_stays ho hn]
      exact congrArg Host.Outcome.next (if_neg hp)
    · show execGeneratorDisable v s = _
      rw [execGeneratorDisable, onlyIf, if_pos (by simp [h, ht, hf]), genCfgWrite_stops ho hn]
      rfl
  · intro i m
    have hread : exec .timeCapDataRead s = .next (emit (.barData (natLe 8 (readCap s).1)) (readCap s).2) := by
      show execTimeCapDataRead s = _
      rw [execTimeCapDataRead, onlyIf, if_pos (by simp [h, ht])]
    have hedge : exec (.captureEdge input rising) s = .next (settle (edgeIn input.val rising s)) :=
      settled_of _ (acornRuns_of_running h)
    refine ⟨fun n r rest hc => ?_, fun hc => ?_, fun hsel => ?_, fun hsel => ?_, fun he => ⟨?_, fun l t hq => ⟨fun hd => ?_, fun hd => ?_⟩⟩⟩
    · rw [hread, readCap_record hc]
      rfl
    · rw [hread, readCap_empty hc]
      rfl
    · simp [hedge, edgeIn, captureEdge, h, ht, hsel]
    · simp [hedge, edgeIn, captureEdge, h, ht, hsel]
    · show execQbvChange mac s = _
      rw [execQbvChange, onlyIf, if_pos (by simp [h, ht, he])]
      rfl
    · refine ⟨setTime { s.time with qbv := mapErase s.time.qbv m }
        (setF Fld.timeQbvCtrlOper 0 (putBits (getF Fld.timeQbvCtrlOper 0 s) m 1 l) s), ?_, rfl, rfl⟩
      show execQbvListSwitch mac s = _
      rw [execQbvListSwitch, onlyIf, if_pos (by simp [h, ht, he])]
      simp only [qbvSwitch, show mapGet s.time.qbv mac.val = some (l, t) from hq, if_pos hd]
      rfl
    · show execQbvListSwitch mac s = _
      rw [execQbvListSwitch, onlyIf, if_pos (by simp [h, ht, he])]
      simp only [qbvSwitch, show mapGet s.time.qbv mac.val = some (l, t) from hq, if_neg (Nat.not_le.mpr hd)]

/-! ### What a write of an engine and a token leave of the units -/

theorem UnitsKept.store {s0 s : State} (h : UnitsKept s0 s) (m : Nat) (bs : List Byte) : UnitsKept s0 (store m bs s) :=
  h.trans ⟨rfl, rfl, rfl, rfl, rfl⟩

theorem UnitsKept.postEvent {s0 s : State} (h : UnitsKept s0 s) (block detail status aux : Nat) :
    UnitsKept s0 (postEvent block detail status aux s) :=
  h.trans ⟨by simp, by simp, by simp, by simp, by simp⟩

theorem units_writeObjPieces {s0 : State} (k a : Nat) (bs : List Byte) {s : State} (h : UnitsKept s0 s) :
    UnitsKept s0 (writeObjPieces k a bs s) := by
  induction k generalizing a bs s with
  | zero => exact h
  | succ k ih =>
    unfold writeObjPieces
    split
    · exact h
    · refine ih _ _ ?_
      split
      · exact h.store _ _
      · exact h

theorem units_writeObj {s0 s : State} (h : UnitsKept s0 s) (a : Nat) (bs : List Byte) : UnitsKept s0 (writeObj a bs s) := by
  unfold writeObj
  refine forEach_mem (units_writeObjPieces _ _ _ h) fun i _ t ht => ?_
  split
  · exact ht.trans ⟨rfl, rfl, rfl, rfl, rfl⟩
  · exact ht

theorem units_engineWrite {s0 s : State} (h : UnitsKept s0 s) (block a : Nat) (bs : List Byte) :
    UnitsKept s0 (engineWrite block a bs s) := by
  unfold engineWrite
  split
  · unfold discardEngineWrite
    refine ite_keep (P := UnitsKept s0) h (UnitsKept.postEvent ?_ _ _ _ _)
    exact h.trans ⟨rfl, rfl, rfl, rfl, rfl⟩
  · exact units_writeObj h _ _

theorem units_setToken {s0 s : State} (h : UnitsKept s0 s) (st d tok v : Nat) : UnitsKept s0 (setToken st d tok v s) :=
  h.trans ⟨rfl, rfl, rfl, rfl, rfl⟩

theorem units_setB {s0 s : State} (h : UnitsKept s0 s) (f : Field) (i : Nat) (b : Bool) : UnitsKept s0 (setB f i b s) :=
  h.trans ⟨rfl, rfl, rfl, rfl, rfl⟩

theorem units_incF {s0 s : State} (h : UnitsKept s0 s) (f : Field) (i : Nat) : UnitsKept s0 (incF f i s) :=
  h.trans ⟨rfl, rfl, rfl, rfl, rfl⟩

theorem units_raiseCause {s0 s : State} (h : UnitsKept s0 s) (job code : Nat) : UnitsKept s0 (raiseCause job code s) :=
  h.trans ⟨rfl, rfl, rfl, rfl, rfl⟩

theorem units_tokenAdd {s0 s : State} (h : UnitsKept s0 s) (st d tok n : Nat) : UnitsKept s0 (tokenAdd st d tok n s) := by
  unfold tokenAdd
  split
  · exact h
  · refine ite_keep (P := UnitsKept s0) h (ite_keep (P := UnitsKept s0) (units_setToken h _ _ _ _) ?_)
    exact units_raiseCause ((units_setB (units_setToken h _ _ _ _) _ _ _).postEvent _ _ _ _) _ _

theorem units_hubToken {s0 s : State} (h : UnitsKept s0 s) (st d tok : Nat) : UnitsKept s0 (hubToken st d tok s) := by
  unfold hubToken
  exact ite_keep (P := UnitsKept s0) h (units_tokenAdd h _ _ _ _)

/-! ### Samples -/

theorem sensorOf_adjSensor (i : Nat) (f : Sensor → Sensor) (s : State) : sensorOf i (adjSensor i f s) = f (sensorOf i s) := by
  simp [sensorOf, adjSensor]

theorem UnitsKept.sensorOf {s t : State} (h : UnitsKept s t) (i : Nat) : sensorOf i t = sensorOf i s := by
  unfold Machine.sensorOf
  rw [h.fus]

/-- A sample's payload and header written to its buffer, with its faults counted. -/
def sampleStored (i e time errors : Nat) (lines : List (List Byte)) (s : State) : State :=
  let x := sensorOf i s
  let base := SE.bufAddr e + x.count % SE.bufCount e * SE.bufStride e
  let off := if isCsi e then 64 else 32
  let room := SE.bufStride e - off
  let parts := payloadParts 0 lines
  let len := payloadEnd parts
  let cut := decide (room < len)
  let s := if errors % 2 = 1 then incF Fld.fusStats2IntakeErr 0 s else s
  let s := if cut then incF Fld.fusStats2IntakeErr 0 s else s
  let s := forEach (parts.filter fun p => decide (p.1 < room)) (fun p s =>
    engineWrite 6 (base + off + p.1) (p.2.take (room - p.1)) s) s
  engineWrite 6 base (natLe 4 time ++ natLe 4 x.count ++ natLe 4 (min len room) ++ [BitVec.ofNat 8 (errors + cut.toNat * 2)]
    ++ List.replicate 19 0) s

theorem landSample_eq (i e time errors : Nat) (lines : List (List Byte)) (s : State) :
    landSample i e time errors lines s = hubToken (SE.tokenStream e) (SE.tokenDie e) (SE.token e)
      (adjSensor i (fun x => { x with count := x.count + 1, last := (sampleStored i e time errors lines s).clock, silent := false })
        (sampleStored i e time errors lines s)) := rfl

theorem units_sampleStored (i e time errors : Nat) (lines : List (List Byte)) (s : State) :
    UnitsKept s (sampleStored i e time errors lines s) := by
  unfold sampleStored
  have herr : UnitsKept s (if errors % 2 = 1 then incF Fld.fusStats2IntakeErr 0 s else s) :=
    ite_keep (P := UnitsKept s) (units_incF (.refl s) _ _) (.refl s)
  exact units_engineWrite (forEach_mem (ite_keep (P := UnitsKept s) (units_incF herr _ _) herr)
    fun _ _ _ ht => units_engineWrite ht _ _ _) _ _ _

/-- A sample that lands counts one on its entry, at this clock, and ends its silence. -/
theorem sensorOf_landSample (i e time errors : Nat) (lines : List (List Byte)) (s : State) :
    sensorOf i (landSample i e time errors lines s)
      = { sensorOf i s with count := (sensorOf i s).count + 1, last := s.clock, silent := false } := by
  have hk := units_sampleStored i e time errors lines s
  rw [landSample_eq, (units_hubToken (.refl _) _ _ _).sensorOf, sensorOf_adjSensor, hk.sensorOf, hk.clock]

theorem takeSample_eq (i age : Nat) (errors : BitVec 3) (lines : List (List Byte)) (s : State) :
    takeSample i age errors lines s = landSample i (sensorEntry i s)
      (sampleTime (sensorEntry i s) (samplePoint (sensorEntry i s) age s) lines.flatten s).1
      ((errors.toNat &&& 5)
        + (sampleTime (sensorEntry i s) (samplePoint (sensorEntry i s) age s) lines.flatten s).2.toNat * 8) lines s := rfl

/-- The next assertion of an SPI entry noted. -/
def spiAdvanced (i : Nat) (s : State) : State :=
  adjSensor i (fun x => { x with spiNext := x.spiNext + SE.param0 (sensorEntry i s) * 1000 }) s

theorem spiAssert_eq (i : Nat) (bytes : List Byte) (s : State) :
    spiAssert i bytes s
      = if s.clock < (sensorOf i s).spiEnd then incF Fld.fusStats2IntakeErr 0 (spiAdvanced i s)
        else landSample i (sensorEntry i s) (sampleTime (sensorEntry i s) s.timeN [] (spiAdvanced i s)).1 0
          [fitBytes (SE.param1 (sensorEntry i s) / 256) bytes]
          (adjSensor i (fun x => { x with spiEnd := s.clock + spiNs (sensorEntry i s) (spiAdvanced i s) }) (spiAdvanced i s)) := rfl

/-- Settles O44: an accepted sample lands, counting one; an SPI assertion lands or is counted as an error. -/
theorem samplesReachTheirBuffers : Obligations.SamplesReachTheirBuffers := by
  unfold Obligations.SamplesReachTheirBuffers
  intro entry age errors lines bytes s h i e x st next
  refine ⟨fun hon htake => ?_, fun hon hkind hdue => ?_, fun hoff => ⟨?_, ?_⟩, fun hd => ?_, fun hd => ?_⟩
  · refine ⟨takeSample entry.val age errors lines s, ?_, takeSample_eq _ _ _ _ _, ?_, ?_, ?_⟩
    · show execSensorSample entry age errors lines s = _
      rw [execSensorSample, settled_of]
      rw [h, show intakeOn entry.val s = true from hon, show sampleTaken (sensorEntry entry.val s) lines = true from htake]
      rfl
    all_goals rw [takeSample_eq, sensorOf_landSample]
  · have hexec : exec (.spiAssertion entry bytes) s = .next (settle (spiAssert entry.val bytes s)) := by
      show execSpiAssertion entry bytes s = _
      rw [execSpiAssertion, settled_of]
      rw [h, show intakeOn entry.val s = true from hon, show SE.kind (sensorEntry entry.val s) = 4 from hkind,
        show spiDue entry.val s = true from hdue]
      rfl
    refine ⟨fun hrun => ?_, fun hend => ?_⟩
    · rw [hexec, spiAssert_eq, if_pos hrun]
      rfl
    · refine ⟨spiAssert entry.val bytes s, spiNs e (spiAdvanced entry.val s), hexec, ?_, ?_⟩
      · rw [spiAssert_eq, if_neg (Nat.not_lt.mpr hend)]
        rfl
      · rw [spiAssert_eq, if_neg (Nat.not_lt.mpr hend), sensorOf_landSample, spiAdvanced, sensorOf_adjSensor, sensorOf_adjSensor]
  · exact settled_not _ (by simp [show intakeOn entry.val s = false from hoff])
  · exact settled_not _ (by simp [show intakeOn entry.val s = false from hoff])
  · show execSensorSilent entry s = _
    rw [execSensorSilent, onlyIf, if_pos (by simp [h, show silentDue entry.val s = true from hd])]
    rfl
  · exact next_onlyIf_not _ (by simp [show silentDue entry.val s = false from hd])

end Sys2Proof.Machine
end

section
/-!
The instants of fusion and the cycles of the planner.
-/
namespace Sys2Proof.Machine
open Sys2Proof

/-! ### What reads, completions and tables leave of the units -/

section
variable {s0 s : State}

theorem units_setF (h : UnitsKept s0 s) (f : Field) (i v : Nat) : UnitsKept s0 (setF f i v s) :=
  h.trans ⟨rfl, rfl, rfl, rfl, rfl⟩

theorem units_wrMem (h : UnitsKept s0 s) (a : Nat) (bs : List Byte) : UnitsKept s0 (wrMem a bs s) :=
  h.trans ⟨rfl, rfl, rfl, rfl, rfl⟩

theorem units_setTables (h : UnitsKept s0 s) (t : Tables) : UnitsKept s0 (setTables t s) := h.trans ⟨rfl, rfl, rfl, rfl, rfl⟩

theorem units_setTiers (h : UnitsKept s0 s) (t : Tiers) : UnitsKept s0 { s with tiers := t } := h.trans ⟨rfl, rfl, rfl, rfl, rfl⟩

theorem units_completeOrWait (h : UnitsKept s0 s) (c : Consumed) (f : Facts) : UnitsKept s0 (completeOrWait c f s) :=
  h.trans ⟨by simp, by simp, by simp, by simp, by simp⟩

theorem units_touchPages (h : UnitsKept s0 s) (a n : Nat) : UnitsKept s0 (touchPages a n s) := by
  unfold touchPages
  refine forEach_mem h fun p _ t ht => ?_
  split
  · exact ht
  · exact units_setTiers ht _

theorem units_senseRanges (rs : List (Nat × Nat)) (ecc : ReadEcc) (s : State) : UnitsKept s (senseRanges rs ecc s) := by
  have go (c : Bool) (k : Nat) : UnitsKept s (match (rangeAt rs k).bind fun a => resolve a s with
      | some m => senseAt c m s
      | none => s) := by
    split
    · exact (senseAt_kept c _ s).toUnitsKept
    · exact .refl s
  cases ecc with
  | clean => exact .refl s
  | corrected k => exact go true k
  | uncorrectable k => exact go false k

theorem units_meetRanges (h : UnitsKept s0 s) (rs : List (Nat × Nat)) (ecc : ReadEcc) : UnitsKept s0 (meetRanges rs ecc s) :=
  forEach_mem (h.trans (units_senseRanges rs ecc s)) fun _ _ _ ht => units_touchPages ht _ _

theorem units_mapFault (h : UnitsKept s0 s) (a : Nat) (x : ReadErr) : UnitsKept s0 (mapFault a x s) := by
  unfold mapFault
  refine ite_keep (P := UnitsKept s0) h ?_
  cases x with
  | t0 die core => exact units_raiseCause ((units_setB h _ _ _).postEvent _ _ _ _) _ _
  | unreachable => exact units_raiseCause h _ _
  | tier => exact units_raiseCause h _ _

theorem units_activateTable (h : UnitsKept s0 s) (p : PendTable) (aux : Nat) : UnitsKept s0 (activateTable p aux s) := by
  have hdone (t : State) (ht : UnitsKept s0 t) : UnitsKept s0 (match consumedById p.id t with
      | some c => Machine.done c aux t
      | none => t) := by
    split
    · exact units_completeOrWait ht _ _
    · exact ht
  have hadmit (t : State) (ht : UnitsKept s0 t) : UnitsKept s0 (admitWaiting p.key t) := by
    unfold admitWaiting
    split
    · exact ht
    · refine ite_keep (P := UnitsKept s0) ht ?_
      exact units_setTables (units_setTables ht _) _
  exact hadmit _ (hdone _ (units_setTables h _))

end

/-! ### Fusion -/

section
variable {s : State}

/-- The next instant to close is the one named. -/
def ClosesNext (k : Nat) (s : State) : Prop := s.fus.next = some (k + 1)

theorem UnitsKept.closesNext {k : Nat} {t : State} (h : UnitsKept s t) (hk : ClosesNext k s) : ClosesNext k t := by
  unfold ClosesNext at *
  rw [h.fus]
  exact hk

theorem units_liftPost {s0 : State} (g : Grid) (p : FusPost) {x : Lift × State} (h : UnitsKept s0 x.2) :
    UnitsKept s0 (liftPost g p x).2 := by
  obtain ⟨f, s⟩ := x
  simp only [liftPost]
  split
  · split
    · exact units_hubToken (units_mapFault h _ _) _ _ _
    · exact units_hubToken h _ _ _
  · exact units_hubToken (units_incF h _ _) _ _ _

theorem units_storeField {s0 : State} (g : Grid) (limit : Nat) (f : Field2) (h : UnitsKept s0 s) :
    UnitsKept s0 (storeField g limit f s) := by
  unfold storeField
  exact forEach_mem h fun _ _ _ ht => forEach_mem ht fun _ _ _ hu => units_wrMem (units_wrMem hu _ _) _ _

theorem units_storeTracks {s0 : State} (h : UnitsKept s0 s) : UnitsKept s0 (storeTracks s) := by
  unfold storeTracks
  exact forEach_mem (h.trans ⟨rfl, rfl, rfl, rfl, rfl⟩) fun _ _ _ ht => units_wrMem ht _ _

theorem closesNext_closeTracks {k : Nat} (g : Grid) (t : Nat) (h : ClosesNext k s) : ClosesNext k (closeTracks g t s) :=
  (units_storeTracks (.refl _)).closesNext h

/-- The maps of an instant's posts read and lifted into its field. -/
theorem closesNext_lift {k : Nat} (g : Grid) (l : Lift) (ps : List FusPost) (h : ClosesNext k s) :
    ClosesNext k (ps.foldl (fun x p => liftPost g p x) (l, s)).2 := by
  suffices hu : ∀ x : Lift × State, UnitsKept s x.2 → UnitsKept s (ps.foldl (fun x p => liftPost g p x) x).2 from
    (hu (l, s) (.refl s)).closesNext h
  induction ps with
  | nil => exact fun _ hx => hx
  | cons p ps ih => exact fun x hx => ih _ (units_liftPost g p hx)

/-- What a close of an instant does once the instant's number is passed on: its posts are lifted, stored, and there to issue. -/
def liftAndIssue (k t limit : Nat) (g : Grid) (mine : List FusPost) (ecc : ReadEcc) (s : State) : State :=
  let s := meetRanges (mine.flatMap fun p => liftRanges p s) ecc s
  let (l, s) := mine.foldl (fun x p => liftPost g p x) (⟨⟨[], []⟩, 0, 0⟩, s)
  let f := l.field
  let s := closeTracks g t (storeField g limit f s)
  let r := resultOf k t g f limit l.own l.folds s
  let kept : FusInstant :=
    { time := t, ox := g.ox, oy := g.oy, cell := g.cell, w := g.w, h := g.h, contested := (gridCells g).filter fun c => (f.ev c).contested limit }
  setB Fld.fusStatusBehind 0 false
    (setFus { s.fus with issue := some r, skipped := false, drops := 0, recent := (kept :: s.fus.recent).take 8 } s)

theorem closeInstant_eq (k : Nat) (ecc : ReadEcc) (s : State) : ∃ t limit g mine e u,
    closeInstant k ecc s = liftAndIssue k t limit g mine e u ∧ ClosesNext k u :=
  ⟨_, _, _, _, _, setFus { (_ : State).fus with posts := _, next := some (k + 1), lastClose := _ } _, rfl, rfl⟩

theorem closesNext_liftAndIssue {k : Nat} (t limit : Nat) (g : Grid) (mine : List FusPost) (ecc : ReadEcc) (h : ClosesNext k s) :
    ClosesNext k (liftAndIssue k t limit g mine ecc s) := by
  have hl := closesNext_lift g ⟨⟨[], []⟩, 0, 0⟩ mine ((units_meetRanges (.refl s) (mine.flatMap fun p => liftRanges p s) ecc).closesNext h)
  exact closesNext_closeTracks g t ((units_storeField g limit _ (.refl _)).closesNext hl)

theorem next_closeInstant (k : Nat) (ecc : ReadEcc) (s : State) : (closeInstant k ecc s).fus.next = some (k + 1) := by
  obtain ⟨t, limit, g, mine, e, u, heq, hu⟩ := closeInstant_eq k ecc s
  rw [heq]
  exact closesNext_liftAndIssue t limit g mine e hu

theorem issue_closeInstant (k : Nat) (ecc : ReadEcc) (s : State) : (closeInstant k ecc s).fus.issue.isSome = true := rfl

theorem exec_fusionClose (ecc : ReadEcc) (h : running s = true) (hf : fusOn s = true) :
    exec (.fusionClose ecc) s = .next (settle (fusionClose ecc s)) := by
  show execFusionClose ecc s = _
  exact settled_of _ (by simp [h, hf])

theorem fusionClose_at {k : Nat} (ecc : ReadEcc) (h : s.fus.next = some k) :
    fusionClose ecc s = if s.timeN < closeTime k s then s
      else if s.fus.issue.isSome then setB Fld.fusStatusBehind 0 true s else closeInstant k ecc s := by
  simp only [fusionClose, h]

theorem exec_fusionResult (h : running s = true) (hf : fusOn s = true) :
    exec .fusionResult s = .next (settle (fusionResult s)) := by
  show execFusionResult s = _
  exact settled_of _ (by simp [h, hf])

theorem exec_fusionEnable (v : BitVec 32) (h : running s = true) (hf : fusOn s = true) :
    exec (.fusionEnable v) s = .next (fusCtrlWrite (2 ^ 32 - 1) v.toNat s) := by
  show execFusionEnable v s = _
  rw [execFusionEnable, onlyIf, if_pos (by simp [h, hf])]

end

/-- Settles O45: the close of an instant names its successor and leaves a result to issue; the rest is one branch each. -/
theorem fusionInstants : Obligations.FusionInstants := by
  unfold Obligations.FusionInstants
  intro die stream index line ecc v s h hf
  have hclose := exec_fusionClose ecc h hf
  have hresult := exec_fusionResult h hf
  have henable := exec_fusionEnable v h hf
  refine ⟨fun hn => ?_, fun k hk => ⟨fun hlt => ?_, fun hle hi => ?_, fun hle hi => ?_⟩, fun hi => ?_, fun r hr => ?_, fun he => ?_,
    fun he => ?_, ?_, settled_of _ h⟩
  · simp only [hclose, fusionClose, hn]
  · rw [hclose, fusionClose_at ecc hk, if_pos hlt]
  · rw [hclose, fusionClose_at ecc hk, if_neg (Nat.not_lt.mpr hle), if_pos hi]
  · refine ⟨closeInstant k ecc s, ?_, rfl, next_closeInstant k ecc s, issue_closeInstant k ecc s⟩
    rw [hclose, fusionClose_at ecc hk, if_neg (Nat.not_lt.mpr hle), if_neg (by simp [hi])]
  · simp only [hresult, fusionResult, hi]
  · simp only [hresult, fusionResult, hr]
    rfl
  · show execTableActivation s = _
    rw [execTableActivation, onlyIf, if_pos (by simp [h, hf, he])]
  · exact next_onlyIf_not _ (by simp [he])
  · intro old new u
    refine ⟨fun hn ho => ?_, fun hn ho => ?_, fun hno => ?_⟩
    · rw [henable]
      exact congrArg Host.Outcome.next (if_pos ⟨hn, ho⟩)
    · rw [henable]
      refine congrArg Host.Outcome.next ((if_neg (fun hc => ?_)).trans (if_pos ⟨hn, ho⟩))
      exact absurd (hc.1.symm.trans hn) (by decide)
    · rw [henable]
      refine congrArg Host.Outcome.next ((if_neg (fun hc => ?_)).trans (if_neg (fun hc => ?_)))
      · exact absurd (hc.1.symm.trans (hno.trans hc.2)) (by decide)
      · exact absurd (hc.1.symm.trans (hno.trans hc.2)) (by decide)

/-! ### The planner -/

section
variable {s : State}

/-- No planning cycle runs. -/
def PlanIdle (s : State) : Prop := s.plan.cycle = none

theorem UnitsKept.planIdle {t : State} (h : UnitsKept s t) (hp : PlanIdle s) : PlanIdle t := by
  unfold PlanIdle at *
  rw [h.plan]
  exact hp

theorem units_releaseTokens {s0 : State} (b : State) (h : UnitsKept s0 s) : UnitsKept s0 (releaseTokens b s) := by
  unfold releaseTokens
  exact forEach_mem h fun _ _ _ ht => ite_keep (P := UnitsKept s0) (units_hubToken ht _ _ _) ht

theorem units_newVersion {s0 : State} (bank layer : Option Nat) (h : UnitsKept s0 s) : UnitsKept s0 (newVersion bank layer s) := by
  have hv := units_setF h Fld.plnStatusVersion 0 ((getF Fld.plnStatusVersion 0 s + 1) % 2 ^ 32)
  cases bank with
  | none => cases layer with
    | none => exact hv.postEvent _ _ _ _
    | some l => exact (units_setF (units_setB hv _ _ _) _ _ _).postEvent _ _ _ _
  | some b => cases layer with
    | none => exact (units_setF (units_setB hv _ _ _) _ _ _).postEvent _ _ _ _
    | some l => exact (units_setF (units_setB (units_setF (units_setB hv _ _ _) _ _ _) _ _ _) _ _ _).postEvent _ _ _ _

theorem units_commitTree {s0 : State} (b : Nat) (bs : List Byte) (h : UnitsKept s0 s) : UnitsKept s0 (commitTree b bs s) :=
  units_releaseTokens _ (units_newVersion _ _ (h.store _ _))

theorem units_treeWriteIn {s0 : State} (id : Nat) (bs : List Byte) (b : Nat) (h : UnitsKept s0 s) :
    UnitsKept s0 (treeWriteIn id bs b s) := by
  simp only [treeWriteIn, completeId]
  split
  · exact units_completeOrWait (units_commitTree _ _ (units_setTables h _)) _ _
  · exact units_commitTree _ _ (units_setTables h _)

theorem planIdle_admitTree (h : PlanIdle s) : PlanIdle (admitTree s) := by
  unfold admitTree
  split
  · exact h
  · split
    · exact (units_treeWriteIn _ _ _ (.refl _)).planIdle h
    · exact h

theorem planIdle_planActivate (h : PlanIdle s) : PlanIdle (planActivate s) := by
  unfold planActivate
  refine ite_keep (P := PlanIdle) h (UnitsKept.planIdle ?_ h)
  exact forEach_mem (.refl s) fun _ _ _ ht => units_activateTable ht _ _

theorem planIdle_showPlan (h : PlanIdle s) : PlanIdle (showPlan s) := h

theorem planIdle_endPlanCycle (s : State) : PlanIdle (endPlanCycle s) :=
  planIdle_showPlan (planIdle_admitTree (planIdle_planActivate ((units_releaseTokens s (.refl _)).planIdle rfl)))

/-- The result of a running cycle ends it, whether or not its request is still consumed. -/
theorem planIdle_planResult (h : s.plan.cycle.isSome = true) : PlanIdle (planResult s) := by
  unfold planResult
  split
  · next hn => simp [hn] at h
  · split
    · exact planIdle_endPlanCycle _
    · exact planIdle_endPlanCycle _

theorem exec_planStart (record : ReadData) (ecc : ReadEcc) (h : running s = true) (hp : planOn s = true) :
    exec (.planCycleStart record ecc) s = .next (settle (planStart record ecc s)) := by
  show execPlanCycleStart record ecc s = _
  exact settled_of _ (by simp [h, hp])

theorem exec_planBudget (h : running s = true) (hp : planOn s = true) : exec .planBudget s = .next (settle (planBudget s)) := by
  show execPlanBudget s = _
  exact settled_of _ (by simp [h, hp])

theorem exec_planResult (h : running s = true) (hp : planOn s = true) : exec .planResult s = .next (settle (planResult s)) := by
  show execPlanResult s = _
  exact settled_of _ (by simp [h, hp])

theorem exec_occIntake (h : running s = true) (hp : planOn s = true) : exec .occIntake s = .next (settle (occIntake s)) := by
  show execOccIntake s = _
  exact settled_of _ (by simp [h, hp])

theorem planStart_idle (record : ReadData) (ecc : ReadEcc)
    (h : s.plan.queue = [] ∨ s.plan.cycle.isSome = true ∨ planHeld s = true) : planStart record ecc s = s := by
  unfold planStart
  split
  · rfl
  · next hq => exact if_pos (by simpa [hq] using h)

theorem planStart_begins {record : ReadData} {ecc : ReadEcc} {id : Nat} {rest : List Nat} {c : Consumed} {q : List Byte}
    (hq : s.plan.queue = id :: rest) (hc : s.plan.cycle = none) (hh : planHeld s = false) (hid : consumedById id s = some c)
    (hin : inputOf c record (openInput c record (setPlan { s.plan with queue := rest } s)) = .ok q)
    (hlen : inLen c.desc = 64 + 2 * rdLE q 18 2) (hout : 576 ≤ outLen c.desc) (hfields : requestFields c.desc q = true)
    (hserves : requestServes c.desc q (openInput c record (setPlan { s.plan with queue := rest } s)) = true) :
    planStart record ecc s = showPlan (beginCycle c q
      ((classTable (openInput c record (setPlan { s.plan with queue := rest } s))).getD [])
      ((postureTable (openInput c record (setPlan { s.plan with queue := rest } s))).getD []) ecc
      (openInput c record (setPlan { s.plan with queue := rest } s))) := by
  have hid' : consumedById id (setPlan { s.plan with queue := rest } s) = some c := hid
  unfold planStart
  rw [hq]
  dsimp only
  rw [if_neg (by simp [hc, hh]), hid']
  dsimp only [startRequest]
  rw [withInput_ok hin, if_neg (by omega), hfields, hserves]
  rfl

section
variable {m : PlanLayer}

/-- The first of the two layers that is free. -/
def freeLayer (s : State) : Option Nat := (List.range 2).find? fun l => layerFree l s

theorem freeLayer_zero (h : layerFree 0 s = true) : freeLayer s = some 0 := by
  simp [freeLayer, List.range, List.range.loop, h]

theorem freeLayer_none (h : layerFree 0 s = false) (k : layerFree 1 s = false) : freeLayer s = none := by
  simp [freeLayer, List.range, List.range.loop, h, k]

/-- The layer that waits, out of the queue. -/
def intakeTaken (s : State) : State := { s with plan := { s.plan with intake := none } }

/-- A layer taken into a free place, between the heights of OCC_CFG (R304). -/
def layerStored (m : PlanLayer) (l : Nat) (s : State) : State :=
  let lo := sext 16 (getF Fld.plnOccCfgZLo 0 s)
  let m := { m with zLo := lo, zHi := max lo (sext 16 (getF Fld.plnOccCfgZHi 0 s)) }
  let s := store (layerAddr l) (rdMem s (planAddr 95 0) (m.w * m.h)) s
  newVersion none (some l) (setPlan { s.plan with layers := mapSet s.plan.layers l m } s)

theorem occIntake_off (hm : s.plan.intake = some m) (he : getB Fld.plnCfgOccEn 0 s = false) : occIntake s = intakeTaken s := by
  have he' : getB Fld.plnCfgOccEn 0 (setPlan { s.plan with intake := none } s) = false := he
  unfold occIntake
  rw [hm]
  dsimp only
  rw [he']
  rfl

theorem occIntake_skips (hm : s.plan.intake = some m) (he : getB Fld.plnCfgOccEn 0 s = true) (hf : freeLayer (intakeTaken s) = none) :
    occIntake s = plnEvent 0x0004 0 (incF Fld.plnStats2OccSkip 0 (intakeTaken s)) := by
  have he' : getB Fld.plnCfgOccEn 0 (setPlan { s.plan with intake := none } s) = true := he
  have hf' : (List.range 2).find? (fun l => layerFree l (setPlan { s.plan with intake := none } s)) = none := hf
  unfold occIntake
  rw [hm]
  dsimp only
  rw [he', hf']
  rfl

theorem occIntake_stores {l : Nat} (hm : s.plan.intake = some m) (he : getB Fld.plnCfgOccEn 0 s = true)
    (hf : freeLayer (intakeTaken s) = some l) : occIntake s = layerStored m l (intakeTaken s) := by
  have he' : getB Fld.plnCfgOccEn 0 (setPlan { s.plan with intake := none } s) = true := he
  have hf' : (List.range 2).find? (fun l => layerFree l (setPlan { s.plan with intake := none } s)) = some l := hf
  unfold occIntake
  rw [hm]
  dsimp only
  rw [he', hf']
  rfl

end

theorem planBudget_running {y : PlanCycle} (h : s.plan.cycle = some y) :
    planBudget s = if y.budgetOut || decide (s.clock < y.start + y.budget) then s
      else incF Fld.plnStats2BudgetOut 0 { s with plan := { s.plan with cycle := some { y with budgetOut := true } } } := by
  simp only [planBudget, h]
  rfl

end

/-- Settles O46: a cycle starts only from an idle planner with its tables in place, and its result leaves the planner idle. -/
theorem plannerServesOneCycle : Obligations.PlannerServesOneCycle := by
  unfold Obligations.PlannerServesOneCycle
  intro record ecc die stream index line s h hp
  have hbudget := exec_planBudget h hp
  have hresult := exec_planResult h hp
  have hintake := exec_occIntake h hp
  refine ⟨fun hidle => ?_, ?_, fun hc => ⟨?_, ?_⟩, fun y hy => ⟨fun hb ht => ?_, fun hb => ?_, ?_⟩, fun hm => ?_, fun m hm => ?_,
    settled_of _ h⟩
  · rw [exec_planStart record ecc h hp, planStart_idle record ecc hidle]
  · intro id rest c q hq hc hh hid u hin hlen hout hfields hserves
    rw [exec_planStart record ecc h hp, planStart_begins hq hc hh hid hin hlen hout hfields hserves]
    rfl
  · simp only [hbudget, planBudget, hc]
  · simp only [hresult, planResult, hc]
  · rw [hbudget, planBudget_running hy, if_neg (by simp [hb, ht])]
  · rw [hbudget, planBudget_running hy, if_pos (by simpa using hb)]
  · exact ⟨planResult s, hresult, rfl, planIdle_planResult (by simp [hy])⟩
  · simp only [hintake, occIntake, hm]
  · refine ⟨fun he => ?_, fun he h0 h1 => ?_, fun he h0 => ?_⟩
    · rw [hintake, occIntake_off hm he]
      rfl
    · rw [hintake, occIntake_skips hm he (freeLayer_none h0 h1)]
      rfl
    · rw [hintake, occIntake_stores hm he (freeLayer_zero h0)]
      rfl

end Sys2Proof.Machine
end

section
/-!
Setpoints and commits, and the drives' cycles.
-/
namespace Sys2Proof.Machine
open Sys2Proof

/-! ### Reading numbers back from their bytes -/

theorem leNat_natLe (n v : Nat) : leNat (natLe n v) = v % 256 ^ n := by
  induction n generalizing v with
  | zero => simp [natLe, leNat, Nat.mod_one]
  | succ n ih =>
    rw [natLe, leNat, ih, BitVec.toNat_ofNat, Nat.pow_succ' (m := 256)]
    exact (Nat.mod_mul (a := 256)).symm

theorem natLe_drop {n k : Nat} (v : Nat) (h : k ≤ n) : (natLe n v).drop k = natLe (n - k) (v / 256 ^ k) := by
  induction k generalizing n v with
  | zero => simp
  | succ k ih =>
    obtain ⟨m, rfl⟩ : ∃ m, n = m + 1 := ⟨n - 1, by omega⟩
    rw [natLe, List.drop_succ_cons, ih _ (by omega), Nat.div_div_eq_div_mul, Nat.pow_succ', Nat.add_sub_add_right]

theorem natLe_take {n k : Nat} (v : Nat) (h : k ≤ n) : (natLe n v).take k = natLe k v := by
  induction k generalizing n v with
  | zero => rfl
  | succ k ih =>
    obtain ⟨m, rfl⟩ : ∃ m, n = m + 1 := ⟨n - 1, by omega⟩
    rw [natLe, List.take_succ_cons, ih _ (by omega), natLe]

/-- A field of whole bytes, read from the bytes of a number, is that field of the number. -/
theorem rdLE_natLe {n off k : Nat} (v : Nat) (h : off + k ≤ n) : rdLE (natLe n v) off k = bitsAt v (8 * off) (8 * k) := by
  rw [rdLE, natLe_drop v (by omega), natLe_take _ (by omega), leNat_natLe, bitsAt, Nat.shiftRight_eq_div_pow, Nat.pow_mul, Nat.pow_mul]

/-! ### Setpoints -/

section
variable {s : State}

theorem chanOf_adjChan (c : Nat) (f : Channel → Channel) (s : State) : chanOf c (adjChan c f s) = f (chanOf c s) := by
  simp [chanOf, adjChan, setChan, setCle]

theorem policyEntry_eq (st c : Nat) (entry : BitVec 128) (s : State) :
    policyEntry st c (natLe 16 entry.toNat) s
      = if CH.src (chanEntry c s) ≠ 0 ∨ CH.stream (chanEntry c s) ≠ st ∨ fld entry 64 8 % 2 = 0 then discardSetpoint c 0 st s
        else putSetpoint c (sext 32 (fld entry 0 32)) (sext 32 (fld entry 32 32)) s := by
  simp only [policyEntry, fld, rdLE_natLe entry.toNat (show 8 + 1 ≤ 16 by decide), rdLE_natLe entry.toNat (show 0 + 4 ≤ 16 by decide),
    rdLE_natLe entry.toNat (show 4 + 4 ≤ 16 by decide)]
  rfl

theorem exec_setpointEntry (die : Fin 4) (stream : Fin 256) (channel : Fin 64) (entry : BitVec 128) (h : running s = true)
    (hc : domOn Dom.cle s = true) : exec (.setpointEntry die stream channel entry) s
      = .next (settle (policyEntry stream.val channel.val (natLe 16 entry.toNat) s)) := by
  show execSetpointEntry die stream channel entry s = _
  exact settled_of _ (by simp [h, hc])

theorem exec_setpointCommit (id : Nat) (h : running s = true) (hc : domOn Dom.cle s = true) :
    exec (.setpointCommit id) s = .next (settle (setpointCommit id s)) := by
  show execSetpointCommit id s = _
  exact settled_of _ (by simp [h, hc])

theorem exec_snapshot (target : Fin 4) (h : running s = true) (hc : domOn Dom.cle s = true) :
    exec (.snapshot target) s = .next (settle (writeSnapshot target.val s)) := by
  show execSnapshot target s = _
  exact settled_of _ (by simp [h, hc])

theorem setpointCommit_of {x : Commit} (hx : nextCommitOf s = some x) : setpointCommit x.id s = decideCommit x s := by
  simp only [setpointCommit, hx, if_true]

/-- A planner's or a table's commit exchanges the halves. -/
theorem decideCommit_plain {x : Commit} (hk : x.kind = .planner ∨ x.kind = .table) :
    decideCommit x s = exchangeHalves x.kind (dropCommit x.id s) := by
  rcases hk with hk | hk <;> simp only [decideCommit, hk]

theorem decideCommit_host {x : Commit} {k : Nat} {d : Consumed} (hk : x.kind = .host k)
    (hd : consumedById k (exchangeHalves x.kind (dropCommit x.id s)) = some d) : decideCommit x s
      = done d (getF Fld.cleStatusSpVersion 0 (exchangeHalves x.kind (dropCommit x.id s))) (exchangeHalves x.kind (dropCommit x.id s)) := by
  rw [hk] at hd
  simp only [decideCommit, hk, hd]
  rfl

theorem decideCommit_policy {x : Commit} {d n item : Nat} (hk : x.kind = .policy d n item)
    (hf : commitFaultOf (.policy d n item) n item (dropCommit x.id s) = none) :
    decideCommit x s = exchangeHalves x.kind (dropCommit x.id s) := by
  simp only [decideCommit, hk, hf]

theorem decideCommit_refused {x : Commit} {d n item code det : Nat} (hk : x.kind = .policy d n item)
    (hf : commitFaultOf (.policy d n item) n item (dropCommit x.id s) = some (code, det)) :
    decideCommit x s = refusePolicy (.policy d n item) n item code det (dropCommit x.id s) := by
  simp only [decideCommit, hk, hf]

end

/-- Settles O47: a valid entry stays in the inactive half, and the next commit is decided by its kind. -/
theorem setpointsExchangeByCommits : Obligations.SetpointsExchangeByCommits := by
  unfold Obligations.SetpointsExchangeByCommits
  intro die stream channel entry id target s h hcle c st e ok
  have hentry := exec_setpointEntry die stream channel entry h hcle
  have hcommit := exec_setpointCommit id h hcle
  have hsnap := exec_snapshot target h hcle
  refine ⟨fun hok => ?_, fun hok => ?_, fun x hx => ⟨fun hid => ?_, fun hid => ⟨fun hk => ?_, fun k d hk hd => ?_,
    fun d n item hk => ⟨fun hf => ?_, fun code det hf => ?_⟩⟩⟩, fun hn => ?_, fun hp => ?_, fun p hp => ?_⟩
  · obtain ⟨hsrc, hst, hv⟩ := hok
    refine ⟨putSetpoint c (sext 32 (fld entry 0 32)) (sext 32 (fld entry 32 32)) s, ?_, rfl, ?_, ?_⟩
    · rw [hentry, policyEntry_eq, if_neg]
      rintro (hne | hne | hz)
      · exact hne hsrc
      · exact hne hst
      · omega
    · rw [putSetpoint, chanOf_adjChan]
    · rw [putSetpoint, chanOf_adjChan]
  · rw [hentry, policyEntry_eq, if_pos]
    · rfl
    · by_cases hsrc : CH.src e = 0
      · by_cases hst : CH.stream e = st
        · exact .inr (.inr (by have := fun hv => hok ⟨hsrc, hst, hv⟩; omega))
        · exact .inr (.inl hst)
      · exact .inl hsrc
  · simp only [hcommit, setpointCommit, hx, if_neg hid]
  · subst hid
    rw [hcommit, setpointCommit_of hx, decideCommit_plain hk]
  · subst hid
    rw [hcommit, setpointCommit_of hx, decideCommit_host hk hd]
  · subst hid
    rw [hcommit, setpointCommit_of hx, decideCommit_policy hk hf]
  · subst hid
    rw [hcommit, setpointCommit_of hx, decideCommit_refused hk hf]
  · simp only [hcommit, setpointCommit, hn]
  · simp only [hsnap, writeSnapshot, hp]
  · simp only [hsnap, writeSnapshot, hp]
    rfl

/-! ### Drives -/

section
variable {s0 s : State}

theorem driveOf_adjDrive (d : Nat) (f : Drive → Drive) (s : State) : driveOf d (adjDrive d f s) = f (driveOf d s) := by
  simp [driveOf, adjDrive, setDrive, setCle]

/-- The drive's SYNC of this cycle has been answered. -/
def Answered (d : Nat) (s : State) : Prop := (driveOf d s).answered = true

theorem Answered.of_drives {d : Nat} {t : State} (h : Answered d s) (k : t.cle.drives = s.cle.drives) : Answered d t := by
  unfold Answered driveOf at *
  rw [k]
  exact h

theorem Answered.adjDrive {d : Nat} {f : Drive → Drive} (h : Answered d s) (hf : (f (driveOf d s)).answered = (driveOf d s).answered) :
    Answered d (adjDrive d f s) := by
  unfold Answered at *
  rw [driveOf_adjDrive, hf]
  exact h

theorem drives_missChan (c : Nat) (s : State) : (missChan c s).cle.drives = s.cle.drives := by
  simp only [missChan, cleEvent]
  split
  · rfl
  · show (postEvent _ _ _ _ _).cle.drives = _
    rw [postEvent_cle]
    rfl

theorem drives_runUpdate (c : Nat) (s : State) : (runUpdate c s).cle.drives = s.cle.drives := by
  unfold runUpdate
  split
  · simp only [huskUpdate]
    split <;> rfl
  · simp only [normalUpdate]
    split
    all_goals
      show (State.cle (ite _ _ _)).drives = _
      split <;> rfl

theorem drives_releaseChan (c : Nat) (s : State) : (releaseChan c s).cle.drives = s.cle.drives := by
  unfold releaseChan
  exact ite_keep (P := fun t : State => t.cle.drives = s.cle.drives) rfl
    (ite_keep (P := fun t : State => t.cle.drives = s.cle.drives) (drives_missChan c s) (drives_runUpdate c _))

theorem drives_ethSend (m : Nat) (frame : List Byte) (s : State) : (ethSend m frame s).cle = s.cle := by
  unfold ethSend
  split <;> rfl

theorem drives_sendDrive (d type : Nat) (time : BitVec 32) (body : List Byte) (s : State) :
    (sendDrive d type time body s).cle = s.cle := by
  simp only [sendDrive]
  split
  · rfl
  · split
    · rfl
    · exact drives_ethSend _ _ _

theorem Answered.settleDrive {d : Nat} (h : Answered d s) : Answered d (settleDrive d s) := by
  unfold Machine.settleDrive
  refine ite_keep (P := Answered d) (Answered.adjDrive ?_ ?_) h
  · exact h.of_drives (by rw [drives_sendDrive])
  · rfl

theorem Answered.showDriveFault {d : Nat} (h : Answered d s) (k : Nat) (fault : Bool) : Answered d (showDriveFault k fault s) := by
  unfold Machine.showDriveFault
  refine forEach_mem h fun c _ t ht => ?_
  refine Answered.of_drives (s := ite _ _ _) (ite_keep (P := Answered d) (ht.of_drives ?_) ht) rfl
  rw [jpEvent, postEvent_cle]

theorem Answered.takeTels {d : Nat} (h : Answered d s) (f : Feedback) (t : BitVec 32) : Answered d (takeTels d f t s) :=
  Answered.adjDrive h rfl

theorem Answered.adjChan {d : Nat} (h : Answered d s) (c : Nat) (f : Channel → Channel) : Answered d (adjChan c f s) := h

/-- Feedback that is not offline answers the SYNC. -/
theorem answered_feedbackIn {d : Nat} {f : Feedback} (h : bitsAt f.status 1 1 = 0) : Answered d (feedbackIn d f s) := by
  have hheard (t : BitVec 32) : Answered d (Machine.adjDrive d (fun x => { x with answered := true, offline := false, tSample := t })
      (setF Fld.jpDriveStatusMissRun d 0 s)) := by
    unfold Answered
    rw [driveOf_adjDrive]
  unfold feedbackIn
  dsimp only
  rw [if_neg (by omega)]
  refine Answered.settleDrive (ite_keep (P := Answered d) (forEach_mem (Answered.takeTels (Answered.showDriveFault ?_ _ _) _ _) ?_)
    (Answered.takeTels (Answered.showDriveFault ?_ _ _) _ _))
  · exact forEach_mem (hheard _) fun _ _ _ ht => ht.adjChan _ _
  · exact fun c _ t ht => ht.of_drives (drives_releaseChan c t)
  · exact forEach_mem (hheard _) fun _ _ _ ht => ht.adjChan _ _

/-! ### Feedback and identity frames -/

section
variable {drive : Fin 64} {frame : List Byte}

/-- A frame taken as feedback, with the new records it brings. -/
def feedbackKept (d : Nat) (frame : List Byte) (s : State) : State :=
  if !(driveOf d s).answered && (driveOf d (feedback d frame s)).answered then
    takeRecords d ((List.range 8).map fun a => telOf d a s)
      (recordKin (chansOf d (feedback d frame s)) (feedback d frame s))
  else feedback d frame s

theorem exec_feedback (h : running s = true) (hr : receives drive.val s = true) :
    exec (.feedback drive frame) s = .next (feedbackKept drive.val frame s) := by
  show execFeedback drive frame s = _
  rw [execFeedback, onlyIf, if_pos (by simp [h, hr])]
  rfl

/-- A frame that answers nothing brings no records. -/
theorem feedbackKept_same {d : Nat} {t : State} (hf : feedback d frame s = t) (ht : t.cle.drives = s.cle.drives) :
    feedbackKept d frame s = t := by
  have hd : driveOf d t = driveOf d s := by rw [driveOf, ht, driveOf]
  rw [feedbackKept, hf, hd, if_neg (by simp)]

theorem drives_badFrame (e : Nat) (s : State) : (badFrame e s).cle.drives = s.cle.drives := by
  unfold badFrame
  split <;> rfl

theorem feedback_unread {d : Nat} (hf : readFeedback (driveEntry d s) frame = none) :
    feedback d frame s = badFrame (driveEntry d s) s := by
  simp only [feedback, hf]

theorem feedback_read {d : Nat} {f : Feedback} (hf : readFeedback (driveEntry d s) frame = some f) :
    feedback d frame s = if !(driveOf d s).inCycle || (driveOf d s).answered || f.seq ≠ (driveOf d s).seq || driveState d s < 2 then s
      else feedbackIn d f s := by
  simp only [feedback, hf]

theorem feedbackIn_offline {d : Nat} {f : Feedback} (h : bitsAt f.status 1 1 = 1) :
    feedbackIn d f s = adjDrive d (fun x => { x with offline := true }) s := by
  simp only [feedbackIn, if_pos h]

/-- A frame that is taken in and answers is followed by its records. -/
theorem feedbackKept_answered {d : Nat} {t : State} (hf : feedback d frame s = t) (hs : (driveOf d s).answered = false)
    (ht : Answered d t) :
    feedbackKept d frame s = takeRecords d ((List.range 8).map fun a => telOf d a s) (recordKin (chansOf d t) t) := by
  unfold Answered at ht
  rw [feedbackKept, hf, hs, ht]
  rfl

theorem exec_ident (h : running s = true) (hr : receives drive.val s = true) : exec (.ident drive frame) s
    = .next (if (ident drive.val frame s).2 then checkIdentity drive.val (ident drive.val frame s).1 else (ident drive.val frame s).1) := by
  show execIdent drive frame s = _
  rw [execIdent, onlyIf, if_pos (by simp [h, hr])]

theorem ident_unread {d : Nat} (hf : readIdent (driveEntry d s) frame = none) :
    ident d frame s = (badFrame (driveEntry d s) s, false) := by
  simp only [ident, hf]

theorem ident_read {d seq axes turn id : Nat} (hf : readIdent (driveEntry d s) frame = some (seq, axes, turn, id)) :
    ident d frame s = if driveState d s ≠ 1 ∨ seq ≠ (driveOf d s).seq ∨ !(driveOf d s).probed then (s, false)
      else if axes = DE.axes (driveEntry d s) then
        (jpEvent 0x0002 (d + turn * 65536) (adjDrive d (fun x => { x with inCycle := false }) (setF Fld.jpDriveStatusState d 2
          (adjDrive d (fun x => { x with turnNs := turn, driveId := some (BitVec.ofNat 32 id) }) (keepPolarity d s)))), true)
      else (jpEvent 0x0005 (d + axes % 8 * 256)
        (adjDrive d (fun x => { x with turnNs := turn, driveId := some (BitVec.ofNat 32 id) }) (keepPolarity d s)), false) := by
  simp only [ident, hf]

end

/-! ### Deadlines -/

theorem due_missChan (c : Nat) (s : State) : (chanOf c (missChan c s)).due = none := by
  have hkept (t : State) : (chanOf c (if getB Fld.cleChStatusMiss c t then t else cleEvent 0x0001 c t)) = chanOf c t := by
    split
    · rfl
    · rw [cleEvent, chanOf, postEvent_cle, chanOf]
  show (chanOf c (ite _ _ _)).due = none
  rw [hkept, chanOf_adjChan]

/-- The flag of a miss and the count of the misses stand in one register, apart from each other. -/
theorem fieldsApart_miss (c : Nat) : fieldsApart Fld.cleChStatusMiss c Fld.cleChStatusMissCount c = true := by
  simp [fieldsApart, Fld.cleChStatusMiss, Fld.cleChStatusMissCount]

theorem miss_missChan (c : Nat) (s : State) : getB Fld.cleChStatusMiss c (missChan c s) = true := by
  unfold missChan
  dsimp only
  rw [incF, addF, getB_setF_apart (fieldsApart_miss c), getB, setB, getF_setF_own (by decide)]
  decide

end

/-- Settles O48: a frame acts on its drive only in the drive's cycle, and a miss leaves nothing due on its channel. -/
theorem drivesAnswerInTheirCycle : Obligations.DrivesAnswerInTheirCycle := by
  unfold Obligations.DrivesAnswerInTheirCycle
  intro drive channel frame v s h d c e
  refine ⟨fun hr => ?_, fun hc hp => ?_, fun hc hp => ?_, fun hc hj hf => ?_⟩
  · have hfeed : exec (.feedback drive frame) s = .next (feedbackKept d frame s) := exec_feedback h hr
    have hident := exec_ident (frame := frame) h hr
    refine ⟨fun hn => ?_, fun f hf => ⟨fun hstray => ?_, fun hin ha hseq hst => ⟨fun hoff => ?_, fun hon => ?_⟩⟩, fun hn => ?_,
      fun seq axes turn id hi => ⟨fun hstray => ?_, fun hst hseq hpr hax => ?_⟩⟩
    · rw [hfeed, feedbackKept_same (feedback_unread hn) (drives_badFrame _ _)]
    · rw [hfeed, feedbackKept_same ?_ rfl]
      rw [feedback_read hf, if_pos (by simpa [or_assoc] using hstray)]
    · have hq : feedback d frame s = adjDrive d (fun x => { x with offline := true }) s := by
        rw [feedback_read hf, if_neg (by simp [hin, ha, hseq, Nat.not_lt.mpr hst]), feedbackIn_offline hoff]
      rw [hfeed, feedbackKept, hq, driveOf_adjDrive, ha]
      rfl
    · have hq : feedback d frame s = feedbackIn d f s := by
        rw [feedback_read hf, if_neg (by simp [hin, ha, hseq, Nat.not_lt.mpr hst])]
      exact ⟨feedbackIn d f s, rfl, answered_feedbackIn hon, by rw [hfeed, feedbackKept_answered hq ha (answered_feedbackIn hon)]⟩
    · rw [hident, ident_unread hn]
      rfl
    · have hq : ident d frame s = (s, false) := by
        rw [ident_read hi]
        exact if_pos (by simpa using hstray)
      rw [hident, hq]
      rfl
    · have hq := (ident_read hi).trans ((if_neg (by simp [← hseq, hst, hpr])).trans (if_pos hax))
      rw [hident, hq]
      rfl
  · refine ⟨missChan c s, ?_, rfl, due_missChan c s, miss_missChan c s⟩
    show execDeadlineMiss channel s = _
    exact congrArg Host.Outcome.next (if_pos (by rw [h, hc, show pastDeadline channel.val s = true from hp]; rfl))
  · exact next_onlyIf_not _ (by rw [show pastDeadline channel.val s = false from hp, Bool.and_false])
  · show execReenable v s = _
    rw [execReenable, onlyIf, if_pos (by simp [h, hc, hj, hf])]
    rfl

end Sys2Proof.Machine
end

section
/-!
Joint-port lines, Ethernet links and sensor outputs.
-/
namespace Sys2Proof.Machine
open Sys2Proof

/-! ### The flags of a joint port -/

theorem bitsAt_one (x i : Nat) : bitsAt x i 1 = (x.testBit i).toNat := by
  rw [bitsAt, Nat.toNat_testBit, Nat.shiftRight_eq_div_pow, Nat.pow_one]

/-- A flag of JP_LINE. -/
def lineBit (p i : Nat) (s : State) : Bool := (getR .jpLine p s).testBit i

theorem bitsAt_lineFlags {i : Nat} (h : i < 5) (p : Nat) (s : State) : bitsAt (lineFlags p s) i 1 = (lineBit p i s).toNat := by
  rw [bitsAt_one, lineFlags, testBit_bitsAt, decide_eq_true h, Bool.true_and, Nat.zero_add, lineBit]

theorem quiet_jpLine : ∀ p : Fin 24, quietKey (keyOf .jpLine p.val) := by
  unfold quietKey
  decide

/-- A flag put leaves the others. -/
theorem lineBit_put (p i v j : Nat) (h : j < 5) (s : State) :
    lineBit p j (setR .jpLine p (putBits (getR .jpLine p s) i 1 v) s)
      = if i ≤ j ∧ j < i + 1 then v.testBit (j - i) else lineBit p j s := by
  rw [lineBit, getR_setR_same, Nat.testBit_mod_two_pow, decide_eq_true (by omega), Bool.true_and, testBit_putBits, lineBit]
  by_cases hj : j < i
  · rw [if_pos hj, if_neg (by omega)]
  · rw [if_neg hj]
    exact if_congr (by omega) rfl rfl

theorem lineBit_counted (p j : Nat) (h : j < 5) (s : State) : lineBit p j (incF Fld.jpLineFaultCount p s) = lineBit p j s := by
  show (getR .jpLine p (setR .jpLine p (putBits (getR .jpLine p s) 16 16 _) s)).testBit j = _
  rw [getR_setR_same, Nat.testBit_mod_two_pow, decide_eq_true (by omega), Bool.true_and, testBit_putBits,
    if_pos (by omega), lineBit]

theorem lineBit_postEvent (p : Fin 24) (j b d st a : Nat) (s : State) : lineBit p j (postEvent b d st a s) = lineBit p j s := by
  have hk : KeyKept (keyOf .jpLine p.val) s (postEvent b d st a s) := key_postEvent b d st a (quiet_jpLine p) rfl
  unfold KeyKept at hk
  rw [lineBit, getR, hk, lineBit, getR]

theorem lineBit_raiseLine (p : Fin 24) (i j : Nat) (h : j < 5) (s : State) :
    lineBit p j (raiseLine p i s) = if j = i then true else lineBit p j s := by
  have hoff (t : State) :
      lineBit p j (if i = 4 then { t with elec := { t.elec with txOff := mapSet t.elec.txOff p.val t.clock } } else t) = lineBit p j t := by
    split <;> rfl
  simp only [raiseLine, jpEvent]
  rw [lineBit_postEvent, lineBit_counted _ _ h, hoff, lineBit_put _ _ _ _ h]
  by_cases hj : j = i
  · rw [if_pos (by omega), if_pos hj, hj, Nat.sub_self]
    rfl
  · rw [if_neg (by omega), if_neg hj]

/-- What a classification does with one flag. -/
def classifyBit (p now i : Nat) (s : State) : State :=
  if bitsAt (lineFlags p s) i 1 = 0 ∧ bitsAt now i 1 = 1 then raiseLine p i s
  else if bitsAt (lineFlags p s) i 1 = 1 ∧ bitsAt now i 1 = 0 ∧ i < 4 then setR .jpLine p (putBits (getR .jpLine p s) i 1 0) s
  else s

theorem lineBit_classifyBit (p : Fin 24) (now i j : Nat) (hi : i < 5) (h : j < 4) (s : State) :
    lineBit p j (classifyBit p now i s) = if j = i then now.testBit j else lineBit p j s := by
  have hflag := bitsAt_lineFlags hi p.val s
  unfold classifyBit
  split
  · next hr =>
    obtain ⟨-, hn⟩ := hr
    rw [lineBit_raiseLine _ _ _ (by omega)]
    refine if_ctx_congr Iff.rfl (fun hj => ?_) fun _ => rfl
    rw [bitsAt_one, ← hj] at hn
    exact (Bool.toNat_eq_one.mp hn).symm
  · next hr =>
    split
    · next hc =>
      obtain ⟨-, hn, -⟩ := hc
      rw [lineBit_put _ _ _ _ (by omega)]
      refine if_ctx_congr (by omega) (fun hj => ?_) fun _ => rfl
      rw [bitsAt_one, ← hj] at hn
      rw [Nat.zero_testBit, Bool.toNat_eq_zero.mp hn]
    · next hc =>
      by_cases hj : j = i
      · subst hj
        rw [if_pos rfl]
        rw [bitsAt_one now, hflag] at hr hc
        cases hb : lineBit p j s <;> cases hn : now.testBit j <;> simp_all
      · rw [if_neg hj]

theorem forEach_append {α : Type} (l k : List α) (f : α → State → State) (s : State) :
    forEach (l ++ k) f s = forEach k f (forEach l f s) := List.foldl_append

theorem lineBit_classifyBits (p : Fin 24) (now j : Nat) (h : j < 4) (s : State) {n : Nat} (hn : n ≤ 5) :
    lineBit p j (forEach (List.range n) (classifyBit p now) s) = if j < n then now.testBit j else lineBit p j s := by
  induction n with
  | zero => rfl
  | succ n ih =>
    rw [List.range_succ, forEach_append, forEach_cons, forEach_nil, lineBit_classifyBit p now n j (by omega) h, ih (by omega)]
    by_cases hj : j = n
    · rw [if_pos hj, if_pos (by omega)]
    · rw [if_neg hj]
      exact if_congr (by omega) rfl rfl

/-- On a port without a drive in RUN the flags of bits 0 to 3 are those classified. -/
theorem lineBit_classify (p : Fin 24) (flags j : Nat) (h : j < 4) (s : State) (hr : portRuns p s = false) :
    lineBit p j (classify p flags s) = flags.testBit j := by
  have hc : classify p flags s = forEach (List.range 5) (classifyBit p flags) s := by
    unfold classify
    rw [hr]
    rfl
  rw [hc, lineBit_classifyBits p flags j h s (by decide), if_pos (by omega)]

/-! ### Sensor outputs -/

section
variable {m : Nat} {s : State}

theorem flag_put_same {f : Field} (hf : f.lo + f.len ≤ 64) (hm : m < f.len) (b : Bool) (s : State) :
    SP.flag' f m (SP.put f m b s) = b := by
  unfold SP.flag' SP.put
  rw [getF_setF_own hf, bitsAt_one, Nat.testBit_mod_two_pow, decide_eq_true hm, Bool.true_and, testBit_putBits, if_neg (by omega),
    if_pos (by omega), Nat.sub_self]
  cases b <;> rfl

theorem flag_put_apart {f g : Field} (h : fieldsApart f 0 g 0 = true) (k : Nat) (b : Bool) (s : State) :
    SP.flag' f m (SP.put g k b s) = SP.flag' f m s := by
  unfold SP.flag' SP.put
  rw [getF_setF_apart h]

theorem flag_adjSpwr (f : Field) (k : Nat) (g : SpwrOut → SpwrOut) (s : State) : SP.flag' f m (adjSpwr k g s) = SP.flag' f m s := rfl

theorem flag_spwrEvent {f : Field} (q : quietKey (keyOf f.reg 0)) (k kind : Nat) (s : State) :
    SP.flag' f m (spwrEvent k kind s) = SP.flag' f m s := by
  unfold SP.flag' spwrEvent pwrEvent
  rw [getF_postEvent q]

theorem quiet_spwrStatus : quietKey (keyOf .pwrSpwrStatus 0) := by
  unfold quietKey
  decide

/-- The trip comes within a second of a retry. -/
def tripsAgain (m : Nat) (s : State) : Bool :=
  match (spwrOut m s).retried with
  | some t => decide (s.clock ≤ t + 1000000000)
  | none => false

/-- The output after its trip is flagged and reported, before it waits or latches. -/
def tripFlagged (m : Nat) (backfeed : Bool) (s : State) : State :=
  if backfeed then spwrEvent m 2 (SP.put Fld.pwrSpwrStatusBackfeed m true (switchOff m s))
  else if tripsAgain m s then SP.put Fld.pwrSpwrStatusShort m true (switchOff m s)
  else spwrEvent m 0 (SP.put Fld.pwrSpwrStatusShort m true (switchOff m s))

/-- A flag other than LATCHED is, after a trip, what it is once the trip is flagged. -/
theorem flag_afterTrip {f : Field} (hf : fieldsApart f 0 Fld.pwrSpwrStatusLatched 0 = true) (q : quietKey (keyOf f.reg 0)) (backfeed : Bool)
    (s : State) : SP.flag' f m (afterTrip m backfeed s) = SP.flag' f m (tripFlagged m backfeed s) := by
  unfold afterTrip
  refine ite_keep (P := fun t => SP.flag' f m t = SP.flag' f m (tripFlagged m backfeed s)) ?_ ?_
  · rw [flag_spwrEvent q, flag_put_apart hf, flag_adjSpwr]
    rfl
  · rw [flag_adjSpwr]
    rfl

theorem on_switchOff (hm : m < 8) (s : State) : SP.on m (switchOff m s) = false := by
  unfold SP.on switchOff
  rw [flag_put_apart (by decide), flag_put_same (by decide) hm]

theorem on_tripFlagged (hm : m < 8) (backfeed : Bool) (s : State) : SP.flag' Fld.pwrSpwrStatusOn m (tripFlagged m backfeed s) = false := by
  have hoff : SP.flag' Fld.pwrSpwrStatusOn m (switchOff m s) = false := on_switchOff hm s
  unfold tripFlagged
  split
  · rw [flag_spwrEvent (f := Fld.pwrSpwrStatusOn) quiet_spwrStatus, flag_put_apart (by decide), hoff]
  · split
    · rw [flag_put_apart (by decide), hoff]
    · rw [flag_spwrEvent (f := Fld.pwrSpwrStatusOn) quiet_spwrStatus, flag_put_apart (by decide), hoff]

theorem on_afterTrip (hm : m < 8) (backfeed : Bool) (s : State) : SP.on m (afterTrip m backfeed s) = false := by
  rw [SP.on, flag_afterTrip (f := Fld.pwrSpwrStatusOn) (by decide) quiet_spwrStatus, on_tripFlagged hm]

theorem short_afterTrip (hm : m < 8) (s : State) : SP.flag' Fld.pwrSpwrStatusShort m (afterTrip m false s) = true := by
  rw [flag_afterTrip (f := Fld.pwrSpwrStatusShort) (by decide) quiet_spwrStatus, tripFlagged, if_neg Bool.false_ne_true]
  split
  · rw [flag_put_same (by decide) hm]
  · rw [flag_spwrEvent (f := Fld.pwrSpwrStatusShort) quiet_spwrStatus, flag_put_same (by decide) hm]

theorem backfeed_afterTrip (hm : m < 8) (s : State) : SP.flag' Fld.pwrSpwrStatusBackfeed m (afterTrip m true s) = true := by
  rw [flag_afterTrip (f := Fld.pwrSpwrStatusBackfeed) (by decide) quiet_spwrStatus, tripFlagged, if_pos rfl,
    flag_spwrEvent (f := Fld.pwrSpwrStatusBackfeed) quiet_spwrStatus, flag_put_same (by decide) hm]

end

/-- Settles O50: a classification sets the four flags one by one, a trip switches its output off and flags it, a retry asks for room. -/
theorem portsAndSensorOutputs : Obligations.PortsAndSensorOutputs := by
  unfold Obligations.PortsAndSensorOutputs
  intro port flags shorted up mac output value s h p m
  have hacorn := acornRuns_of_running h
  refine ⟨fun hj hrate => ?_, fun hj => ⟨?_, ?_⟩, fun t hj ht hd => ?_, fun he hm => ?_, fun hon => ⟨?_, ?_, ?_⟩, fun hoff => ⟨?_, ?_, ?_⟩,
    fun hd => ?_, fun hd => ?_, ?_⟩
  · refine ⟨classify p flags.toNat s, ?_, rfl, fun hr i hi => ?_⟩
    · show execLineClassify port flags s = _
      exact settled_of _ (by simpa [h, hj] using hrate)
    · rw [bitsAt_lineFlags (by omega), bitsAt_one]
      exact congrArg Bool.toNat (lineBit_classify port flags.toNat i hi s hr)
  · exact settled_not _ (by simp [hj])
  · exact next_onlyIf_not _ (by simp [hj])
  · have hdue : retestDue port.val s = true := by
      simp only [retestDue, show mapGet s.elec.txOff port.val = some t from ht, decide_eq_true hd]
    have hretest (b : Bool) : exec (.txShortRetest port b) s = .next (retest port.val b s) := by
      show execTxShortRetest port b s = _
      rw [execTxShortRetest, onlyIf, if_pos (by simp [h, hj, hdue])]
    exact ⟨hretest false, hretest true⟩
  · show execEthernetLinkChange mac up s = _
    rw [execEthernetLinkChange, onlyIf, if_pos (by simpa [h, he] using hm)]
    cases up <;> rfl
  · refine ⟨afterTrip m false s, ?_, rfl, on_afterTrip output.isLt _ _, short_afterTrip output.isLt _⟩
    exact settled_of _ (by rw [hacorn, show SP.on output.val s = true from hon]; rfl)
  · refine ⟨afterTrip m true s, ?_, rfl, on_afterTrip output.isLt _ _, backfeed_afterTrip output.isLt _⟩
    exact settled_of _ (by rw [hacorn, show SP.on output.val s = true from hon]; rfl)
  · show execSensorOutputOpen output s = _
    rw [execSensorOutputOpen, onlyIf, if_pos (by rw [hacorn, show SP.on output.val s = true from hon]; rfl)]
  · exact settled_not _ (by rw [show SP.on output.val s = false from hoff, Bool.and_false])
  · exact settled_not _ (by rw [show SP.on output.val s = false from hoff, Bool.and_false])
  · exact next_onlyIf_not _ (by rw [show SP.on output.val s = false from hoff, Bool.and_false])
  · intro u
    have hretry : exec (.sensorOutputRetry output) s = .next (switchOn m u) := by
      show execSensorOutputRetry output s = _
      rw [execSensorOutputRetry, onlyIf, if_pos (by rw [hacorn, show retryDue output.val s = true from hd]; rfl)]
    refine ⟨fun hfit => ?_, fun hfit => ?_⟩
    · rw [hretry]
      exact congrArg Host.Outcome.next (if_pos hfit)
    · rw [hretry]
      refine congrArg Host.Outcome.next (if_neg ?_)
      exact fun hc => Bool.false_ne_true (hfit.symm.trans hc)
  · exact next_onlyIf_not _ (by rw [show retryDue output.val s = false from hd, Bool.and_false])
  · show execPwrSpwrCfgWrite value s = _
    rw [execPwrSpwrCfgWrite, onlyIf, if_pos h]
    rfl

end Sys2Proof.Machine
end

section
/-!
Wakes, rails and domains, and the limiter.
-/
namespace Sys2Proof.Machine
open Sys2Proof

/-! ### Wakes -/

section
variable {k : Nat} {s : State}

/-- A wake source seen. -/
def wakeSeen (k : Nat) (s : State) : State :=
  setF Fld.pwrWakeStatusSeen 0 (putBits (getF Fld.pwrWakeStatusSeen 0 s) k 1 1) s

theorem fireWake_disabled (h : bitsAt (getF Fld.pwrWakeCfgSrc 0 s) k 1 = 0) : fireWake k s = s := by
  rw [fireWake, if_pos h]

theorem fireWake_latched (h : bitsAt (getF Fld.pwrWakeCfgSrc 0 s) k 1 = 1) (ht : s.power.trans.isSome = true) :
    fireWake k s = setB Fld.pwrWakeStatusReplay 0 true (wakeSeen k s) := by
  have hc : ((wakeSeen k s).power.trans.isSome || !(running (wakeSeen k s))) = true := by
    rw [show (wakeSeen k s).power = s.power from rfl, ht, Bool.true_or]
  unfold fireWake
  rw [if_neg (by omega)]
  exact if_pos hc

theorem fireWake_starts (h : bitsAt (getF Fld.pwrWakeCfgSrc 0 s) k 1 = 1) (ht : s.power.trans = none) (hr : running s = true) :
    fireWake k s = startWake (wakeSeen k s) := by
  have hc : ¬ ((wakeSeen k s).power.trans.isSome || !(running (wakeSeen k s))) = true := by
    rw [show (wakeSeen k s).power = s.power from rfl, ht, show running (wakeSeen k s) = running s from rfl, hr]
    simp
  unfold fireWake
  rw [if_neg (by omega)]
  exact if_neg hc

theorem exec_wakeSource {source : Fin 11} (h : running s = true) (hk : source.val ≠ 2) :
    exec (.wakeSource source) s = .next (settle (fireWake source.val s)) := by
  show execWakeSource source s = _
  rw [execWakeSource, settled_of _ (by simp [acornRuns_of_running h, hk]), if_neg hk]

theorem exec_wakeAlarm {source : Fin 11} (h : running s = true) (hk : source.val = 2) (hd : alarmDue s = true) :
    exec (.wakeSource source) s = .next (settle (fireAlarm s)) := by
  show execWakeSource source s = _
  rw [execWakeSource, settled_of _ (by simp [acornRuns_of_running h, hd]), if_pos hk]

theorem exec_alarm (h : running s = true) (hd : alarmDue s = true) : exec .alarm s = .next (settle (fireAlarm s)) :=
  settled_of _ (by rw [acornRuns_of_running h, hd]; rfl)

end

/-! ### Domains and rails -/

section
variable {s : State}

theorem domainDone_moving {d : Nat} {t : Transition} {target former : DomState} {temp reached : Bool} (ht : s.power.trans = some t)
    (hm : t.moving.find? (fun m => m.1 == d) = some (d, target, former, temp)) :
    domainDone d reached s = advance (if reached || target == .off then arriveDomain d target former temp s else missDomain d former temp s) := by
  have hb : (s.power.trans.bind fun t => t.moving.find? fun m => m.1 == d) = some (d, target, former, temp) := by
    rw [ht]
    exact hm
  simp only [domainDone, hb]

theorem railTimeout_asked {r v n t : Nat} (h : (railOf r s).request = some (v, n, t)) :
    railTimeout r s = if s.clock < t + 200000 then s
      else if n < 3 then incF Fld.pwrAvsStatusResends 0
        (emit (.avsRequest r v) (setRail r { railOf r s with request := some (v, n + 1, s.clock + 50000) } s))
      else settleRails (advance (failRail r s)) := by
  simp only [railTimeout, h]

theorem railAck_die {r v n t : Nat} (h : (railOf r s).request = some (v, n, t)) (hr : r < 4) :
    railAck r s = settleRails (advance (riseDie r (setRail r ⟨v, none⟩ s))) := by
  simp only [railAck, h, if_pos hr]

theorem railAck_hub {v n t : Nat} (h : (railOf 4 s).request = some (v, n, t)) :
    railAck 4 s = settleRails (advance (setLim { s.lim with raising := s.lim.raising.filter fun k => k != 4 } (setRail 4 ⟨v, none⟩ s))) := by
  simp only [railAck, h]
  rfl

end

/-- Settles O52: a source that fires is seen and wakes or is latched; domains, rails and PLLs act on what moves or was asked. -/
theorem wakesRailsAndDomains : Obligations.WakesRailsAndDomains := by
  unfold Obligations.WakesRailsAndDomains
  intro source domain rail pll reached s h k fires alarmed
  have hfires (k : Nat) (c : Instr) (s0 : State) (hc : exec c s = .next (settle (fireWake k s0))) (hp : s0.power.trans = s.power.trans)
      (hr : running s0 = true) : fires k c s0 := by
    refine ⟨fun hb => ?_, fun hb ht => ?_, fun hb ht => ?_⟩
    · rw [hc, fireWake_disabled hb]
    · rw [hc, fireWake_latched hb (hp ▸ ht)]
      rfl
    · rw [hc, fireWake_starts hb (hp ▸ ht) hr]
      rfl
  have hrail : exec (.avsResponse rail) s = .next (settle (railAck rail.val s)) := settled_of _ h
  have htimeout : exec (.avsTimeout rail) s = .next (settle (railTimeout rail.val s)) := settled_of _ h
  have hdomain : exec (.domainTransitionDone domain reached) s = .next (settle (domainDone (domain.val + 1) reached s)) := settled_of _ h
  have hpll : exec (.pllLockTimeout pll) s = .next (settle (pllFailed pll s)) := settled_of _ h
  refine ⟨fun hk => hfires _ _ _ (exec_wakeSource h hk) rfl h,
    fun hd => ⟨hfires _ _ _ (exec_alarm h hd) rfl h, fun hk => hfires _ _ _ (exec_wakeAlarm h hk hd) rfl h⟩,
    fun hd => ⟨?_, fun hk => ?_⟩, fun ht hr => ?_, fun hr => ?_, fun ht => ⟨?_, ?_⟩, fun t ht => ⟨fun target former temp hm => ⟨fun hr => ?_,
      fun hr => ?_⟩, ?_⟩, fun hq => ⟨?_, ?_⟩, fun v n t hq => ⟨fun hr => ?_, fun hr => ?_, fun hlt => ?_, fun hle hn => ?_, fun hle hn => ?_⟩⟩
  · exact settled_not _ (by rw [hd, Bool.and_false])
  · exact settled_not _ (by rw [hd, show source.val = 2 from hk]; simp)
  · exact settled_of _ (by rw [h, ht, hr]; rfl)
  · exact settled_not _ (by rw [hr, Bool.and_false])
  · simp only [hdomain, domainDone, ht, Option.bind_none]
  · simp only [hpll, pllFailed, ht]
  · rw [hdomain, domainDone_moving ht hm, if_pos hr]
  · rw [hdomain, domainDone_moving ht hm, if_neg (by simp [hr])]
  · simp only [hpll, pllFailed, ht]
  · simp only [hrail, railAck, hq]
  · simp only [htimeout, railTimeout, hq]
  · subst hr
    rw [hrail]
    exact congrArg (fun t => Host.Outcome.next (settle t)) (railAck_hub hq)
  · rw [hrail, railAck_die hq hr]
  · rw [htimeout, railTimeout_asked hq, if_pos hlt]
  · rw [htimeout, railTimeout_asked hq, if_neg (Nat.not_lt.mpr hle), if_pos hn]
  · rw [htimeout, railTimeout_asked hq, if_neg (Nat.not_lt.mpr hle), if_neg (Nat.not_lt.mpr hn)]

/-! ### The limiter -/

/-- Settles O53: the limiter and the battery flag act with MGMT on and outside recovery; a stretch begins once and ends after 64 cycles. -/
theorem limiterFollowsReadingsAndDroops : Obligations.LimiterFollowsReadingsAndDroops := by
  unfold Obligations.LimiterFollowsReadingsAndDroops
  intro r below die temps s h n
  have hbattery (hm : domOn Dom.mgmt s = true) (hr : s.upd.recovery = false) :
      exec (.batteryLow below) s = .next (settle (batteryIs below s)) := settled_of _ (by rw [h, hm, hr]; rfl)
  have hdroop (hd : dieOn n s = true) : exec (.droop die) s = .next (settle (droopDie n s)) :=
    settled_of _ (by rw [h, show dieOn die.val s = true from hd]; rfl)
  refine ⟨fun hm hr => ⟨settled_of _ (by rw [h, hm, hr]; rfl), fun hb => ?_, fun hb => ?_⟩, fun hoff => ?_, fun hd hn => ?_, fun hd hn => ?_,
    fun hd => ?_, fun f hf hc => ?_, fun hd => ?_, settled_of _ (acornRuns_of_running h)⟩
  · rw [hbattery hm hr, batteryIs, if_pos hb]
  · rw [hbattery hm hr, batteryIs, if_neg hb]
    cases below <;> rfl
  · have hno : (running s && domOn Dom.mgmt s && !s.upd.recovery) = false := by
      rcases hoff with hm | hr
      · rw [hm, Bool.and_false, Bool.false_and]
      · rw [hr, Bool.not_true, Bool.and_false]
    exact ⟨settled_not _ hno, settled_not _ hno⟩
  · refine ⟨droopDie n s, hdroop hd, ?_⟩
    rw [droopDie, hn]
    rfl
  · rw [hdroop hd, droopDie, if_pos hn]
  · exact settled_not _ (by rw [show dieOn die.val s = false from hd, Bool.and_false])
  · have hdone : stretchDone die.val s = true := by
      have hf' : (dieLim die.val s).stretchFrom = some f := hf
      rw [stretchDone, hf']
      exact decide_eq_true hc
    exact settled_of _ (by rw [h, hdone]; rfl)
  · exact settled_not _ (by rw [show stretchDone die.val s = false from hd, Bool.and_false])

end Sys2Proof.Machine
end

section
/-!
The safety outputs, the stage windows and the end of a restart.
-/
namespace Sys2Proof.Machine
open Sys2Proof

/-! ### The safety outputs -/

section
variable {s : State}

theorem cause_showFault (s : State) : getF Fld.safeStatusDropCause 0 (showFault s) = getF Fld.safeStatusDropCause 0 s := by
  have hput (b : Bool) (t : State) : getF Fld.safeStatusDropCause 0 (setB Fld.safeStatusFault 0 b t) = getF Fld.safeStatusDropCause 0 t :=
    getF_setF_apart (by decide) _ _
  unfold showFault
  exact ite_keep (P := fun t : State => getF Fld.safeStatusDropCause 0 t = getF Fld.safeStatusDropCause 0 s) (hput _ _) (hput _ _)

theorem armed_showFault (s : State) : (showFault s).safe.armed = s.safe.armed := by
  unfold showFault
  exact ite_keep (P := fun t : State => t.safe.armed = s.safe.armed) rfl rfl

theorem jobs_showFault (s : State) : (showFault s).jobs = s.jobs := by
  unfold showFault
  exact ite_keep (P := fun t : State => t.jobs = s.jobs) rfl rfl

/-- What the pins send stands before what the report and FAULT_N send. -/
theorem tx_shown (detail cause : Nat) (s : State) :
    ∃ rest, (showFault (safeEvent detail Status.done cause (showOutputs s))).tx
      = s.tx ++ [.pin 16 s.safe.armed, .pin 17 s.safe.armed] ++ rest := by
  obtain ⟨rest, hrest⟩ := (keep_showFault (keep_postEvent (a0 := 13) (a1 := detail) (a2 := Status.done) (a3 := cause)
    (Rel.refl (showOutputs s)))).tx
  refine ⟨rest, hrest.symm.trans (congrArg (· ++ rest) ?_)⟩
  show (s.tx ++ [_]) ++ [_] = _
  rw [List.append_assoc]
  rfl

theorem cause_showOutputs (s : State) : getF Fld.safeStatusDropCause 0 (showOutputs s) = getF Fld.safeStatusDropCause 0 s := by
  show getF Fld.safeStatusDropCause 0 (setB Fld.safeStatusOutB 0 s.safe.armed (setB Fld.safeStatusOutA 0 s.safe.armed s)) = _
  exact (getF_setF_apart (by decide) _ _).trans (getF_setF_apart (by decide) _ _)

theorem quiet_safeStatus : quietKey (keyOf Fld.safeStatusDropCause.reg 0) := by
  unfold quietKey
  decide

theorem cause_safeEvent (detail cause : Nat) (s : State) :
    getF Fld.safeStatusDropCause 0 (safeEvent detail Status.done cause s) = getF Fld.safeStatusDropCause 0 s :=
  getF_postEvent quiet_safeStatus _ _ _ _ s

/-- The state in which the outputs are commanded, with its cause, before they are shown. -/
def commandOutputs (on : Bool) (cause : Nat) (s : State) : State :=
  setF Fld.safeStatusDropCause 0 cause (setSafe { s.safe with armed := on } s)

theorem cause_commandOutputs (on : Bool) {cause : Nat} (hc : cause < 16) (s : State) :
    getF Fld.safeStatusDropCause 0 (commandOutputs on cause s) = cause := by
  rw [commandOutputs, getF_setF_own (by decide)]
  exact Nat.mod_eq_of_lt hc

theorem armOutputs_eq (h : dropHolds s = false) :
    armOutputs s = showFault (safeEvent 0x0007 Status.done 0 (showOutputs (commandOutputs true 0 s))) := by
  rw [armOutputs, h, if_neg Bool.false_ne_true]
  rfl

theorem dropOutputs_eq (cause : Nat) (s : State) :
    dropOutputs cause s = showFault (if s.safe.armed then safeEvent 0x0006 Status.done cause (showOutputs (commandOutputs false cause s))
      else commandOutputs false cause s) := rfl

theorem armed_dropOutputs (cause : Nat) (s : State) : (dropOutputs cause s).safe.armed = false := by
  rw [dropOutputs_eq, armed_showFault]
  refine ite_keep (P := fun t : State => t.safe.armed = false) ?_ rfl
  rw [safeEvent, postEvent_safe]
  rfl

theorem cause_dropOutputs {cause : Nat} (hc : cause < 16) (s : State) : getF Fld.safeStatusDropCause 0 (dropOutputs cause s) = cause := by
  rw [dropOutputs_eq, cause_showFault]
  refine ite_keep (P := fun t : State => getF Fld.safeStatusDropCause 0 t = cause) ?_ (cause_commandOutputs false hc s)
  rw [cause_safeEvent, cause_showOutputs, cause_commandOutputs false hc]

theorem tx_dropOutputs (cause : Nat) (h : s.safe.armed = true) :
    ∃ rest, (dropOutputs cause s).tx = s.tx ++ [.pin 16 false, .pin 17 false] ++ rest := by
  rw [dropOutputs_eq, if_pos h]
  exact tx_shown _ _ _

end

/-! ### The end of a restart -/

section
variable {j : Nat} {job : Job} {ids : List Nat} {s : State}

/-- The jobs after a restart that has no dummy frame to wait for. -/
theorem jobs_restartComplete (hj : jobOf j s = some job) (hp : job.phase = .restarting ids)
    (hd : (jobStreams j s).any (fun p => p.2.dummy.owed || p.2.dummy.started) = false) :
    (restartComplete j s).jobs = mapAdjust s.jobs j fun x => { x with phase := .resident } := by
  have hstreams : (forEach (jobStreams j s) (fun p s => adjStream p.1 (fun x => { x with valid := true }) s) s).jobs = s.jobs :=
    forEach_mem (P := fun t : State => t.jobs = s.jobs) rfl fun _ _ _ ht => ht
  have hadj := congrArg (fun m => mapAdjust m j fun x : Job => { x with phase := .resident }) hstreams
  unfold restartComplete
  rw [hj]
  dsimp only
  rw [hp]
  dsimp only
  rw [hd, if_neg Bool.false_ne_true, jobs_showFault]
  refine forEach_mem (P := fun t : State => t.jobs = mapAdjust s.jobs j fun x => { x with phase := .resident }) ?_ fun id _ t ht => ?_
  · rw [safeEvent, postEvent_jobs]
    exact forEach_mem (P := fun t : State => t.jobs = mapAdjust s.jobs j fun x => { x with phase := .resident }) hadj fun _ _ _ ht => ht
  · split
    · rw [completeOrWait_jobs, ht]
    · exact ht

theorem phase_restartComplete (hj : jobOf j s = some job) (hp : job.phase = .restarting ids)
    (hd : (jobStreams j s).any (fun p => p.2.dummy.owed || p.2.dummy.started) = false) :
    phaseOf j (restartComplete j s) = some .resident := by
  have hj' : mapGet s.jobs j = some job := hj
  rw [phaseOf, jobOf, jobs_restartComplete hj hp hd, mapGet_mapAdjust, if_pos rfl, hj']
  rfl

end

/-! ### Test pulses -/

/-- Both outputs pulsed low, A first. -/
def pulsed (s : State) : State := { s with tx := s.tx ++ [.pin 16 false, .pin 16 true, .pin 17 false, .pin 17 true] }

theorem exec_testPulse {readA readB : Bool} {s : State} (h : running s = true) (hs : domOn Dom.safe s = true)
    (ht : getB Fld.safeCtrlTestEn 0 s = true) (ha : s.safe.armed = true) :
    exec (.testPulse readA readB) s = .next (if readA || readB then dropOutputs 4 (pulsed s) else pulsed s) := by
  have hp : emit (.pin 17 true) (emit (.pin 17 false) (emit (.pin 16 true) (emit (.pin 16 false) s))) = pulsed s := by
    simp [emit, pulsed]
  show execTestPulse readA readB s = _
  rw [execTestPulse, onlyIf, if_pos (by rw [h, hs, ht, ha]; rfl), hp]

/-- Settles O54: both pins follow the command before anything else is sent, with the cause noted; the stage commands act when due. -/
theorem safetyOutputs : Obligations.SafetyOutputs := by
  unfold Obligations.SafetyOutputs
  intro b readA readB stage job s h hs
  have harm : exec .arm s = .next (armOutputs s) := by
    show execArm s = _
    rw [execArm, onlyIf, if_pos (by rw [h, hs]; rfl)]
  have hdrop : exec .drop s = .next (dropOutputs 3 s) := by
    show execDrop s = _
    rw [execDrop, onlyIf, if_pos (by rw [h, hs]; rfl)]
  have hrestart : exec (.restartComplete job) s = .next (settle (restartComplete job.val s)) := settled_of _ h
  refine ⟨fun hd => ?_, fun hd => ?_, ?_, ?_, fun ht ha => ⟨?_, fun hr => ?_⟩, fun hd => ?_, fun hd => ?_, fun hd => ?_, fun hd => ?_,
    fun hj => ?_, fun j ids hj hp => ⟨fun hw => ?_, fun hw => ?_⟩⟩
  · rw [harm, armOutputs, if_pos hd]
  · obtain ⟨rest, hrest⟩ := tx_shown 0x0007 0 (commandOutputs true 0 s)
    refine ⟨_, rest, harm.trans (congrArg _ (armOutputs_eq hd)), ?_, ?_, hrest⟩
    · rw [armed_showFault, safeEvent, postEvent_safe]
      rfl
    · rw [cause_showFault, cause_safeEvent, cause_showOutputs, cause_commandOutputs true (by decide)]
  · exact ⟨_, hdrop, armed_dropOutputs 3 s, cause_dropOutputs (by decide) s, tx_dropOutputs 3⟩
  · refine ⟨dropOutputs 4 (setB (if b then Fld.safeStatusOutB else Fld.safeStatusOutA) 0 (!s.safe.armed) s), ?_, armed_dropOutputs 4 _,
      cause_dropOutputs (by decide) _, fun ha => tx_dropOutputs 4 (s := setB _ 0 _ s) ha⟩
    show execDiscrepancy b s = _
    rw [execDiscrepancy, onlyIf, if_pos (by rw [h, hs]; rfl)]
  · exact exec_testPulse h hs ht ha
  · refine ⟨dropOutputs 4 (pulsed s), ?_, armed_dropOutputs 4 _, cause_dropOutputs (by decide) _⟩
    rw [exec_testPulse h hs ht ha, if_pos hr]
  · exact settled_not _ (by rw [hd, Bool.and_false])
  · exact settled_of _ (by rw [h, hs, hd]; rfl)
  · exact settled_not _ (by rw [hd, Bool.and_false])
  · exact settled_of _ (by rw [h, hs, hd]; rfl)
  · simp only [hrestart, restartComplete, hj]
  · rw [hrestart, restartComplete, hj]
    dsimp only
    rw [hp]
    exact congrArg (fun t => Host.Outcome.next (settle t)) (if_pos hw)
  · exact ⟨_, hrestart, rfl, phase_restartComplete hj hp hw⟩

end Sys2Proof.Machine
end

section
/-!
The TAP.
-/
namespace Sys2Proof.Machine
open Sys2Proof

/-! ### Boundary scan -/

section
variable {s : State}

theorem sec_showFault (s : State) : (showFault s).sec = s.sec := by
  unfold showFault
  exact ite_keep (P := fun t : State => t.sec = s.sec) rfl rfl

theorem sec_dropOutputs (cause : Nat) (s : State) : (dropOutputs cause s).sec = s.sec := by
  rw [dropOutputs_eq, sec_showFault]
  refine ite_keep (P := fun t : State => t.sec = s.sec) ?_ rfl
  rw [safeEvent, postEvent_sec]
  rfl

theorem scanStatus_ok (hd : debugOn s = true) (hs : hasScope 4 s = true) : scanStatus s = St.ok := by
  rw [scanStatus, scanAllowed, hd, hs]
  rfl

theorem scanStatus_denied (hd : debugOn s = true) (hs : hasScope 4 s = false) : scanStatus s = St.denied := by
  rw [scanStatus, scanAllowed, hd, hs]
  rfl

theorem dbg_of_debugOn (hd : debugOn s = true) : domOn Dom.dbg s = true := by
  simp only [debugOn, Bool.and_eq_true] at hd
  exact hd.2

theorem noteStatus_denied (hd : debugOn s = true) : noteStatus St.denied s = setB Fld.dbgStatusDenied 0 true s := by
  rw [noteStatus, dbg_of_debugOn hd]
  rfl

theorem scanStatus_deselect (s : State) : scanStatus (deselect s) = scanStatus s := rfl

theorem sample_ok (pins : List Byte) (hd : debugOn s = true) (hs : hasScope 4 s = true) :
    sample pins s = emit (.debugData pins) (deselect s) := by
  rw [sample, scanStatus_deselect, scanStatus_ok hd hs, if_pos rfl]

theorem sample_denied (pins : List Byte) (hd : debugOn s = true) (hs : hasScope 4 s = false) :
    sample pins s = setB Fld.dbgStatusDenied 0 true (deselect s) := by
  rw [sample, scanStatus_deselect, scanStatus_denied hd hs, if_neg (by decide), noteStatus_denied (s := deselect s) hd]

theorem extest_selects (pins : List Byte) (hd : debugOn s = true) (hs : hasScope 4 s = true) (hj : s.jobs = [])
    (hx : s.sec.extest = false) : extest pins s = dropOutputs 3 (setSec { s.sec with extest := true } s) := by
  rw [extest, scanStatus_ok hd hs, if_neg (by decide), hj, if_neg (by decide), hx, if_neg (by decide)]

theorem extest_denied (pins : List Byte) (hd : debugOn s = true) (hs : hasScope 4 s = false) :
    extest pins s = setB Fld.dbgStatusDenied 0 true s := by
  rw [extest, scanStatus_denied hd hs, if_pos (by decide), noteStatus_denied hd]

/-- A step of the TAP on a powered module. -/
theorem next_onlyIf_acorn {f : State → State} (h : acornOn s = true) :
    (Host.Outcome.next (onlyIf (acornOn s) f s) : Host.Outcome State Fault Refusal) = .next (f s) := by
  rw [onlyIf, if_pos h]

end

/-! ### Scans of requests -/

theorem result_scanRequest (mailbox only : Bool) (bytes : List Byte) (ecc : ReadEcc) (s : State) :
    (scanRequest mailbox only bytes ecc s).sec.result
      = (answer 1 mailbox only bytes ecc (emit (.debugData (fitBytes 12 s.sec.result)) (deselect s))).1 := rfl

theorem tx_scanRequest (mailbox only : Bool) (bytes : List Byte) (ecc : ReadEcc) (s : State) :
    (scanRequest mailbox only bytes ecc s).tx
      = (answer 1 mailbox only bytes ecc (emit (.debugData (fitBytes 12 s.sec.result)) (deselect s))).2.tx := rfl

/-- Settles O57: an instruction's answer follows its STATUS; a scan sends the previous result and keeps the new one. -/
theorem tapInstructions : Obligations.TapInstructions := by
  unfold Obligations.TapInstructions
  intro bit pins req ecc s h u out
  have hsample : exec (.tapSample pins) s = .next (sample pins s) := next_onlyIf_acorn h
  have hextest : exec (.tapExtest pins) s = .next (extest pins s) := next_onlyIf_acorn h
  refine ⟨next_onlyIf_acorn h, next_onlyIf_acorn h, next_onlyIf_acorn h, fun hd hs => ⟨?_, fun hj hx => ?_⟩, fun hd hs => ⟨?_, ?_⟩,
    fun hl => ⟨?_, ?_⟩, fun hd husb h16 h1024 hmod => ?_⟩
  · rw [hsample, sample_ok pins hd hs]
    rfl
  · refine ⟨dropOutputs 3 (setSec { s.sec with extest := true } s), ?_, ?_, armed_dropOutputs 3 _⟩
    · rw [hextest, extest_selects pins hd hs hj hx]
    · rw [sec_dropOutputs]
      rfl
  · rw [hextest, extest_denied pins hd hs]
  · rw [hsample, sample_denied pins hd hs]
    rfl
  · refine ⟨scanRequest true true req .clean s, settled_of _ ?_, result_scanRequest _ _ _ _ _, tx_scanRequest _ _ _ _ _⟩
    rw [h, hl]
    rfl
  · refine ⟨scanRequest false false req ecc s, ?_, result_scanRequest _ _ _ _ _, tx_scanRequest _ _ _ _ _⟩
    show execXact req ecc s = _
    rw [execXact, if_pos hl, settled_of _ h]
  · show execXact req ecc s = _
    have hok : isTransfer req = true := by
      simp only [isTransfer, hmod, beq_self_eq_true, Bool.and_true, Bool.and_eq_true, decide_eq_true_eq]
      exact ⟨h16, h1024⟩
    rw [execXact, if_neg (by omega), settled_of _ (by rw [hd, husb, hok]; rfl)]

end Sys2Proof.Machine
end

section
/-!
Resets, start-up and the supply at J3.
-/
namespace Sys2Proof.Machine
open Sys2Proof

/-! ### COLD resets and the loss of the supply -/

theorem sec_coldPins (s : State) : (coldPins s).sec = s.sec := by
  unfold coldPins
  dsimp only
  split <;> split <;> rfl

/-- What a COLD reset leaves, before HOST_SEL is sampled: no job, no stream, Acorn time 0, and the fuses. -/
structure ColdLeft (phase : Phase) (s t : State) : Prop where
  phase : t.phase = phase
  clock : t.clock = 0
  jobs : t.jobs = []
  streams : t.streams = []
  lifecycle : t.sec.lifecycle = s.sec.lifecycle

theorem coldState_left (phase : Phase) (s : State) : ColdLeft phase s (coldState phase s) :=
  forEach_mem ⟨rfl, rfl, rfl, rfl, rfl⟩ fun _ _ _ h => ⟨h.phase, h.clock, h.jobs, h.streams, h.lifecycle⟩

theorem coldStart_left (sel low : Bool) (s : State) : ColdLeft (if low then .held else .starting) s (coldStart sel low s) := by
  have h := coldState_left (if low then .held else .starting) (coldPins s)
  exact ⟨h.phase, h.clock, h.jobs, h.streams, h.lifecycle.trans (congrArg SecUnit.lifecycle (sec_coldPins s))⟩

theorem dropSupply_left (over' : Bool) (s : State) : ColdLeft .unpowered s (dropSupply over' s) := by
  obtain ⟨hphase, hclock, hjobs, hstreams, hlifecycle⟩ := coldState_left .unpowered (coldPins s)
  rw [dropSupply]
  exact ⟨by rw [setPower_phase, hphase], by rw [setPower_clock, hclock], by rw [setPower_jobs, hjobs],
    by rw [setPower_streams, hstreams], by rw [setPower_sec, hlifecycle, sec_coldPins]⟩

theorem overVolt_dropSupply (over' : Bool) (s : State) : (dropSupply over' s).power.overVolt = over' := rfl

/-! ### MODULE resets -/

theorem showRetired_kept (die : Nat) (s : State) : (showRetired die s).phase = s.phase ∧ (showRetired die s).power = s.power :=
  forEach_mem (P := fun t : State => t.phase = s.phase ∧ t.power = s.power) ⟨rfl, rfl⟩ fun _ _ _ h => h

theorem power_lowPins (s : State) : (lowPins s).power = s.power := by
  unfold lowPins
  dsimp only
  split <;> split <;> rfl

theorem power_logSessionEnd (s : State) : (logSessionEnd s).power = s.power := by
  unfold logSessionEnd
  split <;> rfl

/-- A MODULE reset holds the module, and leaves the level of MRST_N. -/
theorem stopModule_held (last : Nat) (s : State) :
    (stopModule last s).phase = .held ∧ (stopModule last s).power.mrstLow = s.power.mrstLow := by
  have hpower : (lowPins (endPulses (fun _ => true) (logSessionEnd s))).power = s.power := by
    rw [power_lowPins, (endPulses_kept _ _).1]
    exact power_logSessionEnd s
  unfold stopModule
  refine forEach_mem (P := fun t : State => t.phase = .held ∧ t.power.mrstLow = s.power.mrstLow) ⟨rfl, ?_⟩ fun d _ t h => ?_
  · show (lowPins (endPulses (fun _ => true) (logSessionEnd s))).power.mrstLow = _
    rw [hpower]
  · obtain ⟨hphase, hpow⟩ := h
    exact ⟨(showRetired_kept d t).1.trans hphase, (congrArg PowerUnit.mrstLow (showRetired_kept d t).2).trans hpow⟩

/-- MRST_N low holds the module, whether or not it was held before. -/
theorem mrstFalls_held (s : State) : (mrstFalls s).phase = .held ∧ (mrstFalls s).power.mrstLow = true := by
  unfold mrstFalls
  dsimp only
  split
  · next h =>
    simp only [Bool.and_eq_true, beq_iff_eq] at h
    exact ⟨h.1, rfl⟩
  · exact stopModule_held 1 _

theorem phase_watchdog (s : State) (h : getB Fld.updCfgWdReset 0 s = true) : (watchdog s).phase = .starting := by
  rw [watchdog_eq, if_pos h]
  rfl

theorem mrstRises_starts {sel : Bool} {s : State} (h : s.phase = .held) (ht : s.safe.hubTrip = false) :
    (mrstRises sel s).phase = .starting ∧ (mrstRises sel s).power.mrstLow = false := by
  have hcool : hubHot (setPower { s.power with mrstLow := false, hostSel := sel } s) = false := by
    rw [hubHot, show (setPower { s.power with mrstLow := false, hostSel := sel } s).safe = s.safe from rfl, ht, Bool.false_and]
  have hheld : ((setPower { s.power with mrstLow := false, hostSel := sel } s).phase != .held) = false := by
    rw [show (setPower { s.power with mrstLow := false, hostSel := sel } s).phase = s.phase from rfl, h]
    rfl
  unfold mrstRises
  dsimp only
  rw [hheld, if_neg Bool.false_ne_true, hcool, if_neg Bool.false_ne_true]
  exact ⟨rfl, rfl⟩

/-! ### Start-up -/

theorem phase_showFault (s : State) : (showFault s).phase = s.phase := by
  unfold showFault
  exact ite_keep (P := fun t : State => t.phase = s.phase) rfl rfl

theorem phase_ready (mask : Nat) (s : State) : (ready mask s).phase = .running := by
  simp only [ready, pwrEvent]
  rw [phase_showFault, postEvent_phase]
  rfl

/-- Settles O58: a reset from an allowed state leaves its phase; PWR_RESET saves first; a supply that drops leaves nothing running. -/
theorem resetsAndSupply : Obligations.ResetsAndSupply := by
  unfold Obligations.ResetsAndSupply
  intro mv sel low k value failed s pinned
  refine ⟨fun hm => ?_, fun hm => ?_, fun ht => ⟨settled_of _ ht, fun hk => ?_, fun hk => ?_, fun hk => ?_, fun hk => ?_⟩,
    fun ht => settled_not _ ht, fun hr hkey hgo => ?_, fun hkey => ?_, fun hp hm ht => ?_, fun hm => ?_, fun hp => ?_, fun hp => ?_,
    fun hp => ⟨fun hm => ?_, fun hm => ?_, ?_, fun hlo hhi => ?_⟩, fun hm => ?_, fun hm => ?_⟩
  · have hleft := coldStart_left sel low s
    refine ⟨coldStart sel low s, ?_, rfl, hleft.phase, hleft.clock, hleft.jobs, hleft.lifecycle⟩
    show execColdReset mv sel low s = _
    rw [execColdReset, onlyIf, if_pos hm]
  · exact next_onlyIf_not _ (by rw [mayStart, decide_eq_false (by omega), Bool.false_and])
  · subst hk
    exact mrstFalls_held pinned
  · subst hk
    simp only [triggerHolds, Bool.and_eq_true] at ht
    obtain ⟨-, hwd⟩ := ht
    exact phase_watchdog pinned hwd
  · subst hk
    exact ⟨rfl, rfl⟩
  · subst hk
    rfl
  · refine ⟨moduleReset 2 (if progOn s then saveNow pinned else pinned), ?_, rfl, ?_, rfl⟩
    · show execPwrReset value sel s = _
      rw [execPwrReset, onlyIf, if_pos (by rw [hr, hkey, hgo]; rfl)]
      rfl
    · have hsaved : Rel pinned (if progOn s then saveNow pinned else pinned) :=
        ite_keep (P := Rel pinned) (keep_saveNow (.refl pinned)) (.refl pinned)
      exact (keep_moduleReset hsaved).pending
  · exact next_onlyIf_not _ (by rw [beq_eq_false_iff_ne.mpr hkey, Bool.and_false, Bool.false_and])
  · obtain ⟨hstart, hrise⟩ := mrstRises_starts (sel := sel) hp ht
    refine ⟨mrstRises sel s, ?_, hstart, hrise⟩
    show execMrstNRelease sel s = _
    rw [execMrstNRelease, onlyIf, if_pos (by rw [hp, hm]; rfl)]
  · exact next_onlyIf_not _ (by rw [hm, Bool.and_false])
  · exact ⟨ready failed.toNat s, settled_of _ (by rw [hp]; rfl), rfl, phase_ready _ _⟩
  · exact settled_not _ (beq_eq_false_iff_ne.mpr hp)
  · have hleft := dropSupply_left false s
    refine ⟨dropSupply false s, ?_, hleft.phase, hleft.jobs, hleft.streams, overVolt_dropSupply false s⟩
    show execLockout mv s = _
    rw [execLockout, onlyIf, if_pos (by rw [bne_iff_ne.mpr hp, decide_eq_true hm]; rfl)]
  · exact next_onlyIf_not _ (by rw [decide_eq_false (Nat.not_lt.mpr hm), Bool.and_false])
  · have hleft := dropSupply_left true s
    refine ⟨dropSupply true s, ?_, hleft.phase, hleft.jobs, hleft.streams, overVolt_dropSupply true s⟩
    show execOvervoltageShutdown s = _
    rw [execOvervoltageShutdown, onlyIf, if_pos (bne_iff_ne.mpr hp)]
  · show execSurge mv s = _
    rw [execSurge, if_neg (by omega), settled_of _ (by rw [bne_iff_ne.mpr hp, decide_eq_true hlo]; rfl)]
    rfl
  · show execSurge mv s = _
    rw [execSurge, if_neg (by omega), settled_not _ (by rw [decide_eq_false (by omega), Bool.and_false])]
  · show execSurge mv s = _
    rw [execSurge, if_pos hm]

end Sys2Proof.Machine
end
